-- ==== Sys2Proof/Word.lean ====
section
/-! DEFINITION. The word types of the W2-1440 module and the two sparse containers its state is made of. -/

namespace Sys2Proof

/-- One byte. -/
abbrev Byte := BitVec 8

/-- A sparse table: keys strictly rising, no entry equal to the value an unlisted key reads as. -/
abbrev Tbl (α : Type) := List (Nat × α)

/-- A sparse byte array, an unlisted address reading as the byte 0. -/
abbrev BMap := List (Nat × BitVec 8)

end Sys2Proof
end

