-- ==== Sys2Proof/Syntax.lean ====
section
/-! DEFINITION. The commands of the module, one constructor for each row of the operation table, with the operands the
rules give them. A command is one indivisible step of the part (95_what_each_step_holds). -/

namespace Sys2Proof

/-- The four engines of a tile (R107); `code` order is the ENG field of R111. -/
inductive Engine where
  | F | M | V | S
  deriving DecidableEq, Repr, Inhabited

/-- What the memory die and the in-band ECC deliver when a block is sensed (R181, R186). -/
inductive Sense where
  | good          -- payload and codes agree
  | corrected     -- the in-band ECC corrected an error
  | eccBad        -- the in-band ECC cannot correct the error
  | checkBad      -- the payload does not match BCHK
  deriving DecidableEq, Repr, Inhabited

/-- What the SECDED code of an internal memory finds in the words an instruction reads (R407). -/
inductive Soft where
  | clean
  | corrected                -- a single-bit error, corrected
  | double (word : Nat)      -- a double-bit error in this 64-bit word
  deriving DecidableEq, Repr, Inhabited

/-- Events that lose the host link (R347). -/
inductive LinkLoss where
  | dlDown | perst | hotReset | secondaryBusReset | linkDisable
  deriving DecidableEq, Repr, Inhabited

/-- How a host read's completion arrives (R340). -/
inductive HostReadResult where
  | data (bytes : List Byte)
  | unsupportedRequest
  | completerAbort
  | poisoned
  deriving DecidableEq, Repr

/-- A unit that waits on a gate word (R160, R308, R372). -/
inductive Waiter where
  | atp (n : Nat)
  | command (fn slot : Nat)
  deriving DecidableEq, Repr

/-- A unit that gates itself in MS1 (R446). -/
inductive GatedUnit where
  | tile (t : Nat)
  | atp (n : Nat)
  deriving DecidableEq, Repr

/-- A released resource under clearing (R32). -/
inductive Resource where
  | tileSection (i : Nat)
  | stack (k : Nat)
  | extent (e : Nat)
  deriving DecidableEq, Repr

/-- Why a stack in SERVICE enters RECOVERY (R408). -/
inductive RecoveryCause where
  | trainingLost | readParityRun | parityStorm
  deriving DecidableEq, Repr

/-- The readings that trigger the emergency clamp (R400); temperatures in 1/16 degree C, power in mW, current in 10 mA. -/
inductive ClampTrigger where
  | stackTemperature (k reading : Nat)
  | dieDiode (d reading : Nat)
  | hubDiode (reading : Nat)
  | inletPower (mW : Nat)
  | railCurrent (rail reading : Nat)
  deriving DecidableEq, Repr

/-- The two emergency flags (R400). -/
inductive EmergencyFlag where
  | thermal | power
  deriving DecidableEq, Repr

/-- What forces a power-fail stop (R460, R500). -/
inductive PowerFail where
  | inletVoltage (mV : Nat)      -- out of range for 100 us
  | dieDiode (d reading : Nat)   -- 115 degrees C under the clamp
  deriving DecidableEq, Repr

/-- Physical outcome of a stack's start-up (R190). -/
structure StackBringUp where
  remaps   : Nat   -- largest number of lines of one channel that need remapping (2 at most can be)
  retries  : Nat   -- parity retries of the worst command in TRAINING and TEST
  testPass : Bool  -- step 5 passed
  deriving DecidableEq, Repr

/-- What the self-tests and verifications of one start-up find (R441, R442). -/
structure StartUpFindings where
  straps        : BitVec 3              -- SLOT_ID as sampled at step 1
  currentBad    : List Nat              -- processor codes whose CURRENT image does not verify
  previousBad   : List Nat              -- processor codes whose PREVIOUS image does not verify
  stackOutcomes : List (Nat × StackBringUp)  -- outcome per stack; a stack not listed passes
  failedTiles   : List (Nat × Nat)      -- (die, physical index 0-65) of tiles that fail self-test
  failedDies    : List Nat              -- dies whose UPU or DCTL fails self-test
  latchTripped  : Bool                  -- the service latch tripped while unpowered (R481)
  deriving DecidableEq, Repr

/-- What the measurement of a port finds (R288, R289). -/
structure PortFindings where
  term     : Nat   -- TERM code of R290
  lengthCm : Nat   -- LENGTH_CM
  delayNs  : Nat   -- one-way link delay kept for the Caliper exchange
  hasSpare : Bool  -- the medium carries the spare lane (R496)
  trained  : Bool  -- MEASURE and TRAIN pass
  deriving DecidableEq, Repr

/-- The head of a block request to a controller (R181, R190, R192): where, its service class, and whether its transfer meets a parity
error. -/
structure BlockRequest where
  addr   : Nat
  cls    : Nat
  parity : Bool
  deriving DecidableEq, Repr, Inhabited

/-- What a read asks for of its block: how many bytes, and whether the block is verified (R185). -/
structure BlockRead where
  len    : Nat
  verify : Bool
  deriving DecidableEq, Repr, Inhabited

/-- What the end of a fill finds: the page, and which of its units cannot be decoded (R250). -/
structure FillFindings where
  page : Nat
  bad  : BitVec 32
  deriving DecidableEq, Repr, Inhabited

/-- A fabric packet (R296). -/
structure Packet where
  type    : Nat
  cls     : Nat          -- CTL[1:0]
  bchk    : Bool         -- CTL[2]
  stale   : Bool         -- CTL[3]
  domain  : Nat
  src     : Nat
  dst     : Nat
  low     : BitVec 16
  epoch   : BitVec 8
  seq     : Nat          -- E2E_SEQ
  tag     : BitVec 16
  addr    : Nat
  payload : List Byte    -- LEN is its length in 32-byte units, rounded up
  bchkOk  : Bool         -- the block check that travels with a block matches its payload (R185)
  want    : Nat := 0     -- READ: bytes asked for; the header table gives this and the next five no place
  addfmt  : Nat := 0     -- ADD: the format of R193
  acc     : Bool := false  -- ADD: an accumulate-write (R223)
  nibble  : Option Nat := none  -- WRITE of one 4-bit element: the shift of the nibble written; the other one stays (R38)
  status  : Nat := 0     -- READ_DATA, ACK: what the request failed with at its target, 0 when it did not
  flags   : BitVec 6 := 0  -- ACK: flags raised by the adders (R193)
  deriving DecidableEq, Repr, Inhabited

/-- Contents of a capability exchange (R291). -/
structure Capability where
  identity  : BitVec 64
  position  : Nat
  port      : Nat
  configCrc : BitVec 32
  firmware  : BitVec 32
  lanes     : Nat
  fec       : BitVec 8
  spare     : Bool
  deriving DecidableEq, Repr, Inhabited

/-- A power request's condition that arises during entry, before the abort point (R448): REASON and AGENT codes. -/
structure EntryEvent where
  reason : BitVec 8
  agent  : BitVec 8
  deriving DecidableEq, Repr

/-- The setup fields a CHSET carries (R214). -/
structure ChiselSetup where
  op    : BitVec 8
  fmts  : BitVec 8
  ctl   : BitVec 8
  alpha : BitVec 32
  beta  : BitVec 32
  ea    : BitVec 8
  eb    : BitVec 8
  ed    : BitVec 8
  base  : Nat          -- STACK_BASE: the stack window's number
  deriving DecidableEq, Repr, Inhabited

/-- The fields a CHROW carries (R214). -/
structure ChiselRow where
  sidMask  : BitVec 4
  bankMask : BitVec 16
  rowD     : Nat
  rowA     : Nat
  rowB     : Nat
  colFirst : Nat
  enFirst  : BitVec 16
  colLast  : Nat
  enLast   : BitVec 16
  deriving DecidableEq, Repr, Inhabited

/-- The commands. -/
inductive Instr where
  -- BAR0 and the command window
  | slotSubmit (fn slot : Nat) (wide : Bool) (value : BitVec 64)
  | slotRelease (fn slot : Nat)
  | registerWrite (fn offset : Nat) (data : List Byte)
  | lowHalfRead (fn offset : Nat)
  | hostAlive (fn : Nat) (value : BitVec 32)
  | logCursor (fn : Nat) (value : BitVec 64)
  | snap (fn : Nat)
  | powerWake (fn : Nat)
  | enterMs2 (fn : Nat) (event : Option EntryEvent)
  | enterMs3 (event : Option EntryEvent)
  | enterMs4 (event : Option EntryEvent)
  -- commands of the command window: `fn` and `slot` name the slot that holds the command
  | nop (fn slot : Nat)
  | halt (fn slot : Nat)
  | attach (fn slot : Nat)
  | attachResume (fn slot : Nat)
  | attachLockoutEnd (fn : Nat)
  | resetPartition (fn slot : Nat)
  | resetModule (fn slot : Nat)
  | partSet (fn slot : Nat)
  | fabConfig (fn slot : Nat)
  | tileDisable (fn slot : Nat)
  | sectionDisable (fn slot : Nat)
  | drainExpire (fn slot : Nat)
  | loadProgram (fn slot : Nat)
  | run (fn slot : Nat)
  | runComplete (fn slot : Nat)
  | chiselRun (fn slot : Nat)
  | trainSetup (fn slot : Nat)
  | stepFence (fn slot : Nat)
  | stepFenceComplete (fn slot : Nat)
  | maquetteTake (fn slot : Nat)
  | rollback (fn slot : Nat)
  | rollforward (fn slot : Nat)
  | ctxPool (fn slot : Nat)
  | ctxOpen (fn slot : Nat)
  | ctxFork (fn slot : Nat)
  | ctxTruncate (fn slot : Nat)
  | ctxFree (fn slot : Nat)
  | ctxQuery (fn slot : Nat)
  | tierHint (fn slot : Nat)
  | tierStatus (fn slot : Nat)
  | reduceScatter (fn slot : Nat)
  | allReduce (fn slot : Nat)
  | allGather (fn slot : Nat)
  | broadcast (fn slot : Nat)
  | permute (fn slot : Nat)
  | getSurvey (fn slot : Nat)
  | logRead (fn slot : Nat)
  | traceSet (fn slot : Nat)
  | fwStage (fn slot : Nat)
  | fwActivate (fn slot : Nat)
  | fwRestart (fn slot : Nat)
  -- relays, completion, the host link
  | domainRelay (fn issuer : Nat) (packet : List Byte)
  | domainReport (fn slot position status : Nat)
  | commandComplete (fn slot : Nat)
  | flushReadComplete (fn slot : Nat)
  | deadlineExpire (fn slot : Nat)
  | heartbeatTimeout (fn : Nat)
  | hostLinkLost (cause : LinkLoss)
  | hostLinkUp
  | linkRecovery
  | linkRecoveryEnd (gts width : Nat)
  | flr (fn : Nat)
  | flrComplete (fn : Nat)
  | busMasterDisable (fn : Nat)
  | hostReadCompletion (tag : Nat) (result : HostReadResult)
  | hostReadTimeout (tag : Nat)
  | hostWriteAck (id : Nat)
  -- tile instructions: the engine issues the word at its position
  | nopInstruction (tile : Nat) (eng : Engine)
  | seg (tile : Nat) (eng : Engine)
  | stepBoundary (tile : Nat)
  | loop (tile : Nat) (eng : Engine)
  | replay (tile : Nat) (eng : Engine)
  | endStream (tile : Nat) (eng : Engine)
  | fload (tile : Nat) (soft : Soft)
  | fmcast (tile : Nat)
  | multicastDeliver (tile : Nat)
  | frecv (tile : Nat)
  | fhint (tile : Nat)
  | mopen (tile : Nat)
  | mmask (tile : Nat)
  | macc (tile : Nat) (soft : Soft)
  | mclose (tile : Nat)
  | vmode (tile : Nat)
  | vop (tile : Nat) (soft : Soft)
  | vlut (tile : Nat)
  | vld (tile : Nat)
  | vst (tile : Nat)
  | vstream (tile : Nat)
  | vtload (tile : Nat)
  | vredOpen (tile : Nat)
  | vredPut (tile : Nat)
  | vredClose (tile : Nat)
  | vpsum (tile : Nat)
  | vseed (tile : Nat)
  | sstore (tile : Nat)
  | sadd (tile : Nat)
  | saccw (tile : Nat)
  | scfence (tile : Nat)
  | instructionComplete (tile : Nat) (eng : Engine)
  | remoteSignal (tile token : Nat)
  | watchdog (tile : Nat)
  | tileGate (unit : GatedUnit)
  -- attention pipelines
  | attend (atp : Nat)
  | append (atp : Nat)
  | combine (atp : Nat)
  | atpLoop (atp : Nat)
  | atpEnd (atp : Nat)
  | keyBlock (atp job : Nat)
  | jobComplete (atp : Nat)
  | gatePoll (waiter : Waiter)
  | gateWatchdog (atp : Nat)
  -- the sequence manager
  | pin (atp : Nat)
  | unpin (atp job : Nat)
  | resolve (atp job : Nat)
  | switch (pt ctx page : Nat)
  | advance (atp job : Nat)
  -- memory controllers and stacks
  | memoryRead (req : BlockRequest) (span : BlockRead) (sensed : Sense)
  | blockReread (addr : Nat) (sensed : Sense)
  | memoryWrite (req : BlockRequest) (data : List Byte)
  | partialWriteMerge (req : BlockRequest) (data : List Byte) (first second : Sense)
  | memorySideAdd (req : BlockRequest) (addfmt : Nat) (data : List Byte) (first second : Sense)
  | regulatorAdmit (stack pt : Nat)
  | refresh (stack pc bank : Nat)
  | rfm (stack pc bank : Nat)
  | patrol (stack : Nat) (first second : Sense)
  | stackStartup (stack : Nat) (outcome : StackBringUp)
  | temperatureReading (stack point reading : Nat)
  | throttleLevelExit (stack : Nat)
  | stackRecovery (stack : Nat) (cause : RecoveryCause)
  | stackRecoveryEnd (stack : Nat) (retrained : Bool)
  -- Chisel units
  | chset (stack pc : Nat) (setup : ChiselSetup)
  | chrow (stack pc : Nat) (row : ChiselRow)
  | chacc (stack pc row col : Nat) (bank : Nat) (enable : BitVec 16) (data : List Byte)
  | chfnc (stack pc : Nat)
  | fence (list : Nat)
  -- the Plinth tier
  | readThrough (pt page : Nat) (bad : BitVec 32)
  | fill (pt page : Nat) (bad : BitVec 32)
  | fillComplete (pt : Nat) (found : FillFindings)
  | directWrite (pt page : Nat) (bad : BitVec 32)
  | eviction (pt page : Nat)
  | writeBack (pt page unit : Nat)
  | cleaning (pt : Nat)
  | age (pt : Nat)
  | tierTimeout (request : Nat)
  | prefetch (pt : Nat)
  | pinHint (pt : Nat)
  | demote (pt : Nat)
  | wearLevelling (channel : Nat)
  | readRelocation (channel block : Nat)
  | blockRetire (channel block : Nat)
  | garbageCollection (channel block : Nat)
  -- parameters, gradients and optimizer state
  | prepare (pt shard : Nat)
  | lossScaleUpdate (pt record : Nat)
  | applyState (pt shard : Nat)
  | applyRule (pt shard : Nat)
  | regenerate (pt shard : Nat)
  | commit (pt shard : Nat)
  | replicaFetch (pt shard step : Nat)
  -- fabric ports and packets
  | portPresence (port : Nat) (found : PortFindings)
  | portRetry (port : Nat) (found : PortFindings)
  | laneFail (port lane : Nat)
  | linkReplay (port replays : Nat)
  | fabRead (port : Nat) (packet : Packet)
  | fabReadData (port : Nat) (packet : Packet)
  | fabWrite (port : Nat) (packet : Packet)
  | fabAck (port : Nat) (packet : Packet)
  | fabAdd (port : Nat) (packet : Packet)
  | chain (port : Nat) (packet : Packet)
  | partialSum (port : Nat) (packet : Packet)
  | copy (port : Nat) (packet : Packet)
  | notice (port : Nat) (packet : Packet)
  | sync (port : Nat) (packet : Packet)
  | caps (port : Nat) (packet : Packet) (capability : Capability)
  | resendTimeout (request : Nat)
  | remoteRequestTimeout (request : Nat)
  | syncExchange
  | parentLost
  | miswiredRetry (port : Nat) (capability : Capability)
  | chainBreak (pt seq : Nat)
  | fallbackSum (pt seq : Nat)
  | partialTimeout (pt seq position : Nat)
  | memberLost (pt position : Nat)
  | collectivePhase (pt seq : Nat) (agree : Bool)
  -- time, clamp and power
  | caliperRealign
  | emergencyClamp (trigger : ClampTrigger)
  | clampRelease (flag : EmergencyFlag)
  | powerLimitStep (mW100 : Nat)
  | ceilingRaise (mW100 : Nat)
  | powerFailStop (cause : PowerFail)
  | inletConnect (mV : Nat)
  | inletWithdrawal
  | startUp (found : StartUpFindings)
  | wakeFromStandby
  | smbusAddressMatch (address : BitVec 7)
  | wakeN (low : Bool)
  | l1Exit
  | readByte (code : BitVec 8)
  | readWord (code : BitVec 8)
  | smbusWrite (command : BitVec 8)
  | alertResponseAddress
  | alertReassert
  -- firmware
  | processorRestart (code : Nat) (verified : Bool)
  | processorWatchdog (code : Nat)
  | persistentCopy (seq : Nat)
  | fwUnstableClear (code : Nat)
  | probationEnd (code : Nat) (burnFails : Bool)
  | swapBack (code : Nat)
  | armedActivation
  -- SPDM and the service port
  | getVersion (fn : Nat)
  | getCapabilities (fn : Nat)
  | negotiateAlgorithms (fn : Nat)
  | getDigests (fn : Nat)
  | getCertificate (fn : Nat)
  | challenge (fn : Nat)
  | getMeasurements (fn index : Nat)
  | keyExchange (fn : Nat)
  | finish (fn session : Nat) (macOk : Bool)
  | heartbeat (fn session : Nat)
  | keyUpdate (fn session : Nat)
  | endSession (fn session : Nat)
  | svcChallenge
  | svcUnlock (scope : BitVec 8) (publicKey signature : List Byte)
  | unlockLockoutEnd
  | serviceLatchTrip
  | checkerCompare (checker : Nat) (corrected uncorrectable : Bool)
  | moduleFatal (processor : Option Nat)
  | busMasterEnable (fn : Nat)
  | coverClose
  | clearingEnd (resource : Resource)
  | clockLowTimeout (heldUs : Nat)
  deriving DecidableEq, Repr

end Sys2Proof
end

