-- ==== Sys2Proof/Machine/Table.lean ====
section
/-! DEFINITION. Reading and writing the sparse tables and byte arrays, always in canonical form: keys strictly rising and
no entry equal to what an unlisted key reads as. -/

namespace Sys2Proof.Machine

open Sys2Proof

/-- The value at a key; `d` at a key that is not listed. -/
def Tbl.get {α : Type} (d : α) : Tbl α → Nat → α
  | [], _ => d
  | (k, v) :: rest, key => if k = key then v else Tbl.get d rest key

/-- Puts an entry before the first larger key. -/
def Tbl.put {α : Type} : Tbl α → Nat → α → Tbl α
  | [], key, v => [(key, v)]
  | (k, w) :: rest, key, v => if key < k then (key, v) :: (k, w) :: rest else (k, w) :: Tbl.put rest key v

/-- Writes `v` at a key; `v` equal to `d` leaves no entry. -/
def Tbl.set {α : Type} [DecidableEq α] (d : α) (t : Tbl α) (key : Nat) (v : α) : Tbl α :=
  let others := t.filter (fun e => e.1 != key)
  if v = d then others else Tbl.put others key v

/-- Changes the value at every listed key; a value that becomes `d` leaves no entry. -/
def Tbl.mapV {α : Type} [DecidableEq α] (d : α) (f : α → α) (t : Tbl α) : Tbl α :=
  t.foldl (fun acc e => Tbl.set d acc e.1 (f (Tbl.get d t e.1))) []

/-- Whether a table has its canonical form. -/
def Tbl.wf {α : Type} [DecidableEq α] (d : α) : Tbl α → Bool
  | [] => true
  | [(_, v)] => v != d
  | (k, v) :: (k', w) :: rest => k < k' && v != d && Tbl.wf d ((k', w) :: rest)

/-- One byte of a byte array. -/
def BMap.read (m : BMap) (a : Nat) : Byte := Tbl.get 0 m a

/-- Stores one byte. -/
def BMap.write (m : BMap) (a : Nat) (b : Byte) : BMap := Tbl.set 0 m a b

/-- `n` bytes from an address, lowest first. -/
def BMap.readBytes (m : BMap) (a : Nat) : Nat → List Byte
  | 0 => []
  | n + 1 => BMap.read m a :: BMap.readBytes m (a + 1) n

/-- Stores bytes from an address upward. -/
def BMap.writeBytes (m : BMap) (a : Nat) : List Byte → BMap
  | [] => m
  | b :: bs => BMap.writeBytes (BMap.write m a b) (a + 1) bs

/-- Removes every entry in `[a, a + n)`: those bytes read 0 afterwards. -/
def BMap.clear (m : BMap) (a n : Nat) : BMap := m.filter (fun e => e.1 < a || a + n ≤ e.1)

/-- The canonical form of a byte array. -/
def BMap.wf (m : BMap) : Bool := Tbl.wf (0 : Byte) m

/-- A little-endian number from its bytes (R9). -/
def leNat : List Byte → Nat
  | [] => 0
  | b :: bs => b.toNat + 256 * leNat bs

/-- The `n` little-endian bytes of a number (R9). -/
def natLe (v : Nat) : Nat → List Byte
  | 0 => []
  | n + 1 => BitVec.ofNat 8 v :: natLe (v / 256) n

/-- A little-endian field of `n` bytes. -/
def BMap.readLe (m : BMap) (a n : Nat) : Nat := leNat (BMap.readBytes m a n)

/-- Stores a little-endian field of `n` bytes. -/
def BMap.writeLe (m : BMap) (a n v : Nat) : BMap := BMap.writeBytes m a (natLe v n)

/-- Bits `[hi:lo]` of a number. -/
def bits (v hi lo : Nat) : Nat := v / 2 ^ lo % 2 ^ (hi + 1 - lo)

/-- Bit `i` of a number. -/
def bit (v i : Nat) : Bool := v / 2 ^ i % 2 = 1

/-- The least multiple count: ceil(a / b). -/
def ceilDiv (a b : Nat) : Nat := (a + b - 1) / b

/-- A signed number from its two's complement field of `w` bits. -/
def signed (w v : Nat) : Int := if 2 * (v % 2 ^ w) < 2 ^ w then (v % 2 ^ w : Nat) else (v % 2 ^ w : Nat) - (2 ^ w : Nat)

/-- The `w`-bit two's complement field of a signed number. -/
def unsigned (w : Nat) (i : Int) : Nat := (i % (2 ^ w : Nat)).toNat

/-- The least number satisfying `p` among `start, start + 1, …`, `fuel` tries, none when all fail. -/
def findFrom (p : Nat → Bool) (start : Nat) : Nat → Option Nat
  | 0 => none
  | fuel + 1 => if p start then some start else findFrom p (start + 1) fuel

/-- Applies a state change for each element, first element first. -/
def forEach {α σ : Type} (xs : List α) (s : σ) (f : α → σ → σ) : σ := xs.foldl (fun acc x => f x acc) s

/-- `n` repetitions of a change, with the index of each. -/
def repeatN {σ : Type} (n : Nat) (s : σ) (f : Nat → σ → σ) : σ := (List.range n).foldl (fun acc i => f i acc) s

/-- One byte into a CRC-32C register, reflected polynomial 0x82F6_3B78 (R183). -/
def crcBits : Nat → BitVec 32 → BitVec 32
  | 0, c => c
  | k + 1, c => crcBits k (if c.getLsbD 0 then (c >>> 1) ^^^ 0x82F63B78#32 else c >>> 1)

/-- CRC-32C of RFC 3720 over bytes in order (R183). -/
def crc32c (bytes : List Byte) : Nat :=
  ((bytes.foldl (fun c b => crcBits 8 (c ^^^ b.setWidth 32)) 0xFFFFFFFF#32) ^^^ 0xFFFFFFFF#32).toNat

/-- A byte array built from fields of (offset, bytes, value). -/
def fieldBytes (fs : List (Nat × Nat × Nat)) : BMap := fs.foldl (fun m f => BMap.writeLe m f.1 f.2.1 f.2.2) []

end Sys2Proof.Machine
end

