-- ==== Sys2Proof/Machine/Crypto.lean ====
section
/-! DEFINITION. The cryptographic functions that the rules name by their standards (R3, R233, R466 to R470, R472, R485): SHA-384,
HMAC and HKDF over it, ECDSA on P-384, and AES-256-XTS. Their insides are those of the published standards (assumption 193). -/

namespace Sys2Proof.Machine

open Sys2Proof

/-- Big-endian number of a byte string, and the byte string of a number. -/
def beNat (bs : List Byte) : Nat := bs.foldl (fun x b => x * 256 + b.toNat) 0
def natBe (n v : Nat) : List Byte := (natLe v n).reverse

/-! ## SHA-384 -/

/-- The largest number below 2^68 whose `k`-th power is at most `n`. -/
def rootOf (k n : Nat) : Nat :=
  (List.range 68).reverse.foldl (fun x i => if (x + 2 ^ i) ^ k ≤ n then x + 2 ^ i else x) 0

/-- The first 80 primes. -/
def shaPrimes : List Nat :=
  (List.range 410).filter (fun n => 2 ≤ n && (List.range 21).all (fun d => d < 2 || n ≤ d || n % d != 0))

/-- The round constants: the first 64 bits of the fractions of the primes' cube roots. -/
def shaK : List Nat := shaPrimes.map (fun p => rootOf 3 (p * 2 ^ 192) % 2 ^ 64)

/-- The initial hash value: the same of the square roots of the ninth to the sixteenth prime. -/
def shaInit : List Nat := ((shaPrimes.drop 8).take 8).map (fun p => rootOf 2 (p * 2 ^ 128) % 2 ^ 64)

/-- A 64-bit word turned right by `n`. -/
def turnRight (n x : Nat) : Nat := (x >>> n) ||| (x <<< (64 - n)) % 2 ^ 64

/-- One block of 16 words through the rounds: `h` holds a to h, `w` the window of the message schedule. -/
def shaRounds : List Nat → List Nat → List Nat → List Nat
  | k :: ks, [a, b, c, d, e, f, g, h], w0 :: w =>
    let s1 := turnRight 14 e ^^^ turnRight 18 e ^^^ turnRight 41 e
    let ch := (e &&& f) ^^^ ((2 ^ 64 - 1 - e) &&& g)
    let t1 := h + s1 + ch + k + w0
    let s0 := turnRight 28 a ^^^ turnRight 34 a ^^^ turnRight 39 a
    let maj := (a &&& b) ^^^ (a &&& c) ^^^ (b &&& c)
    let x := w.getD 0 0
    let y := w.getD 13 0
    let next := (w0 + (turnRight 1 x ^^^ turnRight 8 x ^^^ (x >>> 7)) + w.getD 8 0 + (turnRight 19 y ^^^ turnRight 61 y ^^^ (y >>> 6))) % 2 ^ 64
    shaRounds ks [(t1 + s0 + maj) % 2 ^ 64, a, b, c, (d + t1) % 2 ^ 64, e, f, g] (w ++ [next])
  | _, h, _ => h

/-- The message padded to whole blocks of 128 bytes. -/
def shaPad (m : List Byte) : List Byte :=
  m ++ [0x80#8] ++ List.replicate ((239 - m.length % 128) % 128) 0 ++ natBe 16 (8 * m.length)

/-- Folds the blocks of a padded message into the hash value. -/
def shaFold : Nat → List Nat → List Byte → List Nat
  | 0, h, _ => h
  | n + 1, h, bs =>
    let w := (List.range 16).map (fun i => beNat ((bs.drop (8 * i)).take 8))
    shaFold n ((h.zip (shaRounds shaK h w)).map (fun e => (e.1 + e.2) % 2 ^ 64)) (bs.drop 128)

/-- SHA-384 as its 48 bytes, and as a number whose most significant byte is the first. -/
def sha384Bytes (m : List Byte) : List Byte :=
  ((shaFold ((shaPad m).length / 128) shaInit (shaPad m)).take 6).flatMap (natBe 8)
def sha384 (m : List Byte) : BitVec 384 := BitVec.ofNat 384 (beNat (sha384Bytes m))

/-- HMAC-SHA-384. -/
def hmac384 (key m : List Byte) : List Byte :=
  let k := let k0 := if 128 < key.length then sha384Bytes key else key; k0 ++ List.replicate (128 - k0.length) 0
  sha384Bytes (k.map (fun b => b ^^^ 0x5C#8) ++ sha384Bytes (k.map (fun b => b ^^^ 0x36#8) ++ m))

/-- KDF(K, label) of R467: HKDF-SHA-384 with an empty salt, 48 bytes of output. -/
def kdf384 (key label : List Byte) : List Byte := hmac384 (hmac384 (List.replicate 48 0) key) (label ++ [1#8])

/-- The bytes of an ASCII label. -/
def ascii (t : String) : List Byte := t.toList.map (fun c => BitVec.ofNat 8 c.toNat)

/-! ## ECDSA on P-384 -/

/-- The field prime, the group order, the coefficient b and the base point. -/
def p384P : Nat := 2 ^ 384 - 2 ^ 128 - 2 ^ 96 + 2 ^ 32 - 1
def p384N : Nat := 0xffffffffffffffffffffffffffffffffffffffffffffffffc7634d81f4372ddf581a0db248b0a77aecec196accc52973
def p384B : Nat := 0xb3312fa7e23ee7e4988e056be3f82d19181d9c6efe8141120314088f5013875ac656398d8a2ed19d2a85c8edd3ec2aef
def p384X : Nat := 0xaa87ca22be8b05378eb1c71ef320ad746e1d3b628ba79b9859f741e082542a385502f25dbf55296c3a545e3872760ab7
def p384Y : Nat := 0x3617de4a96262c6f5d9e98bf9292dc29f8f41dbd289a147ce9da3113b5f0b8c00a60b1ce1d7e819d7a431d7c90ea0e5f

/-- The bits of a number below 2^384, the highest first. -/
def bits384 (n : Nat) : List Bool := (List.range 384).reverse.map (fun i => n.testBit i)

/-- `b` to the power `e` modulo `m`. -/
def powMod (m b e : Nat) : Nat := (bits384 e).foldl (fun x t => if t then x * x % m * b % m else x * x % m) 1

/-- A point in Jacobian coordinates; Z = 0 is the point at infinity. -/
structure Point where
  x : Nat
  y : Nat
  z : Nat
  deriving DecidableEq, Repr

/-- `a - b` modulo the field prime. -/
def subP (a b : Nat) : Nat := (a + p384P - b % p384P) % p384P

def Point.double (q : Point) : Point :=
  let yy := q.y * q.y % p384P
  let zz := q.z * q.z % p384P
  let s := 4 * q.x * yy % p384P
  let m := 3 * (subP q.x zz * ((q.x + zz) % p384P)) % p384P
  let x := subP (m * m) (2 * s)
  { x := x, y := subP (m * subP s x) (8 * (yy * yy)), z := 2 * q.y * q.z % p384P }

def Point.add (a b : Point) : Point :=
  if a.z = 0 then b
  else if b.z = 0 then a
  else
    let za := a.z * a.z % p384P
    let zb := b.z * b.z % p384P
    let u := a.x * zb % p384P
    let v := b.x * za % p384P
    let s := a.y * zb % p384P * b.z % p384P
    let t := b.y * za % p384P * a.z % p384P
    if u = v then (if s = t then a.double else { x := 1, y := 1, z := 0 })
    else
      let h := subP v u
      let hh := h * h % p384P
      let hhh := hh * h % p384P
      let r := subP t s
      let w := u * hh % p384P
      let x := subP (subP (r * r) hhh) (2 * w)
      { x := x, y := subP (r * subP w x) (s * hhh), z := h * a.z % p384P * b.z % p384P }

/-- The base point, and `i G + j Q`. -/
def baseP384 : Point := { x := p384X, y := p384Y, z := 1 }
def mulAdd (i j : Nat) (q : Point) : Point :=
  let both := baseP384.add q
  ((bits384 i).zip (bits384 j)).foldl (fun (r : Point) e =>
    let d := r.double
    match e with
    | (true, true) => d.add both
    | (true, false) => d.add baseP384
    | (false, true) => d.add q
    | (false, false) => d) { x := 1, y := 1, z := 0 }

/-- The affine x and y of a point. -/
def Point.affine (q : Point) : Nat × Nat :=
  let i := powMod p384P q.z (p384P - 2)
  (q.x * i % p384P * i % p384P, q.y * i % p384P * i % p384P * i % p384P)

/-- Whether a number below the field prime pair lies on the curve. -/
def onP384 (x y : Nat) : Bool :=
  x < p384P && y < p384P && y * y % p384P == (subP (x * x % p384P * x) (3 * x) + p384B) % p384P

/-- Whether an ECDSA P-384 signature (r, then s) over the SHA-384 digest of a message verifies under a public key (X, then Y), each
number 48 bytes big-endian (R469). -/
def ecdsaOk (pub sig msg : List Byte) : Bool :=
  let qx := beNat (pub.take 48)
  let qy := beNat ((pub.drop 48).take 48)
  let r := beNat (sig.take 48)
  let t := beNat ((sig.drop 48).take 48)
  let e := beNat (sha384Bytes msg)
  pub.length == 96 && sig.length == 96 && onP384 qx qy && 1 ≤ r && r < p384N && 1 ≤ t && t < p384N &&
    (let w := powMod p384N t (p384N - 2)
     let q := mulAdd (e * w % p384N) (r * w % p384N) { x := qx, y := qy, z := 1 }
     q.z != 0 && q.affine.1 % p384N == r)

/-- The public key of a private key, X then Y (R468). -/
def publicKey (d : Nat) : List Byte := let a := (mulAdd d 0 baseP384).affine; natBe 48 a.1 ++ natBe 48 a.2

/-- A P-384 private key from KDF output (R467): a value out of range is derived again with a counter byte, raised by 1, after the
label; `fuel` bounds the repeats. -/
def privateKey (key label : List Byte) : Nat → Nat → Nat
  | 0, _ => 1
  | fuel + 1, k =>
    let d := beNat (kdf384 key (label ++ (if k = 0 then [] else [BitVec.ofNat 8 k])))
    if 1 ≤ d ∧ d < p384N then d else privateKey key label fuel (k + 1)

/-! ## AES-256-XTS (R233) -/

/-- Product in GF(2^8) with field polynomial `poly`; AES takes 0x11B. -/
def gfMulBy (poly a b : Nat) : Nat :=
  ((List.range 8).foldl (fun (s : Nat × Nat) i =>
    (if b.testBit i then s.1 ^^^ s.2 else s.1, if s.2 < 128 then 2 * s.2 else (2 * s.2) ^^^ poly)) (0, a)).1
def gfMul : Nat → Nat → Nat := gfMulBy 0x11B

/-- The inverse in that field: the 254th power. -/
def gfInvBy (poly a : Nat) : Nat :=
  let mul := gfMulBy poly
  let sq := fun x => mul x x
  let a2 := sq a
  let a3 := mul a2 a
  let a12 := sq (sq a3)
  let a15 := mul a12 a3
  let a240 := sq (sq (sq (sq a15)))
  mul (mul a240 a12) a2

/-- The substitution of AES. -/
def aesSub (a : Nat) : Nat :=
  let x := gfInvBy 0x11B a
  let turn := fun n => (x <<< n) % 256 ||| (x >>> (8 - n))
  x ^^^ turn 1 ^^^ turn 2 ^^^ turn 3 ^^^ turn 4 ^^^ 0x63

/-- Two lists added in the field. -/
def xorL (a b : List Nat) : List Nat := (a.zip b).map (fun e => e.1 ^^^ e.2)

/-- The 60 words of the key schedule, given the words so far, the newest first. -/
def aesExpand : Nat → Nat → Nat → List (List Nat) → List (List Nat)
  | 0, _, _, ws => ws.reverse
  | n + 1, i, rc, ws =>
    let t := ws.headD []
    let u := if i % 8 = 0 then xorL ((t.drop 1 ++ t.take 1).map aesSub) [rc, 0, 0, 0] else if i % 8 = 4 then t.map aesSub else t
    aesExpand n (i + 1) (if i % 8 = 0 then gfMul rc 2 else rc) (xorL (ws.getD 7 []) u :: ws)

/-- The round keys, 16 bytes each. -/
def aesKeys (key : List Nat) : List (List Nat) :=
  let ws := aesExpand 52 8 1 ((List.range 8).map (fun i => (key.drop (4 * i)).take 4)).reverse
  (List.range 15).map (fun i => ((ws.drop (4 * i)).take 4).flatten)

/-- One round on a block of 16 bytes in column order; the last round mixes no columns. -/
def aesRound (last : Bool) (rk st : List Nat) : List Nat :=
  let s := (List.range 16).map (fun i => aesSub (st.getD ((i + 4 * (i % 4)) % 16) 0))
  let mix := fun (i : Nat) =>
    let c := i / 4 * 4
    let at' := fun k => s.getD (c + (i + k) % 4) 0
    gfMul (at' 0) 2 ^^^ gfMul (at' 1) 3 ^^^ at' 2 ^^^ at' 3
  xorL (if last then s else (List.range 16).map mix) rk

/-- AES-256 encryption of a block. -/
def aes256 (key blk : List Nat) : List Nat :=
  let ks := aesKeys key
  aesRound true (ks.getD 14 []) (((ks.drop 1).take 13).foldl (fun s k => aesRound false k s) (xorL blk (ks.headD [])))

/-- A tweak times the primitive element, little-endian. -/
def xtsNext (t : List Nat) : List Nat :=
  let v := leNat (t.map (BitVec.ofNat 8))
  (natLe ((2 * v) % 2 ^ 128 ^^^ (if v < 2 ^ 127 then 0 else 0x87)) 16).map (·.toNat)

/-- The blocks of a data unit, each under its own tweak. -/
def xtsBlocks (key : List Nat) : Nat → List Nat → List Nat → List Nat
  | 0, _, _ => []
  | n + 1, t, m => xorL (aes256 key (xorL (m.take 16) t)) t ++ xtsBlocks key n (xtsNext t) (m.drop 16)

/-- AES-256-XTS of a data unit of whole blocks under a 512-bit key and a tweak. -/
def xts256 (key : BitVec 512) (tweak : Nat) (m : List Byte) : List Byte :=
  let k := (natLe key.toNat 64).map (·.toNat)
  (xtsBlocks (k.take 32) (m.length / 16) (aes256 (k.drop 32) ((natLe tweak 16).map (·.toNat))) (m.map (·.toNat))).map (BitVec.ofNat 8)

end Sys2Proof.Machine
end

