-- ==== Sys2Proof/Config.lean ====
section
/-! DEFINITION. What the manual leaves open: constants without a body, so that no proof can use a value of theirs. -/

namespace Sys2Proof.Config

/-- The n-th free value a run draws (stamps within R388, tokens of R352, choices the rules leave open). -/
opaque freeNat : Nat → Nat

/-- EXP2 of a finite FP32 value that is not an exact case, before it is brought within the 2 ulp of R98. -/
opaque exp2 : BitVec 32 → BitVec 32

/-- LOG2 of a positive finite FP32 value that is not a power of two, before it is brought within the 2 ulp of R98. -/
opaque log2 : BitVec 32 → BitVec 32

/-- Whether RCP rounds up to the next FP32 value (R98 allows either neighbour of the exact result). -/
opaque rcpUp : BitVec 32 → Bool

/-- Whether RSQRT rounds up to the next FP32 value (R98). -/
opaque rsqrtUp : BitVec 32 → Bool

/-- cos(2 pi t) for the exact binary64 t, as FP32 bits, before it is brought within the 2 ulp of R149. -/
opaque cos2pi : BitVec 64 → BitVec 32

/-- sin(2 pi t), likewise. -/
opaque sin2pi : BitVec 64 → BitVec 32

/-- Whether z^(1/p) of R277 rounds up to the next FP32 value: the manual does not state its accuracy. -/
opaque rootUp : BitVec 32 → Nat → Bool

/-- The order in which the matrix array of an update unit adds up to 64 FP32 products (R277), which the manual does not state: the
places of the two terms that the n-th addition takes. -/
opaque arrayPick : List (BitVec 32 × BitVec 32) → Nat → Nat × Nat

/-- Whether a product is rounded before it is added there, or fused into the addition. -/
opaque arrayRounds : List (BitVec 32 × BitVec 32) → Bool

/-- The two check bytes of the in-band Reed-Solomon code over a column and its share of the block record (R181); the manual does
not give the code's field polynomial and generator. -/
opaque inBandEcc : List Byte → BitVec 16

/-- Bytes of an SPDM signature, key share or certificate chain (DMTF SPDM, which R472 names only). -/
opaque spdmBytes : Nat → BitVec 384

/-- The n-th output of the security element's random-bit generator (R479). -/
opaque random384 : Nat → BitVec 384

/-- The unique device secret (R466); fused, different in every module. -/
opaque uds : BitVec 384

end Sys2Proof.Config
end

