-- ==== Sys2Proof/Machine/State.lean ====
section
/-! DEFINITION. The module's state as plain data, the reasons a step can stop, and the state after reset. Each field's
default value is its reset value; a structure of a unit holds what the rules give that unit. -/

namespace Sys2Proof.Machine

open Sys2Proof

/-- Who a request belongs to: the instruction, job, command or apply that ends when the request fails (R188, R254, R340). -/
inductive Owner where
  | tile (t : Nat) (e : Engine) (flight : Nat)
  | atp (n job : Nat)
  | command (fn slot : Nat)
  | flush (fn slot : Nat)
  | apply (pt shard : Nat)
  | collective (pt seq : Nat)
  | replica (pt shard : Nat)         -- the fetch of a replica (R281)
  | remote (key : Nat)               -- a packet of another module, by its stream and sequence number
  | none
  deriving DecidableEq, Repr, Inhabited

/-! ## Log -/

/-- The group faults of R77. -/
inductive GroupFault where
  | alreadyOpen | notOpen | extentsDiffer | firstIndex | areasMeet | areaOutside | entryLimit
  deriving DecidableEq, Repr, Inhabited

/-- The vector faults of R104, and an operand that breaks a rule of the vector engine at issue. -/
inductive VectorFault where
  | groupArea | overlap | extents | runLength | slotNotOpen | slotOpen | closeRegister | modeSlotOpen | notStoreView | tableSlot
  | storeAddress | operand
  deriving DecidableEq, Repr, Inhabited

/-- The tile faults of R122, R125, R129, R132 to R135, R137 and of the views that R113 and R116 name. -/
inductive TileFault where
  | descriptor | spaces | shape | format | noMask | maskNone | configBlock | ringHeld | ringNotHeld | counter | boundary | multicast
  deriving DecidableEq, Repr, Inhabited

/-- What a blocked engine waits on (R130). -/
inductive Blocked where
  | token (k : Nat)
  | ring (r : Nat)
  | delivery
  | marker
  | receipts
  deriving DecidableEq, Repr, Inhabited

/-- What R77, R104, R130 and R137 have an error entry name beside the fields of R405, whose 64 bytes give it no place
(assumption 99). -/
inductive FaultName where
  | group (g : Nat) (f : GroupFault)
  | vector (f : VectorFault)
  | program (f : TileFault)
  | blocked (waits : List (Engine × Blocked)) (counters : List Nat)
  deriving DecidableEq, Repr, Inhabited

/-- An error record (R405). -/
structure ErrorRecord where
  status     : Nat := 0
  cls        : Nat := 0
  unit       : Nat := 0
  unitId     : Nat := 0
  pt         : Nat := 0
  rflags     : Nat := 0
  addr       : Nat := 0
  detail     : Nat := 0
  hwStamp    : Nat := 0
  fn         : Nat := 0xFF
  slot       : Nat := 0xFF
  tag        : Nat := 0
  suppressed : Nat := 0
  names      : Option FaultName := .none   -- beside the 64 bytes
  deriving DecidableEq, Repr, Inhabited

/-- What a log entry holds after its header (R428, R429). -/
inductive LogBody where
  | error (r : ErrorRecord)
  | event (code unitId arg0 arg1 arg2 arg3 : Nat)
  | trace (point arg0 arg1 arg2 : Nat)
  | mark (kind arg0 arg1 : Nat)
  | prior (r : ErrorRecord)
  deriving DecidableEq, Repr, Inhabited

/-- A log entry (R428). -/
structure LogEntry where
  stamp : Nat := 0
  seq   : Nat := 0
  src   : Nat := 0
  pt    : Nat := 0
  body  : LogBody := .mark 0 0 0
  deriving DecidableEq, Repr, Inhabited

/-- A folding window of R406. -/
structure Fold where
  cls    : Nat
  unit   : Nat
  unitId : Nat
  status : Nat
  opened : Nat
  count  : Nat
  deriving DecidableEq, Repr

/-- The log ring, the persistent ring and the fault counters (R427, R432, R406). -/
structure Log where
  entries    : List LogEntry := []   -- oldest first, at most 65,536
  appended   : Nat := 0              -- entries appended since start-up
  persistent : List ErrorRecord := []
  toPersist  : List Nat := []        -- SEQs of errors not yet copied (R432)
  folds      : List Fold := []
  faults     : Nat := 0              -- every fault, folded or not (R406)
  deriving DecidableEq, Repr, Inhabited

/-! ## Host interface -/

/-- Where a command stands: `finished` means its work is done and its host writes may still be outstanding (R344). -/
inductive CmdPhase where
  | none | accepted | running | finished | flushing
  deriving DecidableEq, Repr, Inhabited

/-- A command taken from a slot (R332, R333). -/
structure Cmd where
  packet     : BMap := []            -- the copy HIF took, 256 bytes (R327)
  phase      : CmdPhase := .none
  arrival    : Nat := 0
  start      : Nat := 0
  stop       : Nat := 0              -- END
  status     : Nat := 0
  result     : List (BitVec 64) := []
  writes     : Nat := 0              -- host writes not yet acknowledged
  wroteHost  : Bool := false         -- it has written host memory (R424)
  flushes    : Nat := 0              -- flush reads not yet completed
  flushed    : Bool := false         -- PATHS_FLUSHED
  noFlag     : Bool := false         -- no completion flag (R348)
  late       : Bool := false         -- DEADLINE_PASSED
  paused     : Nat := 0              -- ns for which the deadline has been paused (R337)
  stage      : Nat := 0              -- progress of a command that runs in stages
  reads      : Nat := 0              -- host reads outstanding
  buf        : BMap := []            -- host data received for the command
  failed     : Nat := 0              -- status of a failed host read, 0 when none
  reports    : Tbl Nat := []         -- DOMAIN: member position -> status + 1
  relayed    : Option Nat := .none   -- issuing position, for a command relayed to this member
  pathLost   : Bool := false         -- a member's path was lost and is not flushed (R345)
  note       : Nat := 0              -- a count the command keeps (ended commands, waiting copies)
  deriving DecidableEq, Repr, Inhabited

/-- SLOT_STATE.STATE (R328). -/
inductive SlotState where
  | free | queued | running | done
  deriving DecidableEq, Repr, Inhabited

/-- A command slot, or (from number 64) the place of a command relayed to this member, with its SLOT_STATE and reply area (R327, R328, R333). -/
structure Slot where
  bytes   : BMap := []
  state   : SlotState := .free
  discard : Bool := false
  seq     : BitVec 8 := 0
  status  : Nat := 0
  reply   : BMap := []
  stands  : Bool := false            -- HOST_WRITES_STAND of the reply (R424)
  cmd     : Cmd := {}
  deriving DecidableEq, Repr, Inhabited

/-- SPDM connection and sessions of one function's DOE mailbox (R472). -/
structure Spdm where
  version  : Bool := false
  caps     : Bool := false
  algs     : Bool := false
  sessions : Tbl Nat := []           -- session -> 1 handshake, 2 established
  keyGen   : Tbl Nat := []           -- session -> KEY_UPDATEs made
  reply    : List Nat := []          -- the last response: code, then what it names
  digest   : BitVec 384 := 0         -- the last response's free value (signature, digest or nonce)
  signer   : List Byte := []         -- the label of the key that the last signed response was signed with (R467, R473)
  deriving DecidableEq, Repr, Inhabited

/-- The power registers of one scope (R447). -/
structure PowerRegs where
  request   : BitVec 3 := 0
  phase     : BitVec 2 := 0
  result    : BitVec 2 := 0
  aRefused  : BitVec 16 := 0
  aAborted  : BitVec 16 := 0
  bRefused  : BitVec 16 := 0
  bAborted  : BitVec 16 := 0
  agent     : BitVec 8 := 0
  reason    : BitVec 8 := 0
  requested : BitVec 3 := 0
  abort     : Bool := false
  stamp     : Nat := 0
  deriving DecidableEq, Repr, Inhabited

/-- One PCIe function (R323, R349, R343, R513 to R515). -/
structure Fn where
  bme         : Bool := false        -- Bus Master Enable, clear at reset as PCIe defines
  hostAlive   : BitVec 32 := 0
  heartbeat   : BitVec 32 := 8
  lastBeat    : Nat := 0
  flushAddr   : BitVec 64 := 0
  msix        : BMap := []           -- the words of the table that differ from their reset value 0
  msixMask    : BitVec 32 := 0xFFFFFFFF  -- per-vector mask bits, set at reset as PCIe defines
  msixPending : BitVec 32 := 0
  lowHold     : Option (Nat × BitVec 32) := .none   -- a held low-half write (R504)
  capture     : Option (Nat × BitVec 64) := .none   -- a captured 64-bit register (R504)
  logCursor   : BitVec 48 := 0
  logWindow   : List LogEntry := []
  logGap      : BitVec 32 := 0
  logNext     : BitVec 48 := 0
  surveyStamp : Nat := 0
  survey      : BMap := []
  flrStart    : Option Nat := .none
  arrivals    : List Nat := []       -- slots in the order their submitting writes arrived (R336)
  refusals    : Nat := 0             -- refused ATTACHes in a row (R353)
  lockout     : Option Nat := .none  -- time at which the lockout began
  spdm        : Spdm := {}
  deriving DecidableEq, Repr, Inhabited

/-- A posted write of the module that the link partner has not acknowledged (R339). -/
structure HostWrite where
  id    : Nat
  fn    : Nat
  tlps  : List (Nat × List Byte)     -- address and payload of each Memory Write request (R338)
  owner : Owner
  nibble : Option Nat := .none       -- it changes only the nibble at this shift of its one byte (R38)
  deriving DecidableEq, Repr

/-- A host read without its completion (R340). -/
structure HostRead where
  tag    : Nat
  fn     : Nat
  addr   : Nat
  len    : Nat
  off    : Nat                       -- where its bytes go in its owner's buffer
  owner  : Owner
  issued : Nat
  deriving DecidableEq, Repr

/-- The host link (R323, R347). -/
structure Link where
  up        : Bool := false
  recovery  : Option Nat := .none    -- time at which Recovery began
  gts       : Nat := 64
  width     : Nat := 16
  mps       : Nat := 512
  mrrs      : Nat := 4096
  writes    : List HostWrite := []
  reads     : List HostRead := []
  nextWrite : Nat := 0
  nextTag   : Nat := 0
  perst     : Bool := false
  heldBar   : List (Nat × Nat × List Byte) := []  -- BAR0 writes queued while HIF restarts (R434)
  deriving DecidableEq, Repr, Inhabited

/-! ## Tiles -/

/-- An active LOOP (R133). -/
structure LoopFrame where
  first : Nat
  last  : Nat
  index : Nat
  count : Nat
  deriving DecidableEq, Repr, Inhabited

/-- A running REPLAY (R133): the position of its instruction, and its REBASE_SLOT. -/
structure ReplayFrame where
  resume : Nat
  rebase : Nat
  deriving DecidableEq, Repr, Inhabited

/-- A resolved view: where its elements and scales lie, after displacement, rebase and ring slot (R119 to R122). -/
structure View where
  fmt     : Nat
  bs      : Nat            -- elements per block, 1 for an unscaled format
  sd      : Nat
  layout  : Nat
  check   : Bool
  ts      : Bool
  base    : Int            -- byte address of the descriptor's element 0
  sbase   : Int            -- byte address of its first scale
  off     : Int            -- displacement in elements (R121)
  ext     : List Nat
  stride  : List Int
  pstride : List Int       -- strides of the scale plane, 0 where an index counts as 0
  deriving DecidableEq, Repr

/-- An instruction in flight: its word, the views it resolved at issue, and what it still waits for (R108, R109). -/
structure Flight where
  id    : Nat := 0
  word  : BitVec 128 := 0
  src   : Option View := .none
  dst   : Option View := .none
  out     : List (Nat × List Byte) := []        -- runs it stores or adds: engine address, bytes
  halves  : List (Nat × Nat × Nat) := []        -- single nibbles it stores: engine address, shift, value (R38)
  hints   : List Nat := []           -- pages of an FHINT not yet in the queue (R244)
  marks   : List (Nat × Nat × Nat) := []  -- Chisel work an SCFENCE waits for: list, record, pseudo-channel (R221)
  waits : Nat := 0                   -- host reads, tier requests, remote reads or deliveries it still needs
  acks  : Nat := 0                   -- acknowledgements of its writes still to come
  ran   : Bool := false              -- its effect has taken place
  buf   : BMap := []                 -- host or remote data received, by offset from the first byte asked for
  deriving DecidableEq, Repr, Inhabited

/-- One engine of a tile (R107). -/
structure EngineState where
  imem    : Tbl (BitVec 128) := []
  pc      : Nat := 0
  ended   : Bool := false
  atStep  : Bool := false            -- waits at a SEG marker with STEP set (R132)
  waited  : Bool := false            -- step 1 of R112 is done for the instruction at pc
  taken   : Bool := false            -- step 2 of R112 is done for the instruction at pc
  loops   : List LoopFrame := []     -- outermost first
  replay  : Option ReplayFrame := .none
  segment : Nat := 0
  flights : List Flight := []        -- oldest first
  nextId  : Nat := 0
  deriving DecidableEq, Repr, Inhabited

/-- A buffer ring (R128, R129). -/
structure Ring where
  free     : Nat := 0
  full     : Nat := 0
  prodPtr  : Nat := 0
  consPtr  : Nat := 0
  prodHeld : Option Nat := .none
  consHeld : Option Nat := .none
  deriving DecidableEq, Repr, Inhabited

/-- One output's pairwise ladder (R69): the bits of its occupied levels, and SPILL_VALID (R71). -/
structure Ladder where
  levels     : Tbl (Option Nat) := []
  spillValid : Bool := false
  deriving DecidableEq, Repr, Inhabited

/-- An accumulation group (R74). -/
structure Group where
  isOpen     : Bool := false
  spillN     : Nat := 16
  spillAddr  : Nat := 0
  resultAddr : Nat := 0
  seedEn     : Bool := false
  seedAddr   : Nat := 0
  maskMode   : Nat := 0
  maskAddr   : Nat := 0
  maskCols   : Nat := 1
  m0         : Nat := 0
  n0         : Nat := 0
  frozen     : BitVec 256 := 0       -- outputs frozen by the mask read at opening (R81)
  entries    : Nat := 0
  ladders    : Tbl Ladder := []
  deriving DecidableEq, Repr, Inhabited

/-- Mask values recorded by MMASK for the next MOPEN (R114). -/
structure MaskValues where
  maskAddr : Nat
  maskCols : Nat
  m0       : Nat
  n0       : Nat
  deriving DecidableEq, Repr, Inhabited

/-- A filled table slot of the vector engine (R99). -/
structure VTable where
  n      : Nat
  x0     : BitVec 32
  invH   : BitVec 32
  values : Tbl (BitVec 32)
  deriving DecidableEq, Repr

/-- An open reduction slot (R102): its operation, the ladder of R101 and the running extremum. -/
structure RedSlot where
  op      : Nat
  levels  : Tbl (Option Nat) := []
  spill   : Option Nat := .none
  best    : Option (BitVec 32) := .none
  index   : Nat := 0
  seen    : Nat := 0
  deriving DecidableEq, Repr

/-- A posted multicast receipt (R135). -/
structure Receipt where
  set     : Nat
  tag     : Nat
  flight  : Nat      -- flight of the FRECV
  deriving DecidableEq, Repr

/-- One tensor tile with its store and vector engine. -/
structure Tile where
  program   : Option (Nat × Nat) := .none   -- partition and program loaded
  running   : Bool := false
  stopping  : Option Nat := .none           -- status of a stop due at the next step boundary
  store     : BMap := []
  f         : EngineState := {}
  m         : EngineState := {}
  v         : EngineState := {}
  s         : EngineState := {}
  tokens    : Tbl Nat := []
  rings     : Tbl Ring := []
  groups    : Tbl Group := []
  masks     : Tbl (Option MaskValues) := []
  vregs     : Tbl (BitVec 2048) := []       -- lane i in bits [32i+31:32i]
  stream    : Bool := false                 -- STREAM mode (R89)
  tables    : Tbl (Option VTable) := []
  reds      : Tbl (Option RedSlot) := []
  lfsr      : BitVec 32 := 1                -- R49
  flags     : BitVec 6 := 0                 -- R57
  maxima    : List (Nat × BitVec 32) := []  -- record address and largest finite |x| (R55)
  receipts  : List Receipt := []
  steps     : Nat := 0                      -- step boundaries passed in this run
  blockedAt : Option Nat := .none           -- since when the watchdog counts (R130)
  gated     : Bool := false                 -- MS1
  corrected : Nat := 0                      -- R407 counter
  fixedAt   : List Nat := []                -- times of the last 17 corrections
  lostAt    : List Nat := []                -- times of the last two uncorrectable errors
  failing   : Bool := false
  deriving DecidableEq, Repr, Inhabited

/-! ## Sequence contexts -/

/-- A directory entry (R165); STATE 0 FREE, 1 OPEN, 2 RELEASING, 3 FAULTED. -/
structure Ctx where
  state      : Nat := 0
  owner      : Nat := 0
  fmt        : Nat := 0
  dhCode     : Nat := 0
  headsM1    : Nat := 0
  pool       : Nat := 0
  appending  : Bool := false
  seg        : Nat := 0
  pos        : Nat := 0
  mapped     : Nat := 0
  root       : Nat := 0
  openStamp  : Nat := 0
  lastStamp  : Nat := 0
  appends    : BitVec 32 := 0
  attends    : BitVec 32 := 0
  copies     : BitVec 32 := 0
  activePins : Nat := 0
  deriving DecidableEq, Repr, Inhabited

/-- A page pool (R168). The free list runs from its head through the links in the page records (R169). -/
structure Pool where
  pageAddr    : Nat := 0
  pageBytes   : Nat := 0
  pages       : Nat := 0
  metaAddr    : Nat := 0
  tableAddr   : Nat := 0
  tableFrames : Nat := 0
  framesUsed  : Tbl Bool := []
  freeHead    : Option Nat := .none
  deriving DecidableEq, Repr, Inhabited

/-- A copy on write in progress (R174). -/
structure PageCopy where
  pt      : Nat
  ctx     : Nat
  pool    : Nat
  page    : Nat      -- logical page
  source  : Nat      -- physical page copied
  target  : Nat      -- physical page taken
  atp     : Nat
  job     : Nat
  opened  : Nat := 0 -- OPEN_STAMP of the context it was started for
  deriving DecidableEq, Repr

/-! ## Attention pipelines -/

/-- The running soft maximum of one row (R151), FP32 bits. -/
structure RowAcc where
  m : BitVec 32 := 0xFF800000
  l : BitVec 32 := 0
  o : Tbl (BitVec 32) := []
  bad : Bool := false                -- an allowed score was NaN or infinite (R154)
  any : Bool := false                -- an allowed key has been seen
  deriving DecidableEq, Repr, Inhabited

/-- Stages of a job in the pipeline. -/
inductive JobStage where
  | starting     -- its descriptors and inputs are being read
  | waiting      -- started, before its manager operation or behind another APPEND
  | keys         -- taking key blocks (ATTEND), or copying and writing (APPEND)
  | finalised    -- outputs written, acknowledgements and signals to come
  deriving DecidableEq, Repr, Inhabited

/-- A job of an ATP's pipeline (R140). -/
structure Job where
  id       : Nat := 0
  record   : Nat := 0                -- index in job memory
  indices  : List Nat := []          -- ATP loop indices, outermost first
  stage    : JobStage := .waiting
  length   : Nat := 0                -- L when the job started (R145, R158)
  pages    : List (Nat × Nat) := []  -- logical page, physical page index: the PIN or RESOLVE list
  pool     : Nat := 0
  pinned   : Bool := false
  appends  : Bool := false           -- it is the APPEND that runs on its context
  copies   : Nat := 0                -- copies on write not yet switched
  behind   : Bool := false           -- it has waited for another APPEND on its context (R159)
  closed   : Bool := false           -- its last manager operation is done
  ctxNum   : Nat := 0
  ctx      : Ctx := {}               -- the entry, and below the pool, as its manager operation found them
  source   : Pool := {}
  inputs   : BMap := []              -- descriptors, queries, metadata and frequencies, by engine address
  counted  : List Nat := []          -- tiered pages it has counted (R237)
  nextBlk  : Nat := 0
  rows     : Tbl RowAcc := []
  asked    : List (Nat × Nat) := []  -- runs elsewhere it has asked for: engine address, bytes
  waits    : Nat := 0                -- answers still to come
  buf      : BMap := []              -- what has come, by engine address
  acks     : Nat := 0                -- acknowledgements of its writes still to come
  deriving DecidableEq, Repr, Inhabited

/-- One attention pipeline (R139, R140). -/
structure Atp where
  program  : Option (Nat × Nat) := .none
  running  : Bool := false
  ended    : Bool := false
  stopping : Option Nat := .none
  jobs     : BMap := []              -- job memory, 128 bytes a record
  pc       : Nat := 0
  loops    : List LoopFrame := []
  active   : List Job := []          -- oldest first
  unpins   : List Job := []          -- stopped jobs whose pages are still pinned (R173)
  nextJob  : Nat := 0
  gateFrom : Option Nat := .none     -- since when it waits on a gate
  gateAsked : Bool := false          -- a read of a gate in another module has been sent
  gateWaits : Nat := 0               -- and its answer is still to come
  gateBuf  : BMap := []              -- and holds this
  flags    : BitVec 6 := 0
  gated    : Bool := false
  deriving DecidableEq, Repr, Inhabited

/-! ## Stacked memory -/

/-- Stack modes (R189), in table order. -/
inductive StackMode where
  | training | test | service | recovery | scrubbing | selfRefresh | failed
  deriving DecidableEq, Repr, Inhabited

/-- The state of a block that its payload does not show (R182): BSTATE, what the next sensing finds, and the columns that an
in-band ECC error lies in. BCHK and the ECC bytes themselves follow from the payload (`State.blockRecord`) unless `sense` says that
what is stored does not agree with it. -/
structure Block where
  poison : Bool := false
  cause  : Nat := 0
  sense  : Sense := .good
  cols   : BitVec 64 := BitVec.allOnes 64
  deriving DecidableEq, Repr, Inhabited

/-- A block request at a memory controller, with what its first and second sensing find. -/
inductive MemOp where
  | read (addr len : Nat) (verify : Bool) (sensed : Sense)
  | write (addr : Nat) (data : List Byte)
  | merge (addr : Nat) (data : List Byte) (first second : Sense)
  | add (addr addfmt : Nat) (data : List Byte) (first second : Sense)
  deriving DecidableEq, Repr

/-- A request held by a regulator or by a recovering stack (R192, R408). -/
structure Held where
  pt    : Nat
  cls   : Nat                        -- class of R393
  bytes : Nat
  op    : MemOp
  deriving DecidableEq, Repr

/-- One stack with its controllers (R189 to R201). -/
structure Stack where
  mode        : StackMode := .training
  modeRegs    : Option StackMode := .none  -- the mode PWR has set the mode registers for; none: at their defaults (R179, R190)
  onDie       : Nat := 0             -- on-die ECC corrections, read through the mode registers (R179, R181)
  parity      : Nat := 0
  stormFrom   : Nat := 0             -- start of the second in which PARITY_STORM counts, and its count (R190)
  stormCount  : Nat := 0
  parityStorm : Bool := false
  retry       : Nat := 0             -- CHECK_RETRY
  retryOk     : Nat := 0             -- CHECK_RETRY_OK
  poisoned    : Nat := 0
  rereads     : List (Nat × Bool) := []  -- blocks to re-read, with whether the consumer verifies (R186)
  spent       : Tbl Int := []        -- partition -> bytes that its regulator's bucket lacks (R192)
  filledAt    : Tbl Nat := []        -- partition -> time of the bucket's last update
  held        : List Held := []
  activations : Tbl Nat := []        -- pseudo-channel * 64 + bank
  patrolAt    : Nat := 0             -- block offset the patrol reads next
  readings    : Tbl Nat := []        -- point 0-1 TSB, 2-17 TSM, in 1/16 degree C
  level       : Nat := 0
  below       : Tbl (Option Nat) := []  -- level -> since when every reading has allowed leaving it (R201)
  levelSince  : Nat := 0
  levelNs     : Tbl Nat := []        -- time spent at each level
  latch       : Tbl ChiselSetup := []  -- setup latch of each pseudo-channel
  batch       : Tbl Nat := []        -- pseudo-channel -> row operations made while ordinary requests waited (R219)
  recoveryAt  : Option Nat := .none
  retrainFails : Nat := 0
  deriving DecidableEq, Repr, Inhabited

/-- A list of operation records accepted by the stacks (R205, R212, R213). -/
structure ChiselList where
  id       : Nat
  pt       : Nat
  fn       : Nat
  slot     : Nat
  records  : List (List Byte)
  fenced   : List Nat := []          -- FENCE records of the list that have ended (index)
  before   : List (Nat × List (Nat × Nat)) := []  -- FENCE index -> records accepted before it (list, record)
  done     : Tbl Nat := []           -- record index * 4096 + bank slot -> relative rows done there
  flags    : BitVec 6 := 0
  failed   : Nat := 0
  firstBad : Nat := 0
  lastEnd  : Option Nat := .none     -- when its last row operation ended (R228)
  turns    : Tbl Nat := []           -- stack * 64 + pseudo-channel -> its turn there, for the interleaving of R213
  deriving DecidableEq, Repr

/-! ## The Plinth tier -/

/-- Page states (R235). -/
inductive PageState where
  | home | filling | resident | evicting
  deriving DecidableEq, Repr, Inhabited

/-- A tiered page (R235). -/
structure TierPage where
  state    : PageState := .home
  pinned   : Bool := false
  count    : Nat := 0
  late     : Nat := 0
  dirty    : BitVec 32 := 0
  failed   : BitVec 32 := 0
  frame    : Option Nat := .none
  filled   : BitVec 32 := 0          -- units in the frame
  filledAt : Nat := 0                -- order of fills, for the victim choice of R240
  heir     : Option Nat := .none     -- while EVICTING: the page that its frame then serves (R240)
  deriving DecidableEq, Repr, Inhabited

/-- Kinds of access that wait for the tier. -/
inductive TierKind where
  | read | write | add
  deriving DecidableEq, Repr, Inhabited

/-- A request that waits for the tier (R238, R239, R249). -/
structure TierReq where
  id    : Nat
  pt    : Nat
  page  : Nat
  units : BitVec 32                  -- units touched
  whole : BitVec 32                  -- units covered whole by a write
  kind  : TierKind
  owner : Owner
  since : Nat
  deriving DecidableEq, Repr

/-- Tier hints (R244). -/
inductive HintKind where
  | prefetch | pin | demote
  deriving DecidableEq, Repr, Inhabited

/-- A unit as it was programmed: its position in the erase block, and what the headers of its sixteen codewords name (R234, R255). -/
structure UnitCopy where
  pos    : Nat
  extent : Nat
  unit   : Nat                       -- index within the extent
  seq    : Nat                       -- write sequence of its first codeword
  deriving DecidableEq, Repr, Inhabited

/-- An erase block of one channel (R255 to R258). -/
structure EraseBlock where
  cycles  : Nat := 0
  reads   : Nat := 0
  retired : Bool := false
  failing : Bool := false            -- a program, erase or uncorrectable read failure has been met
  next    : Nat := 0                 -- positions programmed since its last erase
  units   : List UnitCopy := []      -- units programmed since then; those the mapping names are valid
  deriving DecidableEq, Repr, Inhabited

/-- An extent of the tier (R230). -/
structure Extent where
  owner    : Nat := 0                -- partition number bound, 0 = free
  index    : Nat := 0                -- index within the partition
  keyGen   : Nat := 0                -- extent keys made so far
  keyed    : Bool := false
  key      : BitVec 512 := 0         -- the extent's AES-256-XTS key (R233)
  trimming : Nat := 0                -- partition it leaves while TRIMMING, 0 when not
  deriving DecidableEq, Repr, Inhabited

/-- The flash translation layer (R229 to R259). -/
structure Flash where
  data     : BMap := []              -- extent * 2^36 + byte offset, in clear
  map      : Tbl (Option (Nat × Nat × Nat)) := []  -- extent * 2^20 + unit -> channel, erase block, position (R255)
  blocks   : Tbl EraseBlock := []    -- channel * 2^20 + block
  writeSeq : Nat := 0
  extents  : Tbl Extent := []
  spare    : Tbl Nat := []           -- channel -> spare share lost, in 0.01 %
  wearWarn : Bool := false
  readOnly : Bool := false
  rebuilt  : Bool := false
  written  : Nat := 0
  deriving DecidableEq, Repr, Inhabited

/-! ## Training -/

/-- A queued or running apply (R269). -/
structure Apply where
  shard     : Nat
  step      : Nat
  phase     : Nat := 1               -- the phase that runs next, 1-5 of R269
  nonFinite : Bool := false
  decided   : Bool := false          -- its scale record has been decided (R273)
  halted    : Bool := false          -- stopped by a HALT, restarts from PREPARE (R361)
  failed    : Nat := 0               -- status of a tier request that has failed, 0 when none, and its address
  failedAt  : Nat := 0
  deriving DecidableEq, Repr

/-- A STEP_FENCE that waits (R279). -/
structure FenceWait where
  fn    : Nat
  slot  : Nat
  step  : Nat                        -- the step it closes
  since : Nat
  error : Nat := 0                   -- status of a faulted apply or fetch, 0 when none
  shard : Nat := 0
  met   : Option Nat := .none        -- when the conditions of R279 came to hold
  deriving DecidableEq, Repr

/-- The fetch of a replica from its owner (R281, R282). -/
structure Fetch where
  stage  : Nat := 1                  -- what it reads: 1 the owner's record, 2 the buffer, 3 the buffer's tag again
  since  : Nat := 0                  -- when it last asked for the record
  waits  : Nat := 0
  failed : Nat := 0
  buf    : BMap := []
  buffer : Nat := 0
  tag    : Int := 0
  deriving DecidableEq, Repr, Inhabited

/-- A partition's training state (R263, R265, R283). -/
structure Train where
  isSetUp   : Bool := false
  table     : Nat := 0
  shards    : Nat := 0
  keepAddr  : Nat := 0
  keepSlots : Nat := 0
  keepBytes : Nat := 0
  step      : Nat := 0
  closed    : Nat := 0               -- steps whose applies have been queued
  applies   : List Apply := []
  fence     : Option FenceWait := .none
  fetched   : List Nat := []         -- replica shards fetched for the waiting fence
  fetches   : Tbl (Option Fetch) := []  -- replica shard -> its fetch
  waited    : Nat := 0               -- stall of fences that ended by their deadline, not yet in a STALL_NS (R280)
  keeps     : Tbl (Option (Nat × Nat)) := []  -- slot -> key, step
  lsDone    : List (Nat × Nat × Bool) := [] -- scale records decided: address, step, whether its applies are skipped
  finished  : Nat := 0
  skipped   : Nat := 0
  faulted   : Nat := 0
  faults    : Tbl (Nat × Nat) := []  -- FAULTED shard -> status, step of the apply that failed
  firstBad  : Option Nat := .none
  lastDone  : Option Nat := .none
  deriving DecidableEq, Repr, Inhabited

/-! ## Collectives and fabric -/

/-- How far a collective is on this member before its data move (R304, R308). -/
inductive CollStage where
  | room       -- eight collectives of its domain are in flight here
  | gate       -- its WAIT_GATE is not open
  | compare    -- the members compare their fields
  | run
  deriving DecidableEq, Repr, Inhabited

/-- An entry of a PERMUTE map (R317). -/
structure Move where
  src      : Nat
  dst      : Nat
  fromAddr : Nat
  toAddr   : Nat
  bytes    : Nat
  deriving DecidableEq, Repr, Inhabited

/-- A collective on this member (R304 to R319); its record stays in the slot of its command. -/
structure Coll where
  pt        : Nat
  seq       : Nat
  fn        : Nat
  slot      : Nat
  stage     : CollStage := .room
  phase     : Nat := 0               -- 0 X, 1 Y, 2 Z
  begun     : Bool := false          -- its own data of the phase, or of its operation, have been read and sent
  owes      : Bool := false          -- its partials are still to be formed (R314)
  readyAt   : Nat := 0               -- when this member became ready to add in its phase
  done      : Tbl Nat := []          -- phase -> elements of this member's own results written
  passed    : Tbl Nat := []          -- phase -> elements sent on for other owners
  parked    : List (Nat × Packet) := []  -- CHAIN packets of a phase not begun here, with their port
  finalDone : Bool := false          -- this member's own chunk has its final result
  copied    : Nat := 0               -- elements or bytes of results received
  cut       : Bool := false          -- a link that may hold its CHAIN packets has gone down
  broken    : Bool := false
  brkStamp  : Nat := 0
  brkPos    : Nat := 0
  noticeAt  : Nat := 0
  partials  : Tbl Nat := []          -- position -> bytes of its partial received
  flags     : BitVec 6 := 0
  fallback  : Bool := false
  kept      : Bool := false
  sent      : Nat := 0
  moves     : List Move := []        -- the PERMUTE map
  moved     : Tbl Nat := []          -- entry -> bytes written on this member
  deriving DecidableEq, Repr

/-- Port states (R290). -/
inductive PortState where
  | down | measure | train | caps | up | degraded | miswired | failed
  deriving DecidableEq, Repr, Inhabited

/-- A fabric port (R286 to R291). -/
structure Port where
  state     : PortState := .down
  share     : Nat := 0               -- class-2 packets sent since the last one of class 3 while one waited (R300)
  turns     : Tbl Nat := []          -- class -> the domain whose packet went last (R300)
  term      : Nat := 0
  lengthCm  : Nat := 0xFFFF
  delayNs   : Nat := 0
  lanesBad  : List Nat := []
  spareUsed : Bool := false
  hasSpare  : Bool := false
  partner   : Option Capability := .none
  corrected : Nat := 0
  replays   : Nat := 0
  switches  : Nat := 0
  linkUps   : Nat := 0
  fails     : Nat := 0               -- failed link-up attempts in a row
  failedAt  : Nat := 0
  deriving DecidableEq, Repr, Inhabited

/-- A packet sent and not yet acknowledged (R298). -/
structure Unacked where
  id     : Nat
  packet : Packet
  owner  : Owner
  first  : Nat
  last   : Nat
  verify : Bool := false             -- the reading engine verifies the blocks it gets (R185)
  again  : Bool := false             -- a block check has failed once (R186)
  reroute : Option Nat := none       -- since when a link on its way has been down and it is sent by a new route (R410)
  deriving DecidableEq, Repr

/-- The fabric as this module sees it (R292 to R303). -/
structure Fabric where
  shape     : Nat := 0xFF            -- 0xFF: no fabric
  position  : Nat := 0
  ports     : Tbl Port := []
  txSeq     : Tbl Nat := []          -- target * 4 + class -> next E2E_SEQ
  rxSeq     : Tbl Nat := []          -- sender * 4 + class -> next E2E_SEQ delivered
  ahead     : List (Nat × Packet) := []  -- (port, packet) received ahead of their turn
  refused   : List (Nat × Nat) := []     -- packets ahead whose tier request has failed: stream and sequence number, status
  unacked   : List Unacked := []
  nextId    : Nat := 0
  outbox    : List (Nat × Packet) := []  -- packets that wait to leave, with their port (255: no route)
  sent      : List (Nat × Packet) := []  -- packets the links have sent, with their port
  members   : Tbl (List Nat) := []   -- domain -> positions whose member is present
  verdicts  : Tbl (Nat × BitVec 6) := []  -- (sender * 4 + class) * 2^32 + E2E_SEQ -> status and flags acknowledged
  stale     : Nat := 0
  parent    : Option Nat := .none
  holdover  : Bool := false
  halfRate  : Bool := false
  joined    : Bool := false
  syncSent  : Option Nat := .none    -- t1 of the exchange in progress
  offset    : Int := 0
  deriving DecidableEq, Repr, Inhabited

/-! ## Partitions -/

/-- HOST_STATE.STATE (R349). -/
inductive HostSt where
  | detached | attached | orphaned
  deriving DecidableEq, Repr, Inhabited

/-- The first stop of a run (R371). -/
structure Stop where
  status : Nat
  unit   : Nat                       -- tile number or ATP number
  kind   : Nat                       -- 0 F, 1 M, 2 V, 3 S, 4 ATP
  job    : Nat := 0
  addr   : Nat := 0
  stamp  : Nat := 0
  own    : Bool := true              -- a tile or ATP stopped on its own fault (VALID)
  deriving DecidableEq, Repr

/-- A program a partition holds (R370). -/
structure Program where
  loaded : Bool := false
  tiles  : List Nat := []
  atps   : List Nat := []
  cmd    : Option (Nat × Nat) := .none  -- function and slot of the RUN
  stop   : Option Stop := .none
  deriving DecidableEq, Repr, Inhabited

/-- One partition (R28, R349 to R352, R365). -/
structure Part where
  isPresent : Bool := false
  sections : BitVec 16 := 0
  hbm      : BitVec 20 := 0          -- STACKS
  tierGib  : Tbl Nat := []
  extents  : List Nat := []          -- extent numbers in window order
  ctxQuota : Nat := 0
  policy   : Bool := false
  domain   : Nat := 0
  fabIndex : Nat := 0
  rate     : Tbl Nat := []
  burst    : Tbl Nat := []
  token    : BitVec 32 := 0
  host     : HostSt := .detached
  cause    : Nat := 0
  asleep   : Bool := false           -- MS2
  tierCtl  : BitVec 32 := 0x10140A02 -- R246
  journal  : BitVec 64 := 0          -- JOURNAL_BASE
  maqCtl   : BitVec 32 := 0          -- MAQUETTE_CTL
  jseq     : Nat := 0                -- next journal SEQ
  power    : PowerRegs := {}
  pools    : Tbl Pool := []
  programs : Tbl Program := []
  sets     : Tbl (BitVec 256) := []  -- multicast sets
  train    : Train := {}
  pages    : Tbl TierPage := []
  fills    : Nat := 0
  hints    : List (HintKind × Nat) := []
  pinRefused : Nat := 0
  dropped  : Nat := 0
  lateTotal : Nat := 0
  failedTotal : Nat := 0
  agedAt   : Nat := 0
  cleaning : Bool := false           -- cleaning has begun and has not reached its end (R243)
  written  : Nat := 0                -- tier bytes written
  wrote    : List (Nat × Nat × Nat) := []  -- commands that wrote host memory: slot, TAG, END (R424)
  colls    : List Coll := []
  deriving DecidableEq, Repr, Inhabited

/-! ## Dies, processors, power, security, sideband -/

/-- One compute die (R4, R5, R201, R460). -/
structure Die where
  coreMhz    : Nat := 600
  fwCeiling  : Option Nat := .none   -- firmware ceiling of R460
  limitMhz   : Nat := 1650           -- CORE ceiling PWR holds for POWER_LIMIT
  hot        : Bool := false         -- clamped for THERMAL
  overload   : Bool := false         -- clamped for POWER
  preClamp   : Nat := 600
  diode      : Nat := 0
  coolFrom   : Option Nat := some 0  -- since when the diode has been at or below 92 degree C (R402)
  physical   : Tbl Nat := []         -- tile name nn -> physical index + 1, 0 = its own
  absent     : List Nat := []
  badSpares  : List Nat := []
  upuLast    : Option Nat := .none   -- the partition whose job the die's update unit last ran (R27)
  upuHeld    : List (BitVec 32) := []  -- what that job left in the unit's array, registers and local buffers
  deriving DecidableEq, Repr, Inhabited

/-- A firmware image of one bank (R437); the values given are those of the image a module is made with. -/
structure Image where
  svn     : Nat := 0
  version : Nat := 0
  ifMin   : Nat := 0
  ifMax   : Nat := 65535
  digest  : BitVec 384 := 0          -- SHA-384 of image and trailer (R474)
  body    : BitVec 384 := 0          -- SHA-384 of the image alone (R467)
  deriving DecidableEq, Repr, Inhabited

/-- One Armature processor (R426, R433 to R440). The banks of processor 7 are those of all four DCTLs (R437). -/
structure Proc where
  ready     : Bool := false
  enable    : BitVec 64 := 0
  current   : Option Image := some {}
  staged    : Option Image := .none
  previous  : Option Image := .none
  armed     : Bool := false
  probation : Option Nat := .none    -- since when an activated image is on probation
  restart   : Option (Nat × Nat) := .none  -- cause (1 command, 2 watchdog, 3 activation) and start time
  resets    : List Nat := []         -- times of watchdog restarts
  watchdogs : Nat := 0
  unstable  : Bool := false
  lastReady : Nat := 0               -- when its last restart ended
  deriving DecidableEq, Repr, Inhabited

/-- An activation or restart sequence under way (R383, R440). -/
structure FwSequence where
  codes  : List Nat
  done   : Nat := 0                  -- mask of processors done
  began  : Bool := false             -- the first of `codes` is in its restart
  mode   : Nat                       -- 0 restart, 1 commanded activation, 2 armed activation
  fn     : Nat := 0
  slot   : Nat := 0
  deriving DecidableEq, Repr

/-- Module states (R445) with the times before and between them. -/
inductive ModuleState where
  | unpowered | starting | ms0 | ms3 | ms4
  deriving DecidableEq, Repr, Inhabited

/-- Power, start-up and measurement (R441, R445, R447, R460, R461). -/
structure Power where
  state      : ModuleState := .starting
  devReady   : Bool := false
  fatal      : Bool := false
  startCount : Nat := 0
  cleanNext  : Bool := false         -- the next start is clean (R441)
  cleanStart : Bool := false
  image      : Option Nat := .none   -- COMPLETE hibernation image: bytes (R453)
  regs       : PowerRegs := {}
  limitW     : BitVec 12 := 2400
  ms2Refused : Nat := 0
  ms2Aborted : Nat := 0
  thermal    : Bool := false
  overPower  : Bool := false
  clearAt    : Nat := 0              -- when the last emergency flag cleared
  mW         : Nat := 0
  mW100      : Nat := 0
  peakMw     : Nat := 0
  limitAt    : Nat := 0
  raiseAt    : Nat := 0
  inletMv    : Nat := 0
  hubTemp    : Nat := 0
  hubCool    : Option Nat := some 0  -- since when the hub diode has been at or below 92 degree C (R402)
  lowFrom    : Option Nat := some 0  -- since when inlet power has been at or below 2,200 W (R402)
  railsOver  : BitVec 32 := 0
  winFrom    : Option Nat := .none   -- time at which the matcher was armed (R456)
  wakeAgent  : Nat := 0              -- source of a wake under way (R455)
  resetting  : Option Nat := .none   -- slot of a RESET_MODULE that has ended every command (R364)
  deriving DecidableEq, Repr, Inhabited

/-- The security element (R466 to R483). -/
structure Security where
  rollback    : Nat := 0
  revoked     : BitVec 4 := 0
  vendorHash  : Tbl (BitVec 384) := []
  serviceHash : Tbl (BitVec 384) := []
  ptGen       : Tbl (BitVec 32) := []
  srkGen      : Nat := 0
  hasSrk      : Bool := false
  hibKey      : Bool := false
  moduleId    : BitVec 64 := 0
  romVersion  : BitVec 32 := 0
  cdi         : Option (BitVec 384) := .none   -- CDI_SEC of the running start (R467), none once zeroised
  coverOpen   : Bool := false
  openSince   : Bool := false        -- measurement index 12 bit [0]
  zeroised    : Bool := false        -- bit [2]: since the last start
  tripped     : Bool := false        -- a trip before start-up whose step 4 of R481 is due (R484)
  unlocked    : Option (BitVec 8) := .none
  nonce       : Option (BitVec 384 × Nat) := .none
  failures    : Nat := 0
  lockout     : Option Nat := .none
  checkFixed  : Nat := 0
  deriving DecidableEq, Repr, Inhabited

/-- Sideband outputs and the SMBus target (R490 to R495); `true` means driven low. -/
structure Sideband where
  alertLow  : Bool := false
  alertAt   : Option Nat := .none    -- time of an alert response after which ALERT_N may fall again
  thermLow  : Bool := false
  wakeLow   : Bool := false
  slotId    : BitVec 3 := 0
  answer    : BitVec 16 := 0         -- what the last read returned
  nacked    : Bool := false
  busy      : Bool := false          -- a transaction is in progress
  deriving DecidableEq, Repr, Inhabited

/-- Caliper time (R386 to R388). -/
structure Caliper where
  counter   : Nat := 0               -- in units of 2^-32 ns
  increment : Nat := 4294967296      -- per CALIPER cycle
  replicas  : Tbl Int := []          -- replica offset from the master, in ns
  lastStamp : Tbl Nat := []          -- last stamp of each stamping part
  manager   : Nat := 0               -- last manager stamp (R172)
  deriving DecidableEq, Repr, Inhabited

/-- A draining disable (R413). -/
structure Drain where
  fn    : Nat
  slot  : Nat
  tiles : List Nat
  atps  : List Nat
  name  : Nat                        -- tile or section number
  whole : Bool                       -- a section
  expiry : Nat                       -- when DRAIN_US passes
  deriving DecidableEq, Repr

/-- The module. -/
structure State where
  pending  : List Instr := []        -- commands waiting, first in, first out
  free     : Nat := 0                -- the model's own: how many free values have been drawn
  time     : Caliper := {}
  log      : Log := {}
  link     : Link := {}
  fns      : Tbl Fn := []            -- PF0-PF8
  slots    : Tbl Slot := []          -- function * 128 + slot; 64 + position for a relayed command
  parts    : Tbl Part := []          -- PT1-PT8
  tiles    : Tbl Tile := []          -- 64d + nn
  atps     : Tbl Atp := []
  signals  : List (Nat × Nat × Nat) := []  -- remote signals under way: tile, token, partition of the sender
  ctxs     : Tbl Ctx := []
  copies   : List PageCopy := []
  loose    : List (Nat × Flight) := []  -- partition and local writes or adds of stopped instructions, still to complete (R412)
  hbm      : Tbl Stack := []         -- S00-S19
  mem      : BMap := []              -- local device addresses of the stack windows, tier frames included
  blocks   : Tbl Block := []         -- address / 2048
  chisel   : List ChiselList := []
  nextList : Nat := 0
  flash    : Flash := {}
  tierReqs : List TierReq := []
  nextReq  : Nat := 0
  mgrQueue : List Owner := []                 -- commands and jobs whose manager operation waits to begin, in arrival order (R172)
  grants   : List (Owner × Nat × Bool) := []  -- tiered pages given to an owner, with whether without a frame (R238, R239)
  fabric   : Fabric := {}
  dies     : Tbl Die := []
  secClear : BitVec 16 := 0          -- sections in CLEARING
  secOut   : BitVec 16 := 0          -- sections out of service
  drains   : List Drain := []
  procs    : Tbl Proc := []
  fwSeqs   : List FwSequence := []
  staging  : List (Nat × Nat × Nat) := []  -- FW_STAGE running: processor code, function, slot
  power    : Power := {}
  sec      : Security := {}
  side     : Sideband := {}
  deriving DecidableEq, Repr, Inhabited

/-- The state right after reset: power is at the inlet and start-up (R441) has not begun; every register at its reset
value. -/
def State.reset : State := {}

/-- Reasons a step stops with a fault. No command of this module stops the machine: faults of the module are effects on
its state (R403), so no step raises one. Safe. -/
inductive Fault where
  /-- Raised by nothing. Safe: a step of this model always answers a next state. -/
  | neverRaised
  deriving DecidableEq, Repr

/-- Reasons a command is refused by the model. -/
inductive Refusal where
  /-- Raised by a dispatch arm whose command has no meaning yet. Safe: nothing is claimed about it. -/
  | notModelled (mnemonic : String)
  deriving DecidableEq, Repr

/-- The outcome of a command. -/
abbrev Out := Host.Outcome State Fault Refusal

end Sys2Proof.Machine
end

