-- ==== Sys2Proof/Machine/Ops.lean ====
section
/-! DEFINITION. The named operations over the module's state: reading and changing one unit, drawing a free value, stamping
an event, recording in the log, finishing a command, asking the host for reads and writes, and stopping work. -/

namespace Sys2Proof.Machine

open Sys2Proof

/-! ## One unit of the module -/

def State.fn (s : State) (f : Nat) : Fn := Tbl.get {} s.fns f
def State.setFn (s : State) (f : Nat) (x : Fn) : State := { s with fns := Tbl.set {} s.fns f x }
def State.modFn (s : State) (f : Nat) (g : Fn → Fn) : State := s.setFn f (g (s.fn f))

/-- The key of a slot: 32 slots of the window, then from 64 up the places of commands relayed to this member. -/
def slotKey (f n : Nat) : Nat := f * 128 + n
def State.slot (s : State) (f n : Nat) : Slot := Tbl.get {} s.slots (slotKey f n)
def State.setSlot (s : State) (f n : Nat) (x : Slot) : State := { s with slots := Tbl.set {} s.slots (slotKey f n) x }
def State.modSlot (s : State) (f n : Nat) (g : Slot → Slot) : State := s.setSlot f n (g (s.slot f n))

def State.part (s : State) (p : Nat) : Part := Tbl.get {} s.parts p
def State.setPart (s : State) (p : Nat) (x : Part) : State := { s with parts := Tbl.set {} s.parts p x }
def State.modPart (s : State) (p : Nat) (g : Part → Part) : State := s.setPart p (g (s.part p))

def State.tile (s : State) (t : Nat) : Tile := Tbl.get {} s.tiles t
def State.setTile (s : State) (t : Nat) (x : Tile) : State := { s with tiles := Tbl.set {} s.tiles t x }
def State.modTile (s : State) (t : Nat) (g : Tile → Tile) : State := s.setTile t (g (s.tile t))

def State.atp (s : State) (n : Nat) : Atp := Tbl.get {} s.atps n
def State.setAtp (s : State) (n : Nat) (x : Atp) : State := { s with atps := Tbl.set {} s.atps n x }
def State.modAtp (s : State) (n : Nat) (g : Atp → Atp) : State := s.setAtp n (g (s.atp n))

def State.ctx (s : State) (c : Nat) : Ctx := Tbl.get {} s.ctxs c
def State.setCtx (s : State) (c : Nat) (x : Ctx) : State := { s with ctxs := Tbl.set {} s.ctxs c x }

def State.stack (s : State) (k : Nat) : Stack := Tbl.get {} s.hbm k
def State.setStack (s : State) (k : Nat) (x : Stack) : State := { s with hbm := Tbl.set {} s.hbm k x }
def State.modStack (s : State) (k : Nat) (g : Stack → Stack) : State := s.setStack k (g (s.stack k))

/-- The codes of the 2 KiB block that holds a device address (R182). -/
def State.block (s : State) (a : Nat) : Block := Tbl.get {} s.blocks (a / 2048)
def State.setBlock (s : State) (a : Nat) (x : Block) : State := { s with blocks := Tbl.set {} s.blocks (a / 2048) x }

def State.die (s : State) (d : Nat) : Die := Tbl.get {} s.dies d
def State.setDie (s : State) (d : Nat) (x : Die) : State := { s with dies := Tbl.set {} s.dies d x }
def State.modDie (s : State) (d : Nat) (g : Die → Die) : State := s.setDie d (g (s.die d))

def State.proc (s : State) (c : Nat) : Proc := Tbl.get {} s.procs c
def State.setProc (s : State) (c : Nat) (x : Proc) : State := { s with procs := Tbl.set {} s.procs c x }
def State.modProc (s : State) (c : Nat) (g : Proc → Proc) : State := s.setProc c (g (s.proc c))

def State.port (s : State) (p : Nat) : Port := Tbl.get {} s.fabric.ports p
def State.setPort (s : State) (p : Nat) (x : Port) : State :=
  { s with fabric := { s.fabric with ports := Tbl.set {} s.fabric.ports p x } }
def State.modPort (s : State) (p : Nat) (g : Port → Port) : State := s.setPort p (g (s.port p))

def State.extent (s : State) (e : Nat) : Extent := Tbl.get {} s.flash.extents e
def State.setExtent (s : State) (e : Nat) (x : Extent) : State :=
  { s with flash := { s.flash with extents := Tbl.set {} s.flash.extents e x } }

/-- A tile's engine. -/
def Tile.eng (t : Tile) : Engine → EngineState
  | .F => t.f
  | .M => t.m
  | .V => t.v
  | .S => t.s

/-- Replaces a tile's engine. -/
def Tile.setEng (t : Tile) (e : Engine) (x : EngineState) : Tile :=
  match e with
  | .F => { t with f := x }
  | .M => { t with m := x }
  | .V => { t with v := x }
  | .S => { t with s := x }

/-- The ENG code of an engine (R111). -/
def engCode : Engine → Nat
  | .F => 0
  | .M => 1
  | .V => 2
  | .S => 3

/-- A command held by a slot (R332). -/
def State.cmd (s : State) (f n : Nat) : Cmd := (s.slot f n).cmd
def State.modCmd (s : State) (f n : Nat) (g : Cmd → Cmd) : State := s.modSlot f n (fun x => { x with cmd := g x.cmd })

/-- `w` bytes of a command's parameters at offset `o` (R357). -/
def Cmd.param (c : Cmd) (o w : Nat) : Nat := BMap.readLe c.packet (32 + o) w
def Cmd.opcode (c : Cmd) : Nat := BMap.readLe c.packet 0 2
def Cmd.cmdFlags (c : Cmd) : Nat := BMap.readLe c.packet 2 1
def Cmd.len (c : Cmd) : Nat := BMap.readLe c.packet 3 1
def Cmd.tag (c : Cmd) : Nat := BMap.readLe c.packet 4 4
def Cmd.flagAddr (c : Cmd) : Nat := BMap.readLe c.packet 8 8
def Cmd.deadline (c : Cmd) : Nat := BMap.readLe c.packet 16 8
def Cmd.attachToken (c : Cmd) : Nat := BMap.readLe c.packet 24 4

/-! ## Status codes (R335) -/

def stOK : Nat := 0x0000
def stPENDING : Nat := 0x0001
def stBAD_OPCODE : Nat := 0x0100
def stBAD_PARAM : Nat := 0x0101
def stNO_RESOURCE : Nat := 0x0102
def stDENIED : Nat := 0x0103
def stABORTED : Nat := 0x0200
def stTIMEOUT : Nat := 0x0201
def stHOST_LINK_LOST : Nat := 0x0202
def stORPHANED : Nat := 0x0203
def stDATA_ERROR : Nat := 0x0300
def stTIER_ERROR : Nat := 0x0301
def stTIER_TIMEOUT : Nat := 0x0302
def stEMERGENCY_ACTIVE : Nat := 0x0400
def stBUSY : Nat := 0x0401

/-! ## Free values and time -/

/-- The next free value, and the state with it drawn. -/
def State.fresh (s : State) : Nat × State := (Config.freeNat s.free, { s with free := s.free + 1 })

/-- Caliper time: the integer part of the master counter (R386). -/
def State.now (s : State) : Nat := s.time.counter / 2 ^ 32

/-- One CALIPER cycle: the master counter gains its increment, in every power state while the inlet is powered (R386). -/
def State.tick (s : State) : State :=
  if s.power.state == .unpowered then s else { s with time := { s.time with counter := s.time.counter + s.time.increment } }

/-- Parts that stamp events, and their U in ns (R388). -/
inductive Stamper where
  | hub | pcie | core (d : Nat) | noc (d : Nat) | akx (p : Nat) | flash (g : Nat) | hbmPhy (k : Nat) | mgmt
  deriving DecidableEq, Repr

/-- The number of a stamping part in `Caliper.lastStamp`. -/
def Stamper.key : Stamper → Nat
  | .hub => 0
  | .pcie => 1
  | .mgmt => 2
  | .core d => 8 + d
  | .noc d => 16 + d
  | .akx p => 24 + p
  | .flash g => 32 + g
  | .hbmPhy k => 40 + k

/-- U of R388. -/
def Stamper.u : Stamper → Nat
  | .core _ => 9
  | .noc _ => 6
  | .hub => 6
  | .pcie => 6
  | .akx _ => 5
  | .flash _ => 12
  | .hbmPhy _ => 6
  | .mgmt => 42

/-- A stamp of an event that takes place now: a free value within [t - U, t + 2], never below the part's last stamp (R388). -/
def State.stamp (s : State) (p : Stamper) : Nat × State :=
  let (r, s1) := s.fresh
  let t := s1.now
  let v := max (t - p.u + r % (p.u + 3)) (Tbl.get 0 s1.time.lastStamp p.key)
  (v, { s1 with time := { s1.time with lastStamp := Tbl.set 0 s1.time.lastStamp p.key v } })

/-! ## The log -/

/-- Module start count (R507). -/
def State.startCount (s : State) : Nat := s.power.startCount

/-- SEQ of the entry appended as number `k` since start-up (R428). -/
def State.seqOf (s : State) (k : Nat) : Nat := s.startCount % 65536 * 2 ^ 32 + k % 2 ^ 32

/-- Entries of the ring (R427). -/
def ringSize : Nat := 65536

/-- Appends an entry with its stamp and SEQ in one act; a full ring loses its oldest entry (R427). -/
def State.append (s : State) (src pt : Nat) (body : LogBody) : State :=
  let (t, s1) := s.stamp .hub
  let e : LogEntry := { stamp := t, seq := s1.seqOf s1.log.appended, src := src, pt := pt, body := body }
  let es := s1.log.entries ++ [e]
  { s1 with log := { s1.log with
      entries := if es.length > ringSize then es.drop (es.length - ringSize) else es
      appended := s1.log.appended + 1 } }

/-- Processor codes (R382). -/
def pHIF : Nat := 0
def pSEC : Nat := 1
def pPWR : Nat := 2
def pFAB : Nat := 3
def pFTL0 : Nat := 4
def pFTL1 : Nat := 5
def pMGT : Nat := 6
def pDCTL (d : Nat) : Nat := 7 + d
def pCLAMP : Nat := 0xF

/-- Records an EVENT entry (R429) for one partition, or for the module with `pt = 0`. -/
def State.event (s : State) (src pt code unitId a0 a1 a2 a3 : Nat) : State :=
  s.append src pt (.event code unitId a0 a1 a2 a3)

/-- An EVENT of the module, repeated for each partition it affects (R430). -/
def State.eventAll (s : State) (src : Nat) (pts : List Nat) (code unitId a0 a1 a2 a3 : Nat) : State :=
  forEach pts (s.event src 0 code unitId a0 a1 a2 a3) (fun p st => st.event src p code unitId a0 a1 a2 a3)

/-- The number of a stack mode in the order of R189's table (R429). -/
def modeCode : StackMode → Nat
  | .training => 0
  | .test => 1
  | .service => 2
  | .recovery => 3
  | .scrubbing => 4
  | .selfRefresh => 5
  | .failed => 6

/-- Moves a stack to another mode, for which PWR sets its mode registers, and which the log records (R179, R189, R429). -/
def State.setMode (s : State) (k : Nat) (m : StackMode) : State :=
  if (s.stack k).mode == m then s
  else (s.modStack k (fun x => { x with mode := m, modeRegs := some m })).event pPWR 0 0x0007 k (modeCode m) 0 0 0

/-- A TRACE entry when the processor's trace point is enabled (R433). -/
def State.trace (s : State) (proc point a0 a1 a2 : Nat) : State :=
  if (s.proc proc).enable.getLsbD point then s.append proc 0 (.trace point a0 a1 a2) else s

/-- Drives ALERT_N low (R495). -/
def State.alert (s : State) : State := { s with side := { s.side with alertLow := true, alertAt := none } }

/-- Containment classes (R403). -/
def cREQUEST : Nat := 1
def cPROGRAM : Nat := 2
def cSHARD : Nat := 3
def cCONTEXT : Nat := 4
def cCOLLECTIVE : Nat := 5
def cUNIT : Nat := 6
def cPARTITION : Nat := 7
def cPROCESSOR : Nat := 8
def cMODULE : Nat := 9

/-- Whether a folding window belongs to a fault's combination (R406). -/
def Fold.matchesRec (w : Fold) (r : ErrorRecord) : Bool :=
  w.cls == r.cls && w.unit == r.unit && w.unitId == r.unitId && w.status == r.status

/-- One detected fault: counted always; written unless its combination's one-second window is open (R405, R406). Records of
class UNIT and above are due a persistent copy (R432), and UNIT, PARTITION and MODULE records raise ALERT_N (R495). -/
def State.error (s : State) (src : Nat) (r : ErrorRecord) : State :=
  let s0 := { s with log := { s.log with faults := s.log.faults + 1 } }
  let openWin := s0.log.folds.find? (fun w => w.matchesRec r && s0.now < w.opened + 1000000000)
  match openWin with
  | some _ =>
    { s0 with log := { s0.log with
        folds := s0.log.folds.map (fun w => if w.matchesRec r then { w with count := w.count + 1 } else w) } }
  | none =>
    let counted := match s0.log.folds.find? (fun w => w.matchesRec r) with
      | some w => w.count
      | none => 0
    let (hw, s1) := s0.stamp .hub
    let rec' := { r with suppressed := counted, hwStamp := if r.hwStamp = 0 then hw else r.hwStamp }
    let k := s1.log.appended
    let s2 := s1.append src r.pt (.error rec')
    let w : Fold := { cls := r.cls, unit := r.unit, unitId := r.unitId, status := r.status, opened := s1.now, count := 0 }
    let s3 := { s2 with log := { s2.log with
      folds := w :: s2.log.folds.filter (fun v => !v.matchesRec r)
      toPersist := if cUNIT ≤ r.cls then s2.log.toPersist ++ [s1.seqOf k] else s2.log.toPersist } }
    if r.cls = cUNIT ∨ r.cls = cPARTITION ∨ r.cls = cMODULE then s3.alert else s3

/-! ## Partitions -/

/-- All partition numbers. -/
def allParts : List Nat := [1, 2, 3, 4, 5, 6, 7, 8]

/-- Modules of a fabric of each SHAPE (R292, R367); 0 for no fabric. -/
def shapeDims (shape : Nat) : Option (Nat × Nat × Nat) :=
  if shape = 0 then some (4, 2, 2)
  else if shape = 1 then some (4, 3, 2)
  else if shape = 2 then some (4, 4, 2)
  else if shape = 3 then some (4, 3, 3)
  else if shape = 4 then some (4, 4, 3)
  else if shape = 5 then some (4, 4, 4)
  else none

/-- N, the fabric's module count; 1 with no fabric. -/
def State.fabricN (s : State) : Nat :=
  match shapeDims s.fabric.shape with
  | some (x, y, z) => x * y * z
  | none => 1

/-- Positions whose member of a domain is present, this module's own included when a partition carries it. -/
def State.domainMembers (s : State) (dom : Nat) : List Nat := Tbl.get [] s.fabric.members dom

/-- Whether a partition's domain is active: every position has a member (R295). -/
def State.domainActive (s : State) (p : Nat) : Bool :=
  (s.part p).domain ≠ 0 && (shapeDims s.fabric.shape).isSome &&
    (List.range s.fabricN).all (fun i => i == s.fabric.position || (s.domainMembers (s.part p).domain).contains i)

/-- Whether the effective policy of a partition is Z (R60). -/
def State.policyZ (s : State) (p : Nat) : Bool :=
  (s.part p).policy || ((s.part p).domain ≠ 0 && decide (17 ≤ s.fabricN))

/-- The partition that holds a section, 0 when none. -/
def State.sectionOwner (s : State) (i : Nat) : Nat := (allParts.find? (fun p => (s.part p).sections.getLsbD i)).getD 0

/-- The partition that holds a stack, 0 when none. -/
def State.stackOwner (s : State) (k : Nat) : Nat := (allParts.find? (fun p => (s.part p).hbm.getLsbD k)).getD 0

/-- The section of a tile: 16 consecutive names each (R4, R25). -/
def sectionOf (t : Nat) : Nat := t / 16

/-- The die of a tile, of an ATP and of a stack. -/
def dieOfTile (t : Nat) : Nat := t / 64
def dieOfAtp (n : Nat) : Nat := n / 4
def dieOfStack (k : Nat) : Nat := k / 5

/-- Whether a tile name is within a partition's sections: granted, in service and present (R413). -/
def State.tileOf (s : State) (p t : Nat) : Bool :=
  t < 256 && (s.part p).sections.getLsbD (sectionOf t) && !s.secOut.getLsbD (sectionOf t) &&
    !(s.die (dieOfTile t)).absent.contains (t % 64)

/-- Whether an ATP is within a partition's sections. -/
def State.atpOf (s : State) (p n : Nat) : Bool :=
  n < 16 && (s.part p).sections.getLsbD n && !s.secOut.getLsbD n

/-- The partitions that hold a section or a stack of a die (R430). -/
def State.partsOfDie (s : State) (d : Nat) : List Nat :=
  allParts.filter (fun p =>
    (List.range 4).any (fun i => (s.part p).sections.getLsbD (4 * d + i)) ||
    (List.range 5).any (fun i => (s.part p).hbm.getLsbD (5 * d + i)))

/-- The partitions in a domain (R430). -/
def State.partsInDomain (s : State) : List Nat := allParts.filter (fun p => (s.part p).domain ≠ 0)

/-- Whether a stack of a partition is in recovery (R410). -/
def State.stackRecovers (s : State) (p : Nat) : Bool :=
  p != 0 && (List.range 20).any (fun k => (s.stack k).mode == .recovery && s.stackOwner k == p)

/-- Whether the timers of a partition (0: of PF0) are paused: HIF restarts, or FAB for a partition in a domain, or the DCTL of a
die of the partition, or a stack of the partition is in recovery (R410). -/
def State.timersHeld (s : State) (p : Nat) : Bool :=
  (s.proc pHIF).restart.isSome ||
  ((s.proc pFAB).restart.isSome && s.partsInDomain.contains p) ||
  (List.range 4).any (fun d => (s.proc (7 + d)).restart.isSome && (s.partsOfDie d).contains p) ||
  s.stackRecovers p

/-- Whether a packet of a partition's domain is being sent again by a new route (R410). -/
def State.reroutes (s : State) (dom : Nat) : Bool :=
  dom != 0 && s.fabric.unacked.any (fun u => u.packet.domain == dom && u.reroute.isSome)

/-- Every partition that exists (R430). -/
def State.partsPresent (s : State) : List Nat := allParts.filter (fun p => (s.part p).isPresent)

/-! ## Commands -/

/-- Whether a command is queued or running. -/
def Cmd.live (c : Cmd) : Bool := c.phase == .accepted || c.phase == .running

/-- The slots of the function `f` whose command satisfies `q`, as slot numbers. -/
def State.cmdsOf (s : State) (f : Nat) (q : Cmd → Bool) : List Nat :=
  s.slots.filterMap (fun e => if e.1 / 128 = f && q e.2.cmd then some (e.1 % 128) else none)

/-- Whether a function has a command queued or running, its completion included (R31, R511). -/
def State.cmdActive (s : State) (p : Nat) : Bool := !(s.cmdsOf p (fun c => c.phase != .none)).isEmpty

/-- Ends a command with a status: its work is over, END is stamped, and COMMAND_COMPLETE writes its reply (R333, R344). -/
def State.finishCmd (s : State) (f n status : Nat) : State :=
  if (s.cmd f n).live then
    let (t, s1) := s.stamp .hub
    s1.modCmd f n (fun c => { c with
      phase := .finished, status := status
      stop := max t (max c.start c.arrival) })
  else s

/-- END of a command is when its last piece of work ended (R228), not before START. -/
def State.endAt (s : State) (f n : Nat) (t : Option Nat) : State :=
  s.modCmd f n (fun c => { c with stop := (t.map (fun u => max u (max c.start c.arrival))).getD c.stop })

/-- Ends a command with OK and its result words. -/
def State.replyOk (s : State) (f n : Nat) (rs : List Nat) : State :=
  (s.modCmd f n (fun c => { c with result := rs.map (BitVec.ofNat 64) })).finishCmd f n stOK

/-- Starts a command: RUNNING, with START (R328, R333). -/
def State.startCmd (s : State) (f n : Nat) : State :=
  let (t, s1) := s.stamp .hub
  s1.modSlot f n (fun x => { x with
    state := if x.state == .queued then .running else x.state
    cmd := { x.cmd with phase := .running, start := max t x.cmd.arrival } })

/-- Whether the slot holds an accepted command with one of the given opcodes that has not started. -/
def State.accepted (s : State) (f n op : Nat) : Bool := (s.cmd f n).phase == .accepted && (s.cmd f n).opcode == op

/-- Whether the slot holds a running command with the opcode. -/
def State.inRun (s : State) (f n op : Nat) : Bool := (s.cmd f n).phase == .running && (s.cmd f n).opcode == op

/-- Sections, stacks or extents make a partition's table a grant. -/
def Part.holdsAny (p : Part) : Bool := p.sections != 0 || p.hbm != 0 || !p.extents.isEmpty

/-- A packet that this module sends, with the port that carries it (255: by the route of R297). -/
def State.send (s : State) (port : Nat) (p : Packet) : State :=
  { s with fabric := { s.fabric with outbox := s.fabric.outbox ++ [(port, p)] } }

/-! ## The host link -/

/-- Cuts `bytes` at `addr` into requests of at most `m` bytes that never cross a 4 KiB boundary (R338); `fuel` bounds their
number. -/
def cutTlps (m : Nat) : Nat → Nat → List Byte → List (Nat × List Byte)
  | 0, _, _ => []
  | fuel + 1, addr, bytes =>
    if bytes.isEmpty then []
    else
      let n := min (max m 1) (4096 - addr % 4096)
      (addr, bytes.take n) :: cutTlps m fuel (addr + n) (bytes.drop n)

/-- The same cut of a read, as address and length. -/
def cutReads (m : Nat) : Nat → Nat → Nat → List (Nat × Nat)
  | 0, _, _ => []
  | fuel + 1, addr, len =>
    if len = 0 then []
    else
      let n := min len (min (max m 1) (4096 - addr % 4096))
      (addr, n) :: cutReads m fuel (addr + n) (len - n)

/-- Whether the function may reach host memory: the link is up and Bus Master Enable is set (R29, R347, R356). -/
def State.hostOpen (s : State) (f : Nat) : Bool := s.link.up && (s.fn f).bme && (s.fn f).flrStart.isNone

/-- Changes a job of an ATP. -/
def State.modJob (s : State) (n id : Nat) (g : Job → Job) : State :=
  s.modAtp n (fun a => { a with active := a.active.map (fun j => if j.id = id then g j else j) })

/-- Counts an owner's writes and adds that are not acknowledged. -/
def State.ownWrites (s : State) (o : Owner) (up : Nat → Nat) : State :=
  match o with
  | .atp n id => s.modJob n id (fun j => { j with acks := up j.acks })
  | .command f n => s.modCmd f n (fun c => { c with writes := up c.writes })
  | .tile t e k => s.modTile t (fun x => x.setEng e { x.eng e with
      flights := (x.eng e).flights.map (fun g => if g.id = k then { g with acks := up g.acks } else g) })
  | _ => s

/-- The RUN that a tile's program belongs to. -/
def State.tileRun (s : State) (t : Nat) : Option (Nat × Nat) :=
  (s.tile t).program.bind (fun q => (Tbl.get {} (s.part q.1).programs q.2).cmd)

/-- Issues one host write of a function (R338), or the write of one nibble of a byte (R38). -/
def State.hostWrite (s : State) (f addr : Nat) (bytes : List Byte) (o : Owner) (nibble : Option Nat := none) : State :=
  let w : HostWrite :=
    { id := s.link.nextWrite, fn := f, tlps := cutTlps s.link.mps (bytes.length + 1) addr bytes, owner := o, nibble := nibble }
  let s1 := ({ s with link := { s.link with writes := s.link.writes ++ [w], nextWrite := s.link.nextWrite + 1 } }).ownWrites o (· + 1)
  match o with
  | .command g n => s1.modCmd g n (fun c => { c with wroteHost := true })
  | .tile t _ _ =>
    match s1.tileRun t with
    | some (g, n) => s1.modCmd g n (fun c => { c with wroteHost := true })
    | none => s1
  | _ => s1

/-- Changes the fetch of a replica. -/
def State.modFetch (s : State) (p i : Nat) (g : Fetch → Fetch) : State :=
  s.modPart p (fun x => { x with train := { x.train with fetches := Tbl.set none x.train.fetches i ((Tbl.get none x.train.fetches i).map g) } })

/-- Counts an owner's outstanding reads of host or remote memory; an ATP that has no such job reads a gate. -/
def State.ownReads (s : State) (o : Owner) (up : Nat → Nat) : State :=
  match o with
  | .atp n id =>
    if (s.atp n).active.any (fun j => j.id == id) then s.modJob n id (fun j => { j with waits := up j.waits })
    else s.modAtp n (fun a => { a with gateWaits := up a.gateWaits })
  | .command f n => s.modCmd f n (fun c => { c with reads := up c.reads })
  | .replica p i => s.modFetch p i (fun x => { x with waits := up x.waits })
  | .flush f n => s.modCmd f n (fun c => { c with flushes := up c.flushes })
  | .tile t e k => s.modTile t (fun x => x.setEng e { x.eng e with
      flights := (x.eng e).flights.map (fun g => if g.id = k then { g with waits := up g.waits } else g) })
  | _ => s

/-- Issues the Memory Read requests of one host read (R338); a read of no bytes is one zero-length request (R344). The bytes go
to the owner's buffer from `base` on. -/
def State.hostRead (s : State) (f addr len : Nat) (o : Owner) (base : Nat := 0) : State :=
  let cuts := if len = 0 then [(addr, 0)] else cutReads s.link.mrrs (len + 1) addr len
  forEach cuts s (fun c st =>
    let r : HostRead := { tag := st.link.nextTag, fn := f, addr := c.1, len := c.2, off := base + (c.1 - addr), owner := o, issued := st.now }
    ({ st with link := { st.link with reads := st.link.reads ++ [r], nextTag := st.link.nextTag + 1 } }).ownReads o (· + 1))

/-! ## Stopping work (R138, R163, R225, R412) -/

/-- An engine after a stop: nothing in flight, nothing held, its instruction memory kept. -/
def EngineState.halted (e : EngineState) : EngineState := { imem := e.imem, pc := e.pc, ended := e.ended, nextId := e.nextId }

/-- A tile after a stop: groups, reduction slots, tokens, rings, held slots and receipts are discarded (R78, R105, R138). -/
def Tile.halted (t : Tile) : Tile :=
  { t with running := false, stopping := none, f := t.f.halted, m := t.m.halted, v := t.v.halted, s := t.s.halted,
           tokens := [], rings := [], groups := [], masks := [], reds := [], receipts := [], blockedAt := none, gated := false }

/-- An ATP after a stop (R163): its jobs end and write nothing more. -/
def Atp.halted (a : Atp) : Atp := { a with running := false, stopping := none, active := [], gateFrom := none, gateAsked := false,
                                                gateWaits := 0, gateBuf := [], loops := [], unpins := a.unpins ++ a.active.filter (·.pinned) }

/-- Whether a request belongs to a tile or an ATP. -/
def Owner.isTile (o : Owner) (t : Nat) : Bool :=
  match o with
  | .tile u _ _ => u == t
  | _ => false
def Owner.isAtp (o : Owner) (n : Nat) : Bool :=
  match o with
  | .atp m _ => m == n
  | _ => false
def Owner.isCmd (o : Owner) (f n : Nat) : Bool :=
  match o with
  | .command g m => g == f && m == n
  | .flush g m => g == f && m == n
  | _ => false

/-- Who owns a host write once its owner has ended: a command keeps its own (R342), another's pass to `heir`. -/
def HostWrite.pass (w : HostWrite) (heir : Owner) : HostWrite :=
  match w.owner with
  | .command _ _ => w
  | _ => { w with owner := heir }

/-- Reads whose owner has ended are abandoned; its writes go on, and its tier requests go on without it (R412). -/
def State.orphanRequests (s : State) (q : Owner → Bool) (heir : Owner := .none) : State :=
  { s with
    link := { s.link with
      reads := s.link.reads.filter (fun r => !q r.owner)
      writes := s.link.writes.map (fun w => if q w.owner then w.pass heir else w) }
    tierReqs := s.tierReqs.map (fun r => if q r.owner then { r with owner := .none } else r)
    grants := s.grants.filter (fun g => !q g.1)
    mgrQueue := s.mgrQueue.filter (fun o => !q o)
    fabric := { s.fabric with unacked := s.fabric.unacked.map (fun u => if q u.owner then { u with owner := .none } else u) } }

/-- The writes and adds that F and S have issued and that wait for a stack: they complete after a stop (R225, R412). -/
def Tile.looseWrites (x : Tile) : List Flight :=
  (x.f.flights ++ x.s.flights).filter (fun f => !f.ran && f.waits == 0 && (!f.out.isEmpty || !f.halves.isEmpty))

/-- Stops one tile at once. Its host writes pass to the RUN, whose flag waits for them (R342). -/
def State.stopTile (s : State) (t : Nat) : State :=
  if (s.tile t).running then
    let p := (((s.tile t).program).map (·.1)).getD 0
    let s1 := { s with loose := s.loose ++ (s.tile t).looseWrites.map (fun f => (p, f)) }
    match s1.tileRun t with
    | some (f, n) =>
      let k := (s1.link.writes.filter (fun w => w.owner.isTile t)).length
      ((s1.modTile t Tile.halted).orphanRequests (fun o => o.isTile t) (.command f n)).modCmd f n (fun c => { c with writes := c.writes + k })
    | none => (s1.modTile t Tile.halted).orphanRequests (fun o => o.isTile t)
  else s

/-- An APPEND that ends no longer runs on its context (R165). -/
def State.endAppend (s : State) (j : Job) : State :=
  if j.appends then s.setCtx j.ctxNum { s.ctx j.ctxNum with appending := false } else s

/-- Stops one ATP at once. -/
def State.stopAtp (s : State) (n : Nat) : State :=
  if (s.atp n).running then
    ((forEach (s.atp n).active s (fun j st => st.endAppend j)).modAtp n Atp.halted).orphanRequests (fun o => o.isAtp n)
  else s

/-- A program of a partition. -/
def State.program (s : State) (p g : Nat) : Program := Tbl.get {} (s.part p).programs g
def State.setProgram (s : State) (p g : Nat) (x : Program) : State :=
  s.modPart p (fun y => { y with programs := Tbl.set {} y.programs g x })

/-- Whether a program still has a running tile or ATP. -/
def State.programRunning (s : State) (p g : Nat) : Bool :=
  (s.program p g).cmd.isSome

/-- A trace point of the DCTL of each die that holds tiles of a program, with the number of them (R433). -/
def State.traceDies (s : State) (q : Program) (point a0 : Nat) (a1 : Nat → Nat) : State :=
  forEach ((List.range 4).filter (fun d => q.tiles.any (fun t => dieOfTile t == d))) s (fun d st =>
    st.trace (pDCTL d) point a0 (a1 (q.tiles.filter (fun t => dieOfTile t == d)).length) 0)

/-- Notes a program's first stop (R371): an earlier one stands. -/
def State.noteStop (s : State) (p g : Nat) (x : Stop) : State :=
  let q := s.program p g
  if q.stop.isSome then s else (s.setProgram p g { q with stop := some x }).traceDies q 10 g (fun _ => x.status)

/-- The result words of a RUN (R371): flags over the partition's tiles and ATPs, steps every tile passed, and the first stop. -/
def State.runResults (s : State) (p g : Nat) : List Nat :=
  let q := s.program p g
  let flags := ((List.range 256).filter (fun t => (s.part p).sections.getLsbD (sectionOf t))).foldl (fun f t => f ||| (s.tile t).flags) (0 : BitVec 6) |||
    ((List.range 16).filter (fun n => (s.part p).sections.getLsbD n)).foldl (fun f n => f ||| (s.atp n).flags) (0 : BitVec 6)
  let steps := (q.tiles.map (fun t => (s.tile t).steps)).foldl (fun (m : Option Nat) x => some (min (m.getD x) x)) none
  (flags.toNat + (steps.getD 0) % 2 ^ 32 * 2 ^ 32) ::
  (match q.stop with
  | some x => if x.own then [x.unit % 256 + x.kind * 256 + 2048 + x.job % 1024 * 65536, x.addr, x.stamp] else [0, 0, x.stamp]
  | none => [0, 0, 0])

/-- Stops every tile and ATP of a program at once, with the status of the stop (R361 step 1, R337). -/
def State.stopProgram (s : State) (p g status : Nat) : State :=
  let q := s.program p g
  if q.cmd.isSome then
    let s1 := forEach q.tiles s (fun t st => st.stopTile t)
    let s2 := forEach q.atps s1 (fun n st => st.stopAtp n)
    s2.noteStop p g { status := status, unit := 0, kind := 0, stamp := s.now, own := false }
  else s

/-- Stops the other tiles at their next step boundary and the ATPs when their current job ends, or at once when they have none, a
wait on a gate included (R30, R138, R163). -/
def State.stopAtBoundary (s : State) (p g status : Nat) : State :=
  let q := s.program p g
  let s1 := forEach q.tiles s (fun t st =>
    st.modTile t (fun x => if x.running && x.stopping.isNone then { x with stopping := some status } else x))
  forEach q.atps s1 (fun n st =>
    let a := st.atp n
    if !a.running then st
    else if a.active.isEmpty then st.stopAtp n
    else st.setAtp n { a with stopping := some (a.stopping.getD status) })

/-- A tile's own fault (R30, R77, R104, R137, R188, with `ofStore` R407): an error entry that names the tile, the engine and what
the rules have it name of the fault, the tile stops, the run ends with `status`, and the program's other tiles stop at their
next step boundary. R405 gives DETAIL a meaning for a fault of memory alone; for any other fault it is a free value. -/
def State.tileFault (s : State) (t : Nat) (e : Engine) (status addr : Nat) (detail : Option Nat := none) (ofStore : Bool := false)
    (names : Option FaultName := none) : State :=
  match (s.tile t).program with
  | none => s.stopTile t
  | some (p, g) =>
    let (w, s0) := s.stamp (.core (dieOfTile t))
    let (r, s1) := s0.fresh
    let cmd := (s1.program p g).cmd
    let cls := if ofStore ∨ status = stBAD_PARAM ∨ status = stDENIED ∨ status = stTIMEOUT then cPROGRAM else cREQUEST
    let s2 := s1.error (pDCTL (dieOfTile t)) {
      status := status, cls := cls, unit := if ofStore then 14 else engCode e, unitId := t, pt := p, addr := addr
      detail := detail.getD (r % 2 ^ 64), hwStamp := w, names := names
      fn := (cmd.map (·.1)).getD 0xFF, slot := (cmd.map (·.2)).getD 0xFF
      tag := (cmd.map (fun c => (s1.cmd c.1 c.2).tag)).getD 0 }
    let s3 := s2.noteStop p g { status := status, unit := t, kind := engCode e, addr := addr, stamp := w }
    (s3.stopTile t).stopAtBoundary p g status

/-- A group fault of the matrix engine (R77), a vector fault (R104) and a tile fault (R137): BAD_PARAM. -/
def State.groupFault (s : State) (t g : Nat) (f : GroupFault) : State := s.tileFault t .M stBAD_PARAM 0 none false (some (.group g f))
def State.vectorFault (s : State) (t : Nat) (f : VectorFault) : State := s.tileFault t .V stBAD_PARAM 0 none false (some (.vector f))
def State.programFault (s : State) (t : Nat) (e : Engine) (f : TileFault) : State :=
  s.tileFault t e stBAD_PARAM 0 none false (some (.program f))

/-- An ATP's own fault (R162). -/
def State.atpFault (s : State) (n job status addr : Nat) (detail : Nat := job) : State :=
  match (s.atp n).program with
  | none => s.stopAtp n
  | some (p, g) =>
    let (w, s1) := s.stamp (.core (dieOfAtp n))
    let cmd := (s1.program p g).cmd
    let cls := if status = stBAD_PARAM ∨ status = stDENIED ∨ status = stTIMEOUT then cPROGRAM else cREQUEST
    let s2 := s1.error (pDCTL (dieOfAtp n)) {
      status := status, cls := cls, unit := 4, unitId := n, pt := p, addr := addr, detail := detail, hwStamp := w,
      fn := (cmd.map (·.1)).getD 0xFF, slot := (cmd.map (·.2)).getD 0xFF,
      tag := (cmd.map (fun c => (s1.cmd c.1 c.2).tag)).getD 0 }
    let s3 := s2.noteStop p g { status := status, unit := n, kind := 4, job := job, addr := addr, stamp := w }
    (s3.stopAtp n).stopAtBoundary p g status

/-- Delivers bytes that an owner has asked for, and counts the read as answered. -/
def State.arrive (s : State) (o : Owner) (off : Nat) (bytes : List Byte) : State :=
  let s1 : State := match o with
    | .command f n => s.modCmd f n (fun c => { c with buf := BMap.writeBytes c.buf off bytes })
    | .replica p i => s.modFetch p i (fun x => { x with buf := BMap.writeBytes x.buf off bytes })
    | .tile t e k => s.modTile t (fun x => x.setEng e { x.eng e with
        flights := (x.eng e).flights.map (fun g => if g.id = k then { g with buf := BMap.writeBytes g.buf off bytes } else g) })
    | .atp n id =>
      if (s.atp n).active.any (fun j => j.id == id) then s.modJob n id (fun j => { j with buf := BMap.writeBytes j.buf off bytes })
      else s.modAtp n (fun a => { a with gateBuf := BMap.writeBytes a.gateBuf off bytes })
    | _ => s
  s1.ownReads o (· - 1)

/-- The result words of a collective (R379). -/
def Coll.results (x : Coll) (here : Nat) : List Nat :=
  [x.flags.toNat + 256 * x.fallback.toNat + 512 * x.kept.toNat + 65536 * (x.brkPos % 256), x.brkStamp, x.sent,
   ((List.range x.moves.length).filter (fun i =>
     ((x.moves.getD i default).dst == here) && (Tbl.get 0 x.moved i == (x.moves.getD i default).bytes))).length]

/-- Takes collectives off this member: their result words go to their commands, and what they still have under way is no
longer theirs. -/
def State.endColl (s : State) (p : Nat) (q : Coll → Bool) : State :=
  let gone := (s.part p).colls.filter q
  let s1 := forEach gone s (fun x st =>
    (st.modCmd x.fn x.slot (fun c => { c with result := (x.results st.fabric.position).map (BitVec.ofNat 64) })).orphanRequests
      (fun o => match o with
        | .collective a b => a == p && b == x.seq
        | _ => false))
  s1.modPart p (fun y => { y with colls := y.colls.filter (fun x => !q x) })

/-- Ends a collective of this member with a status. -/
def State.failColl (s : State) (p seq status : Nat) : State :=
  match (s.part p).colls.find? (fun x => x.seq == seq) with
  | none => s
  | some x => (s.endColl p (fun y => y.seq == seq)).finishCmd x.fn x.slot status

/-- Ends an owner whose read, write or add has failed: an apply faults when its phase next runs (R285), a packet of another module
is answered with the status. -/
def State.failOwner (s : State) (o : Owner) (status addr : Nat) : State :=
  match o with
  | .apply p i => s.modPart p (fun x => { x with train := { x.train with
      applies := x.train.applies.map (fun a => if a.shard = i ∧ a.failed = 0 then { a with failed := status, failedAt := addr } else a) } })
  | .replica p i => s.modFetch p i (fun x => { x with failed := if x.failed = 0 then status else x.failed })
  | .remote k => { s with fabric := { s.fabric with refused := s.fabric.refused ++ [(k, status)] } }
  | .command f n => s.modCmd f n (fun c => { c with failed := if c.failed = 0 then status else c.failed })
  | .tile t e _ => s.tileFault t e status addr
  | .atp n id => s.atpFault n (((s.atp n).active.find? (fun j => j.id == id)).map (·.record) |>.getD (s.atp n).pc) status addr
  | .collective p seq =>
    match (s.part p).colls.find? (fun x => x.seq == seq) with
    | some x => (s.error pFAB { status := status, cls := cCOLLECTIVE, unit := 9, unitId := 0xFF, pt := p, addr := addr, fn := x.fn, slot := x.slot,
                                tag := (s.cmd x.fn x.slot).tag }).failColl p seq status
    | none => s
  | _ => s

/-- Stops the records of a command's own Chisel list (R225). -/
def State.stopChisel (s : State) (q : ChiselList → Bool) : State := { s with chisel := s.chisel.filter (fun l => !q l) }

/-- The opcodes of R357 that a stop must know. -/
def opNOP : Nat := 0x0001
def opHALT : Nat := 0x0010
def opATTACH : Nat := 0x0011
def opRESET_PARTITION : Nat := 0x0012
def opRESET_MODULE : Nat := 0x0013
def opPART_SET : Nat := 0x0100
def opFAB_CONFIG : Nat := 0x0101
def opTILE_DISABLE : Nat := 0x0102
def opSECTION_DISABLE : Nat := 0x0103
def opLOAD_PROGRAM : Nat := 0x0200
def opRUN : Nat := 0x0201
def opCHISEL_RUN : Nat := 0x0202
def opTRAIN_SETUP : Nat := 0x0300
def opSTEP_FENCE : Nat := 0x0301
def opMAQUETTE : Nat := 0x0302
def opCTX_POOL : Nat := 0x0400
def opCTX_OPEN : Nat := 0x0401
def opCTX_FORK : Nat := 0x0402
def opCTX_TRUNCATE : Nat := 0x0403
def opCTX_FREE : Nat := 0x0404
def opCTX_QUERY : Nat := 0x0405
def opTIER_HINT : Nat := 0x0500
def opTIER_STATUS : Nat := 0x0501
def opCOLLECTIVE : Nat := 0x0600
def opGET_SURVEY : Nat := 0x0700
def opLOG_READ : Nat := 0x0701
def opTRACE_SET : Nat := 0x0702
def opFW_STAGE : Nat := 0x0800
def opFW_ACTIVATE : Nat := 0x0801
def opFW_RESTART : Nat := 0x0802

/-- Takes a loaded program off every tile and ATP that holds it. -/
def State.unload (s : State) (p g : Nat) : State :=
  let q := s.program p g
  let s1 := forEach q.tiles s (fun t st => st.modTile t (fun x => { x with program := none }))
  let s2 := forEach q.atps s1 (fun n st => st.modAtp n (fun x => { x with program := none }))
  s2.setProgram p g {}

/-- The words of a STEP_FENCE reply (R374). -/
def fenceWords (t : Train) (w : FenceWait) (stall step : Nat) : List Nat :=
  [stall, (match t.lastDone with | some i => i % 65536 + 65536 | none => 0) + step % 2 ^ 32 * 2 ^ 32, t.finished % 2 ^ 32 + t.skipped % 2 ^ 32 * 2 ^ 32,
   t.faulted % 2 ^ 32 + (match t.firstBad with
     | some i => i % 65536 * 2 ^ 32 + 2 ^ 48
     | none => if w.error ≠ 0 then w.shard % 65536 * 2 ^ 32 + 2 ^ 48 else 0)]

/-- The stall of a fence that ends now (R280). -/
def FenceWait.stall (w : FenceWait) (now : Nat) : Nat := w.met.getD now - w.since

/-- A partition's fence and its fetches are over. -/
def State.closeFence (s : State) (p : Nat) (g : Train → Train) : State :=
  (s.modPart p (fun x => { x with train := g { x.train with fence := none, fetches := [] } })).orphanRequests (fun o => match o with
    | .replica q _ => q == p
    | _ => false)

/-- A fence is stopped with the words of its reply. Its wait counts with that of the fence that resumes it (R280). -/
def State.stopFence (s : State) (f n : Nat) : State :=
  match (s.part f).train.fence with
  | none => s
  | some w =>
    if w.fn ≠ f ∨ w.slot ≠ n then s
    else
      let t := (s.part f).train
      ((s.closeFence f (fun x => { x with waited := x.waited + w.stall s.now })).modCmd f n (fun c =>
        { c with result := (fenceWords t w (w.stall s.now) t.step).map (BitVec.ofNat 64) }))

/-- Stops one command's own work as a HALT does (R337, R361 step 1) and ends it with a status. -/
def State.stopCommand (s : State) (f n status : Nat) : State :=
  let c := s.cmd f n
  if !c.live then s
  else
    let s1 :=
      if c.opcode = opRUN ∧ c.phase = .running then s.stopProgram f (c.param 0 1) status
      else if c.opcode = opLOAD_PROGRAM ∧ c.phase = .running ∧ c.stage ≥ 1 then s.unload f (c.param 0 1)
      else if c.opcode = opCHISEL_RUN then s.stopChisel (fun l => l.fn == f && l.slot == n)
      else if c.opcode = opCOLLECTIVE then s.endColl f (fun x => x.fn == f && x.slot == n)
      else if c.opcode = opSTEP_FENCE then s.stopFence f n
      else s
    let s1 := { s1 with
      drains := s1.drains.filter (fun d => d.fn != f || d.slot != n)
      staging := s1.staging.filter (fun x => x.2 != (f, n))
      fwSeqs := s1.fwSeqs.filter (fun q => q.mode == 2 || q.fn != f || q.slot != n) }
    let s2 := s1.orphanRequests (fun o => o.isCmd f n)
    let s3 := if c.opcode = opRUN ∧ c.phase = .running then
        let q := s2.program f (c.param 0 1)
        (s2.modCmd f n (fun x => { x with result := (s2.runResults f (c.param 0 1)).map (BitVec.ofNat 64) })).setProgram f (c.param 0 1) { q with cmd := none }
      else s2
    (s3.finishCmd f n status).endAt f n (if c.opcode = opCHISEL_RUN then (s.chisel.find? (fun l => l.fn == f && l.slot == n)).bind (·.lastEnd) else none)

/-- Ends commands of a function one after the other; the count of those ended is the list's length. -/
def State.stopCommands (s : State) (f : Nat) (ns : List Nat) (status : Nat) : State :=
  forEach ns s (fun n st => st.stopCommand f n status)

/-- Whether the deadline of a command is paused (R410): also while MGT or SEC restarts, for the commands that wait on it. -/
def State.deadlineHeld (s : State) (f op : Nat) : Bool :=
  s.timersHeld f || (f != 0 && s.reroutes (s.part f).domain) ||
  ((s.proc pMGT).restart.isSome && (op == opGET_SURVEY || op == opLOG_READ || op == opTRACE_SET)) ||
  ((s.proc pSEC).restart.isSome && op == opFW_STAGE)

/-- Adds a pause to the deadlines of a function's commands. -/
def State.pauseDeadlines (s : State) (f d : Nat) : State :=
  { s with slots := s.slots.map (fun e =>
      if e.1 / 128 = f ∧ e.2.cmd.live then (e.1, { e.2 with cmd := { e.2.cmd with paused := e.2.cmd.paused + d } }) else e) }

end Sys2Proof.Machine
end

