-- ==== Sys2Proof/Machine/Fabric.lean ====
section
/-! DEFINITION. Sending over the fabric (R292, R293, R296 to R298): coordinates, neighbours, the way a packet takes, packets
with their stamps, and requests with their end-to-end sequence numbers. -/

namespace Sys2Proof.Machine

open Sys2Proof

/-! ## Geometry -/

/-- Coordinates of a position in a torus 4 x Y x Z, and the position of coordinates (R293). -/
def coordsOf (y pos : Nat) : Nat × Nat × Nat := (pos % 4, pos / 4 % y, pos / (4 * y))
def posAt (y : Nat) (c : Nat × Nat × Nat) : Nat := c.1 + 4 * (c.2.1 + y * c.2.2)

/-- Extents of this module's fabric; (1, 1, 1) with no fabric. -/
def State.dims (s : State) : Nat × Nat × Nat := (shapeDims s.fabric.shape).getD (1, 1, 1)

/-- Extent and coordinate along dimension 0, 1 or 2. -/
def along (d : Nat) (c : Nat × Nat × Nat) : Nat := if d = 0 then c.1 else if d = 1 then c.2.1 else c.2.2

/-- Coordinates moved by `n` steps forward along a dimension. -/
def moveBy (dims : Nat × Nat × Nat) (d n : Nat) (c : Nat × Nat × Nat) : Nat × Nat × Nat :=
  if d = 0 then ((c.1 + n) % dims.1, c.2) else if d = 1 then (c.1, (c.2.1 + n) % dims.2.1, c.2.2) else (c.1, c.2.1, (c.2.2 + n) % dims.2.2)

/-- This module's coordinates. -/
def State.here (s : State) : Nat × Nat × Nat := coordsOf s.dims.2.1 s.fabric.position

/-- The position a port joins (R293). -/
def State.neighbour (s : State) (q : Nat) : Nat :=
  let m := s.dims
  let c := s.here
  let plus := fun d => posAt m.2.1 (moveBy m d 1 c)
  let minus := fun d => posAt m.2.1 (moveBy m d (along d m - 1) c)
  if q = 0 then minus 0 else if q = 1 then plus 0 else if q = 2 then minus 1 else if q = 3 then plus 1
  else if q = 4 then minus 2 else if q = 5 then plus 2
  else if s.fabricN ≤ 32 then (if q = 6 then minus 0 else plus 0)
  else if q = 6 then posAt m.2.1 (moveBy m 0 (m.1 - 1) (moveBy m 1 (m.2.1 - 1) (moveBy m 2 (m.2.2 - 1) c)))
  else posAt m.2.1 (moveBy m 0 1 (moveBy m 1 1 (moveBy m 2 1 c)))

/-- The partner's port (R293). -/
def partnerPort (q : Nat) : Nat := if q % 2 = 0 then q + 1 else q - 1

/-- Whether a port carries traffic. -/
def State.portUp (s : State) (q : Nat) : Bool := (s.port q).state == .up || (s.port q).state == .degraded

/-- The ports that step along a dimension toward a target, best first; none when the coordinates agree (R297). -/
def State.portsToward (s : State) (d dst : Nat) : List Nat :=
  let m := s.dims
  let n := along d m
  let k := (along d (coordsOf m.2.1 dst) + n - along d s.here) % n
  if k = 0 then []
  else
    let forward := decide (2 * k ≤ n)
    let own := if forward then 2 * d + 1 else 2 * d
    let second := if d = 0 ∧ s.fabricN ≤ 32 then [if forward then 7 else 6] else []
    [own] ++ second ++ (if n = 2 then [partnerPort own] else [])

/-- The orders of R297, in the order they are tried. -/
def routeOrders : List (List Nat) := [[0, 1, 2], [1, 0, 2], [0, 2, 1], [2, 0, 1], [1, 2, 0], [2, 1, 0]]

/-- The port a packet leaves by (R297): the first order whose first hop is up, then a detour. This module sees its own links
only, so the links further on count as up. None: unreachable. -/
def State.routePort (s : State) (dst : Nat) : Option Nat :=
  let first := fun (o : List Nat) => ((o.map (fun d => s.portsToward d dst)).find? (fun ps => !ps.isEmpty)).bind (fun ps => ps.find? s.portUp)
  match routeOrders.findSome? first with
  | some q => some q
  | none => if 32 < s.fabricN then [7, 6].find? s.portUp else none

/-! ## Packets -/

/-- The 24 bytes of a packet's header (R296). -/
def packetHeader (k : Packet) : List Byte :=
  BMap.readBytes (fieldBytes [(0, 1, k.type), (1, 1, k.cls % 4 + 4 * k.bchk.toNat + 8 * k.stale.toNat), (2, 2, k.domain), (4, 1, k.src),
    (5, 1, k.dst), (6, 2, k.low.toNat), (8, 1, k.epoch.toNat), (9, 1, ceilDiv k.payload.length 32), (10, 4, k.seq), (14, 2, k.tag.toNat),
    (16, 8, k.addr)]) 0 24

/-- A packet as its link carries it: header, payload in whole 32-byte units, the block's check when it has one, link CRC (R296). -/
def packetWire (k : Packet) (check : Nat) : List Byte :=
  let body := packetHeader k ++ k.payload ++ List.replicate (32 * ceilDiv k.payload.length 32 - k.payload.length) 0 ++ (if k.bchk then natLe check 4 else [])
  body ++ natLe (crc32c body) 4

/-- A packet's way out: its port, or 255 when no route reaches the target. -/
def State.dispatch (s : State) (k : Packet) : State := s.send ((s.routePort k.dst).getD 255) k

/-- The waiting packet that a link sends next (R300): one of class 0, then of class 1, before the others; of classes 2 and 3, when both
wait, seven of class 2 to one of class 3; within a class the domains take turns, each domain's packets in their order. -/
def State.nextPacket (s : State) (q : Nat) : Option Packet :=
  let ps := (s.fabric.outbox.filter (fun e => e.1 == q)).map (·.2)
  let has := fun c => ps.any (fun k => k.cls == c)
  let c := if has 0 then 0 else if has 1 then 1 else if has 2 && !(has 3 && decide (7 ≤ (s.port q).share)) then 2 else 3
  let doms := (ps.filter (fun k => k.cls == c)).map (·.domain)
  let last := Tbl.get 0 (s.port q).turns c
  let least := fun (xs : List Nat) => xs.foldl (fun (m : Option Nat) d => some (min (m.getD d) d)) none
  ((least (doms.filter (fun d => decide (last < d)))).or (least doms)).bind (fun d => ps.find? (fun k => k.cls == c && k.domain == d))

/-- A link that is up sends its next packet whole; a class-3 packet, or a class-2 packet with none of class 3 waiting, begins the count of
the share again. -/
def State.sendNext (s : State) (q : Nat) : State :=
  match s.nextPacket q with
  | none => s
  | some k =>
    if !s.portUp q then s
    else
      let both := k.cls == 2 && s.fabric.outbox.any (fun e => e.1 == q && e.2.cls == 3)
      ({ s with fabric := { s.fabric with outbox := s.fabric.outbox.erase (q, k), sent := s.fabric.sent ++ [(q, k)] } }).modPort q (fun x =>
        { x with share := if both then x.share + 1 else if k.cls < 2 then x.share else 0, turns := Tbl.set 0 x.turns k.cls k.domain })

/-- Counts the codewords that a link's FEC has corrected in a cycle, a free number (R290). -/
def State.countFec (s : State) (q : Nat) : State :=
  if !s.portUp q then s
  else
    let (r, s1) := s.fresh
    s1.modPort q (fun x => { x with corrected := min (2 ^ 32 - 1) (x.corrected + r % 2 ^ 16) })

/-- Longest non-preemptible section of a processor in ns (R396). -/
def sectionNs (c : Nat) : Nat :=
  (if 7 ≤ c then 25 else if c = pPWR then 10 else if c = pFAB then 15 else if c = pFTL0 ∨ c = pFTL1 then 30 else 20) * 1000

/-- Trace points that processors pass by the clock: NP_MAX once a second, a free value within R396, and PWR's SAMPLE every 10 ms (R433).
`t` is the time before the cycle. -/
def State.clockTraces (s : State) (t : Nat) : State :=
  let up := fun c => (s.proc c).ready && (s.proc c).restart.isNone
  let s1 := if t / 1000000000 = s.now / 1000000000 then s
    else forEach ((List.range 11).filter up) s (fun c st => (st.fresh.2).trace c 4 (st.fresh.1 % (sectionNs c + 1)) 0 0)
  if t / 10000000 = s.now / 10000000 ∨ !up pPWR then s1 else s1.trace pPWR 10 s.power.mW s.power.inletMv 0

/-- A cycle in which no command waits: time goes on, and each link sends a packet (DESIGN CHOICE, assumption 1). -/
def State.idle (s : State) : State :=
  if s.power.state == .unpowered then s
  else forEach (List.range 8) (s.tick.clockTraces s.now) (fun q st => (st.sendNext q).countFec q)

/-- A packet of this module with the stamp of its sending (R296, R390). -/
def State.packet (s : State) (type cls dom dst addr : Nat) (payload : List Byte) : Packet × State :=
  let (t, s1) := s.stamp (.akx 0)
  ({ type := type, cls := cls, bchk := false, stale := false, domain := dom, src := s.fabric.position, dst := dst
     low := BitVec.ofNat 16 t, epoch := BitVec.ofNat 8 (t / 65536), seq := 0, tag := 0, addr := addr, payload := payload, bchkOk := true }, s1)

/-- The packet types of R296. -/
def pkREAD : Nat := 1
def pkREAD_DATA : Nat := 2
def pkWRITE : Nat := 3
def pkACK : Nat := 4
def pkADD : Nat := 5
def pkCHAIN : Nat := 6
def pkPARTIAL : Nat := 7
def pkCOPY : Nat := 8
def pkNOTICE : Nat := 9
def pkSYNC : Nat := 10
def pkCAPS : Nat := 11

/-- Sends a packet that is acknowledged end to end: the next E2E_SEQ of its target and class, and a place among the
unacknowledged (R298). Its tag is the request's. -/
def State.request (s : State) (k : Packet) (o : Owner) (verify : Bool := false) : State :=
  let key := k.dst * 4 + k.cls
  let n := Tbl.get 0 s.fabric.txSeq key
  let id := s.fabric.nextId
  let k1 := { k with seq := n, tag := if k.tag = 0 then BitVec.ofNat 16 id else k.tag }
  let u : Unacked := { id := id, packet := k1, owner := o, first := s.now, last := s.now, verify := verify }
  ({ s with fabric := { s.fabric with
      txSeq := Tbl.set 0 s.fabric.txSeq key ((n + 1) % 2 ^ 32), unacked := s.fabric.unacked ++ [u], nextId := id + 1 } }).dispatch k1

/-- Cuts a run of bytes at the multiples of 2,048 (R296: at most 2,048 B of payload), as address and length. -/
def cutBlocks : Nat → Nat → Nat → List (Nat × Nat)
  | 0, _, _ => []
  | fuel + 1, a, n => if n = 0 then [] else let m := min n (2048 - a % 2048); (a, m) :: cutBlocks fuel (a + m) (n - m)

/-- Remote reads of a run, one READ a block. -/
def State.remoteRead (s : State) (dom pos a n : Nat) (o : Owner) (verify : Bool) : State :=
  forEach (cutBlocks (n / 2048 + 2) a n) s (fun c st =>
    let (k, s1) := st.packet pkREAD 2 dom pos c.1 []
    (s1.request { k with want := c.2 } o verify).ownReads o (· + 1))

/-- Remote writes of a run, or of one nibble of a byte (R38). -/
def State.remoteWrite (s : State) (dom pos a : Nat) (bytes : List Byte) (o : Owner) (nibble : Option Nat := none) : State :=
  forEach (cutBlocks (bytes.length / 2048 + 2) a bytes.length) s (fun c st =>
    let (k, s1) := st.packet pkWRITE 2 dom pos c.1 ((bytes.drop (c.1 - a)).take c.2)
    (s1.request { k with nibble := nibble } o).ownWrites o (· + 1))

/-- Remote memory-side adds of a run, or the adds of an accumulate-write (R223). -/
def State.remoteAdd (s : State) (dom pos a addfmt : Nat) (bytes : List Byte) (o : Owner) (acc : Bool := false) : State :=
  forEach (cutBlocks (bytes.length / 2048 + 2) a bytes.length) s (fun c st =>
    let (k, s1) := st.packet pkADD 2 dom pos c.1 ((bytes.drop (c.1 - a)).take c.2)
    (s1.request { k with addfmt := addfmt, acc := acc } o).ownWrites o (· + 1))

end Sys2Proof.Machine
end

