-- ==== Sys2Proof/Machine/Num.lean ====
section
/-! DEFINITION. The module's number formats (R34 to R42), exact arithmetic on their values, and the roundings and
conversions of R47 to R53. Every operation is computed exactly on decoded values and rounded once at its end. -/

namespace Sys2Proof.Machine

open Sys2Proof

/-- The exact value of a floating datum: NaN, an infinity, or (-1)^neg * m * 2^e (a zero keeps its sign). -/
inductive Val where
  | nan
  | inf (neg : Bool)
  | fin (neg : Bool) (m : Nat) (e : Int)
  deriving DecidableEq, Repr, Inhabited

/-- A floating format: exponent bits and fraction bits (R37). -/
structure FloatFmt where
  eb : Nat
  fb : Nat
  deriving DecidableEq, Repr

def fBF16 : FloatFmt := ⟨8, 7⟩
def fFP16 : FloatFmt := ⟨5, 10⟩
def fFP32 : FloatFmt := ⟨8, 23⟩
def fFP64 : FloatFmt := ⟨11, 52⟩

/-- Rounding modes (R47). -/
inductive Rnd where
  | rne | rtz | sr
  deriving DecidableEq, Repr, Inhabited

/-- The RND field (R47); 0b11 is reserved. -/
def rndOf (c : Nat) : Option Rnd :=
  if c = 0 then some .rne else if c = 1 then some .rtz else if c = 2 then some .sr else none

/-- The numeric status flags of R57 as bits. -/
def fINVALID : BitVec 6 := 1
def fOVERFLOW : BitVec 6 := 2
def fUNDERFLOW : BitVec 6 := 4
def fSATURATE : BitVec 6 := 8
def fNANBLOCK : BitVec 6 := 16
def fHISTLOST : BitVec 6 := 32

/-- A numeric result: bits, flags raised, and the rounding LFSR afterwards. -/
structure Num where
  val   : Nat
  flags : BitVec 6 := 0
  lfsr  : BitVec 32 := 1
  deriving DecidableEq, Repr, Inhabited

/-- One step of the rounding LFSR (R49). -/
def lfsrStep (st : BitVec 32) : BitVec 32 :=
  if st.getLsbD 0 then (st >>> 1) ^^^ 0x80200003#32 else st >>> 1

/-- Rounds m * 2^e to a multiple of 2^q and gives the multiplier; SR draws once when the value is off the grid (R48). -/
def roundAt (mode : Rnd) (lfsr : BitVec 32) (m : Nat) (e q : Int) : Nat × BitVec 32 :=
  if q ≤ e then (m * 2 ^ (e - q).toNat, lfsr)
  else
    let sh := (q - e).toNat
    let t := m / 2 ^ sh
    let r := m % 2 ^ sh
    if r = 0 then (t, lfsr)
    else match mode with
      | .rtz => (t, lfsr)
      | .rne => (if 2 * r > 2 ^ sh ∨ (2 * r = 2 ^ sh ∧ t % 2 = 1) then t + 1 else t, lfsr)
      | .sr =>
        let next := lfsrStep lfsr
        let d := r * 65536 / 2 ^ sh
        (if d + next.toNat % 65536 ≥ 65536 then t + 1 else t, next)

/-- The exponent of the leading bit of m * 2^e. -/
def topExp (m : Nat) (e : Int) : Int := (Nat.log2 m : Int) + e

/-- The canonical quiet NaN of a floating format (R39). -/
def qnan (f : FloatFmt) : Nat := (2 ^ f.eb - 1) * 2 ^ f.fb + 2 ^ (f.fb - 1)

/-- Bits of an infinity. -/
def infBits (f : FloatFmt) (neg : Bool) : Nat := (if neg then 2 ^ (f.eb + f.fb) else 0) + (2 ^ f.eb - 1) * 2 ^ f.fb

/-- Decodes a floating datum (R37); subnormals are kept as they are. -/
def decodeFloat (f : FloatFmt) (w : Nat) : Val :=
  let neg := bit w (f.eb + f.fb)
  let ex := w / 2 ^ f.fb % 2 ^ f.eb
  let fr := w % 2 ^ f.fb
  let bias : Int := 2 ^ (f.eb - 1) - 1
  if ex = 2 ^ f.eb - 1 then (if fr = 0 then .inf neg else .nan)
  else if ex = 0 then .fin neg fr (1 - bias - f.fb)
  else .fin neg (2 ^ f.fb + fr) (ex - bias - f.fb)

/-- Rounds an exact value into a floating format (R50): overflow gives infinity, or under RTZ the largest finite value. -/
def encodeFloat (f : FloatFmt) (mode : Rnd) (lfsr : BitVec 32) : Val → Num
  | .nan => ⟨qnan f, 0, lfsr⟩
  | .inf neg => ⟨infBits f neg, 0, lfsr⟩
  | .fin neg m e =>
    let sign := if neg then 2 ^ (f.eb + f.fb) else 0
    if m = 0 then ⟨sign, 0, lfsr⟩
    else
      let bias : Int := 2 ^ (f.eb - 1) - 1
      let low : Int := 1 - bias - f.fb
      let q := max (topExp m e - f.fb) low
      let (n, lfsr') := roundAt mode lfsr m e q
      let w := (q - low).toNat * 2 ^ f.fb + n
      let top := (2 ^ f.eb - 1) * 2 ^ f.fb
      if w ≥ top then
        match mode with
        | .rtz => ⟨sign + (top - 1), fOVERFLOW, lfsr'⟩
        | _ => ⟨sign + top, fOVERFLOW, lfsr'⟩
      else ⟨sign + w, 0, lfsr'⟩

/-- Decodes an ACC48 word (R40): bits [63:48] are ignored. -/
def decodeAcc (w : Nat) : Val :=
  let neg := bit w 47
  let ex := bits w 46 38
  let fr := bits w 37 0
  if ex = 0 then .fin neg 0 0
  else if ex = 0x1FF then (if fr = 0 then .inf neg else .nan)
  else .fin neg (2 ^ 38 + fr) ((ex : Int) - 255 - 38)

/-- Rounds an exact value to ACC48, to nearest even (R41): no subnormals, overflow to infinity. -/
def encodeAcc : Val → Num
  | .nan => { val := 0x7FE000000000 }
  | .inf neg => { val := (if neg then 2 ^ 47 else 0) + 0x1FF * 2 ^ 38 }
  | .fin neg m e =>
    let sign := if neg then 2 ^ 47 else 0
    if m = 0 then { val := sign }
    else
      let q := topExp m e - 38
      let n := (roundAt .rne 1 m e q).1
      let ex := q + 38 + 255
      let w := ex * 2 ^ 38 + ((n : Int) - 2 ^ 38)
      if w < 2 ^ 38 then { val := sign, flags := fUNDERFLOW }
      else if w ≥ 0x1FF * 2 ^ 38 then { val := sign + 0x1FF * 2 ^ 38, flags := fOVERFLOW }
      else { val := sign + w.toNat }

/-- Whether a value is NaN. -/
def Val.isNan : Val → Bool
  | .nan => true
  | _ => false

/-- Whether a value is neither NaN nor infinite. -/
def Val.isFinite : Val → Bool
  | .fin _ _ _ => true
  | _ => false

/-- Whether a value is a zero of either sign. -/
def Val.isZero : Val → Bool
  | .fin _ m _ => m = 0
  | _ => false

/-- The negated value. -/
def Val.neg : Val → Val
  | .nan => .nan
  | .inf n => .inf (!n)
  | .fin n m e => .fin (!n) m e

/-- The absolute value. -/
def Val.abs : Val → Val
  | .nan => .nan
  | .inf _ => .inf false
  | .fin _ m e => .fin false m e

/-- A value scaled by 2^k exactly. -/
def Val.scale (v : Val) (k : Int) : Val :=
  match v with
  | .fin n m e => .fin n m (e + k)
  | other => other

/-- The exact integer as a value; zero is +0. -/
def Val.ofInt (i : Int) : Val := .fin (i < 0) i.natAbs 0

/-- The signed integer s with value s * 2^q, for a q at or below the value's exponent. -/
def alignTo (neg : Bool) (m : Nat) (e q : Int) : Int :=
  let v : Int := m * 2 ^ (e - q).toNat
  if neg then -v else v

/-- The exact sum, with INVALID for infinities of opposite sign; exact cancellation gives +0 and -0 + -0 is -0 (R58). -/
def Val.add : Val → Val → Val × BitVec 6
  | .nan, _ => (.nan, 0)
  | _, .nan => (.nan, 0)
  | .inf a, .inf b => if a = b then (.inf a, 0) else (.nan, fINVALID)
  | .inf a, _ => (.inf a, 0)
  | _, .inf b => (.inf b, 0)
  | .fin a m e, .fin b n d =>
    if m = 0 ∧ n = 0 then (.fin (a && b) 0 0, 0)
    else if m = 0 then (.fin b n d, 0)
    else if n = 0 then (.fin a m e, 0)
    else
      let q := min e d
      let t := alignTo a m e q + alignTo b n d q
      (.fin (t < 0) t.natAbs q, 0)

/-- The exact product, with INVALID for zero times infinity. -/
def Val.mul : Val → Val → Val × BitVec 6
  | .nan, _ => (.nan, 0)
  | _, .nan => (.nan, 0)
  | .inf a, .inf b => (.inf (a != b), 0)
  | .inf a, .fin b n _ => if n = 0 then (.nan, fINVALID) else (.inf (a != b), 0)
  | .fin a m _, .inf b => if m = 0 then (.nan, fINVALID) else (.inf (a != b), 0)
  | .fin a m e, .fin b n d => (.fin (a != b) (m * n) (e + d), 0)

/-- x * y + z exactly (the fused operation of R93); a NaN among the three operands raises nothing (R57). -/
def Val.fma (x y z : Val) : Val × BitVec 6 :=
  if x.isNan || y.isNan || z.isNan then (.nan, 0)
  else
    let (p, f) := Val.mul x y
    if p.isNan then (.nan, f) else Val.add p z

/-- Order of two values that are not NaN: -1, 0 or 1 as x is below, equal to or above y; the zeros are equal. -/
def Val.cmp : Val → Val → Int
  | .inf a, .inf b => if a = b then 0 else if a then -1 else 1
  | .inf a, _ => if a then -1 else 1
  | _, .inf b => if b then 1 else -1
  | .fin a m e, .fin b n d =>
    let q := min e d
    (alignTo a m e q - alignTo b n d q).sign
  | _, _ => 0

/-- MAX of R58: NaN if either is NaN, and MAX(-0, +0) is +0. -/
def Val.max (x y : Val) : Val :=
  if x.isNan || y.isNan then .nan
  else match Val.cmp x y with
    | .negSucc _ => y
    | .ofNat 0 => (match x with | .fin true 0 _ => y | _ => x)
    | .ofNat (_ + 1) => x

/-- MIN of R58: NaN if either is NaN, and MIN(-0, +0) is -0. -/
def Val.min (x y : Val) : Val :=
  if x.isNan || y.isNan then .nan
  else match Val.cmp x y with
    | .negSucc _ => x
    | .ofNat 0 => (match y with | .fin true 0 _ => y | _ => x)
    | .ofNat (_ + 1) => y

/-- The integer square root, digit by digit. -/
def isqrtAux (n : Nat) : Nat → Nat → Nat
  | 0, r => r
  | k + 1, r => if (r + 2 ^ k) * (r + 2 ^ k) ≤ n then isqrtAux n k (r + 2 ^ k) else isqrtAux n k r

/-- floor(sqrt n). -/
def isqrt (n : Nat) : Nat := isqrtAux n (Nat.log2 n / 2 + 1) 0

/-- A quotient of magnitudes with 70 or more significant bits and a sticky last bit, so that it rounds as the exact one. -/
def quotient (m n : Nat) (e : Int) : Nat × Int :=
  let sh := 72 + Nat.log2 n
  let t := m * 2 ^ sh
  (2 * (t / n) + (if t % n = 0 then 0 else 1), e - sh - 1)

/-- x / y for rounding, with the IEEE special cases. -/
def Val.div : Val → Val → Val × BitVec 6
  | .nan, _ => (.nan, 0)
  | _, .nan => (.nan, 0)
  | .inf _, .inf _ => (.nan, fINVALID)
  | .inf a, .fin b _ _ => (.inf (a != b), 0)
  | .fin a _ _, .inf b => (.fin (a != b) 0 0, 0)
  | .fin a m e, .fin b n d =>
    if n = 0 then (if m = 0 then (.nan, fINVALID) else (.inf (a != b), 0))
    else if m = 0 then (.fin (a != b) 0 0, 0)
    else
      let (q, k) := quotient m n (e - d)
      (.fin (a != b) q k, 0)

/-- The square root for rounding: an even exponent, 140 extra bits and a sticky last bit. -/
def Val.sqrt : Val → Val × BitVec 6
  | .nan => (.nan, 0)
  | .inf neg => if neg then (.nan, fINVALID) else (.inf false, 0)
  | .fin neg m e =>
    if m = 0 then (.fin neg 0 0, 0)
    else if neg then (.nan, fINVALID)
    else
      let (m', e') := if e % 2 = 0 then (m, e) else (2 * m, e - 1)
      let n := m' * 2 ^ 140
      let r := isqrt n
      (.fin false (2 * r + (if r * r = n then 0 else 1)) (e' / 2 - 71), 0)

/-! ## FP32 operations, one rounding each -/

/-- FP32 value of bits. -/
def f32 (w : Nat) : Val := decodeFloat fFP32 w

/-- Rounds to FP32 under RNE, keeping the flags of the exact operation. -/
def toF32 (r : Val × BitVec 6) : Num :=
  let n := encodeFloat fFP32 .rne 1 r.1
  { n with flags := n.flags ||| r.2 }

/-- FP32 sum, product and fused multiply-add on bits, RNE (R93). -/
def f32Add (x y : Nat) : Num := toF32 (Val.add (f32 x) (f32 y))
def f32Sub (x y : Nat) : Num := toF32 (Val.add (f32 x) (f32 y).neg)
def f32Mul (x y : Nat) : Num := toF32 (Val.mul (f32 x) (f32 y))
def f32Fma (x y z : Nat) : Num := toF32 (Val.fma (f32 x) (f32 y) (f32 z))

/-- FP64 sum on bits, RNE. -/
def f64Add (x y : Nat) : Num :=
  let r := Val.add (decodeFloat fFP64 x) (decodeFloat fFP64 y)
  let n := encodeFloat fFP64 .rne 1 r.1
  { n with flags := n.flags ||| r.2 }

/-- ACC48 sum on bits (R41). -/
def accAdd (x y : Nat) : Num :=
  let r := Val.add (decodeAcc x) (decodeAcc y)
  let n := encodeAcc r.1
  { n with flags := n.flags ||| r.2 }

/-- An FP32 constant given by its exact value, rounded once. -/
def f32Of (v : Val) : Nat := (encodeFloat fFP32 .rne 1 v).val

/-! ## Special functions (R98) -/

/-- FP32 bits as a number that orders as the values do, NaN apart. -/
def f32Key (w : Nat) : Int := if w < 2 ^ 31 then w else -((w - 2 ^ 31 : Nat) : Int)

/-- The FP32 bits with a given order number. -/
def f32OfKey (k : Int) : Nat := if 0 ≤ k then k.toNat else 2 ^ 31 + k.natAbs

/-- A free FP32 value held between two bounds, by order number. -/
def heldBetween (lo hi : Int) (w : Nat) : Nat := f32OfKey (max lo (min hi (f32Key w)))

/-- The floor of a finite value. -/
def Val.floor : Val → Int
  | .fin neg m e =>
    let n : Int := if neg then -(m : Int) else m
    if 0 ≤ e then n * 2 ^ e.toNat else Int.fdiv n (2 ^ (-e).toNat)
  | _ => 0

/-- The least and the greatest FP32 value, by order number, within 2 ulp of a positive value, an ulp being one step of the
binade that holds the value. -/
def within2Ulp (m : Nat) (e : Int) : Int × Int :=
  let step := max (topExp m e - 23) (-149)
  let two : Val := .fin false 1 (step + 1)
  let hi := (Val.add (.fin false m e) two).1
  let top := if Val.cmp (.fin false 1 128) hi ≤ 0 then infBits fFP32 false else (encodeFloat fFP32 .rtz 1 hi).val
  let low := match (Val.add (.fin false m e) two.neg).1 with
    | .fin false n d =>
      let r := (encodeFloat fFP32 .rtz 1 (.fin false n d)).val
      if Val.cmp (f32 r) (.fin false n d) = 0 then r else r + 1
    | _ => 0
  (f32Key low, f32Key top)

/-- A free FP32 value held within 2 ulp of an exact value (R98, R149). -/
def near2Ulp (v : Val) (w : Nat) : Nat :=
  match v with
  | .fin neg m e =>
    if m = 0 then heldBetween (-2) 2 w
    else
      let b := within2Ulp m e
      if neg then heldBetween (-b.2) (-b.1) w else heldBetween b.1 b.2 w
  | _ => qnan fFP32

/-- Terms of a series in steps of 2^-128: term number k + 1 is term number k times y / (a k), signs alternating where `alt`. -/
def seriesSum (alt : Bool) (y : Nat) (a : Nat → Nat) : Nat → Nat → Int → Int
  | 0, _, _ => 0
  | n + 1, k, t => t + seriesSum alt y a n (k + 1) ((if alt then -t else t) * y / (2 ^ 128 * a k : Nat))

/-- ln 2 and 2 pi in steps of 2^-128. -/
def ln2Fix : Nat := 235865763225513294137944142764154484399
def twoPiFix : Nat := 2138057168129933495719360746323741566601

/-- 2^x of a finite value, to more than 100 bits. -/
def Val.exp2 (v : Val) : Val :=
  match v with
  | .fin neg m e =>
    let k := v.floor
    let sh := (-e).toNat
    let r := m % 2 ^ sh
    let f := if neg && r != 0 then 2 ^ sh - r else r
    .fin false (seriesSum false (f * ln2Fix / 2 ^ sh) (fun i => i + 1) 40 0 (2 ^ 128)).toNat (k - 128)
  | x => x

/-- The first `n` fraction bits of log2 of z / 2^127, for z in [2^127, 2^128), each as the square of what is left shows it. -/
def log2Bits : Nat → Nat → Nat → Nat
  | 0, _, acc => acc
  | n + 1, z, acc =>
    let q := z * z / 2 ^ 127
    if 2 ^ 128 ≤ q then log2Bits n (q / 2) (2 * acc + 1) else log2Bits n q (2 * acc)

/-- log2 of a positive value m * 2^e, to 80 fraction bits. -/
def log2Val (m : Nat) (e : Int) : Val :=
  let l := topExp m e * 2 ^ 80 + (log2Bits 80 (m * 2 ^ (127 - Nat.log2 m)) 0 : Nat)
  .fin (l < 0) l.natAbs (-80)

/-- Cosine and sine of 2 pi n / 2^q for an angle up to an eighth of a turn, to more than 100 bits of the value. -/
def smallTurn (n q : Nat) : Val × Val :=
  let x := n * twoPiFix / 2 ^ q
  let y := x * x / 2 ^ 128
  let c := seriesSum true y (fun i => (2 * i + 1) * (2 * i + 2)) 20 0 (2 ^ 128)
  let s := seriesSum true y (fun i => (2 * i + 2) * (2 * i + 3)) 20 0 (2 ^ 128)
  (.fin false c.toNat (-128), .fin false (n * twoPiFix * s.toNat) (-(q : Int) - 256))

/-- Cosine and sine of 2 pi t for a value t with |t| < 1. -/
def Val.turn : Val → Val × Val
  | .fin neg m e =>
    let q := (-e).toNat + 3
    let n := m * 2 ^ (e + q).toNat
    let o := n / 2 ^ (q - 3) % 8          -- eighth of the turn
    let r := n % 2 ^ (q - 2)              -- what is left over the last quarter
    let (c, s) := if o % 2 = 0 then smallTurn r q else ((smallTurn (2 ^ (q - 2) - r) q).2, (smallTurn (2 ^ (q - 2) - r) q).1)
    let (c', s') := if o / 2 = 0 then (c, s) else if o / 2 = 1 then (s.neg, c) else if o / 2 = 2 then (c.neg, s.neg) else (s, c.neg)
    (c', if neg then s'.neg else s')
  | x => (x, x)

/-- Whether a finite value is an integer. -/
def Val.isInt : Val → Bool
  | .fin _ m e => 0 ≤ e || m % 2 ^ (-e).toNat = 0
  | _ => false

/-- FP32 bits of 2^k, subnormal ones included, for -149 <= k <= 127. -/
def pow2Bits (k : Int) : Nat := f32Of (.fin false 1 k)

/-- EXP2 (R98): exact for integers, else a free value within 2 ulp of 2^x. -/
def fExp2 (w : Nat) : Num :=
  match f32 w with
  | .nan => { val := qnan fFP32 }
  | .inf neg => { val := if neg then 0 else infBits fFP32 false }
  | v@(.fin neg m _) =>
    let k := v.floor
    if m = 0 then { val := pow2Bits 0 }
    else if !neg && k ≥ 128 then { val := infBits fFP32 false, flags := fOVERFLOW }
    else if neg && (k < -150 || (k = -150 && !v.isInt)) && k < -150 then { val := 0 }
    else if v.isInt && -149 ≤ k && k ≤ 127 then { val := pow2Bits k }
    else
      let r := near2Ulp v.exp2 (Config.exp2 (BitVec.ofNat 32 w)).toNat
      { val := r, flags := if r = infBits fFP32 false then fOVERFLOW else 0 }

/-- LOG2 (R98): exact for powers of two, else a free value within 2 ulp of log2 x. -/
def fLog2 (w : Nat) : Num :=
  match f32 w with
  | .nan => { val := qnan fFP32 }
  | .inf neg => if neg then { val := qnan fFP32, flags := fINVALID } else { val := infBits fFP32 false }
  | .fin neg m e =>
    if m = 0 then { val := infBits fFP32 true }
    else if neg then { val := qnan fFP32, flags := fINVALID }
    else
      let k := topExp m e
      if m = 2 ^ Nat.log2 m then { val := f32Of (Val.ofInt k) }
      else { val := near2Ulp (log2Val m e) (Config.log2 (BitVec.ofNat 32 w)).toNat }

/-- One of the two FP32 neighbours of an inexact result, or the result when it is exact (within 1 ulp, R98). -/
def neighbour (up : Bool) (v : Val) : Num :=
  let down := encodeFloat fFP32 .rtz 1 v
  let near := encodeFloat fFP32 .rne 1 v
  let exact := match v with
    | .fin _ m e => match decodeFloat fFP32 down.val with
      | .fin _ n d => decide (Val.cmp (.fin false m e) (.fin false n d) = 0)
      | _ => false
    | _ => true
  if exact then { val := down.val }
  else if up then { val := down.val + 1, flags := near.flags } else { val := down.val, flags := down.flags }

/-- RCP (R98). -/
def fRcp (w : Nat) : Num :=
  match f32 w with
  | .nan => { val := qnan fFP32 }
  | .inf neg => { val := if neg then 2 ^ 31 else 0 }
  | .fin neg m e =>
    if m = 0 then { val := infBits fFP32 neg }
    else neighbour (Config.rcpUp (BitVec.ofNat 32 w)) (Val.div (.fin false 1 0) (.fin neg m e)).1

/-- RSQRT (R98). -/
def fRsqrt (w : Nat) : Num :=
  match f32 w with
  | .nan => { val := qnan fFP32 }
  | .inf neg => if neg then { val := qnan fFP32, flags := fINVALID } else { val := 0 }
  | .fin neg m e =>
    if m = 0 then { val := infBits fFP32 neg }
    else if neg then { val := qnan fFP32, flags := fINVALID }
    else neighbour (Config.rsqrtUp (BitVec.ofNat 32 w)) (Val.div (.fin false 1 0) (Val.sqrt (.fin false m e)).1).1

/-- FP32 to S32 under a rounding mode (R50, R57): NaN gives 0 and INVALID, limits clamp with SATURATE. -/
def toS32 (mode : Rnd) (w : Nat) : Num :=
  match f32 w with
  | .nan => { val := 0, flags := fINVALID }
  | .inf neg => { val := if neg then 0x80000000 else 0x7FFFFFFF, flags := fSATURATE }
  | .fin neg m e =>
    let n := (roundAt mode 1 m e 0).1
    let i : Int := if neg then -(n : Int) else n
    if i < -(2 ^ 31) then { val := 0x80000000, flags := fSATURATE }
    else if i > 2 ^ 31 - 1 then { val := 0x7FFFFFFF, flags := fSATURATE }
    else { val := unsigned 32 i }

/-- The integer that RTZ gives, clamped between two limits; infinities give the limits. -/
def rtzClamp (v : Val) (lo hi : Int) : Int :=
  match v with
  | .nan => 0
  | .inf neg => if neg then lo else hi
  | .fin neg m e =>
    let n := (roundAt .rtz 1 m e 0).1
    let i : Int := if neg then -(n : Int) else n
    max lo (min hi i)

/-! ## Format codes (R34) -/

/-- Bits per stored element (R34). -/
def fmtBits (fmt : Nat) : Nat :=
  if fmt = 2 ∨ fmt = 3 ∨ fmt = 0xB then 4
  else if fmt = 0 ∨ fmt = 1 ∨ fmt = 0xA then 8
  else if fmt = 4 ∨ fmt = 5 then 16
  else if fmt = 6 ∨ fmt = 7 then 32
  else 64

/-- Formats with a block scale (R34, R36). -/
def fmtScaled (fmt : Nat) : Bool := fmt ≤ 3 || fmt = 0xA || fmt = 0xB

/-- Elements per block for a BS code (R43). -/
def blockLen (bs : Nat) : Nat := 16 * 2 ^ bs

/-- The integer of an element of an integer format (R34). -/
def elemInt (fmt w : Nat) : Int :=
  if fmt = 0 ∨ fmt = 0xA then signed 8 w
  else if fmt = 1 then (w % 256 : Nat)
  else if fmt = 2 ∨ fmt = 0xB then signed 4 w
  else if fmt = 3 then (w % 16 : Nat)
  else signed 32 w

/-- The value of a block-scaled element (R42). -/
def scaledVal (fmt w e8 : Nat) : Val :=
  if e8 = 0xFF then .nan
  else if e8 = 0 then .fin false 0 0
  else (Val.ofInt (elemInt fmt w)).scale ((e8 : Int) - 127)

/-- The exact value of an element in any format; `e8` is its block's scale. -/
def elemVal (fmt w e8 : Nat) : Val :=
  if fmtScaled fmt then scaledVal fmt w e8
  else if fmt = 4 then decodeFloat fBF16 w
  else if fmt = 5 then decodeFloat fFP16 w
  else if fmt = 6 then decodeFloat fFP32 w
  else if fmt = 8 then decodeAcc w
  else if fmt = 9 then decodeFloat fFP64 w
  else Val.ofInt (signed 32 w)

/-- Rounds an exact value into an unscaled floating format code (R50). -/
def toFmt (fmt : Nat) (mode : Rnd) (lfsr : BitVec 32) (v : Val) : Num :=
  if fmt = 4 then encodeFloat fBF16 mode lfsr v
  else if fmt = 5 then encodeFloat fFP16 mode lfsr v
  else if fmt = 6 then encodeFloat fFP32 mode lfsr v
  else if fmt = 8 then { encodeAcc v with lfsr := lfsr }
  else encodeFloat fFP64 mode lfsr v

/-- The sign bit position of a floating format code. -/
def signBit (fmt : Nat) : Nat := if fmt = 4 ∨ fmt = 5 then 15 else if fmt = 6 then 31 else if fmt = 8 then 47 else 63

/-- Policy Z on a value that leaves an engine: -0 becomes +0 (R59). -/
def policyWrite (z : Bool) (fmt w : Nat) : Nat :=
  if z && (fmt = 4 || fmt = 5 || fmt = 6 || fmt = 8 || fmt = 9) && w = 2 ^ signBit fmt then 0 else w

/-! ## Block conversion (R51) -/

/-- QMAX of a block-scaled format (R51). -/
def qmax (fmt : Nat) : Nat := if fmt = 0 ∨ fmt = 0xA then 127 else if fmt = 1 then 255 else if fmt = 2 ∨ fmt = 0xB then 7 else 15

/-- QMIN of a block-scaled format (R51). -/
def qmin (fmt : Nat) : Int := if fmt = 1 ∨ fmt = 3 then 0 else -(qmax fmt : Int)

/-- The largest magnitude of a list of finite values. -/
def maxAbs (xs : List Val) : Val := xs.foldl (fun a x => if Val.cmp a x.abs < 0 then x.abs else a) (.fin false 0 0)

/-- The smallest e in 1..254 with a <= limit * 2^(e - 127), or 254 (R51, R54). -/
def leastScale (a : Val) (limit : Val) : Nat :=
  match findFrom (fun e => decide (Val.cmp a (limit.scale ((e : Int) - 127)) ≤ 0)) 1 254 with
  | some e => e
  | none => 254

/-- A converted block: elements as bit fields, the scale byte, flags and the LFSR (R51). -/
structure BlockOut where
  q     : List Nat
  e8    : Nat
  flags : BitVec 6 := 0
  lfsr  : BitVec 32 := 1
  deriving DecidableEq, Repr

/-- Rounds and clamps the elements of a block at scale e (R51). -/
def quantise (fmt e : Nat) (mode : Rnd) : List Val → BitVec 32 → List Int × BitVec 6 × BitVec 32
  | [], l => ([], 0, l)
  | x :: xs, l =>
    match x with
    | .fin neg m d =>
      let (n, l') := roundAt mode l m (d + 127 - e) 0
      let v : Int := if neg then -(n : Int) else n
      let c := max (qmin fmt) (min (qmax fmt : Int) v)
      let (rest, f, l'') := quantise fmt e mode xs l'
      (c :: rest, f ||| (if c = v then 0 else fSATURATE), l'')
    | _ =>
      let (rest, f, l'') := quantise fmt e mode xs l
      (0 :: rest, f, l'')

/-- Converts one block (R51); `hist` is E_hist when the mode is HISTORY and the history is usable. -/
def convertBlock (fmt : Nat) (mode : Rnd) (hist : Option Nat) (xs : List Val) (lfsr : BitVec 32) : BlockOut :=
  if xs.any (fun x => !x.isFinite) then ⟨xs.map (fun _ => 0), 0xFF, fNANBLOCK, lfsr⟩
  else
    let a := maxAbs xs
    if a.isZero then ⟨xs.map (fun _ => 0), 0, 0, lfsr⟩
    else
      let e := match hist with
        | some h => h
        | none => leastScale a (Val.ofInt (qmax fmt))
      let (q, f, l) := quantise fmt e mode xs lfsr
      let w := q.map (fun i => unsigned (fmtBits fmt) i)
      if q.all (fun i => i == 0) then ⟨w, 0, f ||| fUNDERFLOW, l⟩ else ⟨w, e, f, l⟩

/-! ## Pairwise sums -/

/-- One round of a pairwise tree: adjacent pairs added, an odd last element kept. -/
def pairUp (add : Nat → Nat → Num) : List Nat → List Nat × BitVec 6
  | a :: b :: rest =>
    let s := add a b
    let (r, f) := pairUp add rest
    (s.val :: r, s.flags ||| f)
  | xs => (xs, 0)

/-- The pairwise tree of a list whose length is a power of two (R68, R101); `fuel` rounds. -/
def pairTree (add : Nat → Nat → Num) : Nat → List Nat → Nat × BitVec 6
  | 0, xs => (xs.headD 0, 0)
  | k + 1, xs =>
    let (ys, f) := pairUp add xs
    let (r, g) := pairTree add k ys
    (r, f ||| g)

/-- A list padded to a length with a value. -/
def padTo (n : Nat) (d : Nat) (xs : List Nat) : List Nat := xs ++ List.replicate (n - xs.length) d

/-- A ladder: the occupied levels by number (R69). -/
abbrev Levels := Tbl (Option Nat)

/-- Inserts an entry (R69): `fuel` is the spill exponent n; the carry out of level n - 1 is returned. -/
def ladderInsert (add : Nat → Nat → Num) : Nat → Nat → Levels → Nat → Levels × Option Nat × BitVec 6
  | 0, _, lv, x => (lv, some x, 0)
  | k + 1, i, lv, x =>
    match Tbl.get none lv i with
    | none => (Tbl.set none lv i (some x), none, 0)
    | some y =>
      let s := add y x
      let (lv', c, f) := ladderInsert add k (i + 1) (Tbl.set none lv i none) s.val
      (lv', c, s.flags ||| f)

/-- Sums the occupied levels in ascending order (R75): none when all are empty. -/
def ladderClose (add : Nat → Nat → Num) (lv : Levels) : Option Nat × BitVec 6 :=
  (List.range 16).foldl (fun acc i =>
    match Tbl.get none lv i with
    | none => acc
    | some y => match acc.1 with
      | none => (some y, acc.2)
      | some x => let s := add y x; (some s.val, acc.2 ||| s.flags)) (none, 0)

/-- The pairwise ladder sum of a list of entries, spills added sequentially (R69 with n = 16, R75, R101, R103). -/
def ladderSum (add : Nat → Nat → Num) (xs : List Nat) : Option Nat × BitVec 6 :=
  let step := fun (acc : Levels × Option Nat × BitVec 6) (x : Nat) =>
    let (lv, sp, f) := acc
    let (lv', c, g) := ladderInsert add 16 0 lv x
    match c with
    | none => (lv', sp, f ||| g)
    | some y => match sp with
      | none => (lv', some y, f ||| g)
      | some z => let s := add z y; (lv', some s.val, f ||| g ||| s.flags)
  let (lv, sp, f) := xs.foldl step ([], none, 0)
  let (a, g) := ladderClose add lv
  match sp, a with
  | none, r => (r, f ||| g)
  | some z, none => (some z, f ||| g)
  | some z, some y => let s := add z y; (some s.val, f ||| g ||| s.flags)

end Sys2Proof.Machine
end

