-- ==== Sys2Proof/Machine/Mem.lean ====
section
/-! DEFINITION. The address map (R19 to R24), the access check (R29), the block procedure (R184 to R188), where the current
copy of a tiered byte lies (R235 to R239), and the named operations that read, write and add into device memory. -/

namespace Sys2Proof.Machine

open Sys2Proof

/-! ## Addresses -/

/-- First address of the tiered window (R20). -/
def tierBase : Nat := 2 ^ 47
/-- A stack window (R20). -/
def windowBytes : Nat := 72 * 2 ^ 30
def pageSize : Nat := 2 ^ 21
def unitSize : Nat := 65536
def extentSize : Nat := 2 ^ 36
def blockSize : Nat := 2048

/-- The worlds of an engine address (R19). -/
inductive EAddr where
  | dev (a : Nat)
  | remote (index a : Nat)
  | host (a : Nat)
  | invalid
  deriving DecidableEq, Repr

/-- Decodes an engine address (R19). -/
def engineAddr (w : Nat) : EAddr :=
  if bit w 63 then .host (w % 2 ^ 63)
  else if bit w 62 then (if bits w 61 54 = 0 then .remote (bits w 53 48) (bits w 47 0) else .invalid)
  else if bits w 61 48 = 0 then .dev (bits w 47 0)
  else .invalid

/-- Splits `[a, a + bytes.length)` at the multiples of `g`. -/
def chunks (g : Nat) : Nat → Nat → List Byte → List (Nat × List Byte)
  | 0, _, _ => []
  | fuel + 1, a, bytes =>
    if bytes.isEmpty then []
    else
      let n := g - a % g
      (a, bytes.take n) :: chunks g fuel (a + n) (bytes.drop n)

/-- Splits `[a, a + n)` at the multiples of `g`, as address and length. -/
def spans (g : Nat) : Nat → Nat → Nat → List (Nat × Nat)
  | 0, _, _ => []
  | fuel + 1, a, n =>
    if n = 0 then []
    else
      let m := min n (g - a % g)
      (a, m) :: spans g fuel (a + m) (n - m)

/-- Pieces of a byte string by unit, page or block. -/
def chunksOf (g a : Nat) (bytes : List Byte) : List (Nat × List Byte) := chunks g (bytes.length / g + 2) a bytes
def spansOf (g a n : Nat) : List (Nat × Nat) := spans g (n / g + 2) a n

/-- TIER_GIB of a granted stack (R24). -/
def Part.gib (p : Part) (k : Nat) : Nat := Tbl.get 0 p.tierGib k

/-- Whether `[a, a + n)` lies in a granted stack window below its tier share (R24, R29). -/
def Part.inWindow (p : Part) (a n : Nat) : Bool :=
  let k := a / 2 ^ 37
  k < 20 && p.hbm.getLsbD k && decide (a % 2 ^ 37 + n ≤ (72 - p.gib k) * 2 ^ 30)

/-- Whether `[a, a + n)` lies in the usable tiered window (R23). -/
def Part.inTier (p : Part) (a n : Nat) : Bool :=
  decide (tierBase ≤ a) && decide (a + n ≤ tierBase + p.extents.length * extentSize)

/-- Whether a local access is within the partition table (R29). -/
def State.within (s : State) (p a n : Nat) : Bool := (s.part p).inWindow a n || (s.part p).inTier a n

/-- Whether an address lies in the tiered window (R20). -/
def isTiered (a : Nat) : Bool := decide (tierBase ≤ a) && decide (a < tierBase + 2 ^ 45)

/-! ## Tier frames -/

/-- The offset of an address within the tier, whose addresses lie in [2^47, 2^48). -/
def tierOff (a : Nat) : Nat := a % tierBase
def pageOf (a : Nat) : Nat := tierOff a / pageSize
def unitOf (a : Nat) : Nat := tierOff a % pageSize / unitSize

def State.page (s : State) (p g : Nat) : TierPage := Tbl.get {} (s.part p).pages g
def State.setPage (s : State) (p g : Nat) (x : TierPage) : State :=
  s.modPart p (fun y => { y with pages := Tbl.set {} y.pages g x })

/-- The stacks granted to a partition, ascending. -/
def Part.stackList (p : Part) : List Nat := (List.range 20).filter (fun k => p.hbm.getLsbD k)

/-- Frames of a partition: 512 in each GiB of its tier shares (R235). -/
def Part.frameCount (p : Part) : Nat := (p.stackList.map (fun k => 512 * p.gib k)).foldl (· + ·) 0

/-- The stack-window address of frame `f`, frames numbered by ascending stack and offset (R235). -/
def frameAddrIn (p : Part) : List Nat → Nat → Option Nat
  | [], _ => none
  | k :: ks, f =>
    let n := 512 * p.gib k
    if f < n then some (k * 2 ^ 37 + (72 - p.gib k) * 2 ^ 30 + f * pageSize) else frameAddrIn p ks (f - n)

def Part.frameAddr (p : Part) (f : Nat) : Option Nat := frameAddrIn p p.stackList f

/-- The extent and its offset behind a tiered address (R230). -/
def Part.flashKey (p : Part) (a : Nat) : Nat :=
  (p.extents[tierOff a / extentSize]?).getD 0 * extentSize + tierOff a % extentSize

/-- Whether the frame of a page holds the current copy of unit `u` (R235, R236). -/
def TierPage.holds (g : TierPage) (u : Nat) : Bool := g.frame.isSome && g.filled.getLsbD u

/-- Where the current copy of a device byte lies: the stack window that holds it, or the flash copy. -/
inductive Place where
  | mem (a : Nat)
  | flash (k : Nat)
  deriving DecidableEq, Repr

/-- The place of the current copy of the byte at a device address (R236). -/
def State.place (s : State) (p a : Nat) : Place :=
  if a < tierBase then .mem a
  else
    let g := s.page p (pageOf a)
    match g.frame, g.holds (unitOf a) with
    | some f, true =>
      match (s.part p).frameAddr f with
      | some b => .mem (b + tierOff a % pageSize)
      | none => .flash ((s.part p).flashKey a)
    | _, _ => .flash ((s.part p).flashKey a)

/-- The processors that run the units of a page now: FTL0 runs channels 0 to 15, FTL1 channels 16 to 31, four FLASH groups of eight
channels (R229, R232, R260). -/
def ftlOf (page u : Nat) : Nat := if (u + page) % 32 < 16 then pFTL0 else pFTL1
def State.unitsUp (s : State) (page : Nat) : BitVec 32 :=
  BitVec.ofNat 32 (((List.range 32).filter (fun u => (s.proc (ftlOf page u)).restart.isNone)).foldl (fun m u => m + 2 ^ u) 0)

/-- The place a write goes to: a write that covers a unit whole goes to the page's frame even when the unit is not in it. -/
def State.placeWrite (s : State) (p a : Nat) (whole : Bool) : Place :=
  let g := s.page p (pageOf a)
  match g.frame.bind (s.part p).frameAddr with
  | some b => if whole then .mem (b + tierOff a % pageSize) else s.place p a
  | none => s.place p a

/-- The current byte at a device address of a partition, with no check. -/
def State.peekByte (s : State) (p a : Nat) : Byte :=
  match s.place p a with
  | .mem b => BMap.read s.mem b
  | .flash k => BMap.read s.flash.data k

/-- `n` current bytes from a device address, with no check. -/
def State.peek (s : State) (p a n : Nat) : List Byte := (List.range n).map (fun i => s.peekByte p (a + i))

/-- A little-endian field of the current bytes. -/
def State.peekLe (s : State) (p a n : Nat) : Nat := leNat (s.peek p a n)

/-! ## Blocks -/

/-- The outcome of a memory operation: the first failing status (0 none), the engine address concerned, its CAUSE, the bytes
read, the flags raised, and the state. -/
structure Got where
  status : Nat := 0
  bad    : Nat := 0
  cause  : Nat := 0
  bytes  : List Byte := []
  flags  : BitVec 6 := 0
  st     : State

/-- DETAIL of a block fault (R203, R405): bank slot in [11:0], row in [25:12], CAUSE in [29:26]. -/
def blockDetail (a cause : Nat) : Nat :=
  let off := a % 2 ^ 37
  bits off 22 11 + bits off 36 23 * 2 ^ 12 + cause * 2 ^ 26

/-- BCHK of the block at `a` (R183): the CRC-32C of its address tag and its payload. -/
def State.blockCheck (s : State) (a : Nat) : Nat :=
  let b := a / 2048 * 2048
  crc32c (natLe b 8 ++ BMap.readBytes s.mem b 2048)

/-- The block record of the block at `a` (R182): BCHK, BSTATE, zeros. -/
def State.blockRecord (s : State) (a : Nat) : List Byte :=
  natLe (s.blockCheck a) 4 ++ natLe ((s.block a).poison.toNat + 2 * (s.block a).cause) 4 ++ List.replicate 120 0

/-- The metadata of column `c` of the block at `a` (R181, R182): the in-band ECC of the column and its share of the block record,
whose Reed-Solomon check bytes R181 leaves to the code, then that share. -/
def State.columnMeta (s : State) (a c : Nat) : List Byte :=
  let share := ((s.blockRecord a).drop (2 * c)).take 2
  natLe (Config.inBandEcc (BMap.readBytes s.mem (a / 2048 * 2048 + 32 * c) 32 ++ share)).toNat 2 ++ share

/-! ## Regulators (R191, R192) -/

/-- The regulator ceiling of each level (R201). -/
def levelRate (l : Nat) : Nat := if l ≤ 1 then 256 else if l = 2 then 192 else if l = 3 then 128 else if l = 4 then 64 else 32

def Die.clamped (d : Die) : Bool := d.hot || d.overload

/-- The bucket size of a stack's regulator. -/
def Part.capacity (p : Part) (k : Nat) : Int :=
  ((if Tbl.get 0 p.burst k = 0 then 1024 else Tbl.get 0 p.burst k) * 2048 : Nat)

/-- The regulator's fill in units of 1/256 of 1.6384 TB/s. -/
def State.fillShare (s : State) (k p : Nat) : Nat :=
  let r := Tbl.get 0 (s.part p).rate k
  min (if r = 0 then 256 else r) (if (s.die (dieOfStack k)).clamped then 32 else levelRate (s.stack k).level)

/-- The bucket's level now; a share of 1 fills 6.4 bytes in a nanosecond. -/
def State.bucketNow (s : State) (k p : Nat) : Int :=
  let x := s.stack k
  (s.part p).capacity k - max 0 (Tbl.get 0 x.spent p - ((s.fillShare k p * 64 * (s.now - Tbl.get 0 x.filledAt p) / 10 : Nat) : Int))

/-- Takes bytes from a bucket. -/
def State.deduct (s : State) (k p n : Nat) : State :=
  let l := (s.part p).capacity k - s.bucketNow k p + n
  s.modStack k (fun x => { x with spent := Tbl.set 0 x.spent p l, filledAt := Tbl.set 0 x.filledAt p s.now })

/-- Counts bytes that cross the interface of the stack at `a` for the partition that holds it. -/
def State.charge (s : State) (a n : Nat) : State := s.deduct (a / 2 ^ 37) (s.stackOwner (a / 2 ^ 37)) n

/-- The 32-byte columns that `[a, a + n)` of a block touches (R180), as their number and as a mask. -/
def columnsOf (a n : Nat) : Nat := (a % 2048 + n + 31) / 32 - a % 2048 / 32
def columnMask (a n : Nat) : BitVec 64 := BitVec.ofNat 64 (2 ^ ((a % 2048 + n + 31) / 32) - 2 ^ (a % 2048 / 32))

/-- Bytes that a read fetches: whole blocks when it is verified, else the columns it touches (R185, R192). -/
def fetchBytes (a n : Nat) (verify : Bool) : Nat := if verify then 2048 else 32 * columnsOf a n

/-! ## Reading and writing blocks -/

/-- The block a request works on. -/
def MemOp.addr : MemOp → Nat
  | .read a _ _ _ => a
  | .write a _ => a
  | .merge a _ _ _ => a
  | .add a _ _ _ _ => a

/-- Writes the poison pattern with its CAUSE (R186). -/
def State.poison (s : State) (a cause : Nat) : State :=
  let b := a / 2048 * 2048
  let s1 := { s with mem := BMap.writeBytes s.mem b (List.replicate 2048 0xFF) }
  let s2 := s1.setBlock b { poison := true, cause := cause, sense := .good }
  s2.modStack (b / 2 ^ 37) (fun x => { x with poisoned := x.poisoned + 1 })

/-- Whether what is sensed is bad for a consumer (R186): in-band uncorrectable, or a check mismatch that it verifies. -/
def senseBad (x : Sense) (verify : Bool) : Bool :=
  match x with
  | .eccBad => true
  | .checkBad => verify
  | _ => false

/-- Whether a read of columns of a block finds it bad: an unverified read meets an in-band error in its own columns alone (R185). -/
def Block.badFor (b : Block) (cols : BitVec 64) (verify : Bool) : Bool :=
  senseBad b.sense verify && (verify || (b.cols &&& cols) != 0)

/-- The finding that a free value stands for. -/
def senseOf (n : Nat) : Sense := if n % 4 = 0 then .good else if n % 4 = 1 then .corrected else if n % 4 = 2 then .eccBad else .checkBad

/-- CAUSE of a block found bad by a read (R182, R186). -/
def senseCause : Sense → Nat
  | .eccBad => 2
  | _ => 1

/-- Counts an activation of the block's bank (R197). -/
def State.activate (s : State) (a : Nat) : State :=
  let b := bits (a % 2 ^ 37) 16 11 * 64 + bits (a % 2 ^ 37) 22 17
  s.modStack (a / 2 ^ 37) (fun x => { x with activations := Tbl.set 0 x.activations b (Tbl.get 0 x.activations b + 1) })

/-- Counts a re-read (R186). -/
def State.countRetry (s : State) (a : Nat) (ok : Bool) : State :=
  s.modStack (a / 2 ^ 37) (fun x => { x with retry := x.retry + 1, retryOk := if ok then x.retryOk + 1 else x.retryOk })

/-- One consumer's read of `[a, a + n)` of a block (R186): poison fails at once; a bad block is re-read once, and what that finds
is a free value (assumption 12): a good one is used, a bad one is poisoned. A stack in FAILED ends the request (R409). With `bond`
the read crosses the bonded interface: it activates the bank and counts at the regulator (R192, R197). -/
def State.senseBlock (s : State) (a n : Nat) (verify : Bool) (cause : Option Nat := none) (bond : Bool := true) : Nat × Nat × State :=
  let cross := fun (st : State) => if bond then st.charge a (fetchBytes a n verify) else st
  if (s.stack (a / 2 ^ 37)).mode == .failed then (stDATA_ERROR, 0, s)
  else
    let s0 := cross (if bond then s.activate a else s)
    if (s0.block a).poison then (stDATA_ERROR, (s0.block a).cause, s0)
    else if (s0.block a).badFor (columnMask a n) verify then
      let (r, s1) := (cross s0).fresh
      let again : Block := { (s1.block a) with sense := senseOf r }
      if again.badFor (columnMask a n) verify then
        let c := cause.getD (senseCause again.sense)
        (stDATA_ERROR, c, (s1.countRetry a false).poison a c)
      else (0, 0, (s1.countRetry a true).setBlock a again)
    else (0, 0, s0)

/-- Reads `n` bytes of stack windows or frames, block by block; the first bad block ends the request (R186, R188). -/
def State.readStack (s : State) (a n : Nat) (verify : Bool) : Got :=
  (spansOf blockSize a n).foldl (fun g sp =>
    if g.status ≠ 0 then g
    else
      let r := g.st.senseBlock sp.1 sp.2 verify
      if r.1 ≠ 0 then { g with status := r.1, bad := sp.1, cause := r.2.1, st := r.2.2 }
      else { g with bytes := g.bytes ++ BMap.readBytes r.2.2.mem sp.1 sp.2, st := r.2.2 }) { st := s }

/-- One block's read, change and write, indivisible (R184, R187, R195): `f` gives the new bytes at the span and the flags.
A whole-block write takes its data without reading. The regulator counts both halves (R192), unless a bank makes the change. -/
def State.changeBlock (s : State) (a n cause : Nat) (whole : Bool) (f : List Byte → List Byte × BitVec 6) (bond : Bool := true) :
    Nat × Nat × BitVec 6 × State :=
  if (s.stack (a / 2 ^ 37)).mode == .failed then (stDATA_ERROR, 0, 0, s)
  else
    let r := if whole && n == 2048 then (0, 0, s.activate a) else s.senseBlock a n true (some cause) bond
    if r.1 ≠ 0 then (r.1, r.2.1, 0, r.2.2)
    else
      let st := if bond then r.2.2.charge a 2048 else r.2.2
      let o := f (BMap.readBytes st.mem a n)
      (0, 0, o.2, ({ st with mem := BMap.writeBytes st.mem a o.1 }).setBlock a {})

/-- Writes bytes to stack windows or frames: whole blocks with fresh codes, parts of blocks by a merge (R184); a bad block
fails with CAUSE 0x4 and the others are written. -/
def State.writeStack (s : State) (a : Nat) (bytes : List Byte) : Got :=
  (chunksOf blockSize a bytes).foldl (fun g c =>
    let r := g.st.changeBlock c.1 c.2.length 4 true (fun _ => (c.2, 0))
    if r.1 ≠ 0 && g.status = 0 then { g with status := r.1, bad := c.1, cause := r.2.1, st := r.2.2.2 }
    else { g with st := r.2.2.2 }) { st := s }

/-! ## The flash copy -/

/-- Erase blocks of one channel (R255 to R258). -/
def State.eraseBlock (s : State) (ch b : Nat) : EraseBlock := Tbl.get {} s.flash.blocks (ch * 2 ^ 20 + b)
def State.setEraseBlock (s : State) (ch b : Nat) (x : EraseBlock) : State :=
  { s with flash := { s.flash with blocks := Tbl.set {} s.flash.blocks (ch * 2 ^ 20 + b) x } }

/-- Unit index within its extent of a flash byte offset, and its mapping key. -/
def mapKey (k : Nat) : Nat := k / extentSize * 2 ^ 20 + k % extentSize / unitSize

/-- Channel of the unit at a flash byte offset: (u + p) mod 32, extents being whole multiples of 32 pages (R232). -/
def channelOf (k : Nat) : Nat := (k % extentSize / pageSize + k % pageSize / unitSize) % 32

/-- Blocks of a channel that have been programmed, erased or retired, as block number and block. -/
def State.channelBlocks (s : State) (ch : Nat) : List (Nat × EraseBlock) :=
  s.flash.blocks.filterMap (fun e => if e.1 / 2 ^ 20 = ch ∧ !e.2.retired then some (e.1 % 2 ^ 20, e.2) else none)

/-- Whether a block takes a new unit: not retired, and nothing programmed in it since its last erase. -/
def EraseBlock.isFree (e : EraseBlock) : Bool := !e.retired && e.next == 0

/-- The free erase block of a channel with the lowest program/erase count (R256). The number of blocks is not stated, so some have
never been erased as long as not every one of 2^20 has; which of several with one count it is is a free value. -/
def State.pickBlock (s : State) (ch : Nat) : Nat × State :=
  let (r, s1) := s.fresh
  let used := s1.flash.blocks.filter (fun e => decide (e.1 / 2 ^ 20 = ch))
  let low := if used.length < 2 ^ 20 then 0
    else (used.filter (fun e => e.2.isFree)).foldl (fun (m : Option Nat) e => some (min (m.getD e.2.cycles) e.2.cycles)) none |>.getD 0
  (((findFrom (fun b => (s1.eraseBlock ch (b % 2 ^ 20)).isFree && (s1.eraseBlock ch (b % 2 ^ 20)).cycles == low) (r % 2 ^ 20)
    (used.length + 1)).getD r) % 2 ^ 20, s1)

/-- Puts a unit into a block and points the mapping at it (R255): its sixteen codewords take the next write sequence numbers. -/
def State.mapInto (s : State) (key ch b : Nat) : State :=
  let e := s.eraseBlock ch b
  let s1 := s.setEraseBlock ch b { e with
    next := e.next + 1, units := e.units ++ [{ pos := e.next, extent := key / 2 ^ 20, unit := key % 2 ^ 20, seq := s.flash.writeSeq }] }
  { s1 with flash := { s1.flash with map := Tbl.set none s1.flash.map key (some (ch, b, e.next)), writeSeq := s1.flash.writeSeq + 16 } }

/-- Moves the mapping of a unit to a new place on its channel (R242, R255, R256); the old place becomes invalid. -/
def State.remap (s : State) (k : Nat) : State :=
  let (b, s1) := s.pickBlock (channelOf k)
  s1.mapInto (mapKey k) (channelOf k) b

/-- Processor of a channel's FTL (R426). -/
def ftlOfChannel (ch : Nat) : Nat := if ch < 16 then pFTL0 else pFTL1

/-- A flash read of an erase block: the LDPC read retry levels that it takes, up to 3, are a free number, traced (R248, R433). -/
def State.retryRead (s : State) (ch b : Nat) : State :=
  let (r, s1) := s.fresh
  forEach (List.range (r % 4)) s1 (fun i st => st.trace (ftlOfChannel ch) 10 ch b (i + 1))

/-- Counts a read of the erase block that holds a unit (R257). -/
def State.countFlashRead (s : State) (k : Nat) : State :=
  match Tbl.get none s.flash.map (mapKey k) with
  | some (c, b, _) => let e := s.eraseBlock c b; (s.setEraseBlock c b { e with reads := e.reads + 1 }).retryRead c b
  | none => s

/-- Programs bytes within one unit of flash: the unit's other bytes are read and merged, and the whole unit goes to a new place
(R239, R257). -/
def State.programUnit (s : State) (k : Nat) (bytes : List Byte) : State :=
  let s1 := if bytes.length = unitSize then s else s.countFlashRead k
  let s2 := ({ s1 with flash := { s1.flash with data := BMap.writeBytes s1.flash.data k bytes } }).remap k
  { s2 with flash := { s2.flash with written := s2.flash.written + unitSize } }

/-! ## Codewords (R229, R232 to R234) -/

/-- Bytes of a codeword: payload, header, LDPC parity (R229); of a data unit; and data units of a unit (R232). -/
def codewordBytes : Nat × Nat × Nat := (4096, 32, 480)
def dataUnits : Nat := 16

/-- The FLASH clock domain of a channel and its raw capacity in GiB (R229). -/
def flashGroup (ch : Nat) : Nat := ch / 8
def channelGib : Nat := 1280

/-- The XTS tweak of data unit `i` of an extent (R233). -/
def xtsTweak (e i : Nat) : Nat := e * 2 ^ 24 + i

/-- The payload of a data unit's codeword (R233): AES-256-XTS under the extent's key. -/
def State.cipherUnit (s : State) (e i : Nat) : List Byte :=
  xts256 (s.extent e).key (xtsTweak e i) (BMap.readBytes s.flash.data (e * extentSize + 4096 * i) 4096)

/-- The header of a data unit's codeword (R234): extent, index, write sequence, and a CRC-32C over them and the encrypted payload. -/
def State.codewordHeader (s : State) (e i seq : Nat) : List Byte :=
  let fields := natLe e 4 ++ natLe i 4 ++ natLe seq 8
  fields ++ natLe (crc32c (fields ++ s.cipherUnit e i)) 4 ++ List.replicate 12 0

/-- Whether the place that the mapping names for a unit holds a codeword header of that unit (R234). -/
def State.headerOk (s : State) (k : Nat) : Bool :=
  match Tbl.get none s.flash.map (mapKey k) with
  | some (c, b, i) => (s.eraseBlock c b).units.any (fun u => u.pos == i && u.extent * 2 ^ 20 + u.unit == mapKey k)
  | none => true

/-- The mapping rebuilt from the codeword headers: the copy with the highest write sequence of each unit (R255). -/
def Flash.remapped (f : Flash) : Tbl (Option (Nat × Nat × Nat)) :=
  let all := f.blocks.flatMap (fun e => e.2.units.map (fun u => (e.1, u)))
  let best := all.foldl (fun (t : Tbl (Option (Nat × UnitCopy))) e =>
    let key := e.2.extent * 2 ^ 20 + e.2.unit
    match Tbl.get none t key with
    | some o => if o.2.seq < e.2.seq then Tbl.set none t key (some e) else t
    | none => Tbl.set none t key (some e)) []
  best.foldl (fun t e => match e.2 with
    | some o => Tbl.set none t e.1 (some (o.1 / 2 ^ 20, o.1 % 2 ^ 20, o.2.pos))
    | none => t) []

/-! ## Device memory of a partition -/

/-- The log entry of a page whose failed or late units changed (R253): KIND 0 failed, 1 late. -/
def State.tierPageEvent (s : State) (p page unit kind : Nat) : State :=
  s.event (ftlOf page unit) p 0x000D ((unit + page) % 32) page unit kind 0

/-- Marks a unit failed and records it (R250, R253). -/
def State.failUnit (s : State) (p g u : Nat) : State :=
  let x := s.page p g
  if x.failed.getLsbD u then s
  else ((s.setPage p g { x with failed := x.failed ||| (1#32 <<< u) }).modPart p (fun y => { y with failedTotal := y.failedTotal + 1 })).tierPageEvent
    p g u 0

/-- Clears a unit's bit of FAILED_UNITS and records that (R250, R253). -/
def State.mendUnit (s : State) (p g u : Nat) : State :=
  let x := s.page p g
  if x.failed.getLsbD u then (s.setPage p g { x with failed := x.failed &&& ~~~(1#32 <<< u) }).tierPageEvent p g u 0 else s

/-- Reads `n` bytes at a device address: stack windows and frames under R186, flash units under R250. -/
def State.readDev (s : State) (p a n : Nat) (verify : Bool) : Got :=
  if a < tierBase then s.readStack a n verify
  else
    (spansOf unitSize a n).foldl (fun g sp =>
      if g.status ≠ 0 then g
      else match g.st.place p sp.1 with
        | .mem b =>
          let r := g.st.readStack b sp.2 verify
          { g with status := r.status, bad := if r.status = 0 then g.bad else sp.1 + (r.bad - b), cause := r.cause,
                   bytes := g.bytes ++ r.bytes, st := r.st }
        | .flash k =>
          if (g.st.page p (pageOf sp.1)).failed.getLsbD (unitOf sp.1) then { g with status := stTIER_ERROR, bad := sp.1 }
          else { g with bytes := g.bytes ++ BMap.readBytes g.st.flash.data k sp.2, st := g.st.countFlashRead k }) { st := s }

/-- Marks units dirty after a frame write; the bit of a failed unit that it covers whole clears at the write-back (R239, R250). -/
def TierPage.wrote (g : TierPage) (u : Nat) (whole : Bool) : TierPage :=
  { g with dirty := g.dirty ||| (1#32 <<< u), filled := if whole then g.filled ||| (1#32 <<< u) else g.filled }

/-- Writes one chunk of a run that lies within one unit of a tiered page. -/
def writeUnit (p : Nat) (g : Got) (c : Nat × List Byte) : Got :=
  let pg := g.st.page p (pageOf c.1)
  let u := unitOf c.1
  let whole := c.2.length == unitSize
  if pg.failed.getLsbD u && !whole then
    { g with status := if g.status = 0 then stTIER_ERROR else g.status, bad := if g.status = 0 then c.1 else g.bad }
  else match g.st.placeWrite p c.1 whole with
    | .mem b =>
      let r := g.st.writeStack b c.2
      let st := r.st.setPage p (pageOf c.1) ((r.st.page p (pageOf c.1)).wrote u whole)
      if r.status ≠ 0 && g.status = 0 then { g with status := r.status, bad := c.1 + (r.bad - b), cause := r.cause, st := st }
      else { g with st := st }
    | .flash k =>
      if g.st.flash.readOnly then
        { g with status := if g.status = 0 then stTIER_ERROR else g.status, bad := if g.status = 0 then c.1 else g.bad }
      else
        { g with st := if whole then (g.st.programUnit k c.2).mendUnit p (pageOf c.1) u else g.st.programUnit k c.2 }

/-- Writes bytes at a device address: stack windows and frames under R184, direct writes of flash units under R239, R250
and R252. -/
def State.writeDev (s : State) (p a : Nat) (bytes : List Byte) : Got :=
  if a < tierBase then s.writeStack a bytes else (chunksOf unitSize a bytes).foldl (writeUnit p) { st := s }

/-- A byte with one nibble replaced; its other nibble stays (R38). -/
def mergeNibble (old : Byte) (sh v : Nat) : Byte :=
  BitVec.ofNat 8 (if sh = 0 then old.toNat / 16 * 16 + v % 16 else old.toNat % 16 + v % 16 * 16)

/-- Writes one nibble of the byte at a device address. -/
def State.writeNibble (s : State) (p a sh v : Nat) : Got := s.writeDev p a [mergeNibble (s.peekByte p a) sh v]

/-- Counts one access of an instruction, job or add on every tiered page it touches (R237). -/
def State.touchPages (s : State) (p : Nat) (ranges : List (Nat × Nat)) : State :=
  let pages := (ranges.flatMap (fun r => if isTiered r.1 then (spansOf pageSize r.1 r.2).map (fun c => pageOf c.1) else [])).eraseDups
  forEach pages s (fun g st => let x := st.page p g; st.setPage p g { x with count := min 255 (x.count + 1) })

/-- DETAIL of a failed access to device memory. -/
def State.faultDetail (s : State) (p bad cause : Nat) : Nat :=
  match s.place p bad with
  | .mem b => blockDetail b cause
  | .flash _ => 0

/-- Whether a stack serves requests, or fails them: in RECOVERY, SELF_REFRESH, TRAINING, TEST and SCRUBBING they wait (R189, R408,
R409). -/
def State.stackUp (s : State) (k : Nat) : Bool := (s.stack k).mode == .service || (s.stack k).mode == .failed

/-- Whether every stack that an access touches serves requests. -/
def State.stacksServe (s : State) (p a n : Nat) : Bool :=
  (spansOf pageSize a n).all (fun sp =>
    match s.place p sp.1 with
    | .mem b => s.stackUp (b / 2 ^ 37)
    | .flash _ => true)

/-- Whether every stack that a class-2 access touches takes it now: it serves requests, and its regulator holds the bytes of the
first block request (R192). The access is one step of the model, so its later requests count in the same step (assumption 27). -/
def State.answers (s : State) (p a n : Nat) : Bool :=
  s.stacksServe p a n && (spansOf pageSize a n).all (fun sp =>
    match s.place p sp.1 with
    | .mem b =>
      let k := b / 2 ^ 37
      ((s.stack k).mode == .failed || decide (((min 2048 (32 * columnsOf b sp.2) : Nat) : Int) ≤ s.bucketNow k (s.stackOwner k)))
    | .flash _ => true)

/-! ## Memory-side adders (R193 to R196) -/

/-- Bytes of an element of each ADDFMT (R193). -/
def addBytes (addfmt : Nat) : Nat := if addfmt = 1 then 2 else if addfmt = 0 ∨ addfmt = 3 then 4 else 8

/-- FMT that SRC and DST views must have (R193). -/
def addFmtOf (addfmt : Nat) : Nat :=
  if addfmt = 0 then 6 else if addfmt = 1 then 4 else if addfmt = 3 then 7 else 9

/-- One element's addition (R193), policy Z applied to what is written (R59). -/
def addElem (addfmt : Nat) (z : Bool) (x y : Nat) : Num :=
  if addfmt = 3 then { val := (x + y) % 2 ^ 32 }
  else if addfmt = 4 then { val := (x + y) % 2 ^ 64 }
  else
    let f := if addfmt = 0 then fFP32 else if addfmt = 1 then fBF16 else fFP64
    let r := Val.add (decodeFloat f x) (decodeFloat f y)
    let n := encodeFloat f .rne 1 r.1
    { n with val := policyWrite z (addFmtOf addfmt) n.val, flags := n.flags ||| r.2 }

/-- Adds a run of elements of `w` bytes into bytes of the same length. -/
def addRun (addfmt w : Nat) (z : Bool) : Nat → List Byte → List Byte → List Byte × BitVec 6
  | 0, _, _ => ([], 0)
  | k + 1, old, add =>
    if old.length < w then (old, 0)
    else
      let r := addElem addfmt z (leNat (old.take w)) (leNat (add.take w))
      let (rest, f) := addRun addfmt w z k (old.drop w) (add.drop w)
      (natLe r.val w ++ rest, r.flags ||| f)

/-- Adds contiguous elements into stack windows or frames, block by block (R194, R195): a bad block fails with CAUSE 0x5,
or 0x3 for an accumulate-write (R224). -/
def State.addStack (s : State) (a addfmt : Nat) (z : Bool) (bytes : List Byte) (cause : Nat := 5) : Got :=
  (chunksOf blockSize a bytes).foldl (fun g c =>
    let r := g.st.changeBlock c.1 c.2.length cause false (fun old => addRun addfmt (addBytes addfmt) z c.2.length old c.2)
    let g' := { g with flags := g.flags ||| r.2.2.1, st := r.2.2.2 }
    if r.1 ≠ 0 && g.status = 0 then { g' with status := r.1, bad := c.1, cause := r.2.1 } else g') { st := s }

/-- Adds contiguous elements at a device address; a tiered page not in a frame gives NO_RESOURCE (R239),
a failed unit TIER_ERROR (R250). -/
def State.addDev (s : State) (p a addfmt : Nat) (z : Bool) (bytes : List Byte) (cause : Nat := 5) : Got :=
  if a < tierBase then s.addStack a addfmt z bytes cause
  else
    (chunksOf unitSize a bytes).foldl (fun g c =>
      let pg := g.st.page p (pageOf c.1)
      match g.st.place p c.1 with
      | .mem b =>
        let r := g.st.addStack b addfmt z c.2
        let st := r.st.setPage p (pageOf c.1) { (r.st.page p (pageOf c.1)) with dirty := pg.dirty ||| (1#32 <<< unitOf c.1) }
        if r.status ≠ 0 && g.status = 0 then { g with status := r.status, bad := c.1 + (r.bad - b), cause := r.cause, flags := g.flags ||| r.flags, st := st }
        else { g with flags := g.flags ||| r.flags, st := st }
      | .flash _ =>
        if g.status = 0 then
          { g with status := if pg.failed.getLsbD (unitOf c.1) then stTIER_ERROR else stNO_RESOURCE, bad := c.1 }
        else g) { st := s }

/-- Adds 1 to a 64-bit gate word (R160, R372). -/
def State.addGate (s : State) (p gate : Nat) : Got := s.addDev p gate 4 false (natLe 1 8)

/-! ## Write-back (R242, R243) -/

/-- Writes one dirty unit back (R242): the bytes written back and the state. A bad block leaves the unit dirty and failed, with
an error entry; in a READ_ONLY tier the write-back ends with TIER_ERROR and the unit stays dirty (R252). -/
def State.writeBackUnit (s : State) (p g u : Nat) : Nat × State :=
  let x := s.page p g
  match x.frame with
  | none => (0, s)
  | some f =>
    match (s.part p).frameAddr f with
    | none => (0, s)
    | some b =>
      if !x.dirty.getLsbD u then (0, s)
      else if s.flash.readOnly then
        (0, s.error (ftlOf g u) { status := stTIER_ERROR, cls := cREQUEST, unit := 10, unitId := (u + g) % 32, pt := p,
                                  addr := tierBase + g * pageSize + u * unitSize })
      else
        let a := b + u * unitSize
        let r := s.readStack a unitSize true
        if r.status ≠ 0 then
          (0, (r.st.failUnit p g u).error (ftlOf g u) {
            status := r.status, cls := cREQUEST, unit := 6, unitId := 64 * (r.bad / 2 ^ 37) + bits r.bad 16 11, pt := p,
            addr := tierBase + g * pageSize + u * unitSize, detail := blockDetail r.bad r.cause })
        else
          let s1 := r.st.programUnit ((r.st.part p).flashKey (tierBase + g * pageSize + u * unitSize)) r.bytes
          let y := s1.page p g
          let s2 := (s1.setPage p g { y with dirty := y.dirty &&& ~~~(1#32 <<< u) }).mendUnit p g u
          (unitSize, s2.modPart p (fun z => { z with written := z.written + unitSize }))

/-- Writes every dirty unit of a page back. -/
def State.writeBackPage (s : State) (p g : Nat) : Nat × State :=
  (List.range 32).foldl (fun acc u => let r := acc.2.writeBackUnit p g u; (acc.1 + r.1, r.2)) (0, s)

end Sys2Proof.Machine
end

