-- ==== Sys2Proof/Machine/Window.lean ====
section
/-! DEFINITION. The command window and the host link (R327 to R356): submitting, releasing and completing commands, host
reads and writes, link loss, function-level reset, bus mastering, heartbeats and relayed commands. -/

namespace Sys2Proof.Machine

open Sys2Proof

/-! ## Access -/

/-- Whether a BAR0 access of the function reaches HIF: the link is up and no FLR of the function is under way (R355 step 1). -/
def State.barOpen (s : State) (f : Nat) : Bool := f < 9 && s.link.up && (s.fn f).flrStart.isNone

/-- Any access of a function ends a capture of R504. -/
def State.access (s : State) (f : Nat) : State := s.modFn f (fun x => { x with capture := none })

/-- A discarded write, counted in a log entry (R11, R325, R415). -/
def State.barDiscard (s : State) (f offset value : Nat) : State := s.event pHIF f 0x000E f offset value 0 0

/-- The module has left start-up and HIF takes submissions: not while HIF restarts (R434). -/
def State.hifTakes (s : State) : Bool := (s.proc pHIF).restart.isNone

/-- Whether a BAR0 write passes a restart of HIF: a HALT's into slot 0, whose budget a restart does not touch, behind no other write to
the slot (R434, R398). -/
def State.barPasses (s : State) (f off : Nat) (data : List Byte) : Bool :=
  let inSlot := fun o => decide (0x2000 ≤ o) && decide (o < 0x2100)
  inSlot off && !s.link.heldBar.any (fun w => w.1 == f && inSlot w.2.1) && (off != 0x2000 || leNat (data.take 2) == opHALT)

/-- A BAR0 write while HIF restarts is queued in order; from the 257th on they wait in the host's link, in the same order (R434). -/
def State.barHold (s : State) (f off : Nat) (data : List Byte) : State :=
  { s with link := { s.link with heldBar := s.link.heldBar ++ [(f, off, data)] } }

/-- Runs a BAR0 write, or queues it while HIF restarts. -/
def State.barRun (s : State) (f off : Nat) (data : List Byte) (go : State → State) : State :=
  if s.hifTakes || s.barPasses f off data then go (s.access f) else s.barHold f off data

/-- Whether a processor is not in a restart. -/
def State.procUp (s : State) (c : Nat) : Bool := (s.proc c).restart.isNone

/-- Whether the processors that a command's work waits for are up (R434): the DCTL of each die where its partition holds a
section for LOAD_PROGRAM and RUN. -/
def State.opUp (s : State) (f op : Nat) : Bool :=
  if op = opGET_SURVEY ∨ op = opLOG_READ ∨ op = opTRACE_SET then s.procUp pMGT
  else if op = opCOLLECTIVE then s.procUp pFAB
  else if op = opLOAD_PROGRAM ∨ op = opRUN then
    (List.range 16).all (fun i => !(s.part f).sections.getLsbD i || s.procUp (pDCTL (i / 4)))
  else if op = opFW_STAGE then s.procUp pSEC
  else true

/-! ## Opcodes (R357) -/

/-- Functions column: 0 both, 1 PF0 only, 2 partition functions only. -/
structure OpRow where
  code   : Nat
  who    : Nat
  urgent : Bool := false
  domain : Bool := false
  lenPt  : Nat := 0
  lenPf0 : Nat := 0

/-- The opcode table; the LEN of RUN is 1 + NBIND. -/
def opRows : List OpRow :=
  [ { code := opNOP, who := 0, urgent := true, domain := true },
    { code := opHALT, who := 0, urgent := true, domain := true, lenPf0 := 1 },
    { code := opATTACH, who := 2 },
    { code := opRESET_PARTITION, who := 0, lenPf0 := 1 },
    { code := opRESET_MODULE, who := 1, lenPt := 1, lenPf0 := 1 },
    { code := opPART_SET, who := 1, lenPt := 12, lenPf0 := 12 },
    { code := opFAB_CONFIG, who := 1, lenPt := 1, lenPf0 := 1 },
    { code := opTILE_DISABLE, who := 1, lenPt := 1, lenPf0 := 1 },
    { code := opSECTION_DISABLE, who := 1, lenPt := 1, lenPf0 := 1 },
    { code := opLOAD_PROGRAM, who := 2, domain := true, lenPt := 3, lenPf0 := 3 },
    { code := opRUN, who := 2, domain := true, lenPt := 1, lenPf0 := 1 },
    { code := opCHISEL_RUN, who := 2, lenPt := 5, lenPf0 := 5 },
    { code := opTRAIN_SETUP, who := 2, domain := true, lenPt := 4, lenPf0 := 4 },
    { code := opSTEP_FENCE, who := 2, domain := true },
    { code := opMAQUETTE, who := 2, domain := true, lenPt := 1, lenPf0 := 1 },
    { code := opCTX_POOL, who := 2, lenPt := 6, lenPf0 := 6 },
    { code := opCTX_OPEN, who := 2, lenPt := 1, lenPf0 := 1 },
    { code := opCTX_FORK, who := 2, lenPt := 2, lenPf0 := 2 },
    { code := opCTX_TRUNCATE, who := 2, lenPt := 1, lenPf0 := 1 },
    { code := opCTX_FREE, who := 2, lenPt := 1, lenPf0 := 1 },
    { code := opCTX_QUERY, who := 2, lenPt := 2, lenPf0 := 2 },
    { code := opTIER_HINT, who := 2, lenPt := 2, lenPf0 := 2 },
    { code := opTIER_STATUS, who := 2, lenPt := 2, lenPf0 := 2 },
    { code := opCOLLECTIVE, who := 2, domain := true, lenPt := 12, lenPf0 := 12 },
    { code := opGET_SURVEY, who := 0, lenPt := 2, lenPf0 := 2 },
    { code := opLOG_READ, who := 0, lenPt := 3, lenPf0 := 3 },
    { code := opTRACE_SET, who := 1, lenPt := 2, lenPf0 := 2 },
    { code := opFW_STAGE, who := 1, lenPt := 3, lenPf0 := 3 },
    { code := opFW_ACTIVATE, who := 1, lenPt := 1, lenPf0 := 1 },
    { code := opFW_RESTART, who := 1, lenPt := 1, lenPf0 := 1 } ]

def opRow (code : Nat) : Option OpRow := opRows.find? (fun r => r.code == code)

/-- The exact LEN of a packet with the opcode's row (R357). -/
def lenOf (r : OpRow) (f : Nat) (c : Cmd) : Nat :=
  if r.code = opRUN then 1 + bits (c.param 0 8) 12 8 else if f = 0 then r.lenPf0 else r.lenPt

/-- Which status an acceptance check gives; 0 accepts (R331). The order is that of the checks. An active domain and a
domain-capable opcode are asked of FLAGS.DOMAIN after the numbered checks (R345). -/
def State.acceptance (s : State) (f n : Nat) (c : Cmd) : Nat :=
  match opRow c.opcode with
  | none => stBAD_OPCODE
  | some r =>
    if 28 < c.len ∨ c.len ≠ lenOf r f c ∨ BMap.readLe c.packet 28 4 ≠ 0 ∨ 8 ≤ c.cmdFlags ∨
        (c.deadline ≠ 0 ∧ c.deadline < 1000000000) ∨ (n = 0 ∧ !r.urgent) ∨ c.flagAddr % 8 ≠ 0 ∨ 2 ^ 63 ≤ c.flagAddr then stBAD_PARAM
    else if (r.who = 1 ∧ f ≠ 0) ∨ (r.who = 2 ∧ f = 0) then stDENIED
    else if c.opcode ≠ opATTACH ∧ c.attachToken ≠ (if f = 0 then 0 else (s.part f).token.toNat) then stDENIED
    else if f ≠ 0 ∧ (s.part f).host = .orphaned ∧ c.opcode ≠ opATTACH ∧ c.opcode ≠ opRESET_PARTITION then stORPHANED
    else if bit c.cmdFlags 1 ∧ (!r.domain ∨ f = 0 ∨ !s.domainActive f) then stBAD_PARAM
    else 0

/-- The error statuses of R335. -/
def errorCodes : List Nat :=
  [stBAD_OPCODE, stBAD_PARAM, stNO_RESOURCE, stDENIED, stABORTED, stTIMEOUT, stHOST_LINK_LOST, stORPHANED, stDATA_ERROR,
   stTIER_ERROR, stTIER_TIMEOUT, stEMERGENCY_ACTIVE, stBUSY]

/-- Opcodes accepted in the state of R404. -/
def fatalAccepts (f op : Nat) : Bool := f = 0 && (op == opNOP || op == opGET_SURVEY || op == opLOG_READ || op == opRESET_MODULE)

/-! ## Partition sleep (R449, R450) -/

/-- A POWER_STATE event (R459). -/
def State.powerEvent (s : State) (p new old agent reason requested result : Nat) : State :=
  let (d, s1) := s.fresh
  s1.event pPWR p 0x0011 0 new old (agent + reason * 256 + requested * 65536 + result * 2 ^ 24) d

/-- Wakes a partition from MS2: its stacks leave SELF_REFRESH, its tiles and ATPs power up cleared (R450). -/
def State.wakePart (s : State) (p : Nat) : State :=
  if (s.part p).asleep then
    let s1 := forEach (s.part p).stackList s (fun k st =>
      if (st.stack k).mode == .selfRefresh then st.setMode k .service else st)
    let s2 := s1.modPart p (fun x => { x with asleep := false, power := { x.power with phase := 0 } })
    s2.powerEvent p 0 2 0 0 0 1
  else s

/-- A wake brings the module from MS3 to MS0 (R452): dies, ports and flash resume, ungranted stacks retrain, every
partition stays in MS2 until its own wake, and heartbeat timing restarts from zero (R451). -/
def State.wakeModule (s : State) : State :=
  if s.power.state == .ms3 then
    let agent := s.power.wakeAgent
    let s1 := { s with power := { s.power with state := .ms0, winFrom := none, wakeAgent := 0, regs := { s.power.regs with phase := 0, result := 1 } } }
    let s2 := forEach ((List.range 20).filter (fun k => s1.stackOwner k == 0)) s1 (fun k st =>
      if (st.stack k).mode == .selfRefresh then st.setMode k .service else st)
    let s3 := forEach (s2.partsPresent) s2 (fun p st => st.modFn p (fun x => { x with lastBeat := st.now }))
    (forEach (List.range 4) s3 (fun d st =>
      let (v, s') := st.fresh
      let (w, s'') := s'.fresh
      s''.event (pDCTL d) 0 0x0009 (pDCTL d) (1 + v % 3) w 0 0)).powerEvent 0 0 3 agent 0 0 1
  else s

/-- A wake source acts in MS3: the module is waking, with the source as its agent (R455). -/
def State.wakeRequest (s : State) (agent : Nat) : State :=
  if s.power.state == .ms3 && s.power.regs.phase == 0 then
    { s with power := { s.power with wakeAgent := agent, regs := { s.power.regs with phase := 2 } } }
  else s

/-! ## Submission (R327 to R332) -/

/-- What ACCEPT and COMPLETE trace: function, slot and opcode (R433). -/
def traceWord (f n op : Nat) : Nat := f % 16 + n % 32 * 16 + op * 65536

/-- CLASS0_ENTER and CLASS0_LEAVE of a processor that handles class-0 work, with the stamp of its alert (R433). -/
def State.classZero (s : State) (c alert : Nat) (urgent : Bool) : State :=
  if urgent then (s.trace c 2 alert 0 0).trace c 3 alert 0 0 else s

/-- Submits a slot: a wake source in MS3 (R455), a write of 4 or 8 bytes at bytes 0-3 of a FREE slot (R327); a write to any other slot is discarded and
sets DISCARD (R329). The checks of R331 follow; a refused command goes from QUEUED straight to DONE with its reply. -/
def State.submit (s : State) (f n : Nat) (bytes : List Byte) : State :=
  let s := s.wakeRequest 0x64
  let x := s.slot f n
  if x.state ≠ .free then s.setSlot f n { x with discard := true }
  else
    let b := BMap.writeBytes x.bytes 0 bytes
    let (t, s1) := s.stamp .pcie
    let c : Cmd := { packet := b, phase := .accepted, arrival := t }
    let s2 := s1.setSlot f n { x with bytes := b, state := .queued, seq := x.seq + 1, status := stPENDING, reply := [], stands := false, cmd := c }
    let st0 := s2.acceptance f n c
    let (r, s3) := if st0 = 0 ∧ s2.power.fatal ∧ !fatalAccepts f c.opcode then
        let (v, s') := s2.fresh
        (errorCodes.getD (v % 13) stABORTED, s')
      else (st0, s2)
    let s4 := (s3.classZero pHIF t (n == 0)).trace pHIF 8 (traceWord f n c.opcode) c.tag r
    if r = 0 then s4.modFn f (fun y => { y with arrivals := y.arrivals ++ [n] }) else s4.finishCmd f n r

/-- SLOT_SUBMIT. -/
def execSlotSubmit (fn slot : Nat) (wide : Bool) (value : BitVec 64) (s : State) : Out :=
  let data := natLe value.toNat (if wide then 8 else 4)
  .next (if s.barOpen fn && slot < 32 then s.barRun fn (0x2000 + 256 * slot) data (fun st => st.submit fn slot data) else s)

/-- Returns a DONE slot to FREE (R328). -/
def State.releaseSlot (s : State) (f n : Nat) : State :=
  s.modSlot f n (fun x => if x.state == .done then { x with state := .free, status := 0 } else x)

/-- SLOT_RELEASE. -/
def execSlotRelease (fn slot : Nat) (s : State) : Out :=
  .next (if s.barOpen fn && slot < 32 then s.barRun fn (0x1800 + 4 * slot) (natLe 4 4) (fun st => st.releaseSlot fn slot) else s)

/-- A heartbeat (R350): only while ATTACHED. -/
def State.beat (s : State) (f : Nat) (v : BitVec 32) : State :=
  if (s.part f).host == .attached then s.modFn f (fun x => { x with hostAlive := v, lastBeat := s.now }) else s

/-- HOST_ALIVE. -/
def execHostAlive (fn : Nat) (value : BitVec 32) (s : State) : Out :=
  .next (if s.barOpen fn && 1 ≤ fn then s.barRun fn 0x0100 (natLe value.toNat 4) (fun st => st.beat fn value) else s)

/-! ## Taking an accepted command -/

/-- Whether a command may be taken, the others' classes apart: accepted, and the first of its function's arrivals, slot 0 apart
(R330, R336), the module out of MS3. Accepted commands go on while HIF restarts (R434). -/
def State.mayTake (s : State) (f n op : Nat) : Bool :=
  s.accepted f n op && (n == 0 || 64 ≤ n || (s.fn f).arrivals.head? == some n) && s.opUp f op && s.power.state != .ms3

/-- Whether a class-0 command, one in a slot 0, waits to be taken; those of class 1 come after it (R393, R394). -/
def State.urgentWaits (s : State) : Bool := (List.range 9).any (fun g => s.mayTake g 0 (s.cmd g 0).opcode)

/-- Whether the opcode's row may take the command now. -/
def State.canTake (s : State) (f n op : Nat) : Bool := s.mayTake f n op && (n == 0 || !s.urgentWaits)

/-- Takes the command out of the arrivals. -/
def State.accept (s : State) (f n : Nat) : State :=
  s.modFn f (fun x => { x with arrivals := x.arrivals.filter (fun m => m != n) })

/-- A relayed command goes to every other member (R345 step 1). The manual gives the relay no packet form, so it leaves as a
packet of the unlisted type 0 with the 256 bytes. -/
def State.relay (s : State) (f n : Nat) : State :=
  let c := s.cmd f n
  if bit c.cmdFlags 1 && c.relayed.isNone then
    forEach ((List.range s.fabricN).filter (fun i => i != s.fabric.position)) s (fun i st =>
      let (k, s1) := st.packet 0 1 (st.part f).domain i 0 (BMap.readBytes c.packet 0 256)
      s1.dispatch { k with tag := BitVec.ofNat 16 c.tag })
  else s

/-- Whether an opcode completes in MS2 without waking the partition (R450). -/
def quietOp (op : Nat) : Bool := op == opNOP || op == opHALT || op == opGET_SURVEY || op == opLOG_READ

/-- Takes an accepted command out of the arrivals. A check that refuses it then leaves it with no effect (R331). -/
def State.take (s : State) (f n : Nat) : State := s.accept f n

/-- Begins a command that its checks have passed: its partition woken (R450), relayed to its domain (R345), started. -/
def State.beginCmd (s : State) (f n : Nat) : State :=
  let s1 := if f ≠ 0 ∧ !quietOp (s.cmd f n).opcode then s.wakePart f else s
  (s1.relay f n).startCmd f n

/-- A command's row: takes the accepted command and runs its check 6 and effect, or leaves the state when the slot holds no
such command. -/
def takeOp (s : State) (f n op : Nat) (body : State → State) : Out :=
  .next (if s.canTake f n op then body (s.take f n) else s)

/-! ## Completion (R333, R334, R342 to R346) -/

/-- Sends vector `n` of a function, or sets its pending bit while it is masked (R346). -/
def State.msix (s : State) (f n : Nat) : State :=
  let x := s.fn f
  if x.msixMask.getLsbD n then s.setFn f { x with msixPending := x.msixPending ||| (1#32 <<< n) }
  else if s.hostOpen f then
    s.hostWrite f (BMap.readLe x.msix (16 * n) 8) (BMap.readBytes x.msix (16 * n + 8) 4) .none
  else s

/-- The 64 bytes of a reply area (R333). -/
def replyBytes (n : Nat) (c : Cmd) (flag flushed stands : Bool) : List Byte :=
  natLe c.status 2 ++ natLe (flag.toNat + 2 * flushed.toNat + 4 * stands.toNat + 8 * c.late.toNat) 1 ++ natLe n 1 ++
  natLe c.tag 4 ++ natLe c.arrival 8 ++ natLe c.start 8 ++ natLe c.stop 8 ++
  natLe ((c.result.getD 0 0).toNat) 8 ++ natLe ((c.result.getD 1 0).toNat) 8 ++
  natLe ((c.result.getD 2 0).toNat) 8 ++ natLe ((c.result.getD 3 0).toNat) 8

/-- Writes the reply and DONE, then the completion flag, then the MSI-X message (R333, R334, R344, R346, R348). -/
def State.complete (s : State) (f n : Nat) (flushed : Bool) : State :=
  let c := s.cmd f n
  let flag := c.flagAddr ≠ 0 && !c.noFlag && s.hostOpen f && (f == 0 || (s.part f).host != .orphaned)
  let s1 := s.modSlot f n (fun x => { x with
    state := .done, status := c.status
    reply := BMap.writeBytes [] 0 (replyBytes n c flag flushed x.stands)
    cmd := { c with phase := .none, flushed := flushed } })
  let s2 := if flag then
      s1.hostWrite f c.flagAddr (natLe c.tag 4 ++ natLe c.status 2 ++ natLe n 1 ++ natLe 1 1) .none
    else s1
  let s2 := if c.wroteHost && f != 0 then s2.modPart f (fun x => { x with wrote := x.wrote ++ [(n, c.tag, c.stop)] }) else s2
  let s3 := if bit c.cmdFlags 2 then s2.msix f n else s2
  s3.trace pHIF 9 (traceWord f n c.opcode) c.tag c.stop

/-- Other positions of the domain that still owe a report (R345). -/
def State.owed (s : State) (f : Nat) (c : Cmd) : List Nat :=
  if bit c.cmdFlags 1 && c.relayed.isNone && c.start ≠ 0 then
    (List.range s.fabricN).filter (fun i => i != s.fabric.position && Tbl.get 0 c.reports i = 0 && (s.domainMembers (s.part f).domain).contains i)
  else []

/-- The status of a relayed command: HOST_LINK_LOST once a path is lost; else that of the failing member with the lowest
position, this member's own included; OK when none failed (R345 step 4). -/
def State.domainStatus (s : State) (c : Cmd) : Nat :=
  if c.pathLost then stHOST_LINK_LOST
  else if bit c.cmdFlags 1 && c.relayed.isNone then
    let all := (List.range s.fabricN).map (fun i => if i = s.fabric.position then c.status else Tbl.get 1 c.reports i - 1)
    (all.find? (fun x => x != 0)).getD c.status
  else c.status

/-- A member's report to the issuing member, with its log entry and no reply (R345 step 3). -/
def State.report (s : State) (f n issuer : Nat) : State :=
  let c := s.cmd f n
  let (k, s0) := s.packet 0 1 (s.part f).domain issuer 0 (natLe c.tag 4 ++ natLe c.status 2 ++ List.replicate 26 0)
  let s1 := s0.dispatch { k with tag := BitVec.ofNat 16 c.tag }
  (s1.event pHIF f 0x000F 0 issuer c.status c.tag 0).setSlot f n {}

/-- Whether a finished command may complete: its host writes acknowledged, its members' reports in, the link not in Recovery. -/
def State.mayComplete (s : State) (f n : Nat) : Bool :=
  let c := s.cmd f n
  c.phase == .finished && c.writes == 0 && (s.owed f c).isEmpty && s.link.recovery.isNone

/-- COMMAND_COMPLETE: flushes the command's path with a zero-length read when FLUSH_PATHS asks for it, otherwise writes the
reply, DONE, flag and interrupt (R344). -/
def execCommandComplete (fn slot : Nat) (s : State) : Out :=
  .next (if s.mayComplete fn slot then
    let c := s.cmd fn slot
    match c.relayed with
    | some issuer => s.report fn slot issuer
    | none =>
      let s1 := s.modCmd fn slot (fun x => { x with status := s.domainStatus x })
      if bit c.cmdFlags 0 && s.hostOpen fn && !c.noFlag && (fn == 0 || (s.part fn).host != .orphaned) then
        (s1.modCmd fn slot (fun x => { x with phase := .flushing })).hostRead fn (s.fn fn).flushAddr.toNat 0 (.flush fn slot)
      else s1.complete fn slot false
  else s)

/-- The last flush read of a command has completed, whatever its completion status: reply, DONE, flag (R344). PATHS_FLUSHED is
clear when another member's path was lost (R345). -/
def State.flushDone (s : State) (f n : Nat) : State :=
  if (s.cmd f n).phase == .flushing then
    let began := ((s.link.reads.find? (fun r => r.owner == Owner.flush f n)).map (·.issued)).getD s.now
    let s1 := { s with link := { s.link with reads := s.link.reads.filter (fun r => !(r.owner == Owner.flush f n)) } }.trace pHIF 10 1 (s.now - began) 0
    (s1.modCmd f n (fun c => { c with flushes := 0 })).complete f n (!(s.cmd f n).pathLost)
  else s

/-- FLUSH_READ_COMPLETE. -/
def execFlushReadComplete (fn slot : Nat) (s : State) : Out :=
  .next (if s.link.recovery.isNone then s.flushDone fn slot else s)

/-! ## Deadlines and heartbeats -/

/-- Whether a command's deadline has passed, its pauses apart (R337, R347, R410). -/
def State.deadlinePassed (s : State) (f : Nat) (c : Cmd) : Bool :=
  c.live && c.deadline ≠ 0 && decide (c.arrival + c.deadline + c.paused ≤ s.now) && s.link.recovery.isNone && !s.deadlineHeld f c.opcode

/-- DEADLINE_EXPIRE: a command that has not started ends with TIMEOUT and no effect; a running one has its own work stopped as
a HALT stops work, and sets DEADLINE_PASSED (R337). -/
def execDeadlineExpire (fn slot : Nat) (s : State) : Out :=
  .next (if s.deadlinePassed fn (s.cmd fn slot) then
    if (s.cmd fn slot).phase == .accepted then (s.accept fn slot).finishCmd fn slot stTIMEOUT
    else (s.modCmd fn slot (fun c => { c with late := true })).stopCommand fn slot stTIMEOUT
  else s)

/-- Ends the collectives of a partition on this member, whose commands complete with ABORTED (R315, R351). -/
def State.loseMember (s : State) (p : Nat) : State :=
  forEach (s.part p).colls (s.endColl p (fun _ => true)) (fun c st => st.finishCmd p c.slot stABORTED)

/-- A partition becomes ORPHANED (R351): queued commands end, running programs stop at their next step boundary, STEP_FENCE
waits end, collectives lose the member; the rest runs to completion. -/
def State.orphan (s : State) (p cause : Nat) : State :=
  let s1 := s.modPart p (fun x => { x with host := .orphaned, cause := cause })
  let s2 := s1.event pHIF p 0x0004 p cause 0 0 0
  let s3 := forEach (s2.cmdsOf p (fun c => c.phase == .accepted)) s2 (fun n st => (st.accept p n).finishCmd p n stORPHANED)
  let s4 := forEach (s3.cmdsOf p (fun c => c.phase == .running && c.opcode == opSTEP_FENCE)) s3
    (fun n st => st.stopCommand p n stORPHANED)
  let s5 := forEach (s4.cmdsOf p (fun c => c.phase == .running && c.opcode == opRUN)) s4
    (fun n st =>
      let g := (st.cmd p n).param 0 1
      (st.noteStop p g { status := stORPHANED, unit := 0, kind := 0, stamp := st.now, own := false }).stopAtBoundary p g stORPHANED)
  s5.loseMember p

/-- HEARTBEAT_TIMEOUT (R350). -/
def execHeartbeatTimeout (fn : Nat) (s : State) : Out :=
  .next (if (s.part fn).host == .attached && s.power.state == .ms0 && s.link.recovery.isNone && s.hifTakes &&
      decide ((s.fn fn).lastBeat + (s.fn fn).heartbeat.toNat * 1000000000 ≤ s.now) then
    s.orphan fn 1 else s)

/-! ## The host link -/

/-- Whether a command has host traffic in flight or queued: its own reads, writes or flush, or that of a tile of its program. -/
def State.hostTraffic (s : State) (f n : Nat) : Bool :=
  let c := s.cmd f n
  c.writes ≠ 0 || c.reads ≠ 0 || c.flushes ≠ 0 ||
  (c.opcode == opRUN && c.phase == .running &&
    (s.program f (c.param 0 1)).tiles.any (fun t =>
      s.link.reads.any (fun r => r.owner.isTile t) || s.link.writes.any (fun w => w.owner.isTile t)))

/-- A function's F-scope state at its reset values (R347 step 6, R355 step 6, R505): configuration space, MSI-X, BAR0
registers of scope F, held halves, captures and windows. -/
def Fn.resetF (x : Fn) : Fn := { arrivals := x.arrivals, refusals := x.refusals, lockout := x.lockout, spdm := x.spdm, lastBeat := x.lastBeat }

/-- Ends every SPDM session of a function and discards its exchange (R476). -/
def State.endSpdm (s : State) (f : Nat) : State := s.modFn f (fun x => { x with spdm := {} })

/-- Ends, with no flag then or later, a command whose host traffic is lost. -/
def State.loseHost (s : State) (f n status : Nat) : State :=
  let s1 := if (s.cmd f n).live then (s.accept f n).stopCommand f n status
    else s.modCmd f n (fun c => if c.phase == .flushing || c.phase == .finished then { c with phase := .finished, status := status } else c)
  s1.modCmd f n (fun c => { c with noFlag := true, writes := 0, reads := 0, flushes := 0 })

/-- Whether a command is a started one that this member relayed to its domain. -/
def Cmd.issuing (c : Cmd) : Bool := bit c.cmdFlags 1 && c.relayed.isNone && c.start != 0

/-- Link loss (R347): posted writes are dropped, commands with host traffic, those issued here to a domain (R345) and outstanding
reads end with HOST_LINK_LOST, and every partition goes ORPHANED with CAUSE link lost. -/
def State.loseLink (s : State) : State :=
  let hit := (List.range 9).map (fun f => (f, s.cmdsOf f (fun c => c.phase != .none) |>.filter (fun n => s.hostTraffic f n || (s.cmd f n).issuing)))
  let busy := forEach hit s (fun e st => forEach e.2 st (fun n st' => st'.loseHost e.1 n stHOST_LINK_LOST))
  let s1 := { busy with link := { busy.link with up := false, recovery := none, writes := [], reads := [], heldBar := [] } }
  let s2 := forEach (List.range 9) s1 (fun f st => forEach (st.cmdsOf f (fun c => c.phase != .none)) (st.endSpdm f)
    (fun n st' => if f = 0 then st' else st'.modCmd f n (fun c => { c with noFlag := true })))
  forEach s2.partsPresent s2 (fun p st => st.orphan p 2)

/-- HOST_LINK_LOST. In MS4 the loss of the link is part of the state (R453). -/
def execHostLinkLost (cause : LinkLoss) (s : State) : Out :=
  .next (if s.link.up then
    let s1 := if s.power.state == .ms4 then { s with link := { s.link with up := false } } else s.loseLink
    { s1 with link := { s1.link with perst := cause == .perst } }
  else s)

/-- HOST_LINK_UP (R347 step 6, R486): the link trains once start-up allows it and PERST_N is released; configuration space
and the F-scope registers are at reset values; command windows, replies and partition state are kept. -/
def execHostLinkUp (s : State) : Out :=
  .next (if !s.link.up && (s.power.state == .ms0 || s.power.state == .ms3) then
    let s1 := forEach (List.range 9) s (fun f st => st.modFn f Fn.resetF)
    { s1 with link := { s1.link with up := true, perst := false, recovery := none, gts := 64, width := 16 } }
  else s)

/-- LINK_RECOVERY (R347): outgoing requests are held; deadlines, completion timers and heartbeats pause. -/
def execLinkRecovery (s : State) : Out :=
  .next (if s.link.up && s.link.recovery.isNone then { s with link := { s.link with recovery := some s.now } } else s)

/-- LINK_RECOVERY_END (R347): the pauses end, at a speed and width that may have changed. -/
def execLinkRecoveryEnd (gts width : Nat) (s : State) : Out :=
  .next (match s.link.recovery with
  | none => s
  | some t0 =>
    let d := s.now - t0
    { s with
      link := { s.link with recovery := none, gts := gts, width := width,
                            reads := s.link.reads.map (fun r => { r with issued := r.issued + d }) }
      slots := Tbl.mapV {} (fun (x : Slot) => if x.cmd.live then { x with cmd := { x.cmd with paused := x.cmd.paused + d } } else x) s.slots
      fns := Tbl.mapV {} (fun (x : Fn) => if x.lastBeat = 0 then x else { x with lastBeat := x.lastBeat + d }) s.fns })

/-! ## Function-level reset and bus mastering (R355, R356) -/

/-- Drops a function's unsent writes and outstanding reads. -/
def State.dropHost (s : State) (f : Nat) : State :=
  { s with link := { s.link with writes := s.link.writes.filter (fun w => w.fn != f), reads := s.link.reads.filter (fun r => r.fn != f) } }

/-- FLR: the function issues no new request, its commands end with ABORTED, recorded in the log, and its partition's work stops. -/
def execFlr (fn : Nat) (s : State) : Out :=
  .next (if fn < 9 && s.link.up && (s.fn fn).flrStart.isNone then
    let s0 := { s with link := { s.link with heldBar := s.link.heldBar.filter (fun w => w.1 != fn) } }
    let s1 := (s0.modFn fn (fun x => { x with flrStart := some s.now, capture := none, lowHold := none })).dropHost fn
    let live := s1.cmdsOf fn (fun c => c.phase != .none)
    let s2 := forEach live s1 (fun n st =>
      let st1 := st.loseHost fn n stABORTED
      st1.error pHIF { status := stABORTED, cls := cPARTITION, unit := 8, unitId := fn, pt := fn, fn := fn, slot := n, tag := (st1.cmd fn n).tag })
    let s3 := if fn = 0 then s2 else s2.loseMember fn
    s3.endSpdm fn
  else s)

/-- FLR_COMPLETE: 100 ms later, configuration space, MSI-X, BAR0 registers and slots are reset, and the partition is ORPHANED
with CAUSE FLR and its token kept. -/
def execFlrComplete (fn : Nat) (s : State) : Out :=
  .next (match (s.fn fn).flrStart with
  | none => s
  | some t =>
    if s.now < t + 100000000 then s
    else
      let s1 := s.modFn fn (fun x => { x.resetF with arrivals := [] })
      let s2 := { s1 with slots := s1.slots.filter (fun e => e.1 / 128 != fn) }
      if fn ≠ 0 && (s2.part fn).isPresent then s2.orphan fn 3 else s2)

/-- BUS_MASTER_DISABLE: host access ends, and commands with host traffic in flight end with ABORTED (R356). -/
def execBusMasterDisable (fn : Nat) (s : State) : Out :=
  .next (if fn < 9 && (s.fn fn).bme then
    let s1 := s.modFn fn (fun x => { x with bme := false })
    let busy := (s1.cmdsOf fn (fun c => c.phase != .none)).filter (fun n => s1.hostTraffic fn n)
    (forEach busy s1 (fun n st => st.loseHost fn n stABORTED)).dropHost fn
  else s)

/-- BUS_MASTER_ENABLE: host access resumes for later work; no command resumes (R356). -/
def execBusMasterEnable (fn : Nat) (s : State) : Out :=
  .next (if fn < 9 && s.link.up then s.modFn fn (fun x => { x with bme := true }) else s)

/-! ## Completions of host requests (R339, R340, R411) -/

/-- A completion that arrives after its request has ended is discarded by its tag and recorded (R411). -/
def State.lateDiscard (s : State) (src unit unitId pt : Nat) : State :=
  s.error src { status := 0, cls := cREQUEST, unit := unit, unitId := unitId, pt := pt, rflags := 2 }

/-- Delivers bytes to a read's owner. -/
def State.deliver (s : State) (r : HostRead) (bytes : List Byte) : State :=
  match r.owner with
  | .flush f n => s.flushDone f n
  | o => s.arrive o r.off bytes

/-- Ends a read's request with a status (R340). -/
def State.failRead (s : State) (r : HostRead) (status : Nat) : State :=
  match r.owner with
  | .flush f n => s.flushDone f n
  | o => (s.ownReads o (· - 1)).failOwner o status (2 ^ 63 + r.addr)

/-- Removes an outstanding read. -/
def State.dropRead (s : State) (tag : Nat) : State :=
  { s with link := { s.link with reads := s.link.reads.filter (fun r => r.tag != tag) } }

/-- HOST_READ_COMPLETION (R340). -/
def execHostReadCompletion (tag : Nat) (result : HostReadResult) (s : State) : Out :=
  .next (if !s.link.up || s.link.recovery.isSome then s
  else match s.link.reads.find? (fun r => r.tag == tag) with
  | none => if tag < s.link.nextTag then s.lateDiscard pHIF 8 0 0 else s
  | some r =>
    match result with
    | .data bytes => if bytes.length = r.len then (s.dropRead tag).deliver r bytes else s
    | .unsupportedRequest => (s.dropRead tag).failRead r stDENIED
    | .completerAbort => (s.dropRead tag).failRead r stDENIED
    | .poisoned => (s.dropRead tag).failRead r stDATA_ERROR)

/-- HOST_READ_TIMEOUT: no completion within 50 ms with the link up (R340). -/
def execHostReadTimeout (tag : Nat) (s : State) : Out :=
  .next (match s.link.reads.find? (fun r => r.tag == tag) with
  | none => s
  | some r =>
    if s.link.up && s.link.recovery.isNone && decide (r.issued + 50000000 ≤ s.now) then (s.dropRead tag).failRead r stDATA_ERROR
    else s)

/-- HOST_WRITE_ACK: the last TLP of a function's oldest store is acknowledged (R324, R339). -/
def execHostWriteAck (id : Nat) (s : State) : Out :=
  .next (if !s.link.up || s.link.recovery.isSome then s
  else match s.link.writes.find? (fun w => w.id == id) with
  | none => s
  | some w =>
    if (s.link.writes.find? (fun v => v.fn == w.fn)).map (·.id) = some id then
      ({ s with link := { s.link with writes := s.link.writes.filter (fun v => v.id != id) } }).ownWrites w.owner (· - 1)
    else s)

/-! ## Relayed commands (R345) -/

/-- The error entry that names the position whose path a command has lost. -/
def State.pathError (s : State) (p n i : Nat) : State :=
  s.error pFAB { status := stHOST_LINK_LOST, cls := cREQUEST, unit := 9, unitId := (s.routePort i).getD 0xFF, pt := p, detail := i, fn := p, slot := n,
                 tag := (s.cmd p n).tag }

/-- DOMAIN_RELAY: a member takes a command relayed to its domain and runs its part as an accepted command; a member whose
partition is ORPHANED reports ORPHANED. -/
def execDomainRelay (fn issuer : Nat) (packet : List Byte) (s : State) : Out :=
  .next (if 1 ≤ fn && s.domainActive fn && issuer ≠ s.fabric.position then
    match findFrom (fun n => (s.cmd fn n).phase == .none) 64 64 with
    | none => s
    | some n =>
      let (t, s1) := s.stamp (.akx 0)
      let c : Cmd := { packet := BMap.writeBytes [] 0 packet, phase := .accepted, arrival := t, relayed := some issuer }
      let s2 := s1.setSlot fn n { cmd := c }
      if (s2.part fn).host = .orphaned then s2.finishCmd fn n stORPHANED else s2
  else s)

/-- DOMAIN_REPORT: the issuing member notes a member's completion report; the first report of a position stands. A report of a
lost host link leaves that path unflushed, and an error entry names the position (R345). -/
def execDomainReport (fn slot position status : Nat) (s : State) : Out :=
  let c := s.cmd fn slot
  .next (if c.phase ≠ .none && bit c.cmdFlags 1 && c.relayed.isNone && position ≠ s.fabric.position && Tbl.get 0 c.reports position = 0 then
    let s1 := s.modCmd fn slot (fun x => { x with reports := Tbl.set 0 x.reports position (status + 1), pathLost := x.pathLost || status == stHOST_LINK_LOST })
    if status = stHOST_LINK_LOST then s1.pathError fn slot position else s1
  else s)

end Sys2Proof.Machine
end

