-- ==== Sys2Proof/Machine/Regs.lean ====
section
/-! DEFINITION. The register map of BAR0 (R503 to R515), the log and survey windows, and the commands that copy them to the
host (R380, R381). -/

namespace Sys2Proof.Machine

open Sys2Proof

/-! ## Views -/

/-- MODULE_ID (R468): the first 64 bits of the SHA-384 of the DeviceID key are a value of the chip; held by SEC. -/
def State.moduleId (s : State) : Nat := s.sec.moduleId.toNat

/-- Module state code (R445). -/
def stateCode : ModuleState → Nat
  | .ms3 => 3
  | .ms4 => 4
  | _ => 0

/-- SYNC_HOLDOVER (R302, R389). -/
def State.syncHoldover (s : State) : Bool := s.fabric.holdover || s.fabric.halfRate

/-- DEV_STATUS (R507). -/
def State.devStatus (s : State) : Nat :=
  s.power.devReady.toNat + 2 * s.power.fatal.toNat + 4 * s.power.thermal.toNat + 8 * s.power.overPower.toNat +
  16 * s.syncHoldover.toNat + 32 * s.flash.wearWarn.toNat + 64 * s.flash.readOnly.toNat + 128 * s.power.cleanStart.toNat +
  256 * stateCode s.power.state

/-- Contexts counted against CTX_QUOTA. -/
def State.ctxCount (s : State) (p : Nat) : Nat := (s.ctxs.filter (fun e => e.2.state ≠ 0 && e.2.owner == p)).length

/-- Extents of a partition in TRIMMING. -/
def State.trimCount (s : State) (p : Nat) : Nat := (s.flash.extents.filter (fun e => e.2.trimming == p)).length

/-- PT_GRANT (R510). -/
def Part.grantWord (p : Part) : Nat :=
  p.sections.toNat + p.hbm.toNat * 2 ^ 16 + p.extents.length * 2 ^ 36 + p.ctxQuota * 2 ^ 45

/-- Extents bound to a partition, in the order of their indices (R230, R231). -/
def State.boundExtents (s : State) (p : Nat) : List Nat :=
  let own := s.flash.extents.filter (fun e => e.2.owner == p)
  (List.range own.length).filterMap (fun i => (own.find? (fun e => e.2.index == i)).map (·.1))

/-- PT_STATUS.GRANT (R510); while the partition does not exist it shows the extents bound to it (R231). -/
def State.grantOf (s : State) (p : Nat) : Nat :=
  if (s.part p).isPresent then (s.part p).grantWord else (s.boundExtents p).length * 2 ^ 36

/-- PT_INFO (R510). -/
def State.infoWord (s : State) (p : Nat) : Nat :=
  (s.part p).policy.toNat + 2 * (s.policyZ p).toNat + 4 * (s.part p).domain + (s.part p).fabIndex * 2 ^ 18 +
  (s.domainActive p).toNat * 2 ^ 24

def hostCode : HostSt → Nat
  | .detached => 0
  | .attached => 1
  | .orphaned => 2

/-- Whether a partition has an apply that is not finished. -/
def State.applyPending (s : State) (p : Nat) : Bool := !(s.part p).train.applies.isEmpty

/-- PT_STATUS word 0 (R511). -/
def State.statusWord (s : State) (p : Nat) : Nat :=
  let x := s.part p
  x.isPresent.toNat + 2 * x.policy.toNat + 4 * (s.policyZ p).toNat + 8 * hostCode x.host + 32 * x.cause +
  256 * (if x.asleep then 2 else 0) + 2048 * (s.cmdActive p).toNat + 4096 * (s.applyPending p).toNat

/-- STACK_STATE code of a stack (R512). -/
def State.stackCode (s : State) (k : Nat) : Nat :=
  match (s.stack k).mode with
  | .scrubbing => 2
  | .failed => 3
  | _ => if s.stackOwner k = 0 then 0 else 1

/-- SECTION_STATE code of a section (R512). -/
def State.sectionCode (s : State) (i : Nat) : Nat :=
  if s.secOut.getLsbD i then 3 else if s.secClear.getLsbD i then 2 else if s.sectionOwner i = 0 then 0 else 1

/-- The power registers of a function's scope (R447, R506). -/
def State.powerRegs (s : State) (f : Nat) : PowerRegs := if f = 0 then s.power.regs else (s.part f).power

/-- POWER_STATUS (R447). -/
def State.powerStatus (s : State) (f : Nat) : Nat :=
  (if f = 0 then stateCode s.power.state else if (s.part f).asleep then 2 else 0) +
  8 * (s.powerRegs f).phase.toNat + 32 * (s.powerRegs f).result.toNat

/-- REFUSALS (R447). -/
def PowerRegs.refusals (r : PowerRegs) : Nat :=
  r.aRefused.toNat + r.aAborted.toNat * 2 ^ 16 + r.bRefused.toNat * 2 ^ 32 + r.bAborted.toNat * 2 ^ 48

/-- LAST_REFUSER (R447). -/
def PowerRegs.refuser (r : PowerRegs) : Nat :=
  r.agent.toNat + r.reason.toNat * 256 + r.requested.toNat * 65536 + r.abort.toNat * 2 ^ 19

/-- SEQ of the newest and of the oldest entry held (R513); 0 while the ring is empty. -/
def State.logNewest (s : State) : Nat := (s.log.entries.getLast?.map (·.seq)).getD 0
def State.logOldest (s : State) : Nat := (s.log.entries.head?.map (·.seq)).getD 0

/-- SLOT_STATE of a slot (R328). -/
def slotCode : SlotState → Nat
  | .free => 0
  | .queued => 1
  | .running => 2
  | .done => 3
def slotWord (x : Slot) : Nat :=
  slotCode x.state + (if x.state = .done then 4 else 0) + 8 * x.discard.toNat + x.seq.toNat * 256 + x.status * 65536

/-- SLOT_DONE and SLOT_FREE (R509). -/
def State.slotMask (s : State) (f : Nat) (w : SlotState) : Nat :=
  ((List.range 32).map (fun n => if (s.slot f n).state = w then 2 ^ n else 0)).foldl (· + ·) 0

/-! ## Log entries as bytes (R405, R428, R429) -/

/-- Bytes 16-63 of an error record. -/
def errorFields (r : ErrorRecord) : List (Nat × Nat × Nat) :=
  [(16, 2, r.status), (18, 1, r.cls), (19, 1, r.unit), (20, 2, r.unitId), (22, 1, r.pt), (23, 1, r.rflags), (24, 8, r.addr),
   (32, 8, r.detail), (40, 8, r.hwStamp), (48, 1, r.fn), (49, 1, r.slot), (52, 4, r.tag), (56, 4, r.suppressed)]

/-- TYPE and bytes 16-63 of an entry. -/
def bodyFields : LogBody → Nat × List (Nat × Nat × Nat)
  | .error r => (1, errorFields r)
  | .event c u a0 a1 a2 a3 => (2, [(16, 2, c), (18, 2, u), (24, 8, a0), (32, 8, a1), (40, 8, a2), (48, 8, a3)])
  | .trace p a0 a1 a2 => (3, [(16, 2, p), (24, 8, a0), (32, 8, a1), (40, 8, a2)])
  | .mark k a0 a1 => (4, [(16, 2, k), (24, 8, a0), (32, 8, a1)])
  | .prior r => (5, errorFields r)

/-- The 64 bytes of a log entry. -/
def entryBytes (e : LogEntry) : List Byte :=
  let b := bodyFields e.body
  BMap.readBytes (fieldBytes ([(0, 8, e.stamp), (8, 6, e.seq), (14, 1, b.1), (15, 1, e.src % 16 + e.pt * 16)] ++ b.2)) 0 64

/-- The entries a function may see (R430). -/
def State.visible (s : State) (f : Nat) : List LogEntry :=
  if f = 0 then s.log.entries else s.log.entries.filter (fun e => e.pt == f)

/-- Takes a snapshot of up to 64 visible entries starting at FROM (R513). -/
def State.takeLogWindow (s : State) (f start : Nat) : State :=
  let w := ((s.visible f).filter (fun e => decide (max start s.logOldest ≤ e.seq))).take 64
  s.modFn f (fun x => { x with
    logCursor := BitVec.ofNat 48 start
    logWindow := w
    logGap := BitVec.ofNat 32 (min (2 ^ 32 - 1) (s.logOldest - start))
    logNext := BitVec.ofNat 48 (match w.getLast? with | some e => e.seq + 1 | none => start) })

/-! ## The survey report (R463 to R465, R290) -/

def portCode : PortState → Nat
  | .down => 0
  | .measure => 1
  | .train => 2
  | .caps => 3
  | .up => 4
  | .degraded => 5
  | .miswired => 6
  | .failed => 7

/-- The stack temperature: the largest current reading (R200). -/
def Stack.temperature (k : Stack) : Nat := k.readings.foldl (fun m e => max m e.2) 0

/-- CORE ceiling of each level (R201). -/
def levelMhz (l : Nat) : Nat := if l ≤ 1 then 1650 else if l = 2 then 1200 else if l = 3 then 900 else 600

/-- A die's CORE ceiling: the lowest of its stacks' levels, the firmware and power-limit ceilings and the clamp (R201, R402,
R460). -/
def State.dieCeiling (s : State) (d : Nat) : Nat :=
  let heat := (List.range 5).foldl (fun m i => min m (levelMhz (s.stack (5 * d + i)).level)) 1650
  let x := s.die d
  if x.hot || x.overload then 600 else min heat (min x.limitMhz (x.fwCeiling.getD 1650))

/-- Physical index of a tile name (R5); 0xFF when absent. -/
def Die.physicalOf (d : Die) (nn : Nat) : Nat :=
  if d.absent.contains nn then 0xFF
  else match Tbl.get 0 d.physical nn with
    | 0 => nn
    | k + 1 => k

/-- Sum of 2^i over the numbers below `n` that satisfy `q`. -/
def maskOf (n : Nat) (q : Nat → Bool) : Nat := ((List.range n).map (fun i => if q i then 2 ^ i else 0)).foldl (· + ·) 0

def shift (off : Nat) (fs : List (Nat × Nat × Nat)) : List (Nat × Nat × Nat) := fs.map (fun f => (off + f.1, f.2))

/-- The stepping: Revision ID of every function, IDENT's REVISION and byte 6 of every survey report (R7). -/
def stepping : Nat := 0xB0

/-- The fields of a function's PCIe configuration header that the manual gives, as (offset, bytes, value): Revision ID (R7) and class
code (R323). The offsets are PCI's; no command of the block reads them (assumption 194). -/
def configHeader (_f : Nat) : List (Nat × Nat × Nat) := [(0x08, 1, stepping), (0x09, 3, 0x120000)]

/-- Header and power section (R464); rails, ripple, inlet current and coolant readings are free values of the moment (R461). -/
def State.surveyHead (s : State) (stamp : Nat) : List (Nat × Nat × Nat) :=
  let fr := fun i w => Config.freeNat (s.free + i) % 2 ^ w
  [ (0, 4, 0x56525553), (4, 2, 1), (6, 1, stepping), (8, 8, s.moduleId), (16, 4, s.startCount),
    (20, 4, s.power.fatal.toNat + 2 * s.syncHoldover.toNat + 4 * s.flash.wearWarn.toNat + 8 * s.flash.readOnly.toNat +
      16 * (s.hbm.any (fun e => e.2.parityStorm)).toNat + 32 * s.power.thermal.toNat + 64 * s.power.overPower.toNat +
      128 * s.power.cleanStart.toNat),
    (24, 8, stamp), (32, 4, 4224), (36, 1, s.fabric.shape), (37, 1, if s.fabric.shape = 0xFF then 0xFF else s.fabric.position),
    (0x80, 1, s.power.thermal.toNat + 2 * s.power.overPower.toNat +
      4 * ((List.range 4).any (fun d => (s.die d).fwCeiling.isSome)).toNat),
    (0x84, 4, s.power.inletMv), (0x88, 4, fr 0 32), (0x8C, 4, fr 1 32), (0x90, 4, s.power.mW), (0x94, 4, s.power.mW100),
    (0x98, 4, s.power.peakMw), (0x9C, 2, s.power.limitW.toNat), (0x9E, 2, s.power.hubTemp), (0xA0, 2, fr 2 16), (0xA2, 2, fr 3 16),
    (0xA4, 4, s.power.ms2Refused), (0xA8, 4, s.power.ms2Aborted), (0xAC, 4, s.power.regs.aRefused.toNat),
    (0xB0, 4, s.power.regs.aAborted.toNat), (0xB4, 4, s.power.regs.bRefused.toNat), (0xB8, 4, s.power.regs.bAborted.toNat),
    (0xBC, 4, s.power.regs.refuser), (0xC0, 8, s.power.regs.stamp) ] ++
  (List.range 32).flatMap (fun i =>
    [(0x100 + 8 * i, 2, fr (4 + 3 * i) 16), (0x102 + 8 * i, 2, fr (5 + 3 * i) 16), (0x104 + 8 * i, 2, fr (6 + 3 * i) 16),
     (0x107 + 8 * i, 1, (s.power.railsOver.getLsbD i).toNat)])

/-- A stack record (R465). -/
def State.surveyStack (s : State) (k : Nat) : List (Nat × Nat × Nat) :=
  let x := s.stack k
  [ (0, 1, modeCode x.mode), (1, 1, x.level), (2, 1, s.stackOwner k),
    (3, 1, if x.mode = .scrubbing then 2 else if s.stackOwner k = 0 then 0 else 1),
    (4, 2, x.temperature), (8, 4, x.parity), (12, 4, x.retry), (16, 4, x.retryOk), (20, 4, x.poisoned), (48, 1, x.parityStorm.toNat) ] ++
  (List.range 6).map (fun l =>
    (24 + 4 * l, 4, min (2 ^ 32 - 1) ((Tbl.get 0 x.levelNs l + (if l = x.level then s.now - x.levelSince else 0)) / 1000000)))

/-- A die record (R465). -/
def State.surveyDie (s : State) (d : Nat) : List (Nat × Nat × Nat) :=
  let x := s.die d
  [ (0, 2, x.coreMhz), (2, 2, s.dieCeiling d), (4, 2, x.diode),
    (6, 1, (List.range 4).foldl (fun a i => a + s.sectionCode (4 * d + i) * 4 ^ i) 0),
    (7, 1, ((List.range 64).filter (fun nn => x.physicalOf nn == 64 || x.physicalOf nn == 65)).length),
    (8, 8, maskOf 64 (fun nn => (s.tile (64 * d + nn)).failing)), (16, 8, maskOf 64 (fun nn => x.absent.contains nn)) ] ++
  (List.range 64).map (fun nn => (24 + nn, 1, x.physicalOf nn))

/-- A port record (R290). -/
def State.surveyPort (s : State) (p : Nat) : List (Nat × Nat × Nat) :=
  let x := s.port p
  let q := x.partner.getD default
  [ (0, 1, portCode x.state), (1, 1, x.term), (2, 2, x.lengthCm),
    (4, 1, (8 - (x.lanesBad.length - x.spareUsed.toNat)) % 16 + 16 * x.spareUsed.toNat + 32 * (x.hasSpare && !x.spareUsed && decide (32 < s.fabricN)).toNat),
    (5, 1, if x.partner.isSome then q.port else 0xFF), (6, 1, if x.partner.isSome then q.position else 0xFF),
    (7, 1, q.fec.toNat), (8, 8, q.identity.toNat), (16, 4, q.firmware.toNat), (20, 4, x.corrected), (24, 2, min 65535 x.replays),
    (26, 2, min 65535 x.switches), (28, 4, x.linkUps) ]

/-- A partition record (R465). -/
def State.surveyPart (s : State) (p : Nat) : List (Nat × Nat × Nat) :=
  let x := s.part p
  [ (0, 1, x.isPresent.toNat), (1, 1, x.policy.toNat + 2 * (s.policyZ p).toNat), (2, 1, hostCode x.host + 4 * x.cause),
    (3, 1, if x.asleep then 2 else 0), (4, 2, x.sections.toNat), (8, 4, x.hbm.toNat), (12, 2, x.extents.length),
    (14, 2, x.ctxQuota), (16, 4, s.ctxCount p), (20, 2, x.domain), (22, 1, x.fabIndex), (24, 4, x.failedTotal), (28, 4, x.lateTotal),
    (32, 4, x.pinRefused), (36, 4, s.trimCount p), (40, 8, x.written) ]

/-- Highest program/erase count, spare blocks in 0.01 % and blocks retired of a channel (R465). -/
def State.surveyChannel (s : State) (ch : Nat) : List (Nat × Nat × Nat) :=
  let bs := s.flash.blocks.filter (fun e => e.1 / 2 ^ 20 == ch)
  [ (64 + 8 * ch, 4, bs.foldl (fun m e => max m e.2.cycles) 0), (68 + 8 * ch, 2, 300 - Tbl.get 0 s.flash.spare ch),
    (70 + 8 * ch, 2, (bs.filter (fun e => e.2.retired)).length) ]

/-- The tier section (R465): rated life is 54,780 TiB (R259). -/
def State.surveyTier (s : State) : List (Nat × Nat × Nat) :=
  [ (0, 8, s.flash.written), (8, 2, s.flash.written * 10000 / (54780 * 2 ^ 40)),
    (10, 1, s.flash.wearWarn.toNat + 2 * s.flash.readOnly.toNat + 4 * s.flash.rebuilt.toNat) ] ++
  (List.range 32).flatMap s.surveyChannel

/-- The processor whose banks hold the image of code `c`: DCTL images run on all four DCTLs (R437). -/
def bankOf (c : Nat) : Nat := if 7 ≤ c then 7 else c

/-- A processor record (R465). -/
def State.surveyProc (s : State) (c : Nat) : List (Nat × Nat × Nat) :=
  let x := s.proc c
  let b := s.proc (bankOf c)
  [ (0, 1, c), (1, 1, x.ready.toNat + 2 * x.unstable.toNat + 4 * b.armed.toNat + 8 * b.staged.isSome.toNat),
    (4, 4, (b.current.map (·.version)).getD 0), (8, 4, (b.staged.map (·.version)).getD 0), (12, 4, x.watchdogs) ]

/-- The whole report, filtered through a partition function (R463 to R465, R380); REVISION is in every function's (R7). -/
def State.surveyFields (s : State) (f stamp : Nat) : List (Nat × Nat × Nat) :=
  let all := f == 0
  (if all then s.surveyHead stamp else [(6, 1, stepping)]) ++
  (List.range 20).flatMap (fun k => if all || (s.part f).hbm.getLsbD k then shift (0x200 + 64 * k) (s.surveyStack k) else []) ++
  (List.range 4).flatMap (fun d => if all || (s.partsOfDie d).contains f then shift (0x700 + 128 * d) (s.surveyDie d) else []) ++
  (List.range 8).flatMap (fun p => shift (0x900 + 32 * p) (s.surveyPort p)) ++
  (List.range 8).flatMap (fun i => if all || i + 1 == f then shift (0xA00 + 128 * i) (s.surveyPart (i + 1)) else []) ++
  (if all then shift 0xE00 s.surveyTier else []) ++
  (if all then (List.range 11).flatMap (fun c => shift (0xF80 + 16 * c) (s.surveyProc c)) else [])

/-- Bytes of the report. -/
def surveyLen : Nat := 4224

/-- Free values a report draws (rails, ripple, inlet current, coolant). -/
def surveyFree : Nat := 100

/-- A report of this instant with its STAMP, and the state after it. -/
def State.takeSurvey (s : State) (f : Nat) : Nat × BMap × State :=
  let (t, s1) := s.stamp .hub
  (t, fieldBytes (s1.surveyFields f t), { s1 with free := s1.free + surveyFree })

/-! ## Reading registers -/

/-- Offsets of the 64-bit registers of a function (R506, R513, R514). -/
def reg64Offsets (f : Nat) : List Nat :=
  [0x0008, 0x0020, 0x0188, 0x0190, 0x0198, 0x5000, 0x5008, 0x5010, 0x5020, 0x7008] ++
  (if f = 0 then [0x0300, 0x0208, 0x0228, 0x0248, 0x0268, 0x0288, 0x02A8, 0x02C8, 0x02E8] else [0x0110, 0x0118, 0x0128])

/-- The value of a 64-bit register. CALIPER_NOW is a stamp and is read by `readReg64`. -/
def State.reg64 (s : State) (f off : Nat) : Nat :=
  if off = 0x0008 then s.moduleId
  else if off = 0x0110 then (s.fn f).flushAddr.toNat
  else if off = 0x0118 then (s.part f).journal.toNat
  else if off = 0x0128 then (s.part f).grantWord
  else if off = 0x0188 then (s.powerRegs f).refusals
  else if off = 0x0190 then (s.powerRegs f).refuser
  else if off = 0x0198 then (s.powerRegs f).stamp
  else if off = 0x0300 then (List.range 20).foldl (fun a k => a + s.stackCode k * 4 ^ k) 0
  else if off = 0x5000 then s.logNewest
  else if off = 0x5008 then s.logOldest
  else if off = 0x5010 then (s.fn f).logCursor.toNat
  else if off = 0x5020 then (s.fn f).logNext.toNat
  else if off = 0x7008 then (s.fn f).surveyStamp
  else if 0x0200 ≤ off ∧ off < 0x0300 then s.grantOf ((off - 0x0200) / 32 + 1)
  else 0

/-- A 64-bit register at this instant, and the state with any stamp drawn (R504, R508). -/
def State.readReg64 (s : State) (f off : Nat) : Nat × State :=
  if off = 0x0020 then s.stamp .hub else (s.reg64 f off, s)

/-- The value of a 32-bit register or of a word of a window (R325, R506); unlisted offsets read zero. -/
def State.reg32 (s : State) (f off : Nat) : Nat :=
  if off = 0x0000 then stepping + 256 * f + 0x1440 * 65536
  else if off = 0x0010 then s.startCount % 2 ^ 32
  else if off = 0x0018 then s.devStatus
  else if off = 0x0040 then s.slotMask f .done
  else if off = 0x0044 then s.slotMask f .free
  else if 0x0180 = off then (s.powerRegs f).request.toNat
  else if off = 0x0184 then s.powerStatus f
  else if off = 0x01A0 ∧ f = 0 then s.power.limitW.toNat
  else if f ≠ 0 ∧ off = 0x0100 then (s.fn f).hostAlive.toNat
  else if f ≠ 0 ∧ off = 0x0104 then (s.fn f).heartbeat.toNat
  else if f ≠ 0 ∧ off = 0x0108 then hostCode (s.part f).host + 4 * (s.part f).cause
  else if f ≠ 0 ∧ off = 0x010C then (s.part f).tierCtl.toNat
  else if f ≠ 0 ∧ off = 0x0120 then (s.part f).maqCtl.toNat
  else if f ≠ 0 ∧ off = 0x0130 then s.infoWord f
  else if f = 0 ∧ 0x0200 ≤ off ∧ off < 0x0300 then
    let p := (off - 0x0200) / 32 + 1
    let o := off % 32
    if o = 0 then s.statusWord p
    else if o = 4 then (s.part p).token.toNat
    else if o = 0x10 then s.trimCount p
    else if o = 0x14 then s.ctxCount p
    else if o = 0x18 then (s.part p).domain + (s.part p).fabIndex * 65536
    else 0
  else if f = 0 ∧ off = 0x0308 then (List.range 16).foldl (fun a i => a + s.sectionCode i * 4 ^ i) 0
  else if 0x1000 ≤ off ∧ off < 0x1800 then BMap.readLe (s.slot f ((off - 0x1000) / 64)).reply (off % 64) 4
  else if 0x1800 ≤ off ∧ off < 0x1880 then slotWord (s.slot f ((off - 0x1800) / 4))
  else if 0x2000 ≤ off ∧ off < 0x4000 then BMap.readLe (s.slot f ((off - 0x2000) / 256)).bytes (off % 256) 4
  else if 0x4000 ≤ off ∧ off < 0x4200 then
    (if off % 16 = 12 then ((s.fn f).msixMask.getLsbD ((off - 0x4000) / 16)).toNat else BMap.readLe (s.fn f).msix (off - 0x4000) 4)
  else if off = 0x4800 then (s.fn f).msixPending.toNat
  else if off = 0x5018 then (s.fn f).logWindow.length
  else if off = 0x501C then (s.fn f).logGap.toNat
  else if 0x6000 ≤ off ∧ off < 0x7000 then
    (match (s.fn f).logWindow[(off - 0x6000) / 64]? with
    | some e => leNat ((entryBytes e).drop (off % 64) |>.take 4)
    | none => 0)
  else if 0x8000 ≤ off ∧ off < 0x8000 + surveyLen then BMap.readLe (s.fn f).survey (off - 0x8000) 4
  else 0

/-- What a 4-byte read returns (R504): of the high half of a 64-bit register, what a capture holds while it stands. -/
def State.read32 (s : State) (f off : Nat) : Nat :=
  if (reg64Offsets f).contains off then (s.readReg64 f off).1 % 2 ^ 32
  else if 4 ≤ off ∧ (reg64Offsets f).contains (off - 4) then
    match (s.fn f).capture with
    | some (o, v) => if o = off - 4 then v.toNat / 2 ^ 32 else (s.readReg64 f (off - 4)).1 / 2 ^ 32
    | none => (s.readReg64 f (off - 4)).1 / 2 ^ 32
  else s.reg32 f off

/-- LOW_HALF_READ: a 4-byte read of the low half of a 64-bit register captures the whole register (R504). -/
def execLowHalfRead (fn offset : Nat) (s : State) : Out :=
  .next (if s.barOpen fn then
    if (reg64Offsets fn).contains offset then
      let (v, s1) := s.readReg64 fn offset
      s1.modFn fn (fun x => { x with capture := some (offset, BitVec.ofNat 64 v) })
    else s.access fn
  else s)

/-! ## The windows' rows -/

/-- LOG_CURSOR (R513). -/
def execLogCursor (fn : Nat) (value : BitVec 64) (s : State) : Out :=
  .next (if s.barOpen fn then s.barRun fn 0x5010 (natLe value.toNat 8) (fun st =>
    (st.modFn fn (fun x => { x with lowHold := none })).takeLogWindow fn (value.toNat % 2 ^ 48)) else s)

/-- Takes a new report into the survey window (R514). -/
def State.snapSurvey (s : State) (f : Nat) : State :=
  let r := s.takeSurvey f
  (r.2.2.modFn f (fun x => { x with survey := r.2.1, surveyStamp := r.1 })).trace pMGT 8 surveyLen f 0

/-- SNAP. -/
def execSnap (fn : Nat) (s : State) : Out :=
  .next (if s.barOpen fn then s.barRun fn 0x7000 (natLe 1 4) (fun st => st.snapSurvey fn) else s)

/-! ## Writes to registers that have no row of their own (R504) -/

/-- Whether the registers of R415 refuse a write now. -/
def State.journalBusy (s : State) (f : Nat) : Bool := s.cmdActive f || s.applyPending f

/-- Sends the message of a vector whose pending bit is set once it is unmasked, as PCIe defines. -/
def State.unmask (s : State) (f n : Nat) : State :=
  if (s.fn f).msixPending.getLsbD n && !(s.fn f).msixMask.getLsbD n then
    (s.modFn f (fun x => { x with msixPending := x.msixPending &&& ~~~(1#32 <<< n) })).msix f n
  else s

/-- A 4-byte write to a word of the MSI-X table (R515). -/
def State.writeMsix (s : State) (f off v : Nat) : State :=
  let n := (off - 0x4000) / 16
  if off % 16 = 12 then
    (s.modFn f (fun x => { x with msixMask := if bit v 0 then x.msixMask ||| (1#32 <<< n) else x.msixMask &&& ~~~(1#32 <<< n) })).unmask f n
  else s.modFn f (fun x => { x with msix := BMap.writeLe x.msix (off - 0x4000) 4 (if off % 16 = 0 then v / 4 * 4 else v) })

/-- TIER_CTL: each field with a reserved encoding keeps its value, and the log records it (R11, R246). -/
def State.writeTierCtl (s : State) (f v : Nat) : State :=
  let o := (s.part f).tierCtl.toNat
  let age := if bits v 15 8 = 0 then bits o 15 8 else bits v 15 8
  let lim := if bits v 27 16 = 0 then bits o 27 16 else bits v 27 16
  let hi := if bits v 29 28 = 3 then bits o 29 28 else bits v 29 28
  let s1 := s.modPart f (fun x => { x with tierCtl := BitVec.ofNat 32 (bits v 3 0 + age * 2 ^ 8 + lim * 2 ^ 16 + hi * 2 ^ 28) })
  if bits v 15 8 = 0 ∨ bits v 27 16 = 0 ∨ bits v 29 28 = 3 then s1.barDiscard f 0x010C v else s1

/-- JOURNAL_BASE (R415). -/
def State.writeJournal (s : State) (f v : Nat) : State :=
  if s.journalBusy f then s.barDiscard f 0x0118 v
  else
    let o := (s.part f).journal.toNat
    let size := if 10 < bits v 51 48 then bits o 51 48 else bits v 51 48
    let s1 := s.modPart f (fun x => { x with journal := BitVec.ofNat 64 (bits v 47 11 * 2 ^ 11 + size * 2 ^ 48) })
    if 10 < bits v 51 48 then s1.barDiscard f 0x0118 v else s1

/-- A whole write to a 64-bit RW register. -/
def State.write64 (s : State) (f off v : Nat) : State :=
  if off = 0x0110 ∧ f ≠ 0 then s.modFn f (fun x => { x with flushAddr := BitVec.ofNat 64 (bits v 62 2 * 4) })
  else if off = 0x0118 ∧ f ≠ 0 then s.writeJournal f v
  else if off = 0x5010 then s.takeLogWindow f (v % 2 ^ 48)
  else s

/-- The 64-bit RW registers of a function. -/
def rw64 (f off : Nat) : Bool := off == 0x5010 || (f != 0 && (off == 0x0110 || off == 0x0118))

/-- Registers and windows that a write leaves as they are (RO, R10). -/
def readOnly (f off : Nat) : Bool :=
  off == 0x0000 || off == 0x0008 || off == 0x000C || off == 0x0010 || off == 0x0018 || off == 0x0040 || off == 0x0044 ||
  (0x0184 ≤ off && off < 0x01A0) || (f != 0 && (off == 0x0108 || off == 0x0128 || off == 0x012C || off == 0x0130)) ||
  (f == 0 && ((0x0200 ≤ off && off < 0x0300) || off == 0x0300 || off == 0x0304 || off == 0x0308)) ||
  (0x1000 ≤ off && off < 0x1800) || off == 0x4800 || off == 0x4804 || (0x5000 ≤ off && off < 0x5010) || (0x5018 ≤ off && off < 0x5028) ||
  (0x6000 ≤ off && off < 0x7000) || off == 0x7008 || off == 0x700C || (0x8000 ≤ off && off < 0x8000 + surveyLen)

/-- A write to a slot's bytes (R327, R329): bytes 4-255 of a FREE slot are stored; bytes 0-3 take one aligned write of 4 or 8
bytes, which submits; anything else is discarded and sets DISCARD. -/
def State.writeSlot (s : State) (f off : Nat) (data : List Byte) : State :=
  let n := (off - 0x2000) / 256
  let o := off % 256
  let x := s.slot f n
  if o = 0 ∧ (data.length = 4 ∨ data.length = 8) then s.submit f n data
  else if x.state ≠ .free ∨ o < 4 ∨ 256 < o + data.length then (s.wakeRequest 0x64).setSlot f n { x with discard := true }
  else (s.wakeRequest 0x64).setSlot f n { x with bytes := BMap.writeBytes x.bytes o data }

end Sys2Proof.Machine
end

