-- ==== Sys2Proof/WellFormed.lean ====
section
/-! DEFINITION. Well-formed commands: every operand names a unit, slot, partition or field the rules have. A command that is
not well formed stands for nothing the part can do. -/

namespace Sys2Proof

/-- PF0 to PF8 (R1). -/
def fnOk (fn : Nat) : Bool := fn < 9

/-- PT1 to PT8 (R26). -/
def ptOk (pt : Nat) : Bool := 1 ≤ pt && pt ≤ 8

/-- A slot of the command window (R327), or a place from 64 up of a command relayed to this member (R345). -/
def cmdSlotOk (slot : Nat) : Bool := slot < 32 || (64 ≤ slot && slot < 128)

/-- A tile or an ATP (R4). -/
def gatedOk : GatedUnit → Bool
  | .tile t => t < 256
  | .atp n => n < 16

/-- A section, a stack or an extent (R32). -/
def resourceOk : Resource → Bool
  | .tileSection i => i < 16
  | .stack k => k < 20
  | .extent e => e < 480

/-- A waiting ATP or a waiting command (R160, R308, R372). -/
def waiterOk : Waiter → Bool
  | .atp n => n < 16
  | .command fn slot => fnOk fn && cmdSlotOk slot

/-- One of the eleven processors (R426), or none. -/
def procOk : Option Nat → Bool
  | none => true
  | some c => c < 11

/-- The fields of a CHROW (R214). -/
def rowOk (r : ChiselRow) : Bool := r.colFirst < 64 && r.colLast < 64 && r.colFirst ≤ r.colLast

/-- A packet's header fields within their widths (R296): positions of 6 bits, a class below 4, a payload of whole 32-byte
units, at most 2,048 bytes. -/
def packetOk (p : Packet) : Bool :=
  p.type < 256 && p.cls < 4 && p.src < 64 && p.dst < 64 && p.payload.length ≤ 2048

/-- Whether a command is well formed. -/
def Instr.wf : Instr → Bool
  | .slotSubmit fn slot _ _ => fnOk fn && slot < 32
  | .slotRelease fn slot => fnOk fn && slot < 32
  | .registerWrite fn offset data => fnOk fn && 1 ≤ data.length && offset + data.length ≤ 65536
  | .lowHalfRead fn offset => fnOk fn && offset % 8 = 0
  | .hostAlive fn _ => fnOk fn
  | .logCursor fn _ => fnOk fn
  | .snap fn => fnOk fn
  | .powerWake fn => fnOk fn
  | .enterMs2 fn _ => fnOk fn
  | .enterMs3 _ => true
  | .enterMs4 _ => true
  | .nop fn slot => fnOk fn && cmdSlotOk slot
  | .halt fn slot => fnOk fn && cmdSlotOk slot
  | .attach fn slot => fnOk fn && cmdSlotOk slot
  | .attachResume fn slot => fnOk fn && cmdSlotOk slot
  | .attachLockoutEnd fn => fnOk fn
  | .resetPartition fn slot => fnOk fn && cmdSlotOk slot
  | .resetModule fn slot => fnOk fn && cmdSlotOk slot
  | .partSet fn slot => fnOk fn && cmdSlotOk slot
  | .fabConfig fn slot => fnOk fn && cmdSlotOk slot
  | .tileDisable fn slot => fnOk fn && cmdSlotOk slot
  | .sectionDisable fn slot => fnOk fn && cmdSlotOk slot
  | .drainExpire fn slot => fnOk fn && cmdSlotOk slot
  | .loadProgram fn slot => fnOk fn && cmdSlotOk slot
  | .run fn slot => fnOk fn && cmdSlotOk slot
  | .runComplete fn slot => fnOk fn && cmdSlotOk slot
  | .chiselRun fn slot => fnOk fn && cmdSlotOk slot
  | .trainSetup fn slot => fnOk fn && cmdSlotOk slot
  | .stepFence fn slot => fnOk fn && cmdSlotOk slot
  | .stepFenceComplete fn slot => fnOk fn && cmdSlotOk slot
  | .maquetteTake fn slot => fnOk fn && cmdSlotOk slot
  | .rollback fn slot => fnOk fn && cmdSlotOk slot
  | .rollforward fn slot => fnOk fn && cmdSlotOk slot
  | .ctxPool fn slot => fnOk fn && cmdSlotOk slot
  | .ctxOpen fn slot => fnOk fn && cmdSlotOk slot
  | .ctxFork fn slot => fnOk fn && cmdSlotOk slot
  | .ctxTruncate fn slot => fnOk fn && cmdSlotOk slot
  | .ctxFree fn slot => fnOk fn && cmdSlotOk slot
  | .ctxQuery fn slot => fnOk fn && cmdSlotOk slot
  | .tierHint fn slot => fnOk fn && cmdSlotOk slot
  | .tierStatus fn slot => fnOk fn && cmdSlotOk slot
  | .reduceScatter fn slot => fnOk fn && cmdSlotOk slot
  | .allReduce fn slot => fnOk fn && cmdSlotOk slot
  | .allGather fn slot => fnOk fn && cmdSlotOk slot
  | .broadcast fn slot => fnOk fn && cmdSlotOk slot
  | .permute fn slot => fnOk fn && cmdSlotOk slot
  | .getSurvey fn slot => fnOk fn && cmdSlotOk slot
  | .logRead fn slot => fnOk fn && cmdSlotOk slot
  | .traceSet fn slot => fnOk fn && cmdSlotOk slot
  | .fwStage fn slot => fnOk fn && cmdSlotOk slot
  | .fwActivate fn slot => fnOk fn && cmdSlotOk slot
  | .fwRestart fn slot => fnOk fn && cmdSlotOk slot
  | .domainRelay fn issuer packet => fnOk fn && issuer < 64 && packet.length = 256
  | .domainReport fn slot position _ => fnOk fn && cmdSlotOk slot && position < 64
  | .commandComplete fn slot => fnOk fn && cmdSlotOk slot
  | .flushReadComplete fn slot => fnOk fn && cmdSlotOk slot
  | .deadlineExpire fn slot => fnOk fn && cmdSlotOk slot
  | .heartbeatTimeout fn => fnOk fn
  | .hostLinkLost _ => true
  | .hostLinkUp => true
  | .linkRecovery => true
  | .linkRecoveryEnd _ _ => true
  | .flr fn => fnOk fn
  | .flrComplete fn => fnOk fn
  | .busMasterDisable fn => fnOk fn
  | .hostReadCompletion _ _ => true
  | .hostReadTimeout _ => true
  | .hostWriteAck _ => true
  | .nopInstruction tile _ => tile < 256
  | .seg tile _ => tile < 256
  | .stepBoundary tile => tile < 256
  | .loop tile _ => tile < 256
  | .replay tile _ => tile < 256
  | .endStream tile _ => tile < 256
  | .fload tile _ => tile < 256
  | .fmcast tile => tile < 256
  | .multicastDeliver tile => tile < 256
  | .frecv tile => tile < 256
  | .fhint tile => tile < 256
  | .mopen tile => tile < 256
  | .mmask tile => tile < 256
  | .macc tile _ => tile < 256
  | .mclose tile => tile < 256
  | .vmode tile => tile < 256
  | .vop tile _ => tile < 256
  | .vlut tile => tile < 256
  | .vld tile => tile < 256
  | .vst tile => tile < 256
  | .vstream tile => tile < 256
  | .vtload tile => tile < 256
  | .vredOpen tile => tile < 256
  | .vredPut tile => tile < 256
  | .vredClose tile => tile < 256
  | .vpsum tile => tile < 256
  | .vseed tile => tile < 256
  | .sstore tile => tile < 256
  | .sadd tile => tile < 256
  | .saccw tile => tile < 256
  | .scfence tile => tile < 256
  | .instructionComplete tile _ => tile < 256
  | .remoteSignal tile token => tile < 256 && token < 32
  | .watchdog tile => tile < 256
  | .tileGate unit => gatedOk unit
  | .attend atp => atp < 16
  | .append atp => atp < 16
  | .combine atp => atp < 16
  | .atpLoop atp => atp < 16
  | .atpEnd atp => atp < 16
  | .keyBlock atp _ => atp < 16
  | .jobComplete atp => atp < 16
  | .gatePoll waiter => waiterOk waiter
  | .gateWatchdog atp => atp < 16
  | .pin atp => atp < 16
  | .unpin atp _ => atp < 16
  | .resolve atp _ => atp < 16
  | .switch pt ctx _ => ptOk pt && ctx < 262144
  | .advance atp _ => atp < 16
  | .memoryRead req span _ => 1 ≤ span.len && req.addr % 2048 + span.len ≤ 2048 && req.cls < 4
  | .blockReread addr _ => addr % 2048 = 0
  | .memoryWrite req data => req.addr % 2048 = 0 && data.length = 2048 && req.cls < 4
  | .partialWriteMerge req data _ _ =>
    1 ≤ data.length && data.length < 2048 && req.addr % 2048 + data.length ≤ 2048 && req.cls < 4
  | .memorySideAdd req addfmt _ _ _ => req.addr < 2 ^ 48 && addfmt < 5 && req.cls < 4
  | .regulatorAdmit stack pt => stack < 20 && ptOk pt
  | .refresh stack pc bank => stack < 20 && pc < 64 && bank < 64
  | .rfm stack pc bank => stack < 20 && pc < 64 && bank < 64
  | .patrol stack _ _ => stack < 20
  | .stackStartup stack _ => stack < 20
  | .temperatureReading stack point _ => stack < 20 && point < 18
  | .throttleLevelExit stack => stack < 20
  | .stackRecovery stack _ => stack < 20
  | .stackRecoveryEnd stack _ => stack < 20
  | .chset stack pc setup => stack < 20 && pc < 64 && setup.base < 20
  | .chrow stack pc row => stack < 20 && pc < 64 && rowOk row
  | .chacc stack pc row col bank _ data => stack < 20 && pc < 64 && row < 65536 && col < 64 && bank < 64 && data.length = 64
  | .chfnc stack pc => stack < 20 && pc < 64
  | .fence _ => true
  | .readThrough pt page _ => ptOk pt && page < 2 ^ 24
  | .fill pt page _ => ptOk pt && page < 2 ^ 24
  | .fillComplete pt found => ptOk pt && found.page < 2 ^ 24
  | .directWrite pt page _ => ptOk pt && page < 2 ^ 24
  | .eviction pt page => ptOk pt && page < 2 ^ 24
  | .writeBack pt page unit => ptOk pt && page < 2 ^ 24 && unit < 32
  | .cleaning pt => ptOk pt
  | .age pt => ptOk pt
  | .tierTimeout _ => true
  | .prefetch pt => ptOk pt
  | .pinHint pt => ptOk pt
  | .demote pt => ptOk pt
  | .wearLevelling channel => channel < 32
  | .readRelocation channel _ => channel < 32
  | .blockRetire channel _ => channel < 32
  | .garbageCollection channel _ => channel < 32
  | .prepare pt _ => ptOk pt
  | .lossScaleUpdate pt _ => ptOk pt
  | .applyState pt _ => ptOk pt
  | .applyRule pt _ => ptOk pt
  | .regenerate pt _ => ptOk pt
  | .commit pt _ => ptOk pt
  | .replicaFetch pt _ _ => ptOk pt
  | .portPresence port _ => port < 8
  | .portRetry port _ => port < 8
  | .laneFail port lane => port < 8 && lane < 9
  | .linkReplay port _ => port < 8
  | .fabRead port packet => port < 8 && packetOk packet
  | .fabReadData port packet => port < 8 && packetOk packet
  | .fabWrite port packet => port < 8 && packetOk packet
  | .fabAck port packet => port < 8 && packetOk packet
  | .fabAdd port packet => port < 8 && packetOk packet
  | .chain port packet => port < 8 && packetOk packet
  | .partialSum port packet => port < 8 && packetOk packet
  | .copy port packet => port < 8 && packetOk packet
  | .notice port packet => port < 8 && packetOk packet
  | .sync port packet => port < 8 && packetOk packet
  | .caps port packet _ => port < 8 && packetOk packet
  | .resendTimeout _ => true
  | .remoteRequestTimeout _ => true
  | .syncExchange => true
  | .parentLost => true
  | .miswiredRetry port _ => port < 8
  | .chainBreak pt _ => ptOk pt
  | .fallbackSum pt _ => ptOk pt
  | .partialTimeout pt _ position => ptOk pt && position < 64
  | .memberLost pt position => ptOk pt && position < 64
  | .collectivePhase pt _ _ => ptOk pt
  | .caliperRealign => true
  | .emergencyClamp _ => true
  | .clampRelease _ => true
  | .powerLimitStep _ => true
  | .ceilingRaise _ => true
  | .powerFailStop _ => true
  | .inletConnect _ => true
  | .inletWithdrawal => true
  | .startUp _ => true
  | .wakeFromStandby => true
  | .smbusAddressMatch _ => true
  | .wakeN _ => true
  | .l1Exit => true
  | .readByte _ => true
  | .readWord _ => true
  | .smbusWrite _ => true
  | .alertResponseAddress => true
  | .alertReassert => true
  | .processorRestart code _ => code < 11
  | .processorWatchdog code => code < 11
  | .persistentCopy _ => true
  | .fwUnstableClear code => code < 11
  | .probationEnd code _ => code < 11
  | .swapBack code => code < 11
  | .armedActivation => true
  | .getVersion fn => fnOk fn
  | .getCapabilities fn => fnOk fn
  | .negotiateAlgorithms fn => fnOk fn
  | .getDigests fn => fnOk fn
  | .getCertificate fn => fnOk fn
  | .challenge fn => fnOk fn
  | .getMeasurements fn _ => fnOk fn
  | .keyExchange fn => fnOk fn
  | .finish fn _ _ => fnOk fn
  | .heartbeat fn _ => fnOk fn
  | .keyUpdate fn _ => fnOk fn
  | .endSession fn _ => fnOk fn
  | .svcChallenge => true
  | .svcUnlock _ _ _ => true
  | .unlockLockoutEnd => true
  | .serviceLatchTrip => true
  | .checkerCompare _ _ _ => true
  | .moduleFatal processor => procOk processor
  | .busMasterEnable fn => fnOk fn
  | .coverClose => true
  | .clearingEnd resource => resourceOk resource
  | .clockLowTimeout _ => true

end Sys2Proof
end

