-- ==== Sys2Proof/Machine/Power.lean ====
section
/-! DEFINITION. Power states (R444 to R459): requests through POWER_CTL, their refusals and aborts, entry into MS2, MS3 and
MS4, wake, and the BAR0 register write that may carry a request (R503, R504). -/

namespace Sys2Proof.Machine

open Sys2Proof

/-! ## Power domains (R444) -/

/-- A separately switched power domain: a tile by its place on its die, spares 64 and 65 included, an ATP, a die's uncore, a stack, an
Akxis port, a flash group. -/
inductive Domain where
  | tile (d place : Nat) | atp (n : Nat) | uncore (d : Nat) | stack (k : Nat) | port (q : Nat) | flash (g : Nat)
  deriving DecidableEq, Repr

/-- The tiles of a die and all 316 domains. -/
def tileDomains (d : Nat) : List Domain := (List.range 66).map (.tile d)
def allDomains : List Domain :=
  (List.range 4).flatMap tileDomains ++ (List.range 16).map .atp ++ (List.range 4).map .uncore ++ (List.range 20).map .stack ++
  (List.range 8).map .port ++ (List.range 4).map .flash

/-- Whether a section's tiles and ATP have power: while a partition that is awake holds it, and until it has been cleared (R32, R449). -/
def State.sectionOn (s : State) (i : Nat) : Bool :=
  s.secClear.getLsbD i || (s.sectionOwner i != 0 && !(s.part (s.sectionOwner i)).asleep && !s.secOut.getLsbD i)

/-- Whether a tile's place on its die has power: it bears a name (R5), and the section of that name has power. -/
def State.placeOn (s : State) (d place : Nat) : Bool :=
  (List.range 64).any (fun nn => (s.die d).physicalOf nn == place && s.sectionOn (sectionOf (64 * d + nn)))

/-- Whether a domain is on (R444, R445). A stack in SELF_REFRESH is retained, not on; an uncore is off once every tile, ATP and stack
of its die is. -/
def State.domainOn (s : State) (x : Domain) : Bool :=
  (s.power.state == .ms0 || s.power.state == .starting) &&
  match x with
  | .tile d place => s.placeOn d place
  | .atp n => s.sectionOn n
  | .stack k => (s.stack k).mode != .selfRefresh
  | .uncore d => (List.range 66).any (s.placeOn d) || (List.range 4).any (fun i => s.sectionOn (4 * d + i)) ||
      (List.range 5).any (fun i => (s.stack (5 * d + i)).mode != .selfRefresh)
  | .port _ | .flash _ => true

/-! ## Clearing -/

/-- A tile as R32 clears it: store, accumulators, registers and tokens zero; its damage record stays with the part. -/
def Tile.cleared (t : Tile) : Tile := { corrected := t.corrected, fixedAt := t.fixedAt, lostAt := t.lostAt, failing := t.failing }

/-- Clears the tiles and the ATP of a section (R32). -/
def State.clearSection (s : State) (i : Nat) : State :=
  let s1 := forEach (List.range 16) s (fun k st => (st.orphanRequests (fun o => o.isTile (16 * i + k))).modTile (16 * i + k) Tile.cleared)
  (s1.orphanRequests (fun o => o.isAtp i)).setAtp i { unpins := (s1.atp i).unpins, nextJob := (s1.atp i).nextJob }

/-- Clears the sections a mask names. -/
def State.clearSections (s : State) (m : BitVec 16) : State :=
  forEach ((List.range 16).filter (fun i => m.getLsbD i)) s (fun i st => st.clearSection i)

/-! ## Refusals (R448, R457, R458) -/

/-- The lowest number below `n` that satisfies a condition, as a refusal with its reason and agent. -/
def refuseIf (reason base n : Nat) (q : Nat → Bool) : List (Nat × Nat) :=
  match findFrom q 0 n with
  | some i => [(reason, base + i)]
  | none => []

/-- Modes of a granted stack that refuse a request (R448). -/
def stackBusy (m : StackMode) : Bool := m == .training || m == .test || m == .recovery || m == .scrubbing

/-- The conditions of R448 that hold for MS2 of a partition, in reason order. -/
def State.refusalsMs2 (s : State) (p : Nat) : List (Nat × Nat) :=
  refuseIf 1 0x20 9 (fun f => f == p && s.cmdActive f) ++
  refuseIf 2 0x20 9 (fun f => f == p && s.applyPending f) ++
  refuseIf 3 0x20 9 (fun f => f == p && (s.part f).domain != 0) ++
  refuseIf 7 0x30 20 (fun k => (s.part p).hbm.getLsbD k && stackBusy (s.stack k).mode)

/-- The conditions of R448 that hold for MS3 or MS4, in reason order. -/
def State.refusalsModule (s : State) : List (Nat × Nat) :=
  refuseIf 1 0x20 9 (fun f => s.cmdActive f) ++
  refuseIf 2 0x20 9 (fun f => f != 0 && s.applyPending f) ++
  refuseIf 3 0x20 9 (fun f => f != 0 && (s.part f).domain != 0) ++
  refuseIf 4 0x20 9 (fun f => f != 0 && (s.part f).sections != 0 && !(s.part f).asleep) ++
  (if s.power.thermal || s.power.overPower then [(5, 0x60)] else []) ++
  refuseIf 6 0x10 11 (fun c => (s.proc c).armed || s.staging.any (fun x => x.1 == c) ||
    s.fwSeqs.any (fun q => q.mode != 0 && q.codes.contains c)) ++
  refuseIf 7 0x30 20 (fun k => s.stackOwner k != 0 && stackBusy (s.stack k).mode)

/-- The abort conditions that can arise during entry into a state (R448). -/
def abortOk (target : Nat) (e : EntryEvent) : Bool :=
  let r := e.reason.toNat
  if target = 2 then r == 1 || r == 2 || r == 3 || r == 7 else 1 ≤ r && r ≤ 8

/-- A saturating 16-bit count. -/
def satInc (x : BitVec 16) : BitVec 16 := if x = 0xFFFF then x else x + 1

/-- Counts a refusal or abort in the registers of its scope (R447, R457). -/
def PowerRegs.count (r : PowerRegs) (target reason agent stamp : Nat) (aborted : Bool) : PowerRegs :=
  { r with
    aRefused := if target ≠ 4 ∧ !aborted then satInc r.aRefused else r.aRefused
    aAborted := if target ≠ 4 ∧ aborted then satInc r.aAborted else r.aAborted
    bRefused := if target = 4 ∧ !aborted then satInc r.bRefused else r.bRefused
    bAborted := if target = 4 ∧ aborted then satInc r.bAborted else r.bAborted
    agent := BitVec.ofNat 8 agent, reason := BitVec.ofNat 8 reason, requested := BitVec.ofNat 3 target, abort := aborted
    stamp := stamp, phase := 0, result := if aborted then 3 else 2 }

/-- Records a refusal or an abort of a request (R457): counter, LAST_REFUSER with its stamp, POWER_STATE event. -/
def State.refusePower (s : State) (f target reason agent : Nat) (aborted : Bool) : State :=
  let (t, s1) := s.stamp .hub
  let s2 := if f = 0 then { s1 with power := { s1.power with regs := s1.power.regs.count target reason agent t aborted } }
    else
      let s' := s1.modPart f (fun x => { x with power := x.power.count target reason agent t aborted })
      { s' with power := { s'.power with
          ms2Refused := if aborted then s'.power.ms2Refused else s'.power.ms2Refused + 1
          ms2Aborted := if aborted then s'.power.ms2Aborted + 1 else s'.power.ms2Aborted } }
  let old := if f = 0 then stateCode s2.power.state else 0
  s2.powerEvent f 0xFF old agent reason target (if aborted then 3 else 2)

/-! ## Entry -/

/-- Stacks enter SELF_REFRESH, failed ones apart (R449, R451). -/
def State.sleepStacks (s : State) (ks : List Nat) : State :=
  forEach ks s (fun k st => if (st.stack k).mode == .failed then st else st.setMode k .selfRefresh)

/-- MS2 entry (R449): sections cleared, programs unloaded, stacks in SELF_REFRESH. -/
def State.sleepPart (s : State) (p : Nat) : State :=
  let s1 := s.clearSections (s.part p).sections
  let s2 := s1.sleepStacks (s1.part p).stackList
  let s3 := s2.modPart p (fun x => { x with asleep := true, programs := [], power := { x.power with phase := 0, result := 1 } })
  s3.powerEvent p 2 0 0 0 2 1

/-- MS3 entry (R451): every partition in MS2, every stack in SELF_REFRESH, dies and ports off, the address matcher armed. -/
def State.enterStandby (s : State) : State :=
  let s1 := forEach (List.range 4) (s.clearSections 0xFFFF) (fun d st => st.modDie d (fun x => { x with upuLast := none, upuHeld := [] }))
  let s2 := forEach s1.partsPresent s1 (fun p st => st.modPart p (fun x => { x with asleep := true, programs := [] }))
  let s3 := s2.sleepStacks (List.range 20)
  let s4 := forEach (List.range 8) s3 (fun q st => st.modPort q (fun x => { x with state := .down }))
  let s5 := { s4 with power := { s4.power with state := .ms3, winFrom := some s4.now, regs := { s4.power.regs with phase := 0, result := 1 } } }
  s5.powerEvent 0 3 0 0 0 3 1

/-- Copies every error that is due to the persistent ring (R432). -/
def State.persistAll (s : State) : State :=
  let due := s.log.entries.filterMap (fun e => match e.body with
    | .error r => if s.log.toPersist.contains e.seq then some r else none
    | _ => none)
  let all := s.log.persistent ++ due
  { s with log := { s.log with persistent := all.drop (all.length - 4096), toPersist := [] } }

/-- Bytes of every granted stack (R453). -/
def State.grantedBytes (s : State) : Nat :=
  ((List.range 20).filter (fun k => s.stackOwner k != 0)).length * windowBytes

/-- What of a partition a hibernation image carries (R445, R453). -/
def Part.imaged (x : Part) : Part :=
  { x with asleep := x.isPresent, programs := [], sets := [], train := {}, hints := [], colls := [], wrote := [], power := {} }

/-- Everything but the always-on islands is off. The fuses, the key store, the firmware banks, the persistent ring, the flash
and its extents stay (R230, R364, R440); a complete hibernation image keeps the stacks, the partition tables and the directory
(R453). In MS4 the stacks are in SELF_REFRESH (R189). Caliper time stops only with the inlet (R386). -/
def State.dark (s : State) (m : ModuleState) (clean : Bool) : State :=
  let keep := s.power.image.isSome
  let resting := if m = .ms4 then (List.range 20).filter (fun k => (s.stack k).mode != .failed) else []
  { pending := s.pending, free := s.free
    time := if m = .unpowered then {} else s.time
    log := { persistent := s.log.persistent }
    link := { nextWrite := s.link.nextWrite, nextTag := s.link.nextTag, perst := s.link.perst }
    parts := if keep then Tbl.mapV {} Part.imaged s.parts else []
    ctxs := if keep then s.ctxs else []
    mem := if keep then s.mem else []
    blocks := if keep then s.blocks else []
    hbm := resting.map (fun k => (k, { mode := .selfRefresh }))
    flash := s.flash
    procs := Tbl.mapV {} (fun (x : Proc) => { current := x.current, staged := x.staged, previous := x.previous,
                                              probation := x.probation.map (fun t => if m = .unpowered then 0 else t) }) s.procs
    power := { state := m, startCount := s.power.startCount, cleanNext := clean, image := s.power.image }
    sec := { s.sec with openSince := false, zeroised := false, tripped := false, unlocked := none, nonce := none, failures := 0,
                        lockout := none, checkFixed := 0 }
    side := { wakeLow := s.side.wakeLow, slotId := s.side.slotId } }

/-- Writes every dirty unit of a partition back (R243). -/
def State.flushPages (s : State) (p : Nat) : State := forEach (s.part p).pages s (fun e st => (st.writeBackPage p e.1).2)

/-- Reads the blocks of every granted stack for the hibernation image, each verified (R185, R453): one that fails twice is poisoned, and
goes into the image so. Of the others the check holds. -/
def State.readImage (s : State) : State :=
  forEach (s.blocks.map (·.1)) s (fun b st => if st.stackOwner (b * blockSize / 2 ^ 37) = 0 then st else (st.senseBlock (b * blockSize) blockSize true).2.2)

/-- MS4 entry (R453): dirty units are written back (R243); stacks, partition tables, directory, tokens and HOST_STATE go to the hibernation image; everything but
the always-on islands goes off, the host link and the log ring with it. -/
def State.enterHibernate (s : State) : State :=
  let s1 := State.readImage <| (forEach allParts (s.powerEvent 0 4 0 0 0 4 1) (fun p st => st.flushPages p)).persistAll
  ({ s1 with sec := { s1.sec with hibKey := true }, power := { s1.power with image := some s1.grantedBytes } }).dark .ms4 true

/-- Sets POWER_CTL.REQUEST (R10, R447). -/
def State.storeRequest (s : State) (f v : Nat) : State :=
  if f = 0 then { s with power := { s.power with regs := { s.power.regs with request := BitVec.ofNat 3 v } } }
  else s.modPart f (fun x => { x with power := { x.power with request := BitVec.ofNat 3 v } })

/-- A request of POWER_CTL as a whole (R447, R448): refused, aborted by an event that arises during entry, for MS3 and MS4
also by WAKE_N held low (R455), or carried through. A write while PHASE is not 0 is discarded under R11. -/
def State.powerRequest (s : State) (f target : Nat) (event : Option EntryEvent) : State :=
  if (s.powerRegs f).phase ≠ 0 then s.barDiscard f 0x0180 target
  else
    let s0 := s.storeRequest f target
    match (if f = 0 then s0.refusalsModule else s0.refusalsMs2 f) with
    | (reason, agent) :: _ => s0.refusePower f target reason agent false
    | [] =>
      match event with
      | some e => if abortOk target e then s0.refusePower f target e.reason.toNat e.agent.toNat true else s0
      | none =>
        if f = 0 ∧ s0.side.wakeLow then s0.refusePower f target 8 0x63 true
        else if target = 2 then s0.sleepPart f else if target = 3 then s0.enterStandby else s0.enterHibernate

/-- A write of a request to POWER_CTL: it sets REQUEST (R10) and starts the request where one can start; in MS3 it wakes the module
(R455). -/
def State.askPower (s : State) (f target : Nat) (event : Option EntryEvent) : State :=
  if (s.powerRegs f).phase ≠ 0 then s.barDiscard f 0x0180 target
  else if s.power.state == .ms0 && (if f = 0 then s.power.devReady else (s.part f).isPresent && !(s.part f).asleep) then
    s.powerRequest f target event
  else (s.storeRequest f target).wakeRequest 0x64

/-- ENTER_MS2. -/
def execEnterMs2 (fn : Nat) (event : Option EntryEvent) (s : State) : Out :=
  .next (if s.barOpen fn && ptOk fn then s.barRun fn 0x0180 (natLe 2 4) (fun st => st.askPower fn 2 event) else s)

/-- ENTER_MS3. -/
def execEnterMs3 (event : Option EntryEvent) (s : State) : Out :=
  .next (if s.barOpen 0 then s.barRun 0 0x0180 (natLe 3 4) (fun st => st.askPower 0 3 event) else s)

/-- ENTER_MS4. -/
def execEnterMs4 (event : Option EntryEvent) (s : State) : Out :=
  .next (if s.barOpen 0 then s.barRun 0 0x0180 (natLe 4 4) (fun st => st.askPower 0 4 event) else s)

/-! ## Wake -/

/-- A write of REQUEST = 0 (R447, R450, R455): wakes the partition; in MS3 it starts the module's wake, and the partition's
own wake follows it. In MS0 it does nothing; while PHASE is not 0 it is discarded. -/
def State.wakeWrite (s : State) (f : Nat) : State :=
  if (s.powerRegs f).phase ≠ 0 then s.barDiscard f 0x0180 0
  else
    let s1 := s.storeRequest f 0
    if f = 0 then s1.wakeRequest 0x64
    else if s1.power.state == .ms3 then
      (s1.wakeRequest 0x64).modPart f (fun x => if x.asleep then { x with power := { x.power with phase := 2 } } else x)
    else s1.wakePart f

/-- POWER_WAKE. -/
def execPowerWake (fn : Nat) (s : State) : Out :=
  .next (if s.barOpen fn then s.barRun fn 0x0180 (natLe 0 4) (fun st => st.wakeWrite fn) else s)

/-- WAKE_FROM_STANDBY (R452): a wake under way brings the module to MS0; partitions that asked for their own wake follow. -/
def execWakeFromStandby (s : State) : Out :=
  .next (if s.power.state == .ms3 && s.power.regs.phase == 2 then
    let s1 := s.wakeModule
    forEach (s1.partsPresent.filter (fun p => (s1.part p).power.phase == 2)) s1 (fun p st => st.wakePart p)
  else s)

/-- A wake source acts: in MS3 the module begins its wake; in MS4 start-up begins (R454, R455). -/
def State.wakeSource (s : State) (agent : Nat) : State :=
  if s.power.state == .ms4 then
    let s1 := s.dark .starting true
    { s1 with power := { s1.power with wakeAgent := agent } }
  else s.wakeRequest agent

/-- WAKE_N: a level; driven low in MS3 or MS4 it wakes the module, also when it was low before the state was reached. -/
def execWakeN (low : Bool) (s : State) : Out :=
  let s1 := { s with side := { s.side with wakeLow := low } }
  .next (if low then s1.wakeSource 0x63 else s1)

/-- L1_EXIT: wakes from MS3 only (R455). -/
def execL1Exit (s : State) : Out :=
  .next (s.wakeRequest 0x64)

/-! ## REGISTER_WRITE -/

/-- A write to POWER_CTL as a register (R447); a value that is not one of the function's is discarded (R11). -/
def State.writePowerCtl (s : State) (f v : Nat) : State :=
  let r := bits v 2 0
  if (s.powerRegs f).phase ≠ 0 then s.barDiscard f 0x0180 v
  else if r = 0 then s.wakeWrite f
  else if (if f = 0 then r ≠ 3 ∧ r ≠ 4 else r ≠ 2) then (s.wakeRequest 0x64).barDiscard f 0x0180 v
  else s.askPower f r none

/-- A 4-byte write at an aligned offset outside the slots. -/
def State.write32 (s : State) (f off v : Nat) : State :=
  if rw64 f (off / 8 * 8) then
    let base := off / 8 * 8
    if off = base then s.modFn f (fun x => { x with lowHold := some (base, BitVec.ofNat 32 v) })
    else
      let low := match (s.fn f).lowHold with
        | some (o, w) => if o = base then w.toNat else s.reg64 f base % 2 ^ 32
        | none => s.reg64 f base % 2 ^ 32
      (s.modFn f (fun x => { x with lowHold := none })).write64 f base (low + v * 2 ^ 32)
  else if off = 0x0100 ∧ f ≠ 0 then s.beat f (BitVec.ofNat 32 v)
  else if off = 0x0104 ∧ f ≠ 0 then
    (if 2 ≤ bits v 5 0 ∧ bits v 5 0 ≤ 60 then s.modFn f (fun x => { x with heartbeat := BitVec.ofNat 32 (bits v 5 0) })
     else s.barDiscard f off v)
  else if off = 0x010C ∧ f ≠ 0 then s.writeTierCtl f v
  else if off = 0x0120 ∧ f ≠ 0 then
    (if s.journalBusy f ∨ (s.part f).extents.length < bits v 8 0 then s.barDiscard f off v
     else s.modPart f (fun x => { x with maqCtl := BitVec.ofNat 32 (bits v 8 0) }))
  else if off = 0x0180 then s.writePowerCtl f v
  else if off = 0x01A0 ∧ f = 0 then
    (if 1000 ≤ bits v 11 0 ∧ bits v 11 0 ≤ 2400 then { s with power := { s.power with limitW := BitVec.ofNat 12 (bits v 11 0) } }
     else s.barDiscard f off v)
  else if 0x1800 ≤ off ∧ off < 0x1880 then
    let n := (off - 0x1800) / 4
    let s1 := if bit v 3 then s.modSlot f n (fun x => { x with discard := false }) else s
    if bit v 2 then s1.releaseSlot f n else s1
  else if 0x4000 ≤ off ∧ off < 0x4200 then s.writeMsix f off v
  else if off = 0x7000 then (if bit v 0 then s.snapSurvey f else s)
  else if readOnly f off then s
  else s.barDiscard f off v

/-- A BAR0 write of any size (R325, R327, R504): slots take any size, registers 4 or 8 aligned bytes; an 8-byte write to a
pair of 32-bit registers acts as two writes, lower address first. -/
def State.barWrite (s : State) (f off : Nat) (data : List Byte) : State :=
  if 0x2000 ≤ off ∧ off < 0x4000 then s.writeSlot f off data
  else if data.length = 4 ∧ off % 4 = 0 then s.write32 f off (leNat data)
  else if data.length = 8 ∧ off % 8 = 0 then
    (if rw64 f off then (s.modFn f (fun x => { x with lowHold := none })).write64 f off (leNat data)
     else (s.write32 f off (leNat (data.take 4))).write32 f (off + 4) (leNat (data.drop 4)))
  else s.barDiscard f off (leNat (data.take 8))

/-- REGISTER_WRITE. -/
def execRegisterWrite (fn offset : Nat) (data : List Byte) (s : State) : Out :=
  .next (if s.barOpen fn && offset < 65536 then s.barRun fn offset data (fun st => st.barWrite fn offset data) else s)

end Sys2Proof.Machine
end

