-- ==== Sys2Proof/Machine/Context.lean ====
section
/-! DEFINITION. Sequence contexts (R164 to R178): the directory, page pools and page tables in stack memory, the sequence
manager's operations, and the context commands. -/

namespace Sys2Proof.Machine

open Sys2Proof

/-! ## The directory -/

/-- The number of directory entries (R164). -/
def dirEntries : Nat := 262144

/-- The 64 bytes of a directory entry (R165). -/
def ctxBytes (c : Ctx) : List Byte :=
  BMap.readBytes (fieldBytes [
    (0, 4, c.state + c.owner * 4 + c.fmt * 64 + c.dhCode * 1024 + c.headsM1 * 2 ^ 13 + c.pool * 2 ^ 19 + c.appending.toNat * 2 ^ 22),
    (4, 2, c.seg), (8, 4, c.pos), (12, 4, c.mapped), (16, 8, c.root), (24, 8, c.openStamp), (32, 8, c.lastStamp),
    (40, 4, c.appends.toNat), (44, 4, c.attends.toNat), (48, 4, c.copies.toNat), (52, 4, c.activePins)]) 0 64

/-- Head dimension (R165). -/
def Ctx.dh (c : Ctx) : Nat := 32 * (c.dhCode + 1)

/-- Bytes of one head's K or V elements in a page: 256 * dh * w (R166). -/
def elemRegion (fmt dh : Nat) : Nat := if fmt = 0xB then 128 * dh else 256 * dh

/-- HEAD_BYTES (R166). -/
def headBytes (fmt dh : Nat) : Nat := 2 * (elemRegion fmt dh + 2048)

/-- A stamp of the manager: strictly above its last (R172). -/
def State.mgrStamp (s : State) : Nat × State :=
  let (t, s1) := s.stamp .hub
  let v := max t (s1.time.manager + 1)
  (v, { s1 with time := { s1.time with manager := v } })

/-- A pool of a partition (R168). -/
def State.poolOf (s : State) (p k : Nat) : Pool := Tbl.get {} (s.part p).pools k
def State.setPool (s : State) (p k : Nat) (x : Pool) : State := s.modPart p (fun y => { y with pools := Tbl.set {} y.pools k x })

/-! ## Page records and tables (R169 to R171) -/

/-- A manager read: the value, whether the block checks hold, and the state. -/
def State.mgrRead (s : State) (a n : Nat) : Nat × Bool × State :=
  let g := s.readStack a n true
  (leNat g.bytes, g.status == 0, g.st)

/-- A manager write: whether it took place, since a merge into a bad block does not, and the state. -/
def State.mgrWrite (s : State) (a n v : Nat) : Bool × State :=
  let g := s.writeStack a (natLe v n)
  (g.status == 0, g.st)

/-- The outcome of a manager operation: its status, what it found, the pages it returned to the free list, and the state. -/
structure Mgr where
  status : Nat := 0
  pages  : List (Nat × Nat) := []
  freed  : Nat := 0
  copies : Nat := 0
  st     : State

/-- Whether a level-1 or level-2 entry is valid. -/
def entryValid (e : Nat) : Bool := bit e 63

/-- The level-2 frame that a level-1 entry names, if it is valid; none at all where a check fails (R170, R171). -/
def Pool.frameOf (q : Pool) (e : Nat) : Option (Option Nat) :=
  let a := bits e 47 0
  if bits e 62 48 ≠ 0 then none
  else if !entryValid e then some none
  else if q.tableAddr ≤ a ∧ (a - q.tableAddr) % 4096 = 0 ∧ (a - q.tableAddr) / 4096 < q.tableFrames then some (some a)
  else none

/-- The page that a level-2 entry names, in the same way. -/
def Pool.pageOf (q : Pool) (e : Nat) : Option (Option Nat) :=
  if bits e 62 32 ≠ 0 then none
  else if !entryValid e then some none
  else if bits e 31 0 < q.pages then some (some (bits e 31 0))
  else none

/-- Looks a logical page up: (0 or the failing status, the physical page if mapped, the entry's address, the state). -/
def State.walk (s : State) (q : Pool) (root p : Nat) : Nat × Option Nat × Nat × State :=
  let (e1, ok1, s1) := s.mgrRead (root + 8 * (p / 512)) 8
  match (if ok1 then q.frameOf e1 else none) with
  | none => (stDATA_ERROR, none, 0, s1)
  | some none => (0, none, 0, s1)
  | some (some f) =>
    let a := f + 8 * (p % 512)
    let (e2, ok2, s2) := s1.mgrRead a 8
    match (if ok2 then q.pageOf e2 else none) with
    | none => (stDATA_ERROR, none, a, s2)
    | some w => (0, w, a, s2)

/-- The page record's address. -/
def Pool.recAddr (q : Pool) (i : Nat) : Nat := q.metaAddr + 8 * i

/-- The link of the last page of a free list; how a link names a page is not stated (assumption 104). -/
def noPage : Nat := 2 ^ 32 - 1

/-- The 8 bytes of a page record: REFS, PINS and the free-list link (R169). -/
def pageRecord (refs pins link : Nat) : Nat := refs % 2 ^ 16 + pins % 2 ^ 16 * 2 ^ 16 + link * 2 ^ 32

/-- Changes REFS and PINS of a page; a mapped page must have REFS at least 1, and no count goes below 0 (R171). The page returns to
the head of the free list when both reach 0 (R169): whether it does is the second answer. -/
def State.adjust (s : State) (p k i : Nat) (dRef dPin : Int) (mapped : Bool) : Nat × Bool × State :=
  let q := s.poolOf p k
  let (r, ok, s1) := s.mgrRead (q.recAddr i) 8
  let refs : Int := (bits r 15 0 : Nat) + dRef
  let pins : Int := (bits r 31 16 : Nat) + dPin
  if !ok ∨ (mapped ∧ bits r 15 0 = 0) ∨ refs < 0 ∨ pins < 0 then (stDATA_ERROR, false, s1)
  else
    let freed := refs == 0 && pins == 0
    let (done, s2) := s1.mgrWrite (q.recAddr i) 8 (pageRecord refs.toNat pins.toNat (if freed then q.freeHead.getD noPage else 0))
    if !done then (stDATA_ERROR, false, s2)
    else (0, freed, if freed then s2.setPool p k { q with freeHead := some i } else s2)

/-- Takes the page at the head of the free list, with REFS = 1: a status, the page unless the list is empty, the state. -/
def State.takePage (s : State) (p k : Nat) : Nat × Option Nat × State :=
  let q := s.poolOf p k
  match q.freeHead with
  | none => (0, none, s)
  | some i =>
    let (r, ok, s1) := s.mgrRead (q.recAddr i) 8
    let link := bits r 63 32
    if !ok ∨ bits r 31 0 ≠ 0 ∨ (link ≠ noPage ∧ q.pages ≤ link) then (stDATA_ERROR, none, s1)
    else
      let (done, s2) := s1.mgrWrite (q.recAddr i) 8 (pageRecord 1 0 0)
      if !done then (stDATA_ERROR, none, s2)
      else (0, some i, s2.setPool p k { q with freeHead := if link = noPage then none else some link })

/-- Takes a free 4 KiB frame of the table area, its entries cleared; which one is a free value. -/
def State.takeFrame (s : State) (p k : Nat) : Option Nat × State :=
  let q := s.poolOf p k
  let (r, s1) := s.fresh
  match findFrom (fun i => !(Tbl.get false q.framesUsed (i % q.tableFrames))) (r % max q.tableFrames 1) q.tableFrames with
  | none => (none, s1)
  | some i =>
    let n := i % q.tableFrames
    let a := q.tableAddr + 4096 * n
    let s2 := s1.setPool p k { q with framesUsed := Tbl.set false q.framesUsed n true }
    (some a, (s2.writeStack a (List.replicate 4096 0)).st)

/-- Returns a frame to the table area. -/
def State.freeFrame (s : State) (p k a : Nat) : State :=
  let q := s.poolOf p k
  s.setPool p k { q with framesUsed := Tbl.set false q.framesUsed ((a - q.tableAddr) / 4096) false }

/-- Maps logical page `g` of a table to physical page `i`, taking the level-2 frame at the first mapping under its entry. -/
def State.mapPage (s : State) (p k root g i : Nat) : Nat × State :=
  let put := fun (st : State) (a v : Nat) =>
    let (done, s1) := st.mgrWrite a 8 (2 ^ 63 + v)
    (if done then 0 else stDATA_ERROR, s1)
  let (e1, ok, s1) := s.mgrRead (root + 8 * (g / 512)) 8
  match (if ok then (s.poolOf p k).frameOf e1 else none) with
  | none => (stDATA_ERROR, s1)
  | some (some a) => put s1 (a + 8 * (g % 512)) i
  | some none => match s1.takeFrame p k with
    | (none, s2) => (stNO_RESOURCE, s2)
    | (some a, s2) =>
      let (st, s3) := put s2 (root + 8 * (g / 512)) a
      if st ≠ 0 then (st, s3) else put s3 (a + 8 * (g % 512)) i

/-- Unmaps one level-2 entry of a table: REFS - 1, the page freed when nothing holds it. -/
def State.unmapEntry (s : State) (p k a : Nat) : Mgr :=
  let (e, ok, s1) := s.mgrRead a 8
  match (if ok then (s.poolOf p k).pageOf e else none) with
  | none => { status := stDATA_ERROR, st := s1 }
  | some none => { st := s1 }
  | some (some i) =>
    let (st, freed, s2) := s1.adjust p k i (-1) 0 true
    if st ≠ 0 then { status := st, st := s2 }
    else
      let (done, s3) := s2.mgrWrite a 8 0
      { status := if done then 0 else stDATA_ERROR, pages := [(0, i)], freed := freed.toNat, st := s3 }

/-- Unmaps every logical page from `first` on; level-2 frames left with no valid entry return to the table area (R170). -/
def State.unmapFrom (s : State) (p k root first : Nat) : Mgr :=
  let q := s.poolOf p k
  (List.range 64).foldl (fun (m : Mgr) i =>
    if m.status ≠ 0 ∨ (i + 1) * 512 ≤ first then m
    else
      let (e1, ok, s1) := m.st.mgrRead (root + 8 * i) 8
      match (if ok then q.frameOf e1 else none) with
      | none => { m with status := stDATA_ERROR, st := s1 }
      | some none => { m with st := s1 }
      | some (some fr) =>
        let lo := first - i * 512
        let r := (List.range (512 - lo)).foldl (fun (m' : Mgr) j =>
          if m'.status ≠ 0 then m'
          else
            let u := m'.st.unmapEntry p k (fr + 8 * (lo + j))
            { m' with status := u.status, pages := m'.pages ++ u.pages, freed := m'.freed + u.freed, st := u.st }) { m with st := s1 }
        if r.status ≠ 0 then r
        else
          let (below, ok2, s2) := r.st.mgrRead fr (8 * lo)
          if !ok2 then { r with status := stDATA_ERROR, st := s2 }
          else if (List.range lo).any (fun j => bit below (64 * j + 63)) then { r with st := s2 }
          else
            let (done, s3) := s2.mgrWrite (root + 8 * i) 8 0
            { r with status := if done then 0 else stDATA_ERROR, st := s3.freeFrame p k fr }) { st := s }

/-- A context goes to FAULTED (R171), with its error entry in the CONTEXT class. -/
def State.faultCtx (s : State) (c : Nat) : State :=
  let x := s.ctx c
  (s.setCtx c { x with state := 3 }).error pHIF { status := stDATA_ERROR, cls := cCONTEXT, unit := 11, unitId := 0, pt := x.owner, detail := c }

/-! ## Job operations (R173 to R175) -/

/-- PIN: PINS + 1 on every page that holds positions `lo` to `hi`, and the list of those pages. -/
def State.pinPages (s : State) (c lo hi : Nat) : Mgr :=
  let x := s.ctx c
  let q := s.poolOf x.owner x.pool
  let n := if lo ≤ hi then hi / 256 + 1 - lo / 256 else 0
  (List.range n).foldl (fun (m : Mgr) j =>
    if m.status ≠ 0 then m
    else
      let g := lo / 256 + j
      match m.st.walk q x.root g with
      | (st, w, _, s1) =>
        if st ≠ 0 then { m with status := st, st := s1 }
        else match w with
          | none => { m with st := s1 }
          | some i =>
            let (st2, _, s2) := s1.adjust x.owner x.pool i 0 1 true
            if st2 ≠ 0 then { m with status := st2, st := s2 } else { m with pages := m.pages ++ [(g, i)], st := s2 }) { st := s }

/-- UNPIN: PINS - 1 on the same pages, each freed that reaches REFS = 0 and PINS = 0. -/
def State.unpinPages (s : State) (p k : Nat) (pages : List (Nat × Nat)) : Mgr :=
  pages.foldl (fun (m : Mgr) e =>
    let (st, freed, s1) := m.st.adjust p k e.2 0 (-1) false
    { m with status := if m.status = 0 then st else m.status, freed := m.freed + freed.toNat, st := s1 }) { st := s }

/-- A change of a context by a manager operation, with its stamp (R165, R172). -/
def State.stampCtx (s : State) (c : Nat) (g : Ctx → Ctx) : State :=
  let (v, s1) := s.mgrStamp
  s1.setCtx c { g (s1.ctx c) with lastStamp := v }

/-- What a pool's definition fixes, its free frames and pages apart. -/
def Pool.shape (q : Pool) : Pool := { q with framesUsed := [], freeHead := none }

/-- Gives a job's pins back: `done` says that the ATTEND completed. A record that fails its check faults the context (R171). Pins in
a pool that has been defined anew since are gone with it. -/
def State.unpinJob (s : State) (j : Job) (done : Bool) : Nat × State :=
  let m : Mgr := if (s.poolOf j.ctx.owner j.ctx.pool).shape = j.source then s.unpinPages j.ctx.owner j.ctx.pool j.pages else { st := s }
  let c := m.st.ctx j.ctxNum
  if c.state ≠ 0 ∧ c.openStamp = j.ctx.openStamp then
    let s1 := m.st.stampCtx j.ctxNum (fun x =>
      { x with activePins := x.activePins - 1, attends := if done then x.attends + 1 else x.attends })
    (m.freed, if m.status = 0 ∨ c.state ≠ 1 then s1 else s1.faultCtx j.ctxNum)
  else (m.freed, m.st)

/-- A free page with its first reference, or the status that says why there is none (R175). -/
def State.newPage (s : State) (p k : Nat) : Nat × Nat × State :=
  match s.takePage p k with
  | (st, some i, s1) => (st, i, s1)
  | (st, none, s1) => (if st = 0 then stNO_RESOURCE else st, 0, s1)

/-- RESOLVE: for each logical page that positions L to L + rows - 1 touch, a free page where none is mapped, a copy where the
page is shared; it takes nothing when a page or frame is missing (R175). -/
def State.resolvePages (s : State) (c rows atp job : Nat) : Mgr :=
  let x := s.ctx c
  let lo := x.pos / 256
  let n := if rows = 0 then 0 else (x.pos + rows - 1) / 256 + 1 - lo
  let r := (List.range n).foldl (fun (m : Mgr) j =>
    if m.status ≠ 0 then m
    else
      let g := lo + j
      let q := m.st.poolOf x.owner x.pool
      match m.st.walk q x.root g with
      | (st, w, _, s1) =>
        if st ≠ 0 then { m with status := st, st := s1 }
        else match w with
          | none =>
            let (st2, i, s2) := s1.newPage x.owner x.pool
            if st2 ≠ 0 then { m with status := st2, st := s2 }
            else
              let (st3, s3) := s2.mapPage x.owner x.pool x.root g i
              if st3 ≠ 0 then { m with status := st3, st := (s3.adjust x.owner x.pool i (-1) 0 true).2.2 }
              else { m with pages := m.pages ++ [(g, i)], freed := m.freed + 1, st := s3 }
          | some i =>
            match s1.copies.find? (fun e => e.ctx == c && e.page == g && e.source == i && e.opened == x.openStamp) with
            | some e =>
              { m with pages := m.pages ++ [(g, e.target)], copies := m.copies + 1,
                       st := { s1 with copies := s1.copies.map (fun y => if y == e then { y with atp := atp, job := job } else y) } }
            | none =>
              let (refs, ok, s2) := s1.mgrRead (q.recAddr i) 2
              if !ok ∨ refs = 0 then { m with status := stDATA_ERROR, st := s2 }
              else if refs = 1 then { m with pages := m.pages ++ [(g, i)], st := s2 }
              else
                let (st3, t, s3) := s2.newPage x.owner x.pool
                let cp : PageCopy := { pt := x.owner, ctx := c, pool := x.pool, page := g, source := i, target := t, atp := atp, job := job,
                                       opened := x.openStamp }
                if st3 ≠ 0 then { m with status := st3, st := s3 }
                else { m with pages := m.pages ++ [(g, t)], copies := m.copies + 1, st := { s3 with copies := s3.copies ++ [cp] } }) { st := s }
  if r.status = stNO_RESOURCE then { status := stNO_RESOURCE, st := { s with free := r.st.free } }
  else
    let y := r.st.ctx c
    { r with st := r.st.setCtx c { y with mapped := y.mapped + r.freed } }

/-- Copies a page block by block with fresh codes (R174). The data are not checked, their readers verify them (R171); a block that
cannot be read at all, by poison or by what in-band ECC finds, is poisoned in the copy too. -/
def State.copyPage (s : State) (src dst n : Nat) : State :=
  forEach (List.range (n / blockSize)) s (fun i st =>
    let (r, cause, s1) := st.senseBlock (src + blockSize * i) blockSize false
    if r = 0 then (s1.writeStack (dst + blockSize * i) (BMap.readBytes s1.mem (src + blockSize * i) blockSize)).st
    else s1.poison (dst + blockSize * i) cause)

/-- Takes a copy off the list and returns its page. -/
def State.dropCopy (s : State) (cp : PageCopy) : Bool × State :=
  (({ s with copies := s.copies.filter (fun e => e != cp) }).adjust cp.pt cp.pool cp.target (-1) 0 false).2

/-- SWITCH: the copy's data, the writer's entry at the copy, REFS - 1 on the original (R173, R174). When the entry no longer names
the original, because its context was freed or truncated after a stop, and when a check fails, the copy is given back. -/
def State.switchPage (s : State) (cp : PageCopy) : State :=
  let x := s.ctx cp.ctx
  let q := s.poolOf cp.pt cp.pool
  if x.state ≠ 1 ∨ x.openStamp ≠ cp.opened then (s.dropCopy cp).2
  else
    match s.walk q x.root cp.page with
    | (st, w, a, s1) =>
      if st ≠ 0 then ((s1.dropCopy cp).2).faultCtx cp.ctx
      else if w ≠ some cp.source then (s1.dropCopy cp).2
      else
        let s2 := s1.copyPage (q.pageAddr + cp.source * q.pageBytes) (q.pageAddr + cp.target * q.pageBytes) q.pageBytes
        let (done, s3) := s2.mgrWrite a 8 (2 ^ 63 + cp.target)
        if !done then ((s3.dropCopy cp).2).faultCtx cp.ctx
        else
          let (st4, _, s4) := ({ s3 with copies := s3.copies.filter (fun e => e != cp) }).adjust cp.pt cp.pool cp.source (-1) 0 true
          let s5 := s4.stampCtx cp.ctx (fun y => { y with copies := y.copies + 1 })
          if st4 ≠ 0 then s5.faultCtx cp.ctx else s5

/-! ## The order of manager operations (R172) -/

/-- Whether a pool's stack takes requests (R189). -/
def State.poolUp (s : State) (p k : Nat) : Bool := s.stackUp ((s.poolOf p k).pageAddr / 2 ^ 37)

/-- ATTENDs that hold pins; at most 32 run at a time (R169). -/
def State.pinnedJobs (s : State) : Nat := (s.atps.map (fun e => (e.2.active.filter (·.pinned)).length + e.2.unpins.length)).foldl (· + ·) 0

/-- Whether the operation of a context command can begin: no APPEND runs on its context (R177), and its pool's stack takes
requests. -/
def State.cmdMayBegin (s : State) (f : Nat) (c : Cmd) : Bool :=
  if c.opcode = opCTX_POOL then c.param 20 4 == 0 || s.stackUp (c.param 8 8 / 2 ^ 37)
  else if c.opcode = opCTX_OPEN then s.poolUp f (c.param 3 1)
  else
    let x := s.ctx (c.param 0 4)
    x.state == 0 || (!x.appending && s.poolUp x.owner x.pool)

/-- Whether the PIN or RESOLVE of a job can begin: at most 32 ATTENDs hold pins (R169), one APPEND runs on a context (R159). -/
def State.jobMayBegin (s : State) (n id : Nat) : Bool :=
  match (s.atp n).active.find? (fun j => j.id == id) with
  | none => false
  | some j =>
    let x := s.ctx j.ctxNum
    j.stage == .waiting && (x.state == 0 ||
      (s.poolUp x.owner x.pool && (if BMap.readLe (s.atp n).jobs (128 * j.record) 1 = 1 then !x.appending else decide (s.pinnedJobs < 32))))

/-- Class of a manager operation: 1 for commands, 2 for jobs (R172). -/
def Owner.mgrClass : Owner → Nat
  | .command _ _ => 1
  | _ => 2

/-- Whether a waiting operation can begin now. -/
def State.mgrStands (s : State) : Owner → Bool
  | .command f n => (s.cmd f n).phase == .running && s.cmdMayBegin f (s.cmd f n)
  | .atp n id => s.jobMayBegin n id
  | _ => false

/-- Whether it is an operation's turn: none that can begin waits in a class above it, or before it in its own. An operation that
does not wait itself comes after all that do. -/
def State.mgrTurn (s : State) (me : Owner) : Bool :=
  let ahead := s.mgrQueue.takeWhile (fun o => o != me)
  s.mgrQueue.all (fun o => o == me || !s.mgrStands o || decide (me.mgrClass < o.mgrClass) || (o.mgrClass == me.mgrClass && !ahead.contains o))

/-- An operation waits, at the place it has or at the end; one that begins waits no longer. -/
def State.mgrWait (s : State) (me : Owner) : State := if s.mgrQueue.contains me then s else { s with mgrQueue := s.mgrQueue ++ [me] }
def State.mgrBegin (s : State) (me : Owner) : State := { s with mgrQueue := s.mgrQueue.filter (fun o => o != me) }

/-! ## Commands (R176, R376) -/

/-- Whether named parameter ranges, as (offset, bytes), are zero (R358). -/
def Cmd.zeros (c : Cmd) (rs : List (Nat × Nat)) : Bool := rs.all (fun r => c.param r.1 r.2 == 0)

/-- Ends a command with a manager stamp as its END (R176). -/
def State.finishAt (s : State) (f n status v : Nat) : State :=
  (s.finishCmd f n status).modCmd f n (fun c => { c with stop := max v (max c.start c.arrival) })

/-- Replies OK with one word and a manager stamp as END. -/
def State.replyAt (s : State) (f n w v : Nat) : State :=
  (s.modCmd f n (fun c => { c with result := [BitVec.ofNat 64 w] })).finishAt f n stOK v

/-- Ends a context command that its check refuses; naming another partition's context is an access outside the partition table, with
its error entry (R30, R164). -/
def State.refuseCtx (s : State) (f n status : Nat) : State :=
  let c := s.cmd f n
  (if status = stDENIED ∧ c.opcode ≠ opCTX_POOL then
    s.error pHIF { status := stDENIED, cls := cREQUEST, unit := 11, unitId := 0, pt := f, detail := c.param 0 4, fn := f, slot := n, tag := c.tag }
  else s).finishCmd f n status

/-- A row that may wait: the command starts at acceptance and the row runs again until `wait` clears; `refuse` ends it with a status and
`stand` notes that it waits. -/
def takeWaiting (s : State) (f n op : Nat) (check : State → Nat) (wait : State → Bool) (body : State → State)
    (refuse : State → Nat → State := fun st r => st.finishCmd f n r) (stand : State → State := id) : Out :=
  let go := fun (st : State) =>
    if check st ≠ 0 then refuse st (check st)
    else
      let s1 := if (st.cmd f n).phase == .running then st else st.beginCmd f n
      if wait s1 then stand (s1.modCmd f n (fun c => { c with stage := 1 })) else body s1
  .next (if s.canTake f n op then go (s.take f n)
    else if s.inRun f n op && (s.cmd f n).stage == 1 then go s else s)

/-- The row of a context command: it waits until its manager operation can begin and its turn has come (R172, R177). -/
def takeCtx (s : State) (f n op : Nat) (check : State → Nat) (body : State → State) : Out :=
  let me : Owner := .command f n
  takeWaiting s f n op check (fun st => !st.cmdMayBegin f (st.cmd f n) || !st.mgrTurn me) (fun st => body (st.mgrBegin me))
    (fun st r => (st.mgrBegin me).refuseCtx f n r) (fun st => st.mgrWait me)

/-- Ranges of a pool as (address, bytes). -/
def poolRanges (q : Pool) : List (Nat × Nat) :=
  [(q.pageAddr, q.pages * q.pageBytes), (q.metaAddr, q.pages * 8), (q.tableAddr, q.tableFrames * 4096)]

/-- Whether two ranges share a byte. -/
def overlaps (x y : Nat × Nat) : Bool := x.1 < y.1 + y.2 && y.1 < x.1 + x.2 && x.2 != 0 && y.2 != 0

/-- Whether no two ranges of a list overlap. -/
def disjointRanges : List (Nat × Nat) → Bool
  | [] => true
  | r :: rs => !rs.any (overlaps r) && disjointRanges rs

/-- The pool a CTX_POOL names. -/
def Cmd.poolParams (c : Cmd) : Pool :=
  { pageAddr := c.param 8 8, pageBytes := c.param 16 4, pages := c.param 20 4, metaAddr := c.param 24 8,
    tableAddr := c.param 32 8, tableFrames := c.param 40 4 }

/-- Check 6 of CTX_POOL (R168, R176). -/
def State.poolCheck (s : State) (f : Nat) (c : Cmd) : Nat :=
  let k := c.param 0 1
  let q := c.poolParams
  let others := (s.part f).pools.flatMap (fun e => if e.1 = k then [] else poolRanges e.2)
  let named := s.ctxs.any (fun e => e.2.state != 0 && e.2.owner == f && e.2.pool == k)
  if 8 ≤ k ∨ !c.zeros [(1, 7), (44, 4)] then stBAD_PARAM
  else if q.pages = 0 then (if named then stBUSY else 0)
  else if q.pageAddr % 4096 ≠ 0 ∨ q.pageBytes % 4096 ≠ 0 ∨ q.pageBytes = 0 ∨ 8650752 < q.pageBytes ∨ 2 ^ 23 < q.pages ∨ q.metaAddr % 2048 ≠ 0 ∨
      q.tableAddr % 4096 ≠ 0 ∨ q.tableFrames = 0 ∨ 2 ^ 20 < q.tableFrames then stBAD_PARAM
  else if !(poolRanges q).all (fun r => (s.part f).inWindow r.1 r.2) then stDENIED
  else if !(poolRanges q).all (fun r => r.1 / 2 ^ 37 == q.pageAddr / 2 ^ 37) ∨ !disjointRanges (poolRanges q ++ others) then stBAD_PARAM
  else if named then stBUSY
  else 0

/-- Clears device memory as whole-block zero writes do; `a` and `n` are whole blocks. -/
def State.clearMem (s : State) (a n : Nat) : State :=
  { s with mem := BMap.clear s.mem a n, blocks := s.blocks.filter (fun e => decide (e.1 < a / 2048) || decide ((a + n + 2047) / 2048 ≤ e.1)) }

/-- The page records of a new pool: every page free, each linked to the next (R169). -/
def Pool.freshRecords (q : Pool) : List Byte :=
  (List.range q.pages).flatMap (fun i => natLe (pageRecord 0 0 (if i + 1 = q.pages then noPage else i + 1)) 8)

/-- CTX_POOL: defines, redefines or deletes a pool and builds its free lists: its pages linked from page 0 on, its table frames clear. A
last block of records that it shares with other data is merged (R184); one that is bad fails the command, and no pool is defined. -/
def execCtxPool (fn slot : Nat) (s : State) : Out :=
  takeCtx s fn slot opCTX_POOL (fun st => st.poolCheck fn (st.cmd fn slot)) (fun s1 =>
    let c := s1.cmd fn slot
    let q := c.poolParams
    let (v, s2) := s1.mgrStamp
    if q.pages = 0 then (s2.setPool fn (c.param 0 1) {}).finishAt fn slot stOK v
    else
      let g := s2.writeStack q.metaAddr q.freshRecords
      if g.status ≠ 0 then (g.st.setPool fn (c.param 0 1) {}).finishAt fn slot g.status v
      else ((g.st.clearMem q.tableAddr (4096 * q.tableFrames)).setPool fn (c.param 0 1) { q with freeHead := some 0 }).finishAt fn slot stOK v)

/-- Check 6 of CTX_OPEN. -/
def State.openCheck (s : State) (f : Nat) (c : Cmd) : Nat :=
  let fmt := c.param 0 1
  let q := s.poolOf f (c.param 3 1)
  if (fmt ≠ 0xA ∧ fmt ≠ 0xB) ∨ 8 ≤ c.param 1 1 ∨ 64 ≤ c.param 2 1 ∨ 8 ≤ c.param 3 1 ∨ c.param 4 2 = 0xFFFF ∨ c.param 6 2 ≠ 0 ∨ q.pages = 0 ∨
      (c.param 2 1 + 1) * headBytes fmt (32 * (c.param 1 1 + 1)) ≠ q.pageBytes then stBAD_PARAM
  else 0

/-- The lowest-numbered FREE entry. -/
def State.freeEntry (s : State) : Option Nat := findFrom (fun i => (s.ctx i).state == 0) 0 dirEntries

/-- Takes a directory entry and a level-1 frame within the quota (CTX_OPEN, CTX_FORK): the entry, the frame, the state. -/
def State.newEntry (s : State) (p k : Nat) : Option (Nat × Nat × State) :=
  if (s.part p).ctxQuota * 1024 ≤ s.ctxCount p then none
  else match s.freeEntry with
    | none => none
    | some e =>
      match s.takeFrame p k with
      | (none, _) => none
      | (some a, s1) => some (e, a, s1)

/-- CTX_OPEN. -/
def execCtxOpen (fn slot : Nat) (s : State) : Out :=
  takeCtx s fn slot opCTX_OPEN (fun st => st.openCheck fn (st.cmd fn slot)) (fun s1 =>
    let c := s1.cmd fn slot
    match s1.newEntry fn (c.param 3 1) with
    | none => s1.finishCmd fn slot stNO_RESOURCE
    | some (e, a, s2) =>
      let (v, s3) := s2.mgrStamp
      let x : Ctx := { state := 1, owner := fn, fmt := c.param 0 1, dhCode := c.param 1 1, headsM1 := c.param 2 1,
                       pool := c.param 3 1, seg := c.param 4 2, root := a, openStamp := v, lastStamp := v }
      (s3.setCtx e x).replyAt fn slot e v)

/-- A context named by a command: BAD_PARAM unless OPEN (or FAULTED where allowed), DENIED when another partition owns it
(R164, R171). -/
def State.ctxCheck (s : State) (f c : Nat) (faulted : Bool) : Nat :=
  let x := s.ctx c
  if dirEntries ≤ c ∨ x.state = 0 then stBAD_PARAM
  else if x.owner ≠ f then stDENIED
  else if x.state = 1 ∨ (faulted ∧ x.state = 3) then 0
  else stBAD_PARAM

/-- FORK: a new context that shares the source's first pages, each REFS + 1 (R176). -/
def State.forkCtx (s : State) (f src n seg : Nat) : Option (Nat × Nat × State) :=
  let x := s.ctx src
  match s.newEntry f x.pool with
  | none => none
  | some (e, a, s1) =>
    let q := s1.poolOf f x.pool
    let (v, s2) := s1.mgrStamp
    let r := (List.range (ceilDiv n 256)).foldl (fun (m : Mgr) g =>
      if m.status ≠ 0 then m
      else match m.st.walk q x.root g with
        | (st, w, _, t1) =>
          if st ≠ 0 then { m with status := st, st := t1 }
          else match w with
            | none => { m with st := t1 }
            | some i =>
              let (st2, _, t2) := t1.adjust f x.pool i 1 0 true
              if st2 ≠ 0 then { m with status := st2, st := t2 }
              else
                let (st3, t3) := t2.mapPage f x.pool a g i
                if st3 ≠ 0 then { m with status := st3, st := (t3.adjust f x.pool i (-1) 0 true).2.2 }
                else { m with pages := m.pages ++ [(g, i)], st := t3 }) { st := s2 }
    if r.status = stNO_RESOURCE then none
    else if r.status ≠ 0 then
      let back := (r.st.unmapFrom f x.pool a 0).st.freeFrame f x.pool a
      some (dirEntries, v, (back.setCtx src { (back.ctx src) with lastStamp := v }).faultCtx src)
    else
      let y : Ctx := { state := 1, owner := f, fmt := x.fmt, dhCode := x.dhCode, headsM1 := x.headsM1, pool := x.pool, seg := seg,
                       pos := n, mapped := r.pages.length, root := a, openStamp := v, lastStamp := v }
      some (e, v, (r.st.setCtx src { (r.st.ctx src) with lastStamp := v }).setCtx e y)

/-- CTX_FORK. -/
def execCtxFork (fn slot : Nat) (s : State) : Out :=
  takeCtx s fn slot opCTX_FORK
    (fun st =>
      let c := st.cmd fn slot
      let r := st.ctxCheck fn (c.param 0 4) false
      if !c.zeros [(10, 6)] ∨ c.param 8 2 = 0xFFFF then stBAD_PARAM
      else if r ≠ 0 then r
      else if (st.ctx (c.param 0 4)).pos < c.param 4 4 then stBAD_PARAM else 0)
    (fun st =>
      let c := st.cmd fn slot
      match st.forkCtx fn (c.param 0 4) (c.param 4 4) (c.param 8 2) with
      | none => st.finishCmd fn slot stNO_RESOURCE
      | some (e, v, s2) => if e = dirEntries then s2.finishAt fn slot stDATA_ERROR v else s2.replyAt fn slot e v)

/-- TRUNCATE: L = N and the pages above it unmapped. One that fails part of the way counts in MAPPED the pages still mapped. -/
def State.truncateCtx (s : State) (c n : Nat) : Nat × Nat × State :=
  let x := s.ctx c
  let (v, s1) := s.mgrStamp
  let r := s1.unmapFrom x.owner x.pool x.root (ceilDiv n 256)
  let y : Ctx := { x with mapped := x.mapped - r.pages.length, lastStamp := v }
  if r.status ≠ 0 then (r.status, v, (r.st.setCtx c y).faultCtx c)
  else (0, v, r.st.setCtx c { y with pos := n })

/-- CTX_TRUNCATE. -/
def execCtxTruncate (fn slot : Nat) (s : State) : Out :=
  takeCtx s fn slot opCTX_TRUNCATE
    (fun st =>
      let c := st.cmd fn slot
      let r := st.ctxCheck fn (c.param 0 4) false
      if r ≠ 0 then r else if (st.ctx (c.param 0 4)).pos < c.param 4 4 then stBAD_PARAM else 0)
    (fun st =>
      let c := st.cmd fn slot
      let (r, v, s2) := st.truncateCtx (c.param 0 4) (c.param 4 4)
      if r ≠ 0 then s2.finishAt fn slot r v else s2.replyAt fn slot ((s2.ctx (c.param 0 4)).mapped) v)

/-- FREE: every page unmapped, the level-1 frame returned, the entry FREE (R170, R176). -/
def State.freeCtx (s : State) (c : Nat) : Nat × Nat × Nat × State :=
  let x := s.ctx c
  let (v, s1) := s.mgrStamp
  let r := s1.unmapFrom x.owner x.pool x.root 0
  if r.status ≠ 0 then (r.status, v, r.freed, (r.st.setCtx c { x with mapped := x.mapped - r.pages.length, lastStamp := v }).faultCtx c)
  else (0, v, r.freed, (r.st.freeFrame x.owner x.pool x.root).setCtx c {})

/-- Whether an APPEND waits under R159 on a context: for another APPEND that was running on it. -/
def Job.waitsOn (j : Job) (c : Nat) : Bool := j.stage == .waiting && j.behind && j.ctxNum == c

/-- CTX_FREE: waits for a running APPEND; APPENDs that wait behind it end with ABORTED (R177). -/
def execCtxFree (fn slot : Nat) (s : State) : Out :=
  takeCtx s fn slot opCTX_FREE
    (fun st => if (st.cmd fn slot).param 4 4 ≠ 0 then stBAD_PARAM else st.ctxCheck fn ((st.cmd fn slot).param 0 4) true)
    (fun st =>
      let c := (st.cmd fn slot).param 0 4
      let (r, v, freed, s2) := st.freeCtx c
      if r ≠ 0 then s2.finishAt fn slot r v
      else
        let s3 := forEach (List.range 16) s2 (fun a t =>
          match (t.atp a).active.find? (fun j => j.waitsOn c) with
          | some j => t.atpFault a j.record stABORTED 0
          | none => t)
        s3.replyAt fn slot freed v)

/-- What keeps a function from writing host memory now: ORPHANED (R351), no bus mastering (R340, R356), no link. -/
def State.hostStatus (s : State) (f : Nat) : Nat :=
  if f ≠ 0 ∧ (s.part f).host = .orphaned then stORPHANED
  else if !s.link.up then stHOST_LINK_LOST
  else if !s.hostOpen f then stDENIED
  else 0

/-- CTX_QUERY: the entry as it stands, in the reply and optionally at OUT. -/
def execCtxQuery (fn slot : Nat) (s : State) : Out :=
  takeOp s fn slot opCTX_QUERY (fun s1 =>
    let c := s1.cmd fn slot
    let out := c.param 8 8
    let r := s1.ctxCheck fn (c.param 0 4) true
    if c.param 4 4 ≠ 0 ∨ out % 64 ≠ 0 ∨ 2 ^ 63 ≤ out then s1.finishCmd fn slot stBAD_PARAM
    else if r ≠ 0 then s1.refuseCtx fn slot r
    else if out ≠ 0 ∧ s1.hostStatus fn ≠ 0 then s1.finishCmd fn slot (s1.hostStatus fn)
    else
      let b := ctxBytes (s1.ctx (c.param 0 4))
      let (v, s2) := (s1.beginCmd fn slot).mgrStamp
      let s3 := if out = 0 then s2 else s2.hostWrite fn out b (.command fn slot)
      (s3.modCmd fn slot (fun x => { x with result :=
        [BitVec.ofNat 64 (leNat (b.take 8)), BitVec.ofNat 64 (leNat ((b.drop 8).take 8)),
         BitVec.ofNat 64 (leNat ((b.drop 16).take 8)), BitVec.ofNat 64 (leNat ((b.drop 24).take 8))] })).finishAt fn slot stOK v)

/-- Clears the contexts of a partition (R178): the pins of its stopped ATTENDs and the pages of its copies are given back, which are of
the class before, every context is freed, and its pools, whose pages are then free, are deleted. Answers the contexts freed, the
pages returned to the free lists and the state. -/
def State.freeAll (s : State) (p : Nat) : Nat × Nat × State :=
  let add := fun (acc : Nat × State) (r : Nat × State) => (acc.1 + r.1, r.2)
  let pins := (s.atps.flatMap (·.2.unpins)).filter (fun j => j.ctx.owner == p)
  let r1 := pins.foldl (fun acc j => add acc (acc.2.unpinJob j false)) (0, s)
  let s1 : State := { r1.2 with atps := r1.2.atps.map (fun e => (e.1, { e.2 with unpins := e.2.unpins.filter (fun j => j.ctx.owner != p) })) }
  let r2 := (s1.copies.filter (fun e => e.pt == p)).foldl (fun acc e =>
    let (freed, st) := acc.2.dropCopy e
    add acc (freed.toNat, st)) (r1.1, s1)
  let cs := r2.2.ctxs.filterMap (fun e => if e.2.state ≠ 0 ∧ e.2.owner = p then some e.1 else none)
  let r3 := cs.foldl (fun acc c =>
    let (_, _, freed, st) := acc.2.freeCtx c
    add acc (freed, st.setCtx c {})) r2
  (cs.length, r3.1, r3.2.modPart p (fun x => { x with pools := [] }))

end Sys2Proof.Machine
end

