-- ==== Sys2Proof/Machine/Frames.lean ====
section
/-! DEFINITION. Moving tiered pages between frames and flash (R240 to R243): write-back, eviction, taking a frame, and the
extents of a partition (R230, R231). -/

namespace Sys2Proof.Machine

open Sys2Proof

/-! ## Write-back and eviction -/

/-- Frees a page's frame: the page goes to HOME (R241 step 4). -/
def TierPage.home (x : TierPage) : TierPage := { x with state := .home, frame := none, dirty := 0, filled := 0, filledAt := 0, heir := none }

/-- Whether a unit cannot be written back: it is dirty and a block of it in the frame is poisoned (R242). -/
def State.stuckUnit (s : State) (p g u : Nat) : Bool :=
  let x := s.page p g
  x.dirty.getLsbD u && (match x.frame.bind (s.part p).frameAddr with
    | some b => (List.range 32).any (fun i => (s.block (b + u * unitSize + i * blockSize)).poison)
    | none => false)

/-- Whether a page can leave its frame: its stack serves, and no unit is stuck. -/
def State.mayLeave (s : State) (p g : Nat) : Bool :=
  (((s.page p g).frame.bind (s.part p).frameAddr).map (fun a => (s.stack (a / 2 ^ 37)).mode == .service)).getD false &&
  (List.range 32).all (fun u => !s.stuckUnit p g u)

/-- Steps 1 and 2 of an eviction (R241): the page goes to EVICTING. An access is one step of the model, so none that was admitted is
under way; `heir` is the page that the frame then serves. -/
def State.beginEvict (s : State) (p g : Nat) (heir : Option Nat) : State :=
  s.setPage p g { (s.page p g) with state := .evicting, heir := heir }

/-- Takes a page out of a frame that leaves the partition (R32, R243): written back, pin dropped, HOME; a unit that could not
be written back is marked failed. -/
def State.expelPage (s : State) (p g : Nat) : Nat × State :=
  let (n, s1) := s.writeBackPage p g
  let bad := (List.range 32).filter (fun u => (s1.page p g).dirty.getLsbD u)
  let s2 := forEach bad s1 (fun u st => st.failUnit p g u)
  (n, s2.setPage p g { (s2.page p g).home with pinned := false })

/-- Expels every page of a list; the bytes written back add up. -/
def State.expelPages (s : State) (p : Nat) (gs : List Nat) : Nat × State :=
  gs.foldl (fun acc g => let r := acc.2.expelPage p g; (acc.1 + r.1, r.2)) (0, s)

/-! ## Frames -/

/-- The number of the frame that begins at a stack-window address (R235). -/
def frameIndexIn (p : Part) (a : Nat) : List Nat → Nat → Option Nat
  | [], _ => none
  | k :: ks, base =>
    let lo := k * 2 ^ 37 + (72 - p.gib k) * 2 ^ 30
    if lo ≤ a ∧ a < lo + 512 * p.gib k * pageSize then some (base + (a - lo) / pageSize)
    else frameIndexIn p a ks (base + 512 * p.gib k)

def Part.frameIndex (p : Part) (a : Nat) : Option Nat := frameIndexIn p a p.stackList 0

/-- Frames in use. -/
def Part.usedFrames (p : Part) : List Nat := p.pages.filterMap (fun e => e.2.frame)

/-- The lowest-numbered free frame (R240). -/
def Part.freeFrame (p : Part) : Option Nat := findFrom (fun f => !p.usedFrames.contains f) 0 p.frameCount

/-- Whether page x is a better victim than y (R240): lower COUNT, then clean, then filled longest ago. -/
def TierPage.before (x y : TierPage) : Bool :=
  if x.count ≠ y.count then x.count < y.count
  else if (x.dirty == 0) ≠ (y.dirty == 0) then x.dirty == 0
  else x.filledAt < y.filledAt

/-- The victim among the RESIDENT, unpinned pages that satisfy `q` (R240); only clean ones when the tier is READ_ONLY (R252). A page
that cannot leave its frame is passed over (assumption 37). -/
def State.victim (s : State) (p : Nat) (q : TierPage → Bool) : Option Nat :=
  ((s.part p).pages.filter (fun e => e.2.state == .resident && !e.2.pinned && q e.2 && (!s.flash.readOnly || e.2.dirty == 0) && s.mayLeave p e.1)).foldl
    (fun (best : Option (Nat × TierPage)) e => match best with
      | none => some e
      | some b => if e.2.before b.2 then some e else best) none |>.map (·.1)

/-! ## Extents (R230, R231) -/

/-- Discards the contents and the key of an extent (R32, R480). -/
def State.endExtent (s : State) (e : Nat) : State :=
  { s with flash := { s.flash with
      data := BMap.clear s.flash.data (e * extentSize) extentSize
      map := s.flash.map.filter (fun m => m.1 / 2 ^ 20 != e)
      blocks := Tbl.mapV {} (fun (b : EraseBlock) => { b with units := b.units.filter (fun u => u.extent != e) }) s.flash.blocks } }

/-- A key that SEC makes for an extent (R233): two halves of 256 bits from its random-bit generator. -/
def State.newKey (s : State) : BitVec 512 × State :=
  (((Config.random384 s.free).setWidth 256 ++ (Config.random384 (s.free + 1)).setWidth 256), { s with free := s.free + 2 })

/-- An extent leaves a partition: contents, key and binding end; it is TRIMMING until cleared. -/
def State.releaseExtent (s : State) (p e : Nat) : State :=
  (s.endExtent e).setExtent e { (s.extent e) with owner := 0, index := 0, keyed := false, key := 0, trimming := p }

/-- RESET_PARTITION on an extent: contents and key end, SEC makes a new key, binding and index stay (R230, R480). -/
def State.rekeyExtent (s : State) (p e : Nat) : State :=
  let (k, s1) := s.newKey
  (s1.endExtent e).setExtent e { (s1.extent e) with keyed := true, key := k, keyGen := (s1.extent e).keyGen + 1, trimming := p }

/-- Extents free to be granted, and those whose trimming has not ended. -/
def State.freeExtents (s : State) : List Nat := (List.range 480).filter (fun e => (s.extent e).owner == 0 && (s.extent e).trimming == 0)
def State.trimmingExtents (s : State) : List Nat := (List.range 480).filter (fun e => (s.extent e).owner == 0 && (s.extent e).trimming != 0)

/-- Extents a partition has when its grants are next written: its own, or those bound to it (R231). -/
def State.ownExtents (s : State) (p : Nat) : List Nat :=
  if (s.part p).isPresent then (s.part p).extents else s.boundExtents p

/-- Takes `n` free extents; which ones is a free value. -/
def State.pickExtents (s : State) : Nat → List Nat × State
  | 0 => ([], s)
  | n + 1 =>
    let (r, s1) := s.fresh
    let free := s1.freeExtents
    match free[r % max free.length 1]? with
    | none => ([], s1)
    | some e =>
      let x := s1.extent e
      let (es, s2) := (s1.setExtent e { x with owner := 15 }).pickExtents n
      (e :: es, s2)

/-- Pages of the extents with window indices in `[lo, hi)`. -/
def Part.pagesIn (p : Part) (lo hi : Nat) : List Nat :=
  p.pages.filterMap (fun e => if lo * 32768 ≤ e.1 ∧ e.1 < hi * 32768 then some e.1 else none)

/-- Where a page of a partition's window is after a change of its extents: those below extent `keep` stay, those from `low` on, the
store's, begin at `base`, and those between are gone. -/
def movedPage (low keep base g : Nat) : Option Nat :=
  if g < keep * 32768 then some g else if g < low * 32768 then none else some (g - low * 32768 + base * 32768)

/-- Changes the extents of a partition to `n` of them (R230, R231): growth goes below the Maquette store, a shrink takes
extents from below it; the store's resident pages are written back and move with their extents. Answers the bytes written
back. -/
def State.setExtents (s : State) (p n : Nat) : Nat × State :=
  let own := s.ownExtents p
  let store := min ((s.part p).maqCtl.toNat % 512) own.length
  let low := own.length - store
  if n = own.length then
    (0, s.modPart p (fun x => { x with extents := own }))
  else
    let (wb, s1) := s.expelPages p ((s.part p).pagesIn low own.length)
    let (new, s2) := s1.pickExtents (n - own.length)
    let keep := low - (own.length - n)
    let list := own.take keep ++ new ++ own.drop low
    let s3 := forEach (own.drop keep |>.take (low - keep)) s2 (fun e st => st.releaseExtent p e)
    let s4 := forEach (List.range list.length) s3 (fun i st =>
      let e := list.getD i 0
      let x := st.extent e
      if new.contains e then
        let (k, st1) := st.newKey
        st1.setExtent e { owner := p, index := i, keyed := true, key := k, keyGen := x.keyGen + 1 }
      else st.setExtent e { x with owner := p, index := i })
    let place := movedPage low keep (keep + new.length)
    let moved := (s4.part p).pages.foldl (fun (t : Tbl TierPage) e =>
      match place e.1 with
      | some g => Tbl.set {} t g { e.2 with heir := e.2.heir.bind place }
      | none => t) []
    let s5 : State := { s4 with
      tierReqs := s4.tierReqs.map (fun r => if r.pt = p then { r with page := (place r.page).getD r.page } else r)
      grants := s4.grants.map (fun g => match g.1 with
        | .command f _ => if f = p then (g.1, (place g.2.1).getD g.2.1, g.2.2) else g
        | _ => g) }
    (wb, s5.modPart p (fun x => { x with extents := list, pages := moved }))

end Sys2Proof.Machine
end

