-- ==== Sys2Proof/Machine/Control.lean ====
section
/-! DEFINITION. The control commands: NOP, HALT, ATTACH, RESET_PARTITION, PART_SET, the disables, the survey, log and trace
commands (R31, R32, R352 to R354, R360 to R368, R380 to R382, R413), and the end of a clearing. -/

namespace Sys2Proof.Machine

open Sys2Proof

/-! ## NOP and HALT -/

/-- NOP (R360). -/
def execNop (fn slot : Nat) (s : State) : Out :=
  takeOp s fn slot opNOP (fun s1 => (s1.beginCmd fn slot).replyOk fn slot [])

/-- Stops every queued or running command of a function that satisfies `q` with a status: how many ended, and the state (R361
steps 1 and 2). -/
def State.endCommands (s : State) (f status : Nat) (q : Nat → Cmd → Bool) : Nat × State :=
  let ns := (s.cmdsOf f (fun c => c.live)).filter (fun n => q n (s.cmd f n))
  (ns.length, forEach ns s (fun n st => (st.accept f n).stopCommand f n status))

/-- Stops the applies of a partition that have not begun COMMIT (R361 step 3). COMMIT is one step, so every unfinished apply
is stopped; it starts again from PREPARE. -/
def State.haltApplies (s : State) (p : Nat) : State :=
  (s.modPart p (fun x => { x with train := { x.train with
    applies := x.train.applies.map (fun a => { a with halted := true, phase := 1, failed := 0 }) } })).orphanRequests (fun o => match o with
    | .apply q _ => q == p
    | _ => false)

/-- HALT's steps 1 to 3 over a scope of functions (R361), HALTs themselves apart. -/
def State.haltWork (s : State) (scope : List Nat) : Nat × State :=
  scope.foldl (fun acc g =>
    let r := acc.2.endCommands g stABORTED (fun _ c => c.opcode != opHALT)
    let s1 := r.2.stopChisel (fun l => l.pt == g)
    (acc.1 + r.1, if g = 0 then s1 else s1.haltApplies g)) (0, s)

/-- Whether every host write of a scope is acknowledged and every packet of it (R361 step 4). -/
def State.quiet (s : State) (scope : List Nat) : Bool :=
  s.link.writes.all (fun w => !scope.contains w.fn) &&
  s.fabric.unacked.all (fun u => !scope.any (fun p => (s.part p).domain == u.packet.domain && u.packet.domain != 0))

/-- The scope of a HALT (R361). -/
def haltScope (f : Nat) (c : Cmd) : List Nat := if f = 0 then (List.range 9).filter (bit (c.param 0 2)) else [f]

/-- HALT: stops its scope's work, waits until the scope's writes have completed, ends what was accepted meanwhile, replies. -/
def execHalt (fn slot : Nat) (s : State) : Out :=
  let go := fun (st : State) =>
    let c := st.cmd fn slot
    let (n, s1) := st.haltWork (haltScope fn c)
    let total := c.note + n
    if s1.quiet (haltScope fn c) then
      let (t, s2) := s1.stamp .hub
      s2.replyOk fn slot [total, t]
    else s1.modCmd fn slot (fun x => { x with note := total, stage := 1 })
  .next (if s.canTake fn slot opHALT then
      let s1 := s.take fn slot
      let c := s1.cmd fn slot
      if fn = 0 ∧ (c.param 0 8 = 0 ∨ 512 ≤ c.param 0 8) then s1.finishCmd fn slot stBAD_PARAM
      else go (s1.beginCmd fn slot)
    else if s.inRun fn slot opHALT then go s else s)

/-! ## ATTACH (R352, R353) -/

/-- A new attach token: free, never 0 and never the previous one (R352). -/
def newToken (r : Nat) (old : BitVec 32) : BitVec 32 :=
  let a := BitVec.ofNat 32 r
  if a ≠ 0 ∧ a ≠ old then a else if a + 1 ≠ 0 ∧ a + 1 ≠ old then a + 1 else a + 2

/-- An ATTACH that succeeds: ATTACHED, a new token, the heartbeat timer started. -/
def State.attachNow (s : State) (f n : Nat) : State :=
  let (r, s1) := s.fresh
  let x := s1.part f
  let t := newToken r x.token
  let s2 := (s1.setPart f { x with host := .attached, token := t }).modFn f (fun y => { y with refusals := 0, lastBeat := s1.now })
  (s2.beginCmd f n).replyOk f n [t.toNat, hostCode x.host]

/-- A refused ATTACH: DENIED, with its log entry; the 16th in a row begins the lockout. -/
def State.attachRefused (s : State) (f n : Nat) : State :=
  let k := (s.fn f).refusals + 1
  let s1 := s.modFn f (fun y => { y with refusals := k, lockout := if 16 ≤ k ∧ y.lockout.isNone then some s.now else y.lockout })
  (s1.event pHIF f 0x0005 f (s.cmd f n).attachToken k 0 0).finishCmd f n stDENIED

/-- ATTACH. To an ORPHANED partition it waits, with START still to come. -/
def execAttach (fn slot : Nat) (s : State) : Out :=
  takeOp s fn slot opATTACH (fun s1 =>
    if !(s1.part fn).isPresent ∨ (s1.fn fn).lockout.isSome ∨ (s1.cmd fn slot).attachToken ≠ (s1.part fn).token.toNat then s1.attachRefused fn slot
    else if (s1.part fn).host = .orphaned then
      s1.modSlot fn slot (fun x => { x with state := .running, cmd := { x.cmd with phase := .running, stage := 1 } })
    else s1.attachNow fn slot)

/-- Whether a command other than an ATTACH is queued or running on the partition. -/
def State.workLeft (s : State) (p : Nat) : Bool := !(s.cmdsOf p (fun c => c.live && c.opcode != opATTACH)).isEmpty

/-- ATTACH_RESUME: every command of R351 has ended. -/
def execAttachResume (fn slot : Nat) (s : State) : Out :=
  .next (if s.inRun fn slot opATTACH && (s.cmd fn slot).stage == 1 && !s.workLeft fn then
    (if (s.part fn).host = .orphaned then s.attachNow fn slot else s.attachRefused fn slot) else s)

/-- ATTACH_LOCKOUT_END. -/
def execAttachLockoutEnd (fn : Nat) (s : State) : Out :=
  .next (match (s.fn fn).lockout with
  | none => s
  | some t => if t + 1000000000 ≤ s.now then s.modFn fn (fun y => { y with lockout := none, refusals := 0 }) else s)

/-! ## Clearing -/

/-- A stack begins to be scrubbed (R32); what its last partition had waiting there is gone with it (R14). -/
def State.scrub (s : State) (k : Nat) : State :=
  let s1 := s.modStack k (fun x => { x with held := [], rereads := [] })
  if (s.stack k).mode == .failed then s1 else s1.setMode k .scrubbing

/-- Unloads every program of a partition that satisfies `q`. -/
def State.unloadIf (s : State) (p : Nat) (q : Program → Bool) : State :=
  forEach ((s.part p).programs.filterMap (fun e => if q e.2 then some e.1 else none)) s (fun g st => st.unload p g)

/-- Sections begin to be cleared; programs that hold their tiles or ATPs are unloaded. -/
def State.clearingSections (s : State) (p : Nat) (m : BitVec 16) : State :=
  let s1 := s.unloadIf p (fun g => g.tiles.any (fun t => m.getLsbD (sectionOf t)) || g.atps.any (fun n => m.getLsbD n))
  { s1 with secClear := s1.secClear ||| m }

/-- CLEARING_END (R32): the resource is cleared and may be granted. At throttle level L2 and above a scrubbing is held (R227). -/
def execClearingEnd (resource : Resource) (s : State) : Out :=
  .next (match resource with
  | .tileSection i =>
    if s.secClear.getLsbD i then { (s.clearSection i) with secClear := s.secClear &&& ~~~(1#16 <<< i) } else s
  | .stack k =>
    if (s.stack k).mode == .scrubbing && decide ((s.stack k).level < 2) then (s.clearMem (k * 2 ^ 37) windowBytes).setMode k .service else s
  | .extent e => if (s.extent e).trimming = 0 then s else s.setExtent e { (s.extent e) with trimming := 0 })

/-- Whether a clearing that a RESET_PARTITION started is still under way. -/
def State.clearingLeft (s : State) (p : Nat) : Bool :=
  (List.range 20).any (fun k => (s.part p).hbm.getLsbD k && (s.stack k).mode == .scrubbing) ||
  s.secClear &&& (s.part p).sections != 0 || s.trimCount p != 0

/-! ## RESET_PARTITION (R354, R363) -/

/-- A partition number gains a new PT_GEN, key and certificate, and its function's SPDM sessions end (R475). -/
def State.newTenant (s : State) (p : Nat) : State :=
  ({ s with sec := { s.sec with ptGen := Tbl.set 0 s.sec.ptGen p (Tbl.get 0 s.sec.ptGen p + 1) } }).endSpdm p

/-- Starts a partition's reset: commands ended, contexts and pools freed, tier frames discarded, resources being cleared, the
registers of scope P at their reset values (R505). Answers the counts of the reply. -/
def State.resetPart (s : State) (p f n : Nat) : Nat × Nat × Nat × State :=
  let (ended, s1) := (s.wakePart p).endCommands p stABORTED (fun m _ => p != f || m != n)
  let s2 := (s1.stopChisel (fun l => l.pt == p)).loseMember p
  let (ctxs, pages, s3) := s2.freeAll p
  let x := s3.part p
  let s4 := s3.clearingSections p x.sections
  let s5 := forEach x.stackList s4 (fun k st => st.scrub k)
  let s6 := forEach x.extents s5 (fun e st => st.rekeyExtent p e)
  (ended, ctxs, pages, (s6.modPart p (fun y => { y with
    programs := [], sets := [], train := {}, pages := [], hints := [], colls := [], wrote := []
    tierCtl := ({} : Part).tierCtl, journal := 0, maqCtl := 0, jseq := 0, power := {} })).newTenant p)

/-- RESET_PARTITION. -/
def execResetPartition (fn slot : Nat) (s : State) : Out :=
  let target := fun (st : State) => if fn = 0 then (st.cmd fn slot).param 0 1 else fn
  let finish := fun (st : State) =>
    if st.clearingLeft (target st) then st
    else
      (st.modPart (target st) (fun x => { x with host := .detached, cause := 0, token := 0 })).finishCmd fn slot stOK
  .next (if s.canTake fn slot opRESET_PARTITION then
      let s1 := s.take fn slot
      if fn = 0 ∧ (8 < (s1.cmd fn slot).param 0 8 ∨ (s1.cmd fn slot).param 0 8 = 0) then s1.finishCmd fn slot stBAD_PARAM
      else
        let (a, b, c, s2) := (s1.beginCmd fn slot).resetPart (target s1) fn slot
        finish (s2.modCmd fn slot (fun x => { x with stage := 1, result := [BitVec.ofNat 64 a, BitVec.ofNat 64 b, BitVec.ofNat 64 c] }))
    else if s.inRun fn slot opRESET_PARTITION then finish s else s)

/-! ## PART_SET (R31, R32, R365, R366) -/

/-- The parameters of PART_SET, with the groups that UPDATE leaves out taken from the table as it stands. -/
structure Grant where
  pt       : Nat
  update   : Nat
  policy   : Bool
  index    : Nat
  domain   : Nat
  sections : BitVec 16
  hbm      : BitVec 20
  extents  : Nat
  quota    : Nat
  gib      : Tbl Nat
  rate     : Tbl Nat
  burst    : Tbl Nat
  deriving DecidableEq, Repr

def State.grantParams (s : State) (c : Cmd) : Grant :=
  let p := c.param 0 1
  let u := c.param 1 1
  let x := s.part p
  let tbl := fun (base w : Nat) => (List.range 20).foldl (fun (t : Tbl Nat) k => Tbl.set 0 t k (c.param (base + w * k) w)) []
  { pt := p, update := u
    policy := if bit u 2 then bit (c.param 2 1) 0 else x.policy
    index := if bit u 3 then c.param 3 1 else x.fabIndex
    domain := if bit u 3 then c.param 4 2 else x.domain
    sections := if bit u 0 then BitVec.ofNat 16 (c.param 6 2) else x.sections
    hbm := if bit u 0 then BitVec.ofNat 20 (c.param 8 4) else x.hbm
    extents := if bit u 0 then c.param 12 2 else (s.ownExtents p).length
    quota := if bit u 0 then c.param 14 2 else x.ctxQuota
    gib := if bit u 1 then tbl 16 1 else x.tierGib
    rate := if bit u 4 then tbl 36 1 else x.rate
    burst := if bit u 4 then tbl 56 2 else x.burst }

/-- Whether the fields of the selected groups are in range and their reserved bits zero (R11, R365). -/
def Cmd.grantFormed (c : Cmd) : Bool :=
  let u := c.param 1 1
  (!bit u 0 || (c.param 8 4 < 2 ^ 20 && c.param 12 2 ≤ 480 && c.param 14 2 ≤ 256)) &&
  (!bit u 1 || (List.range 20).all (fun k => decide (c.param (16 + k) 1 ≤ 72))) &&
  (!bit u 2 || c.param 2 1 < 2) && (!bit u 3 || c.param 3 1 < 64)

/-- The conditions of R366 in order; 0 when all hold. -/
def State.grantCheck (s : State) (c : Cmd) : Nat :=
  let g := s.grantParams c
  let p := g.pt
  let x := s.part p
  let others := allParts.filter (fun q => q != p)
  let own := (s.ownExtents p).length
  let secTaken := others.foldl (fun m q => m ||| (s.part q).sections) 0
  let hbmTaken := others.foldl (fun m q => m ||| (s.part q).hbm) 0
  let need := g.extents - own
  let shrink := x.sections &&& ~~~g.sections != 0 || x.hbm &&& ~~~g.hbm != 0 || g.extents < own || g.quota < x.ctxQuota
  let change := g.gib != x.tierGib || g.policy != x.policy || g.domain != x.domain || g.index != x.fabIndex
  if g.update = 0 ∨ 32 ≤ g.update ∨ p = 0 ∨ 8 < p ∨ !c.grantFormed then stBAD_PARAM
  else if g.sections &&& secTaken ≠ 0 ∨ g.hbm &&& hbmTaken ≠ 0 ∨ s.freeExtents.length + s.trimmingExtents.length < need ∨
      (List.range 20).any (fun k => (g.hbm &&& ~~~x.hbm).getLsbD k && (s.stack k).mode == .failed) then stNO_RESOURCE
  else if (g.sections &&& ~~~x.sections) &&& s.secClear ≠ 0 ∨
      (List.range 20).any (fun k => (g.hbm &&& ~~~x.hbm).getLsbD k && (s.stack k).mode == .scrubbing) ∨
      s.freeExtents.length < need then stBUSY
  else if (shrink ∨ change) ∧ (s.cmdActive p ∨ s.applyPending p) then stBUSY
  else if x.pools.any (fun e => (x.hbm &&& ~~~g.hbm).getLsbD (e.2.pageAddr / 2 ^ 37)) then stBUSY
  else if g.quota * 1024 < s.ctxCount p then stBUSY
  else if g.domain ≠ 0 ∧ g.index ≠ s.fabric.position then stBAD_PARAM
  else if g.domain ≠ 0 ∧ others.any (fun q => (s.part q).domain == g.domain) then stBAD_PARAM
  else if g.extents < x.maqCtl.toNat % 512 then stBUSY
  else if g.sections = 0 ∧ g.hbm = 0 ∧ g.extents = 0 ∧ x.host ≠ .detached then stBUSY
  else 0

/-- Pages whose frames the new table takes away: on stacks released, and below a smaller tier share. -/
def pagesLost (old new : Part) : List Nat :=
  old.pages.filterMap (fun e => match e.2.frame with
    | none => none
    | some f => match (old.frameAddr f).bind new.frameIndex with
      | some _ => none
      | none => some e.1)

/-- Renumbers the frames of every page under a new table (R235). -/
def refile (old new : Part) : Tbl TierPage :=
  old.pages.map (fun e => (e.1, { e.2 with frame := e.2.frame.bind (fun f => (old.frameAddr f).bind new.frameIndex) }))

/-- The positions that already have a member when this module's partition joins a domain (R295). How a module learns of them is
not stated, so they are a free value; a packet of the domain shows its sender's later on. -/
def State.meetDomain (s : State) (dom : Nat) : State :=
  let (r, s1) := s.fresh
  { s1 with fabric := { s1.fabric with
      members := Tbl.set [] s1.fabric.members dom ((List.range 64).filter (fun i => bit r i && i != s1.fabric.position)) } }

/-- A partition that begins to exist: DETACHED, token 0, and its registers of scope P at their reset values (R365, R505). -/
def Part.created (x : Part) : Part :=
  { x with tierCtl := ({} : Part).tierCtl, journal := 0, maqCtl := 0, jseq := 0, power := {}, host := .detached, cause := 0, token := 0 }

/-- The new table row takes effect: released sections and stacks begin to be cleared, the regulators follow the row with the level
that they have now, capped at the new size (R191), stacks added in MS2 enter SELF_REFRESH (R449), and a domain joined is met. `x` is the partition as it was. -/
def State.writeGrant (s : State) (g : Grant) (x w : Part) : State :=
  let p := g.pt
  let goneHbm := (List.range 20).filter (fun k => (x.hbm &&& ~~~g.hbm).getLsbD k)
  let newHbm := (List.range 20).filter (fun k => (g.hbm &&& ~~~x.hbm).getLsbD k)
  let level := s.bucketNow
  let s1 := (s.setPart p w).clearingSections p (x.sections &&& ~~~g.sections)
  let s2 := forEach goneHbm s1 (fun k st => st.scrub k)
  let s3 := forEach w.stackList s2 (fun k st => st.modStack k (fun q =>
    { q with
      spent := Tbl.set 0 q.spent p (if newHbm.contains k then 0 else w.capacity k - min (level k p) (w.capacity k))
      filledAt := Tbl.set 0 q.filledAt p s.now }))
  let s4 := if x.asleep then s3.sleepStacks newHbm else s3
  if g.domain = 0 ∨ g.domain = x.domain then s4 else s4.meetDomain g.domain

/-- A partition left with no grant is deleted; one created or deleted gets a new tenant's keys (R365, R475). -/
def State.settleGrant (s : State) (p : Nat) (was : Bool) : State :=
  if (s.part p).holdsAny then (if was then s else s.newTenant p)
  else
    let s1 := (s.freeAll p).2.2.setPart p {}
    if was then s1.newTenant p else s1

/-- Writes the table (R365): bytes of dirty frames written back, and the state. -/
def State.setGrant (s : State) (g : Grant) : Nat × State :=
  let p := g.pt
  let x := s.part p
  let (b1, s1) := if bit g.update 0 then s.setExtents p g.extents else (0, s)
  let y := s1.part p
  let (b2, s2) := s1.expelPages p (pagesLost y { y with hbm := g.hbm, tierGib := g.gib })
  let z := s2.part p
  let w : Part := { (if z.isPresent then z else z.created) with
    isPresent := z.isPresent || g.sections != 0 || g.hbm != 0 || !z.extents.isEmpty
    sections := g.sections, hbm := g.hbm, tierGib := g.gib, ctxQuota := g.quota, policy := g.policy
    domain := g.domain, fabIndex := g.index, rate := g.rate, burst := g.burst }
  (b1 + b2, (s2.writeGrant g x { w with pages := refile z w }).settleGrant p x.isPresent)

/-- PART_SET. -/
def execPartSet (fn slot : Nat) (s : State) : Out :=
  takeOp s fn slot opPART_SET (fun s1 =>
    let c := s1.cmd fn slot
    let st := s1.grantCheck c
    if st ≠ 0 then s1.finishCmd fn slot st
    else
      let g := s1.grantParams c
      let old := s1.part g.pt
      let (b, s2) := (s1.beginCmd fn slot).setGrant g
      let goneHbm := (List.range 20).foldl (fun a k => if (old.hbm &&& ~~~g.hbm).getLsbD k && (s2.stack k).mode == .scrubbing then a + 2 ^ k else a) 0
      s2.replyOk fn slot [goneHbm + (old.sections &&& ~~~g.sections).toNat * 2 ^ 32, s2.trimCount g.pt, b])

/-! ## Disabling tiles and sections (R368, R413) -/

/-- Running programs that hold one of the units, as (partition, program). -/
def State.programsOn (s : State) (tiles atps : List Nat) : List (Nat × Nat) :=
  allParts.flatMap (fun p => (s.part p).programs.filterMap (fun e =>
    if e.2.cmd.isSome && (e.2.tiles.any tiles.contains || e.2.atps.any atps.contains) then some (p, e.1) else none))

/-- Whether a draining unit is among the units named (R413 step 1). -/
def State.draining (s : State) (tiles atps : List Nat) : Bool :=
  s.drains.any (fun d => d.tiles.any tiles.contains || d.atps.any atps.contains)

/-- The tile name `nn` of die `d` passes to a free spare, or becomes absent (R5, R413): the physical index, 0xFF when none. -/
def State.substitute (s : State) (d nn : Nat) : Nat × State :=
  let x := s.die d
  let cur := x.physicalOf nn
  let bad := if cur = 64 ∨ cur = 65 then x.badSpares ++ [cur] else x.badSpares
  let used := ((List.range 64).filter (fun m => m != nn)).map x.physicalOf
  match [64, 65].find? (fun k => !bad.contains k && !used.contains k && cur != 0xFF) with
  | some k => (k, (s.setDie d { x with badSpares := bad, physical := Tbl.set 0 x.physical nn (k + 1) }).trace (pDCTL d) 12 (64 * d + nn) k 0)
  | none => (0xFF, s.setDie d { x with badSpares := bad, absent := if x.absent.contains nn then x.absent else x.absent ++ [nn] })

/-- Step 5 of R413: the unit cleared, its programs unloaded, the name passed on; the reply. -/
def State.disableNow (s : State) (d : Drain) : State :=
  let s1 := forEach allParts s (fun p st =>
    st.unloadIf p (fun g => g.tiles.any d.tiles.contains || g.atps.any d.atps.contains))
  let s2 := { s1 with drains := s1.drains.filter (fun e => e.fn != d.fn || e.slot != d.slot) }
  let ended := (s2.cmd d.fn d.slot).note
  if d.whole then
    ({ (s2.clearSection d.name) with secOut := s2.secOut ||| (1#16 <<< d.name) }).replyOk d.fn d.slot [ended, 0]
  else
    let (k, s3) := (s2.setTile d.name {}).substitute (d.name / 64) (d.name % 64)
    s3.replyOk d.fn d.slot [ended, k]

/-- Carries a drain on: waits for the running programs, then for the stopped work's writes (R413 steps 2 to 4). -/
def State.drainOn (s : State) (f n : Nat) : State :=
  match s.drains.find? (fun d => d.fn == f && d.slot == n) with
  | none => s
  | some d =>
    let owner := s.sectionOwner (if d.whole then d.name else d.name / 16)
    if (s.programsOn d.tiles d.atps).isEmpty && ((s.cmd f n).note == 0 || s.quiet [owner]) then s.disableNow d else s

/-- The row of both disables. -/
def disableOp (s : State) (f n op limit : Nat) (tiles atps : Nat → List Nat) (whole : Bool) : Out :=
  .next (if s.canTake f n op then
      let s1 := s.take f n
      let c := s1.cmd f n
      let u := c.param 0 1
      if limit ≤ u ∨ c.param 1 3 ≠ 0 ∨ 1000000 < c.param 4 4 then s1.finishCmd f n stBAD_PARAM
      else
        let d : Drain := { fn := f, slot := n, tiles := tiles u, atps := atps u, name := u, whole := whole, expiry := s1.now + 1000 * c.param 4 4 }
        (({ s1 with drains := s1.drains ++ [d] }).beginCmd f n).drainOn f n
    else if s.inRun f n op then s.drainOn f n else s)

/-- TILE_DISABLE. -/
def execTileDisable (fn slot : Nat) (s : State) : Out :=
  disableOp s fn slot opTILE_DISABLE 256 (fun t => [t]) (fun _ => []) false

/-- SECTION_DISABLE. -/
def execSectionDisable (fn slot : Nat) (s : State) : Out :=
  disableOp s fn slot opSECTION_DISABLE 16 (fun i => (List.range 16).map (fun k => 16 * i + k)) (fun i => [i]) true

/-- DRAIN_EXPIRE: programs still running stop as a HALT stops their commands, which end with ABORTED (R413 step 3). -/
def execDrainExpire (fn slot : Nat) (s : State) : Out :=
  .next (match s.drains.find? (fun d => d.fn == fn && d.slot == slot) with
  | none => s
  | some d =>
    if s.now < d.expiry then s
    else
      let runs := (s.programsOn d.tiles d.atps).filterMap (fun e => (s.program e.1 e.2).cmd)
      let s1 := forEach runs s (fun r st => st.stopCommand r.1 r.2 stABORTED)
      (s1.modCmd fn slot (fun c => { c with note := c.note + runs.length })).drainOn fn slot)

/-! ## Survey, log and trace commands (R380 to R382) -/

/-- What a command that writes to a host address ends with before it starts: 0 to go on. -/
def State.outCheck (s : State) (f out align : Nat) : Nat :=
  if out % align ≠ 0 ∨ 2 ^ 63 ≤ out then stBAD_PARAM else s.hostStatus f

/-- GET_SURVEY. -/
def execGetSurvey (fn slot : Nat) (s : State) : Out :=
  takeOp s fn slot opGET_SURVEY (fun s1 =>
    let c := s1.cmd fn slot
    let out := c.param 0 8
    let n := min surveyLen (c.param 8 4)
    let st := if c.param 8 4 % 64 ≠ 0 ∨ c.param 12 4 ≠ 0 then stBAD_PARAM else s1.outCheck fn out 64
    if st ≠ 0 then s1.finishCmd fn slot st
    else
      let (_, rep, s2) := (s1.beginCmd fn slot).takeSurvey fn
      let s3 := if n = 0 then s2 else s2.hostWrite fn out (BMap.readBytes rep 0 n) (.command fn slot)
      (s3.trace pMGT 8 n fn 0).replyOk fn slot [surveyLen, n])

/-- LOG_READ. With no entry written, RESULT[1] is a free value: the manual gives it none. -/
def execLogRead (fn slot : Nat) (s : State) : Out :=
  takeOp s fn slot opLOG_READ (fun s1 =>
    let c := s1.cmd fn slot
    let start := c.param 0 8
    let most := c.param 8 4
    let out := c.param 16 8
    let st := if most = 0 ∨ 65536 < most ∨ c.param 12 4 ≠ 0 then stBAD_PARAM else s1.outCheck fn out 64
    if st ≠ 0 then s1.finishCmd fn slot st
    else
      let es := ((s1.visible fn).filter (fun e => decide (start ≤ e.seq))).take most
      let (r, s2) := (s1.beginCmd fn slot).fresh
      let s3 := if es.isEmpty then s2 else s2.hostWrite fn out (es.flatMap entryBytes) (.command fn slot)
      let next := match es.getLast? with
        | some e => e.seq + 1
        | none => r
      (s3.trace pMGT 9 es.length fn 0).replyOk fn slot [es.length, next, s1.logOldest, s1.logOldest - start])

/-- TRACE_SET. -/
def execTraceSet (fn slot : Nat) (s : State) : Out :=
  takeOp s fn slot opTRACE_SET (fun s1 =>
    let c := s1.cmd fn slot
    if 10 < c.param 0 8 then s1.finishCmd fn slot stBAD_PARAM
    else
      let old := (s1.proc (c.param 0 1)).enable
      ((s1.beginCmd fn slot).modProc (c.param 0 1) (fun x => { x with enable := BitVec.ofNat 64 (c.param 8 8) })).replyOk fn slot [old.toNat])

end Sys2Proof.Machine
end

