-- ==== Sys2Proof/Machine/Operands.lean ====
section
/-! DEFINITION. Every operand form of a tile instruction: instruction words and their fields (R111), tensor descriptors
(R118), the views they resolve to (R119 to R122), the places of a view's elements and scale bytes, and reading and writing
them in the tile store. -/

namespace Sys2Proof.Machine

open Sys2Proof

/-! ## Instruction words (R111) -/

/-- Bits `[hi:lo]` of an instruction word. -/
def fld (w : BitVec 128) (hi lo : Nat) : Nat := bits w.toNat hi lo

def wOpc (w : BitVec 128) : Nat := fld w 127 120
def wEng (w : BitVec 128) : Nat := fld w 119 118
def wWaitToken (w : BitVec 128) : Nat := fld w 117 113
def wWaitEn (w : BitVec 128) : Bool := w.getLsbD 112
def wSignalToken (w : BitVec 128) : Nat := fld w 111 107
def wSignalEn (w : BitVec 128) : Bool := w.getLsbD 106
def wAcqRing (w : BitVec 128) : Nat := fld w 105 102
def wAcqEn (w : BitVec 128) : Bool := w.getLsbD 101
def wRelRing (w : BitVec 128) : Nat := fld w 100 97
def wRelEn (w : BitVec 128) : Bool := w.getLsbD 96

/-! ## The tile configuration block (R123) -/

/-- First byte of the tile configuration block; the tile store ends 1,024 bytes above it. -/
def cfgBase : Nat := 0x2FFC00
def storeEnd : Nat := 0x300000

def Tile.cfg (t : Tile) (o n : Nat) : Nat := BMap.readLe t.store (cfgBase + o) n
def Tile.tokenInit (t : Tile) (k : Nat) : Nat := t.cfg (2 * k) 2
def Tile.ringBase (t : Tile) (r : Nat) : Nat := t.cfg (64 + 16 * r) 4
def Tile.ringBytes (t : Tile) (r : Nat) : Nat := t.cfg (68 + 16 * r) 4
def Tile.ringSlots (t : Tile) (r : Nat) : Nat := t.cfg (72 + 16 * r) 1
def Tile.ringProducer (t : Tile) (r : Nat) : Nat := t.cfg (73 + 16 * r) 1
def Tile.ringConsumer (t : Tile) (r : Nat) : Nat := t.cfg (74 + 16 * r) 1
def Tile.descBase (t : Tile) : Nat := t.cfg 320 4
def Tile.descCount (t : Tile) : Nat := t.cfg 324 1
def Tile.rebase (t : Tile) (j : Nat) : Int := signed 64 (t.cfg (328 + 8 * j) 8)

/-- WATCHDOG in ns; 0 means 10^9 (R123). -/
def Tile.watchdogNs (t : Tile) : Nat := if t.cfg 456 8 = 0 then 1000000000 else t.cfg 456 8

/-! ## Descriptors (R118) -/

/-- The fields of a tensor descriptor. -/
structure Desc where
  base   : Nat
  sbase  : Nat
  ext    : List Nat
  stride : List Int
  step   : Int
  ctl    : Nat
  deriving DecidableEq, Repr

/-- Reads a descriptor's 64 bytes. -/
def readDesc (m : BMap) (a : Nat) : Desc :=
  { base := BMap.readLe m a 8, sbase := BMap.readLe m (a + 8) 8
    ext := (List.range 5).map (fun d => BMap.readLe m (a + 16 + 4 * d) 4)
    stride := (List.range 5).map (fun d => signed 32 (BMap.readLe m (a + 36 + 4 * d) 4))
    step := signed 32 (BMap.readLe m (a + 56) 4), ctl := BMap.readLe m (a + 60) 4 }

def Desc.fmt (d : Desc) : Nat := bits d.ctl 3 0
def Desc.bs (d : Desc) : Nat := bits d.ctl 5 4
def Desc.sd (d : Desc) : Nat := bits d.ctl 6 6
def Desc.layout (d : Desc) : Nat := bits d.ctl 8 7
def Desc.check (d : Desc) : Bool := bit d.ctl 9
def Desc.ts (d : Desc) : Bool := bit d.ctl 10
def Desc.ringEn (d : Desc) : Bool := bit d.ctl 11
def Desc.ring (d : Desc) : Nat := bits d.ctl 15 12
def Desc.iterLoop (d : Desc) : Nat := bits d.ctl 17 16
def Desc.iterEn (d : Desc) : Bool := bit d.ctl 18
def Desc.iterDim (d : Desc) : Nat := bits d.ctl 21 19
def Desc.rebase (d : Desc) : Bool := bit d.ctl 22

/-- A reserved encoding, or a block size or direction with an unscaled format (R122), or a KV descriptor that breaks R46. -/
def Desc.encodingOk (d : Desc) : Bool :=
  d.fmt < 12 && d.layout < 2 && d.iterDim < 5 && d.ctl < 2 ^ 23 && d.ext.all (fun e => 1 ≤ e) &&
  (fmtScaled d.fmt || (d.bs == 0 && d.sd == 0)) && (d.fmt < 10 || (d.bs == 1 && d.sd == 0)) &&
  (!d.ringEn || d.ts) && (!d.ts || (d.base < 2 ^ 22 && d.sbase < 2 ^ 22))

/-! ## Views -/

/-- Column blocks of a tile-blocked matrix C columns wide (R84). -/
def colBlocks (c : Int) : Int := (c + 63) / 64

/-- The parent's extents along the dimensions with nonzero stride, in ascending order, and the scale-plane strides that follow
(R120): `dims` are those dimensions with their strides, `acc` the plane stride of the next one. -/
def planeStrides (sd : Nat) (bs : Int) : List (Nat × Int) → Int → List (Nat × Int)
  | [], _ => []
  | [(d, _)], acc => [(d, acc)]
  | (d, s) :: (d', s') :: rest, acc =>
    let parent := s' / s
    let extent := if d = sd then (parent + bs - 1) / bs else parent
    (d, acc) :: planeStrides sd bs ((d', s') :: rest) (acc * extent)

/-- Whether ascending strides are positive multiples of the ones below (R120). -/
def multiples : List (Nat × Int) → Bool
  | [] => true
  | [(_, s)] => 0 < s
  | (_, s) :: (d', s') :: rest => 0 < s && s' % s == 0 && s ≤ s' && multiples ((d', s') :: rest)

/-- The scale-plane strides of a block-scaled view, none when the view breaks R119 or R120. -/
def Desc.plane (d : Desc) : Option (List Int) :=
  let bs : Int := blockLen d.bs
  let st := fun i => d.stride.getD i 0
  let pick := fun (ps : List (Nat × Int)) => (List.range 5).map (fun i => ((ps.find? (fun p => p.1 == i)).map (·.2)).getD 0)
  if d.layout = 0 then
    let dims := ((List.range 5).map (fun i => (i, st i))).filter (fun p => p.2 != 0)
    if dims.any (fun p => p.1 == d.sd) && multiples dims && (dims.head?.map (·.2)) == some 1 then
      some (pick (planeStrides d.sd bs dims 1))
    else none
  else
    let c := st 0
    let high := ((List.range 5).map (fun i => (i, st i))).filter (fun p => 2 ≤ p.1 && p.2 != 0)
    let s1 : Int := if d.sd = 0 then (c + bs - 1) / bs else c
    match high with
    | [] => some [1, s1, 0, 0, 0]
    | (_, low) :: _ =>
      if low % (4096 * colBlocks c) = 0 ∧ multiples high then
        let rows := low / (64 * colBlocks c)
        let s2 := s1 * (if d.sd = 1 then (rows + bs - 1) / bs else rows)
        let ps := planeStrides 9 bs high s2
        some ([1, s1] ++ ((List.range 5).map (fun i => ((ps.find? (fun p => p.1 == i)).map (·.2)).getD 0)).drop 2)
      else none

/-- Whether strides follow R119. -/
def Desc.stridesOk (d : Desc) : Bool :=
  if d.layout = 0 then
    (fmtBits d.fmt != 4 || (d.stride.getD 0 0 == 1 && (d.stride.drop 1).all (fun s => s % 2 == 0)))
  else 1 ≤ d.stride.getD 0 0 && d.stride.getD 1 0 == 0 && (fmtBits d.fmt != 4 || (d.stride.drop 2).all (fun s => s % 2 == 0))

/-- Element offset of one index step along a dimension at a multiple of the layout block (R119, R121). -/
def Desc.advance (d : Desc) (dim : Nat) (n : Int) : Int :=
  if d.layout = 1 ∧ dim = 0 then n / 64 * 4096
  else if d.layout = 1 ∧ dim = 1 then n / 64 * (4096 * colBlocks (d.stride.getD 0 0))
  else n * d.stride.getD dim 0

/-- Whether ITER_STEP is a step that R121 allows. -/
def Desc.stepOk (d : Desc) : Bool :=
  !d.iterEn ||
    ((d.layout != 1 || 2 ≤ d.iterDim || d.step % 64 == 0) &&
     (!fmtScaled d.fmt || d.iterDim != d.sd || d.step % (blockLen d.bs : Int) == 0 ||
       ((d.layout != 1 || 2 ≤ d.iterDim) && d.stride.getD d.iterDim 0 == 0)))

/-- Resolves a descriptor (R118 to R122): `k` is the index of its loop level, `rebase` the rebase offset, `slot` the byte
address of the held slot of a ring. None is a tile fault. -/
def Desc.resolve (d : Desc) (k : Nat) (rebase : Int) (slot : Nat → Option Nat) : Option View :=
  if !d.encodingOk || !d.stridesOk || !d.stepOk then none
  else
    let scaled := fmtScaled d.fmt
    match (if scaled then d.plane else some [0, 0, 0, 0, 0]), (if d.ringEn then slot d.ring else some 0) with
    | some ps, some r =>
      let n : Int := if d.iterEn then (k : Int) * d.step else 0
      let moves := d.layout == 1 && d.iterDim < 2 || d.stride.getD d.iterDim 0 != 0
      let shift : Int := r + (if d.rebase then rebase else 0)
      let bs : Int := blockLen d.bs
      let sMove := if !scaled || !moves then 0 else if d.iterDim = d.sd then n / bs * ps.getD d.iterDim 0 else n * ps.getD d.iterDim 0
      let base := (d.base : Int) + shift
      if d.layout = 1 ∧ !d.ts ∧ base % 4096 ≠ 0 then none
      else some {
        fmt := d.fmt, bs := if scaled then blockLen d.bs else 1, sd := d.sd, layout := d.layout, check := d.check, ts := d.ts
        base := base, sbase := (d.sbase : Int) + shift + sMove, off := if moves then d.advance d.iterDim n else 0
        ext := d.ext, stride := d.stride, pstride := ps }
    | _, _ => none

/-! ## Elements of a view -/

/-- Every index of the given extents, dimension 0 innermost. -/
def indexList : List Nat → List (List Nat)
  | [] => [[]]
  | e :: es => (indexList es).flatMap (fun rest => (List.range e).map (fun i => i :: rest))

/-- Sum of index times stride. -/
def dotStride : List Nat → List Int → Int
  | i :: is, s :: ss => (i : Int) * s + dotStride is ss
  | _, _ => 0

/-- Element offset of an index from the base (R84, R119). -/
def View.elemOff (v : View) (idx : List Nat) : Int :=
  if v.layout = 1 then
    let c : Int := idx.getD 0 0
    let r : Int := idx.getD 1 0
    (r / 64 * colBlocks (v.stride.getD 0 0) + c / 64) * 4096 + 64 * (r % 64) + c % 64 + dotStride (idx.drop 2) (v.stride.drop 2)
  else dotStride idx v.stride

/-- Bit position of an element from address 0 of the view's space. -/
def View.bitPos (v : View) (idx : List Nat) : Int := v.base * 8 + (v.off + v.elemOff idx) * fmtBits v.fmt

/-- Byte address of an element, and its shift within the byte (0 or 4; R38). -/
def View.elemAddr (v : View) (idx : List Nat) : Int × Nat := (v.bitPos idx / 8, (v.bitPos idx % 8).toNat)

/-- Bytes an element occupies. -/
def View.elemBytes (v : View) : Nat := max 1 (fmtBits v.fmt / 8)

/-- Elements of a view. -/
def View.count (v : View) : Nat := v.ext.foldl (· * ·) 1

/-- The block index of an element: its index with the SD index divided by the block length. -/
def View.blockOf (v : View) (idx : List Nat) : List Nat := idx.mapIdx (fun d i => if d = v.sd then i / v.bs else i)

/-- Byte address of an element's scale (R120). -/
def View.scaleAddr (v : View) (idx : List Nat) : Int := v.sbase + dotStride (v.blockOf idx) v.pstride

/-- The extents of the view's scale blocks. -/
def View.blockExt (v : View) : List Nat := v.ext.mapIdx (fun d e => if d = v.sd then ceilDiv e v.bs else e)

/-- Addresses of the view's scale bytes in order, empty for an unscaled format. -/
def View.scaleAddrs (v : View) : List Int :=
  if fmtScaled v.fmt then (indexList v.blockExt).map (fun b => v.sbase + dotStride b v.pstride) else []

/-- Every index of a view in element order. -/
def View.indices (v : View) : List (List Nat) := indexList v.ext

/-- Every byte span a view touches, element spans then scale bytes. -/
def View.touched (v : View) : List (Int × Nat) :=
  (v.indices.map (fun i => ((v.elemAddr i).1, v.elemBytes))) ++ v.scaleAddrs.map (fun a => (a, 1))

/-- Joins spans that follow one another. -/
def joinSpans : List (Nat × Nat) → List (Nat × Nat)
  | [] => []
  | (a, n) :: rest =>
    match joinSpans rest with
    | (b, m) :: more => if a ≤ b ∧ b ≤ a + n then (a, max n (b + m - a)) :: more else (a, n) :: (b, m) :: more
    | [] => [(a, n)]

/-- The spans of a view as engine addresses, modulo 2^64. -/
def View.spans (v : View) : List (Nat × Nat) := joinSpans (v.touched.map (fun p => ((p.1 % (2 ^ 64)).toNat, p.2)))

/-- Whether every byte of a tile-store view lies below the configuration block (R122). -/
def View.inStore (v : View) : Bool := v.touched.all (fun p => decide (0 ≤ p.1) && decide (p.1 + p.2 ≤ (cfgBase : Int)))

/-- Whether two views agree in FMT, BS, SD and extents (R113). -/
def View.sameShape (x y : View) : Bool := x.fmt == y.fmt && x.bs == y.bs && x.sd == y.sd && x.ext == y.ext

/-! ## Element values -/

/-- The stored bits of an element. -/
def View.getElem (v : View) (m : BMap) (idx : List Nat) : Nat :=
  let p := v.elemAddr idx
  let a := (p.1 % (2 ^ 64)).toNat
  if fmtBits v.fmt = 4 then (BMap.read m a).toNat / 2 ^ p.2 % 16 else BMap.readLe m a v.elemBytes

/-- Stores the bits of an element; a nibble leaves its neighbour as it was (R38). -/
def View.putElem (v : View) (m : BMap) (idx : List Nat) (w : Nat) : BMap :=
  let p := v.elemAddr idx
  let a := (p.1 % (2 ^ 64)).toNat
  if fmtBits v.fmt = 4 then
    let old := (BMap.read m a).toNat
    BMap.write m a (BitVec.ofNat 8 (if p.2 = 0 then old / 16 * 16 + w % 16 else old % 16 + w % 16 * 16))
  else BMap.writeLe m a v.elemBytes w

/-- The scale byte of an element; 0 for an unscaled format. -/
def View.getScale (v : View) (m : BMap) (idx : List Nat) : Nat :=
  if fmtScaled v.fmt then (BMap.read m ((v.scaleAddr idx % (2 ^ 64)).toNat)).toNat else 0

/-- The exact value of an element. -/
def View.value (v : View) (m : BMap) (idx : List Nat) : Val := elemVal v.fmt (v.getElem m idx) (v.getScale m idx)

/-- Copies the elements and scales of view `x` of memory `m` into view `y` of memory `d`, unchanged (R113). -/
def copyView (x y : View) (m d : BMap) : BMap :=
  let e := x.indices.foldl (fun acc i => y.putElem acc i (x.getElem m i)) d
  (x.scaleAddrs.zip y.scaleAddrs).foldl (fun acc p => BMap.write acc ((p.2 % (2 ^ 64)).toNat) (BMap.read m ((p.1 % (2 ^ 64)).toNat))) e

/-- The bytes of a view in element order, nibbles packed in pairs, and its scale bytes. -/
def View.stream (v : View) (m : BMap) : List Nat × List Byte :=
  (v.indices.map (fun i => v.getElem m i), v.scaleAddrs.map (fun a => BMap.read m ((a % (2 ^ 64)).toNat)))

/-! ## An engine's context at issue -/

/-- The slot of a ring that an engine holds. -/
def Ring.heldBy (r : Ring) (producer : Bool) : Option Nat := if producer then r.prodHeld else r.consHeld

/-- The byte address of the held slot of a ring, for the engine with code `e`. -/
def Tile.slotAddr (t : Tile) (e r : Nat) : Option Nat :=
  let ring := Tbl.get {} t.rings r
  ((if t.ringSlots r = 0 then none
    else if t.ringProducer r = e then ring.prodHeld
    else if t.ringConsumer r = e then ring.consHeld
    else none)).map (fun s => t.ringBase r + s * t.ringBytes r)

/-- The index of a loop level, 0 while it is not active (R121). -/
def EngineState.loopIndex (e : EngineState) (level : Nat) : Nat := ((e.loops[level]?).map (·.index)).getD 0

/-- The rebase offset: that of a running REPLAY, else 0 (R133). -/
def Tile.rebaseOf (t : Tile) (e : EngineState) : Int :=
  match e.replay with
  | some r => t.rebase r.rebase
  | none => 0

/-- The view a descriptor operand names, resolved as the engine issues (R122); none is a tile fault. -/
def Tile.view (t : Tile) (e : Engine) (i : Nat) : Option View :=
  if t.descCount ≤ i then none
  else
    let d := readDesc t.store (t.descBase + 64 * i)
    match d.resolve ((t.eng e).loopIndex d.iterLoop) (t.rebaseOf (t.eng e)) (t.slotAddr (engCode e)) with
    | none => none
    | some v => if v.ts && !v.inStore then none else some v

end Sys2Proof.Machine
end

