-- ==== Sys2Proof/Machine/Flags.lean ====
section
/-! DEFINITION. The numeric status flags of tiles and attention pipelines (R57) and the maxima kept for tensor scale records
(R55). -/

namespace Sys2Proof.Machine

open Sys2Proof

/-- Sets flags of a tile; they stay set until a run starts (R57). -/
def Tile.raise (t : Tile) (f : BitVec 6) : Tile := { t with flags := t.flags ||| f }

/-- Sets flags of an attention pipeline. -/
def Atp.raise (a : Atp) (f : BitVec 6) : Atp := { a with flags := a.flags ||| f }

/-- The result flags of a comparison-free operation with its exact result: INVALID when a NaN comes from operands that are not
NaN (R57). -/
def nanFlag (operandNan : Bool) (r : Val) : BitVec 6 := if r.isNan && !operandNan then fINVALID else 0

/-- The larger of two FP32 magnitudes given as bits without sign. -/
def maxBits (x y : BitVec 32) : BitVec 32 := if x.toNat < y.toNat then y else x

/-- Keeps the largest finite |x| converted under a record during this step: up to 16 records; a 17th sets HIST_LOST (R55). -/
def Tile.keepMax (t : Tile) (record : Nat) (x : BitVec 32) : Tile :=
  if t.maxima.any (fun m => m.1 == record) then
    { t with maxima := t.maxima.map (fun m => if m.1 == record then (m.1, maxBits m.2 x) else m) }
  else if t.maxima.length < 16 then { t with maxima := t.maxima ++ [(record, x)] }
  else t.raise fHISTLOST

/-! ## Damaged words (R407) -/

/-- A tile that has met too many damaged words is marked FAILING, with an error entry. -/
def State.markFailing (s : State) (t : Nat) : State :=
  if (s.tile t).failing then s
  else (s.modTile t (fun x => { x with failing := true })).error (pDCTL (dieOfTile t)) { status := 0, cls := cREQUEST, unit := 14, unitId := t }

/-- A single-bit error: corrected and counted; more than 16 in one second mark the tile. -/
def State.fixWord (s : State) (t : Nat) : State :=
  let recent := ((s.now :: (s.tile t).fixedAt).filter (fun u => decide (s.now < u + 1000000000))).take 17
  let s1 := s.modTile t (fun x => { x with corrected := x.corrected + 1, fixedAt := recent })
  if 16 < recent.length then s1.markFailing t else s1

/-- A double-bit error in a word: it holds 0 afterwards, and two within 24 hours mark the tile. -/
def State.loseWord (s : State) (t : Nat) (zero : Tile → Tile) : State :=
  let recent := ((s.now :: (s.tile t).lostAt).filter (fun u => decide (s.now < u + 86400000000000))).take 2
  let s1 := s.modTile t (fun x => { zero x with lostAt := recent })
  if 2 ≤ recent.length then s1.markFailing t else s1

/-- Zeroes a 64-bit word of a tile store. -/
def Tile.zeroWord (w : Nat) (t : Tile) : Tile := { t with store := BMap.clear t.store (8 * w) 8 }

/-- Carries out an instruction's work unless a word it reads is lost: then the instruction fails with DATA_ERROR. -/
def State.withSoft (s : State) (t : Nat) (e : Engine) (soft : Soft) (zero : Nat → Tile → Tile) (work : State → State) : State :=
  match soft with
  | .clean => work s
  | .corrected => work (s.fixWord t)
  | .double w => (s.loseWord t (zero w)).tileFault t e stDATA_ERROR 0 none true

end Sys2Proof.Machine
end

