-- ==== Sys2Proof/Machine/Engine.lean ====
section
/-! DEFINITION. How a tile's engines issue (R107 to R112, R125 to R133): waits and signals, rings and credits, the steps of an
issue, loops and replays, the watchdog's condition, and the control instructions. -/

namespace Sys2Proof.Machine

open Sys2Proof

/-! ## Positions -/

def opSEG : Nat := 0x01
def opEND : Nat := 0x04
def opFMCAST : Nat := 0x11
def opFRECV : Nat := 0x12

/-- The word at a position; a position the image does not write holds zero (R370). -/
def EngineState.wordAt (e : EngineState) (i : Nat) : BitVec 128 := Tbl.get 0 e.imem i
def EngineState.word (e : EngineState) : BitVec 128 := e.wordAt e.pc

/-- Leaves the position `p` behind: the innermost loop that ends there repeats or ends (R133). Frames innermost first. -/
def stepLoops (p : Nat) : List LoopFrame → List LoopFrame × Nat
  | [] => ([], p + 1)
  | f :: fs =>
    if f.last = p then
      (if f.index + 1 < f.count then ({ f with index := f.index + 1 } :: fs, f.first) else stepLoops p fs)
    else (f :: fs, p + 1)

/-- The position after the instruction at the current one. -/
def EngineState.next (e : EngineState) : EngineState :=
  let r := stepLoops e.pc e.loops.reverse
  { e with loops := r.1.reverse, pc := r.2 }

/-- Ends a replay that has reached the end of its segment: the engine resumes after its REPLAY (R133). -/
def EngineState.settle (e : EngineState) : EngineState :=
  match e.replay with
  | none => e
  | some r =>
    let o := wOpc e.word
    if 4096 ≤ e.pc ∨ o = opSEG ∨ o = opEND then EngineState.next { e with replay := none, pc := r.resume } else e

/-- The position of the SEG marker of a segment (R131). -/
def EngineState.marker (e : EngineState) (n : Nat) : Nat :=
  (findFrom (fun i => wOpc (e.wordAt i) == opSEG && fld (e.wordAt i) 15 0 == n) 0 4096).getD 4096

/-! ## Tokens and rings (R125 to R129) -/

def Tile.token (t : Tile) (k : Nat) : Nat := Tbl.get 0 t.tokens k
def Tile.setToken (t : Tile) (k v : Nat) : Tile := { t with tokens := Tbl.set 0 t.tokens k v }
def Tile.ring (t : Tile) (r : Nat) : Ring := Tbl.get {} t.rings r
def Tile.setRing (t : Tile) (r : Nat) (x : Ring) : Tile := { t with rings := Tbl.set {} t.rings r x }

/-- Whether an engine is the producer of a ring (R124 leaves it producer or consumer). -/
def Tile.produces (t : Tile) (e : Engine) (r : Nat) : Bool := t.ringProducer r == engCode e

/-- Credits of a ring for an engine (R128). -/
def Tile.credits (t : Tile) (e : Engine) (r : Nat) : Nat := if t.produces e r then (t.ring r).free else (t.ring r).full

/-- The slot of a ring that an engine holds. -/
def Tile.held (t : Tile) (e : Engine) (r : Nat) : Option Nat := (t.ring r).heldBy (t.produces e r)

/-- Acquires: takes a credit and the slot at the pointer, which advances (R128). -/
def Tile.acquire (t : Tile) (e : Engine) (r : Nat) : Tile :=
  let x := t.ring r
  let n := max 1 (t.ringSlots r)
  t.setRing r (if t.produces e r then { x with free := x.free - 1, prodHeld := some x.prodPtr, prodPtr := (x.prodPtr + 1) % n }
    else { x with full := x.full - 1, consHeld := some x.consPtr, consPtr := (x.consPtr + 1) % n })

/-- The engine no longer holds its slot, from the issue of the instruction that releases it. -/
def Tile.letGo (t : Tile) (e : Engine) (r : Nat) : Tile :=
  let x := t.ring r
  t.setRing r (if t.produces e r then { x with prodHeld := none } else { x with consHeld := none })

/-- The credit of a release (R128), when the releasing instruction takes effect. -/
def Tile.credit (t : Tile) (e : Engine) (r : Nat) : Tile :=
  let x := t.ring r
  t.setRing r (if t.produces e r then { x with full := x.full + 1 } else { x with free := x.free + 1 })

/-! ## The watchdog's condition (R130) -/

/-- Whether a flight is an FMCAST that has not delivered: it blocks its engine (R135). -/
def Flight.multicastPending (f : Flight) : Bool := wOpc f.word == opFMCAST && !f.ran

/-- Whether F waits for the delivery of an FMCAST. -/
def Tile.multicastBlocked (t : Tile) : Bool := t.f.flights.any Flight.multicastPending

/-- What an engine is blocked on, as R130 counts it. -/
def Tile.blockedOn (t : Tile) (e : Engine) : Option Blocked :=
  let x := t.eng e
  let w := x.word
  let tokenDone := !wWaitEn w || x.waited
  if x.atStep then some .marker
  else if e = .F ∧ t.multicastBlocked then some .delivery
  else if !tokenDone && t.token (wWaitToken w) == 0 then some (.token (wWaitToken w))
  else if tokenDone && wAcqEn w && !x.taken && t.credits e (wAcqRing w) == 0 then some (.ring (wAcqRing w))
  else if e = .F ∧ wOpc w = opFRECV ∧ 8 ≤ t.receipts.length then some .receipts
  else none

/-- Whether an engine is blocked. -/
def Tile.blocked (t : Tile) (e : Engine) : Bool := (t.blockedOn e).isSome

def engines : List Engine := [.F, .M, .V, .S]

/-- Whether every engine has ended or is blocked. -/
def Tile.stuck (t : Tile) : Bool := engines.all (fun e => (t.eng e).ended || t.blocked e)

/-- Whether an instruction has completed: its effect is made, its writes are acknowledged and nothing is waited for (R109). -/
def Flight.done (f : Flight) : Bool := f.ran && f.acks == 0 && f.waits == 0 && f.marks.isEmpty

/-- Whether an instruction waits for other tiles alone: an FMCAST for its receipts, an FRECV for its delivery (R135). -/
def Flight.peerWait (f : Flight) : Bool := (wOpc f.word == opFMCAST || wOpc f.word == opFRECV) && !f.ran && f.waits == 0

/-- Whether an engine has nothing in flight but what waits for other tiles and what has completed behind that. R130 and R132 each
speak of a case that could not arise if a posted FRECV were in flight, so it is not (DEDUCED, assumption 50). -/
def EngineState.quiet (e : EngineState) : Bool :=
  match e.flights with
  | [] => true
  | f :: fs => f.peerWait && fs.all (fun g => g.peerWait || g.done)

/-- Whether no instruction of the tile is in flight. -/
def Tile.drained (t : Tile) : Bool := engines.all (fun e => (t.eng e).quiet)

/-- Whether the tile's part of the program has ended. -/
def Tile.finished (t : Tile) : Bool := engines.all (fun e => (t.eng e).ended && (t.eng e).flights.isEmpty)

/-- Keeps the watchdog's count after a change: it runs while the two conditions hold together (R130). -/
def State.watch (s : State) (t : Nat) : State :=
  s.modTile t (fun x => { x with
    blockedAt := if x.running && x.stuck && x.drained then some (x.blockedAt.getD s.now) else none
    gated := x.gated && x.stuck && x.drained })

/-! ## Signals -/

/-- A signal: the counter rises by 1; above 65,535 it is a tile fault (R125). The watchdog's count restarts. -/
def State.signal (s : State) (t : Nat) (e : Engine) (k : Nat) : State :=
  let x := s.tile t
  if 65535 ≤ x.token k then s.programFault t e .counter
  else s.setTile t { (x.setToken k (x.token k + 1)) with blockedAt := none, gated := false }

/-! ## Issue (R112) -/

/-- Steps 1 and 2 of R112 at the instruction an engine stands at: whether both are done, and the state; an acquire of a ring
already held is a tile fault (R129). -/
def State.waitSteps (s : State) (t : Nat) (e : Engine) : Bool × State :=
  let x := s.tile t
  let w := (x.eng e).word
  if wWaitEn w && !(x.eng e).waited && x.token (wWaitToken w) == 0 then (false, s)
  else
    let x1 := if wWaitEn w && !(x.eng e).waited then
        (x.setToken (wWaitToken w) (x.token (wWaitToken w) - 1)).setEng e { x.eng e with waited := true }
      else x
    let s1 := s.setTile t x1
    if !wAcqEn w || (x1.eng e).taken then (true, s1)
    else if (x1.held e (wAcqRing w)).isSome then (false, s1.programFault t e .ringHeld)
    else if x1.credits e (wAcqRing w) = 0 then (false, s1)
    else
      let x2 := x1.acquire e (wAcqRing w)
      (true, s1.setTile t (x2.setEng e { x2.eng e with taken := true }))

/-- Instructions an engine may have in flight (R108). An instruction counts until it is visible, so one that has completed behind
an earlier one counts still; V's table entry gives no number, and 65,536 stands for it (DESIGN CHOICE, assumption 188). -/
def flightLimit : Engine → Nat
  | .F => 256
  | .M => 1
  | .V => 65536
  | .S => 256

/-- Changes a flight of an engine. -/
def State.modFlight (s : State) (t : Nat) (e : Engine) (id : Nat) (g : Flight → Flight) : State :=
  s.modTile t (fun x => x.setEng e { x.eng e with flights := (x.eng e).flights.map (fun f => if f.id = id then g f else f) })

/-- Whether an engine stands at an instruction of the opcode and may go on with it. -/
def State.atOpcode (s : State) (t : Nat) (e : Engine) (opc : Nat) : Bool :=
  let x := s.tile t
  t < 256 && x.running && !x.gated && !(x.eng e).ended && !(x.eng e).atStep && wOpc (x.eng e).word == opc && wEng (x.eng e).word == engCode e &&
    !(e == .F && x.multicastBlocked)

/-- Issues the instruction an engine stands at, when it has the opcode (R112): the wait and the acquire, then, once `ready`, the
instruction's own work and the move to the next position. What cannot go on yet leaves the rest of the state as it is: an FRECV
that the limit of R135 holds has made its wait and its acquire by then (DEDUCED, assumption 189). The work gets the word and the
number of its flight; a fault in it stops the tile. -/
def State.issue (s : State) (t : Nat) (e : Engine) (opc : Nat) (ready : BitVec 128 → State → Bool)
    (work : BitVec 128 → Nat → State → State) (move : EngineState → EngineState := fun x => x.next) : Out :=
  .next (if !s.atOpcode t e opc then s
  else
    let w := ((s.tile t).eng e).word
    let (go, s1) := s.waitSteps t e
    let x1 := (s1.tile t).eng e
    if !go || decide (flightLimit e ≤ x1.flights.length) || !ready w s1 then s1.watch t
    else
      let id := x1.nextId
      let s2 := s1.modTile t (fun x => x.setEng e { x1 with flights := x1.flights ++ [{ id := id, word := w }], nextId := id + 1 })
      let s3 := work w id s2
      if !(s3.tile t).running then s3
      else if wRelEn w && ((s3.tile t).held e (wRelRing w)).isNone then s3.programFault t e .ringNotHeld
      else
        (s3.modTile t (fun x =>
          let y := if wRelEn w then x.letGo e (wRelRing w) else x
          y.setEng e (move { y.eng e with waited := false, taken := false }).settle)).watch t)

/-- An instruction that completes when it issues. -/
def State.atOnce (s : State) (t : Nat) (e : Engine) (id : Nat) : State := s.modFlight t e id (fun f => { f with ran := true })

/-! ## Control instructions (R113, R131 to R133) -/

/-- NOP. -/
def execNopInstruction (tile : Nat) (eng : Engine) (s : State) : Out :=
  s.issue tile eng 0x00 (fun _ _ => true) (fun _ id st => st.atOnce tile eng id)

/-- Whether the segment after the marker an engine stands at begins with VMODE STREAM: its first instruction that is no control
instruction (R89). -/
def EngineState.streamNext (e : EngineState) : Bool :=
  match findFrom (fun i => wOpc (e.wordAt i) == opSEG || wOpc (e.wordAt i) == opEND || decide (0x10 ≤ wOpc (e.wordAt i))) (e.pc + 1) 4096 with
  | some i => wOpc (e.wordAt i) == 0x40 && (e.wordAt i).getLsbD 0
  | none => false

/-- SEG: with STEP clear the engine passes the marker, and V returns to register mode, once its earlier instructions have
completed unless the segment begins with VMODE STREAM (R89); with STEP set it waits there for STEP_BOUNDARY. -/
def execSeg (tile : Nat) (eng : Engine) (s : State) : Out :=
  if (((s.tile tile).eng eng).word).getLsbD 16 then
    .next (if !s.atOpcode tile eng 0x01 then s
      else
        let (go, s1) := s.waitSteps tile eng
        (if go then s1.modTile tile (fun x => x.setEng eng { x.eng eng with atStep := true }) else s1).watch tile)
  else
    s.issue tile eng 0x01 (fun _ st => let x := (st.tile tile).eng eng; eng != .V || x.flights.isEmpty || x.streamNext) (fun w id st =>
      (st.atOnce tile eng id).modTile tile (fun x =>
        { (x.setEng eng { x.eng eng with segment := fld w 15 0 }) with stream := if eng = .V then false else x.stream }))

/-- LOOP. -/
def execLoop (tile : Nat) (eng : Engine) (s : State) : Out :=
  s.issue tile eng 0x02 (fun _ _ => true) (fun _ id st => st.atOnce tile eng id)
    (fun x =>
      let w := x.word
      { x with loops := x.loops ++ [{ first := x.pc + 1, last := x.pc + fld w 27 16, index := 0, count := fld w 15 0 + 1 }], pc := x.pc + 1 })

/-- REPLAY. -/
def execReplay (tile : Nat) (eng : Engine) (s : State) : Out :=
  s.issue tile eng 0x03 (fun _ _ => true) (fun _ id st => st.atOnce tile eng id)
    (fun x => { x with replay := some { resume := x.pc, rebase := fld x.word 19 16 }, pc := x.marker (fld x.word 15 0) + 1 })

/-- END. -/
def execEndStream (tile : Nat) (eng : Engine) (s : State) : Out :=
  s.issue tile eng 0x04 (fun _ _ => true) (fun _ id st => st.atOnce tile eng id) (fun x => { x with ended := true })

/-! ## Step boundaries (R132) -/

/-- The check of a step boundary. -/
def Tile.boundaryOk (x : Tile) : Bool :=
  (List.range 32).all (fun k => x.token k == x.tokenInit k) &&
  (List.range 16).all (fun r => x.ringSlots r == 0 ||
    ((x.ring r).full == 0 && (x.ring r).free == x.ringSlots r && (x.ring r).prodHeld.isNone && (x.ring r).consHeld.isNone)) &&
  x.receipts.isEmpty

/-- An engine passes its STEP marker: the marker completes, with its signal and release to come. -/
def Tile.passMarker (x : Tile) (e : Engine) : Tile :=
  let y := x.eng e
  let w := y.word
  let z : EngineState := { y with
    atStep := false, waited := false, taken := false, segment := fld w 15 0
    flights := y.flights ++ [{ id := y.nextId, word := w, ran := true }], nextId := y.nextId + 1 }
  x.setEng e z.next.settle

/-- Whether the marker of some engine releases a ring that the engine does not hold (R129). -/
def Tile.markerFault (x : Tile) (e : Engine) : Bool :=
  let w := (x.eng e).word
  wRelEn w && (x.held e (wRelRing w)).isNone

/-- STEP_BOUNDARY: all four engines stand at their STEP marker and nothing is in flight. A failed check, an outstanding receipt
among them, is a tile fault. A stop that is due takes effect here, or when every engine has ended or is blocked. -/
def execStepBoundary (tile : Nat) (s : State) : Out :=
  let x := s.tile tile
  .next (if !x.running || !(tile < 256) then s
  else if engines.all (fun e => (x.eng e).atStep && (x.eng e).quiet) then
    if !x.boundaryOk then s.programFault tile .F .boundary
    else if x.stopping.isSome then s.setTile tile { x.halted with steps := x.steps + 1 }
    else match engines.find? x.markerFault with
      | some e => s.programFault tile e .ringNotHeld
      | none =>
        let y : Tile := engines.foldl (fun y e =>
            Tile.passMarker (if wRelEn ((y.eng e).word) then y.letGo e (wRelRing (y.eng e).word) else y) e) x
        (s.setTile tile { y with steps := x.steps + 1, stream := false }).watch tile
  else if x.stopping.isSome && x.stuck && !x.finished then s.stopTile tile
  else s)

/-! ## The watchdog and remote signals -/

/-- What the error entry of a watchdog names (R130): each blocked engine with what it waits on, and every counter's value. -/
def Tile.watchdogNames (x : Tile) : FaultName :=
  .blocked (engines.filterMap (fun e => if (x.eng e).ended then none else (x.blockedOn e).map (fun b => (e, b)))) ((List.range 32).map x.token)

/-- WATCHDOG (R130): the tile has stood still for WATCHDOG ns; its program stops and the run ends with TIMEOUT. -/
def execWatchdog (tile : Nat) (s : State) : Out :=
  let x := s.tile tile
  .next (match x.blockedAt with
  | none => s
  | some t =>
    if x.running && x.stuck && x.drained && !x.finished && decide (t + x.watchdogNs ≤ s.now) && !s.timersHeld ((x.program.map (·.1)).getD 0) then
      s.tileFault tile ((engines.find? (fun e => !(x.eng e).ended)).getD .F) stTIMEOUT 0 none false (some x.watchdogNames)
    else s)

/-- The partition a tile runs for. -/
def State.tilePart (s : State) (t : Nat) : Nat := (((s.tile t).program).map (·.1)).getD 0

/-- REMOTE_SIGNAL (R127): arrives after the writes of its instruction are visible; at a tile that runs no program of the sender's
partition it is dropped (R14). -/
def execRemoteSignal (tile token : Nat) (s : State) : Out :=
  .next (match s.signals.find? (fun x => x.1 == tile && x.2.1 == token) with
  | none => s
  | some x =>
    let s1 := { s with signals := s.signals.erase x }
    if (s1.tile tile).running && s1.tilePart tile == x.2.2 then ((s1.signal tile .S token).watch tile) else s1)

end Sys2Proof.Machine
end

