-- ==== Sys2Proof/Machine/Matrix.lean ====
section
/-! DEFINITION. The matrix engine (R62 to R86): accumulation groups, masks, product blocks, entries, the pairwise ladder with
its spills, and the instructions MOPEN, MMASK, MACC and MCLOSE. -/

namespace Sys2Proof.Machine

open Sys2Proof

/-! ## Groups and masks -/

def Tile.group (t : Tile) (g : Nat) : Group := Tbl.get {} t.groups g
def Tile.setGroup (t : Tile) (g : Nat) (x : Group) : Tile := { t with groups := Tbl.set {} t.groups g x }

/-- The spill, result and seed areas of a group, 2 KiB each (R74). -/
def Group.areas (g : Group) : List Nat := [g.spillAddr, g.resultAddr] ++ (if g.seedEn then [g.seedAddr] else [])

/-- The bitmap bit consulted for a matrix position (R81). -/
def maskBit (mode cols row col : Nat) : Nat := if mode = 1 then row else row / 64 * cols + col / 64

/-- Whether a mask bit is set (train) in a tile store. -/
def maskTrains (m : BMap) (addr p : Nat) : Bool := (BMap.read m (addr + p / 8)).getLsbD (p % 8)

/-- The bitmap bits a group's outputs consult. -/
def Group.consulted (g : Group) : List Nat :=
  if g.maskMode = 0 then []
  else (List.range 256).map (fun o => maskBit g.maskMode g.maskCols (g.m0 + o / 16) (g.n0 + o % 16))

/-- The outputs frozen by the mask as the store holds it now (R81). -/
def Group.frozenNow (g : Group) (m : BMap) : BitVec 256 :=
  if g.maskMode = 0 then 0
  else BitVec.ofNat 256 ((List.range 256).foldl (fun a o =>
    if maskTrains m g.maskAddr (maskBit g.maskMode g.maskCols (g.m0 + o / 16) (g.n0 + o % 16)) then a else a + 2 ^ o) 0)

/-- The group a MOPEN word opens, with the mask values recorded for it (R74, R114). -/
def openGroup (w : BitVec 128) (mask : Option MaskValues) : Group :=
  { isOpen := true
    spillN := if fld w 6 3 = 0 then 16 else fld w 6 3
    spillAddr := fld w 17 7 * 2048, resultAddr := fld w 28 18 * 2048
    seedEn := w.getLsbD 29, seedAddr := fld w 40 30 * 2048, maskMode := fld w 42 41
    maskAddr := (mask.map (·.maskAddr)).getD 0, maskCols := (mask.map (·.maskCols)).getD 1
    m0 := (mask.map (·.m0)).getD 0, n0 := (mask.map (·.n0)).getD 0 }

/-- The group fault of an opening, if it is one (R77). -/
def Tile.openFault (t : Tile) (k : Nat) (g : Group) : Option GroupFault :=
  if (t.group k).isOpen then some .alreadyOpen
  else if !(g.areas.eraseDups.length == g.areas.length) ||
      (List.range 8).any (fun j => (t.group j).isOpen && (t.group j).areas.any g.areas.contains) then some .areasMeet
  else if !g.areas.all (fun a => decide (a + 2048 ≤ cfgBase)) || g.consulted.any (fun p => decide (cfgBase ≤ g.maskAddr + p / 8)) then
    some .areaOutside
  else none

/-- MOPEN: opens a group with empty ladders, SPILL_VALID clear and no entries; a mask mode without an MMASK since the group's
previous MOPEN is a tile fault (R137). -/
def execMopen (tile : Nat) (s : State) : Out :=
  s.issue tile .M 0x20 (fun _ _ => true) (fun w id st =>
    let x := st.tile tile
    let k := fld w 2 0
    let mask := Tbl.get none x.masks k
    let g := openGroup w (if fld w 42 41 = 0 then none else mask)
    if fld w 42 41 ≠ 0 ∧ mask.isNone then st.programFault tile .M .noMask
    else match x.openFault k g with
      | some f => st.groupFault tile k f
      | none =>
        (st.setTile tile { (x.setGroup k { g with frozen := g.frozenNow x.store }) with masks := Tbl.set none x.masks k none }).atOnce tile .M id)

/-- MMASK: records mask values for the group's next MOPEN (R114). -/
def execMmask (tile : Nat) (s : State) : Out :=
  s.issue tile .M 0x21 (fun _ _ => true) (fun w id st =>
    let v : MaskValues := { maskAddr := fld w 21 3 * 8, maskCols := fld w 33 22 + 1, m0 := fld w 49 34 * 16, n0 := fld w 65 50 * 16 }
    (st.modTile tile (fun x => { x with masks := Tbl.set none x.masks (fld w 2 0) (some v) })).atOnce tile .M id)

/-! ## Product blocks and entries (R62, R65 to R68) -/

/-- An operand of a MACC: its view, whether it is read transposed, and the store it lies in. -/
structure Operand where
  view  : View
  trans : Bool
  store : BMap

/-- The extents of an operand along K and along its rows. -/
def Operand.k (o : Operand) : Nat := o.view.ext.getD (if o.trans then 1 else 0) 0
def Operand.rows (o : Operand) : Nat := o.view.ext.getD (if o.trans then 0 else 1) 0

/-- Whether the operand's blocks run along K (R43, R65). -/
def Operand.kScaled (o : Operand) : Bool := o.view.sd == (if o.trans then 1 else 0)

/-- Index of (row, k) in the operand's view. -/
def Operand.idx (o : Operand) (r k : Nat) : List Nat := if o.trans then [r, k, 0, 0, 0] else [k, r, 0, 0, 0]

/-- The element integer and the scale at (row, k). -/
def Operand.elem (o : Operand) (r k : Nat) : Int := elemInt o.view.fmt (o.view.getElem o.store (o.idx r k))
def Operand.scale (o : Operand) (r k : Nat) : Nat := o.view.getScale o.store (o.idx r k)

/-- KB (R65). -/
def productBlock (a b : Operand) : Nat := if a.kScaled && b.kScaled then min a.view.bs b.view.bs else 1

/-- D (R62). -/
def sliceDepth (a b : Operand) : Nat := if fmtBits a.view.fmt = 4 ∧ fmtBits b.view.fmt = 4 then 32 else 16

/-- ACC48's canonical NaN. -/
def accNan : Nat := 0x7FE000000000

/-- The block value of output (m, n) and product block j (R66); a missing row or column counts as zero (R114), so a NaN block of the
other operand still gives NaN. -/
def blockValue (a b : Operand) (kb m n j : Nat) : Num :=
  let ks := (List.range kb).map (fun i => j * kb + i) |>.filter (fun k => decide (k < a.k))
  match ks with
  | [] => { val := 0 }
  | k0 :: _ =>
    if ks.any (fun k => (m < a.rows && a.scale m k == 0xFF) || (n < b.rows && b.scale n k == 0xFF)) then { val := accNan }
    else if a.rows ≤ m ∨ b.rows ≤ n then { val := 0 }
    else if a.scale m k0 = 0 ∨ b.scale n k0 = 0 then { val := 0 }
    else
      let sum := ks.foldl (fun t k => t + a.elem m k * b.elem n k) 0
      encodeAcc ((Val.ofInt sum).scale ((a.scale m k0 : Int) - 127 + ((b.scale n k0 : Int) - 127)))

/-- The number of entries a MACC forms per output (R68). -/
def entryCount (a b : Operand) : Nat :=
  let kb := productBlock a b
  let d := sliceDepth a b
  if d ≤ kb then ceilDiv a.k kb else ceilDiv a.k d

/-- Entry number `i` of output (m, n) (R68). -/
def entryValue (a b : Operand) (m n i : Nat) : Num :=
  let kb := productBlock a b
  let d := sliceDepth a b
  if d ≤ kb then blockValue a b kb m n i
  else
    let p := d / kb
    let vs := (List.range p).map (fun j => blockValue a b kb m n (i * p + j))
    let r := pairTree accAdd (Nat.log2 p) (vs.map (·.val))
    { val := r.1, flags := vs.foldl (fun f v => f ||| v.flags) r.2 }

/-! ## The ladder and spills (R69 to R72) -/

/-- FP64 of an ACC48 value, exact (R50). -/
def accToF64 (w : Nat) : Nat := (encodeFloat fFP64 .rne 1 (decodeAcc w)).val

/-- One output's ladder while entries enter: the ladder, its spill word and the flags raised. -/
structure LadderRun where
  ladder : Ladder
  word   : Nat
  flags  : BitVec 6 := 0
  deriving DecidableEq, Repr

/-- Inserts one entry (R69) with spill exponent n; a carry spills (R71). -/
def LadderRun.insert (r : LadderRun) (n : Nat) (x : Num) : LadderRun :=
  let (lv, carry, f) := ladderInsert accAdd n 0 r.ladder.levels x.val
  match carry with
  | none => { r with ladder := { r.ladder with levels := lv }, flags := r.flags ||| x.flags ||| f }
  | some c =>
    let s := if r.ladder.spillValid then f64Add r.word (accToF64 c) else { val := accToF64 c }
    { ladder := { levels := lv, spillValid := true }, word := s.val, flags := r.flags ||| x.flags ||| f ||| s.flags }

/-- Enters a MACC's entries into every output that trains; the group, the store with its spill words, and the flags. The spill
word of output (i, j) stands at 8 * (16 i + j) of the spill area, as its result does in the result area (DESIGN CHOICE,
assumption 179: R71 gives the area, R75 the order of results alone). -/
def maccGroup (g : Group) (a b : Operand) (store : BMap) : Group × BMap × BitVec 6 :=
  let n := entryCount a b
  let r := (List.range 256).foldl (fun (acc : Group × BMap × BitVec 6) o =>
    if g.frozen.getLsbD o then acc
    else
      let (h, m, f) := acc
      let start : LadderRun := { ladder := Tbl.get {} h.ladders o, word := BMap.readLe m (g.spillAddr + 8 * o) 8 }
      let done := (List.range n).foldl (fun r i => r.insert g.spillN (entryValue a b (o / 16) (o % 16) i)) start
      ({ h with ladders := Tbl.set {} h.ladders o done.ladder },
       if done.ladder.spillValid then BMap.writeLe m (g.spillAddr + 8 * o) 8 done.word else m, f ||| done.flags)) (g, store, 0)
  ({ r.1 with entries := g.entries + n }, r.2)

/-- Whether a view may be a matrix operand: FMT 0x0 to 0x3 (R35), in the tile store, transposed only in the tile-blocked layout
(R86), with at most 16 rows. Dimensions 2 to 4, which R114 gives no part in a MACC, are not looked at: only their index 0 is
used (DESIGN CHOICE, assumption 59). -/
def Operand.ok (o : Operand) : Bool := o.view.fmt < 4 && o.view.ts && (!o.trans || o.view.layout == 1) && o.rows ≤ 16

/-- The group fault of a MACC, if it is one (R77). -/
def Group.maccFault (g : Group) (a b : Operand) (kphase : Nat) : Option GroupFault :=
  if !g.isOpen then some .notOpen
  else if a.k != b.k then some .extentsDiffer
  else if kphase % productBlock a b != 0 then some .firstIndex
  else if g.frozen != BitVec.allOnes 256 && decide (2 ^ 48 < g.entries + entryCount a b) then some .entryLimit
  else none

/-- MACC (R63 to R76). A group all of whose outputs are frozen reads no operand (R82), so no word it would read can be lost. -/
def execMacc (tile : Nat) (soft : Soft) (s : State) : Out :=
  s.issue tile .M 0x22 (fun _ _ => true) (fun w id st =>
    let k := fld w 18 16
    let g := (st.tile tile).group k
    match (st.tile tile).view .M (fld w 7 0), (st.tile tile).view .M (fld w 15 8) with
    | some va, some vb =>
      let a : Operand := { view := va, trans := w.getLsbD 19, store := (st.tile tile).store }
      let b : Operand := { view := vb, trans := w.getLsbD 20, store := (st.tile tile).store }
      if !a.ok || !b.ok then st.programFault tile .M .format
      else match g.maccFault a b (fld w 27 21) with
        | some f => st.groupFault tile k f
        | none =>
          if g.frozen = BitVec.allOnes 256 then st.atOnce tile .M id
          else st.withSoft tile .M soft Tile.zeroWord (fun st1 =>
            let (h, m, f) := maccGroup g a b (st1.tile tile).store
            (st1.modTile tile (fun x => ({ (x.setGroup k h) with store := m } : Tile).raise f)).atOnce tile .M id)
    | _, _ => st.programFault tile .M .descriptor)

/-! ## Closing (R75, R82) -/

/-- The result word of one output. -/
def Group.result (g : Group) (m : BMap) (o : Nat) : Num :=
  if g.frozen.getLsbD o then { val := 0 }
  else
    let l := Tbl.get {} g.ladders o
    let (c, f) := ladderClose accAdd l.levels
    let acc := c.getD 0
    let r : Num := if l.spillValid then
        let t := f64Add (BMap.readLe m (g.spillAddr + 8 * o) 8) (accToF64 acc)
        let e := encodeAcc (decodeFloat fFP64 t.val)
        { val := e.val, flags := f ||| t.flags ||| e.flags }
      else { val := acc, flags := f }
    if g.seedEn then
      let t := accAdd (BMap.readLe m (g.seedAddr + 8 * o) 8) r.val
      { val := t.val, flags := r.flags ||| t.flags }
    else r

/-- MCLOSE: one ACC48 result per output at 8 x (16 i + j) of the result area, and the group is closed. -/
def execMclose (tile : Nat) (s : State) : Out :=
  s.issue tile .M 0x23 (fun _ _ => true) (fun w id st =>
    let x := st.tile tile
    let k := fld w 2 0
    let g := x.group k
    if !g.isOpen then st.groupFault tile k .notOpen
    else
      let rs := (List.range 256).map (fun o => g.result x.store o)
      let m := BMap.writeBytes x.store g.resultAddr (rs.flatMap (fun r => natLe r.val 8))
      let f := rs.foldl (fun a r => a ||| r.flags) 0
      (st.setTile tile (({ (x.setGroup k { g with isOpen := false, ladders := [] }) with store := m } : Tile).raise f)).atOnce tile .M id)

end Sys2Proof.Machine
end

