-- ==== Sys2Proof/Machine/Transfer.lean ====
section
/-! DEFINITION. Moving views between tile stores and memory (R108 to R110, R113, R116, R127, R134, R135, R193, R223, R244,
R338): the instructions FLOAD, FMCAST, FRECV, FHINT, SSTORE, SADD and SACCW, and the tier requests they wait for. -/

namespace Sys2Proof.Machine

open Sys2Proof

/-! ## The access check (R19, R29, R30) -/

/-- Whether a partition may reach a position of its domain. -/
def State.reaches (s : State) (p i : Nat) : Bool :=
  s.domainActive p && decide (i < s.fabricN) && (i == s.fabric.position || (s.domainMembers (s.part p).domain).contains i)

/-- The check of one run of engine addresses: 0, or the status the instruction ends with. A remote address is checked against
the partition table of its target there. -/
def State.runStatus (s : State) (p w n : Nat) : Nat :=
  match engineAddr w with
  | .dev a => if s.within p a n then 0 else stDENIED
  | .remote i a => if !s.reaches p i then stDENIED else if i = s.fabric.position ∧ !s.within p a n then stDENIED else 0
  | .host a => if 2 ^ 63 < a + n then stDENIED else s.hostStatus p
  | .invalid => stDENIED

/-- The first run that fails its check, as status and address. -/
def State.firstDenied (s : State) (p : Nat) (rs : List (Nat × Nat)) : Option (Nat × Nat) :=
  (rs.map (fun r => (s.runStatus p r.1 r.2, r.1))).find? (fun x => x.1 != 0)

/-- The device address of a run in this module, none for a run elsewhere. -/
def State.localAddr (s : State) (w : Nat) : Option Nat :=
  match engineAddr w with
  | .dev a => some a
  | .remote i a => if i = s.fabric.position then some a else none
  | _ => none

/-- The runs of this module, as device addresses. -/
def State.localRuns (s : State) (rs : List (Nat × Nat)) : List (Nat × Nat) :=
  rs.filterMap (fun r => (s.localAddr r.1).map (fun a => (a, r.2)))

/-! ## Tier requests (R238, R239) -/

/-- Units of a page that `[a, a + n)` touches, and those it covers whole; the run lies in one page. -/
def unitsTouched (a n : Nat) : BitVec 32 :=
  BitVec.ofNat 32 (((List.range 32).filter (fun u => decide (u * unitSize < tierOff a % pageSize + n) &&
    decide (tierOff a % pageSize < (u + 1) * unitSize))).foldl (fun m u => m + 2 ^ u) 0)
def unitsWhole (a n : Nat) : BitVec 32 :=
  BitVec.ofNat 32 (((List.range 32).filter (fun u => decide (tierOff a % pageSize ≤ u * unitSize) &&
    decide ((u + 1) * unitSize ≤ tierOff a % pageSize + n))).foldl (fun m u => m + 2 ^ u) 0)

/-- What a request needs of each tiered page: units touched and units covered whole. -/
def tierNeeds (rs : List (Nat × Nat)) : List (Nat × BitVec 32 × BitVec 32) :=
  (rs.flatMap (fun r => if isTiered r.1 then spansOf pageSize r.1 r.2 else [])).foldl (fun (t : Tbl (BitVec 32 × BitVec 32)) r =>
    let o := Tbl.get (0, 0) t (pageOf r.1)
    Tbl.set (0, 0) t (pageOf r.1) (o.1 ||| unitsTouched r.1 r.2, o.2 ||| unitsWhole r.1 r.2)) []

/-- Whether a page serves an access now, given the units it touches and does not cover whole (R238, R239): from its frame, or, once
it is RESIDENT, with the error of a failed unit. A page that is EVICTING serves none (R241). -/
def TierPage.serves (g : TierPage) (units : BitVec 32) : Bool :=
  g.state == .resident || (g.state == .filling && (List.range 32).all (fun u => !units.getLsbD u || g.holds u))

/-- Whether a page serves an access of an owner: from its frame, or, for a read or a write, as granted without a frame. -/
def State.pageServes (s : State) (p : Nat) (kind : TierKind) (o : Owner) (need : Nat × BitVec 32 × BitVec 32) : Bool :=
  (s.page p need.1).serves (if kind == .write then need.2.1 &&& ~~~need.2.2 else need.2.1) ||
    (kind != .add && (s.page p need.1).state != .evicting && s.grants.contains (o, need.1, true))

/-- Asks the tier once for every page that an access of an owner still needs: whether it needs none, and the state (R238, R239,
R249). -/
def State.askTier (s : State) (p : Nat) (rs : List (Nat × Nat)) (kind : TierKind) (o : Owner) : Bool × State :=
  let needs := (tierNeeds rs).filter (fun e => !s.pageServes p kind o e)
  let more := needs.filter (fun e => !s.tierReqs.any (fun r => r.owner == o && r.pt == p && r.page == e.1))
  (needs.isEmpty, forEach more s (fun e st =>
    let r : TierReq := { id := st.nextReq, pt := p, page := e.1, units := e.2.1, whole := if kind == .write then e.2.2 else 0, kind := kind, owner := o, since := st.now }
    ({ st with tierReqs := st.tierReqs ++ [r], nextReq := st.nextReq + 1 }).ownReads o (· + 1)))

/-- The pages given to an owner have served the access it has made. -/
def State.endGrants (s : State) (o : Owner) : State := { s with grants := s.grants.filter (fun g => g.1 != o) }

/-- An access of an owner outside the tiles, which reads `rs` and writes or adds to `ws`: whether it can be made now. Its pages are
asked for where they cannot serve, each counting the access once (R237 to R239), and its stacks must answer. -/
def State.ready (s : State) (p : Nat) (rs ws : List (Nat × Nat)) (kind : TierKind) (o : Owner) : Bool × State :=
  let asked := s.tierReqs.any (fun r => r.owner == o) || s.grants.any (fun g => g.1 == o)
  let s0 := if asked then s else s.touchPages p (rs ++ ws)
  let a := s0.askTier p rs .read o
  let b := a.2.askTier p ws kind o
  let up := (rs ++ ws).all (fun r => s.answers p r.1 r.2)
  if a.1 && b.1 then (up, if up then b.2 else s) else (false, b.2)

/-- Makes an access once it can be made; until then the owner waits. -/
def State.whenServed (s : State) (p : Nat) (rs ws : List (Nat × Nat)) (kind : TierKind) (o : Owner) (body : State → State) : State :=
  let a := s.ready p rs ws kind o
  if a.1 then (body a.2).endGrants o else a.2

/-! ## Runs of bytes -/

/-- Joins runs that follow one another. -/
def joinRuns : List (Nat × List Byte) → List (Nat × List Byte)
  | [] => []
  | (a, b) :: rest =>
    match joinRuns rest with
    | (c, d) :: more => if a + b.length = c then (a, b ++ d) :: more else (a, b) :: (c, d) :: more
    | [] => [(a, b)]

/-- Lays bytes out over runs of addresses. -/
def layRuns : List (Nat × Nat) → List Byte → BMap → BMap
  | [], _, m => m
  | (a, n) :: rest, bs, m => layRuns rest (bs.drop n) (BMap.writeBytes m a (bs.take n))

/-- Joins the two nibbles of a byte where both are stored; the others stay single (R38). -/
def joinNibbles : List (Nat × Nat × Nat) → List (Nat × List Byte) × List (Nat × Nat × Nat)
  | (a, 0, v) :: (b, 4, w) :: rest =>
    let r := joinNibbles rest
    if a = b then ((a, [BitVec.ofNat 8 (v + 16 * w)]) :: r.1, r.2)
    else (r.1, (a, 0, v) :: (b, 4, w) :: r.2)
  | x :: rest => let r := joinNibbles rest; (r.1, x :: r.2)
  | [] => ([], [])

/-- Scale blocks of the elements `idx`. -/
def View.blocksOf (v : View) (idx : List (List Nat)) : List (List Nat) :=
  if fmtScaled v.fmt then (idx.map v.blockOf).eraseDups else []

/-- What a store of the elements `idx` of view `x` in store `m` writes into view `y`: runs of bytes with the scale bytes, and
single nibbles; policy Z turns −0 into +0 (R59). -/
def storeRuns (x y : View) (m : BMap) (z : Bool) (idx : List (List Nat)) : List (Nat × List Byte) × List (Nat × Nat × Nat) :=
  let at' := fun (i : Int) => (i % (2 ^ 64)).toNat
  let scales := (x.blocksOf idx).map (fun b =>
    (at' (y.sbase + dotStride b y.pstride), [BMap.read m (at' (x.sbase + dotStride b x.pstride))]))
  if fmtBits y.fmt = 4 then
    let r := joinNibbles (idx.map (fun i => let p := y.elemAddr i; (at' p.1, p.2, x.getElem m i)))
    (joinRuns (r.1 ++ scales), r.2)
  else (joinRuns (idx.map (fun i => (at' (y.elemAddr i).1, natLe (policyWrite z y.fmt (x.getElem m i)) y.elemBytes)) ++ scales), [])

/-- The address runs a flight stores or adds to. -/
def Flight.outRuns (f : Flight) : List (Nat × Nat) := f.out.map (fun r => (r.1, r.2.length)) ++ f.halves.map (fun h => (h.1, 1))

/-! ## Doing the transfer -/

/-- Reads address runs: this module's own memory now, host and remote bytes from what the flight has received. -/
def State.gather (s : State) (p : Nat) (rs : List (Nat × Nat)) (verify : Bool) (buf : BMap) : Got :=
  rs.foldl (fun g r =>
    if g.status ≠ 0 then g
    else match g.st.localAddr r.1 with
      | some a =>
        let x := g.st.readDev p a r.2 verify
        { x with bad := if x.status = 0 then 0 else x.bad, bytes := g.bytes ++ x.bytes }
      | none => { g with bytes := g.bytes ++ BMap.readBytes buf r.1 r.2 }) { st := s }

/-- Writes one run for a tile: own memory, a host write or remote writes. -/
def State.putRun (s : State) (p : Nat) (o : Owner) (w : Nat) (bytes : List Byte) : Got :=
  match s.localAddr w, engineAddr w with
  | some a, _ => s.writeDev p a bytes
  | none, .host a => { st := s.hostWrite p a bytes o }
  | none, .remote i a => { st := s.remoteWrite (s.part p).domain i a bytes o }
  | none, _ => { st := s }

/-- Writes a single nibble: the neighbour keeps its value (R38, R83, R84), here, in another module and in host memory. -/
def State.putNibble (s : State) (p : Nat) (o : Owner) (w sh v : Nat) : Got :=
  match s.localAddr w, engineAddr w with
  | some a, _ => s.writeNibble p a sh v
  | none, .host a => { st := s.hostWrite p a [mergeNibble 0 sh v] o (some sh) }
  | none, .remote i a => { st := s.remoteWrite (s.part p).domain i a [mergeNibble 0 sh v] o (some sh) }
  | none, _ => { st := s }

/-- Adds one run for a tile: own memory or remote adds; an accumulate-write's bad block has CAUSE 0x3. -/
def State.addRunAt (s : State) (p : Nat) (o : Owner) (addfmt : Nat) (acc : Bool) (w : Nat) (bytes : List Byte) : Got :=
  match s.localAddr w, engineAddr w with
  | some a, _ => s.addDev p a addfmt (s.policyZ p) bytes (if acc then 3 else 5)
  | none, .remote i a => { st := s.remoteAdd (s.part p).domain i a addfmt bytes o acc }
  | none, _ => { st := s }

/-- Keeps the first failure of a sequence of operations. -/
def Got.andThen (g : Got) (f : State → Got) : Got :=
  let r := f g.st
  if g.status ≠ 0 then { g with flags := g.flags ||| r.flags, st := r.st } else { r with flags := g.flags ||| r.flags }

/-- Marks a flight as done in its effect. -/
def State.ranFlight (s : State) (t : Nat) (e : Engine) (id : Nat) : State :=
  (s.modFlight t e id (fun f => { f with ran := true })).endGrants (.tile t e id)

/-- Queues hints of a flight while there is room: with the queue full, the oldest PREFETCH makes room, and with none the rest
wait (R244). -/
def pushHints (kind : HintKind) : List Nat → List (HintKind × Nat) → List (HintKind × Nat) × List Nat
  | [], q => (q, [])
  | g :: gs, q =>
    if q.length < 1024 then pushHints kind gs (q ++ [(kind, g)])
    else match q.findIdx? (fun h => h.1 == .prefetch) with
      | some i => pushHints kind gs (q.eraseIdx i ++ [(kind, g)])
      | none => (q, g :: gs)

/-- The hint of a code (R113). -/
def hintOf (c : Nat) : Option HintKind := if c = 0 then some .prefetch else if c = 1 then some .pin else if c = 2 then some .demote else none

/-- An SADD's or SACCW's ADDFMT: SACCW adds in the format of DST (R223). -/
def adderOf (f : Flight) : Nat := if wOpc f.word = 0x61 then fld f.word 18 16 else ((f.dst.map (·.fmt)).map (fun m => if m = 4 then 1 else if m = 7 then 3 else 0)).getD 0

/-- Makes the writes, or with `adds` the adds, of a flight, in element order; the first failure is kept. -/
def State.makeWrites (s : State) (p : Nat) (o : Owner) (f : Flight) : Got :=
  let opc := wOpc f.word
  let g := f.out.foldl (fun (g : Got) r => g.andThen (fun st =>
    if opc = 0x61 ∨ opc = 0x62 then st.addRunAt p o (adderOf f) (opc = 0x62) r.1 r.2 else st.putRun p o r.1 r.2)) { st := s }
  f.halves.foldl (fun (g : Got) h => g.andThen (fun st => st.putNibble p o h.1 h.2.1 h.2.2)) g

/-- Whether an SACCW's adds are held: they are row operations, which a stack at L5 and the clamp stop (R224, R226, R400). -/
def State.rowsHeld (s : State) (k : Nat) : Bool := (s.stack k).level == 5 || (s.die (dieOfStack k)).clamped
def State.accHeld (s : State) (f : Flight) : Bool :=
  wOpc f.word == 0x62 && (s.localRuns f.outRuns).any (fun r => s.rowsHeld (r.1 / 2 ^ 37))

/-- The writes of stopped instructions that now find their stacks serving complete (R225, R412). One that waits for the tier is no
longer waited for, and one outside the partition table now is dropped. -/
def State.runLoose (s : State) (p : Nat) : State :=
  forEach (s.loose.filter (fun e => e.1 == p)) { s with loose := s.loose.filter (fun e => e.1 != p) } (fun e st =>
    let f := e.2
    let rs := st.localRuns f.outRuns
    let add := decide (wOpc f.word = 0x61 ∨ wOpc f.word = 0x62)
    if !rs.all (fun r => st.within p r.1 r.2) ||
        !(tierNeeds rs).all (fun n => st.pageServes p (if add then .add else .write) .none n) then st
    else if !rs.all (fun r => st.answers p r.1 r.2) || st.accHeld f then { st with loose := st.loose ++ [e] }
    else (st.makeWrites p .none f).st)

/-- Carries a flight's own work as far as it can go: asks for the pages it needs, waits for data and for stacks, then reads or
writes in one step (R108). -/
def State.runFlight (s : State) (t : Nat) (e : Engine) (id : Nat) : State :=
  match (((s.tile t).eng e).flights).find? (fun f => f.id == id) with
  | none => s
  | some f =>
    let p := s.tilePart t
    let o : Owner := .tile t e id
    let opc := wOpc f.word
    if f.ran || f.waits ≠ 0 then s
    else if opc = 0x13 then
      let (q, rest) := pushHints ((hintOf (fld f.word 9 8)).getD .prefetch) f.hints (s.part p).hints
      (s.modPart p (fun x => { x with hints := q })).modFlight t e id (fun g => { g with hints := rest, ran := rest.isEmpty })
    else match f.src, f.dst with
      | some src, some dst =>
        if opc ≠ 0x10 then s
        else
          let rs := s.localRuns src.spans
          let (ready, s1) := s.askTier p rs .read o
          if !ready || !rs.all (fun r => s1.answers p r.1 r.2) then s1
          else
            let g := s1.gather p src.spans src.check f.buf
            if g.status ≠ 0 then g.st.tileFault t e g.status g.bad (some (g.st.faultDetail p g.bad g.cause))
            else (g.st.modTile t (fun x => { x with store := copyView src dst (layRuns src.spans g.bytes []) x.store })).ranFlight t e id
      | _, _ =>
        if opc ≠ 0x10 ∧ opc ≠ 0x60 ∧ opc ≠ 0x61 ∧ opc ≠ 0x62 then s
        else
          let adds := opc = 0x61 ∨ opc = 0x62
          let rs := s.localRuns f.outRuns
          let (ready, s1) := s.askTier p rs (if adds then .add else .write) o
          if !ready || !rs.all (fun r => s1.answers p r.1 r.2) || s1.accHeld f then s1
          else
            let g := s1.makeWrites p o f
            let s2 := g.st.modTile t (fun x => x.raise g.flags)
            if g.status ≠ 0 then s2.tileFault t e g.status g.bad (some (s2.faultDetail p g.bad g.cause)) else s2.ranFlight t e id

/-- Starts the reads of a view that lies elsewhere: host reads, and remote reads that the engine verifies with CHECK_EN. -/
def State.fetchElsewhere (s : State) (p : Nat) (v : View) (o : Owner) : State :=
  forEach v.spans s (fun r st =>
    match st.localAddr r.1, engineAddr r.1 with
    | none, .host a => st.hostRead p a r.2 o r.1
    | none, .remote i a => st.remoteRead (st.part p).domain i a r.2 o v.check
    | _, _ => st)

/-- Starts a load of a memory view into the store. -/
def State.startLoad (s : State) (t : Nat) (e : Engine) (id : Nat) (src : View) (dst : Option View) : State :=
  let p := s.tilePart t
  match s.firstDenied p src.spans with
  | some (st, a) => s.tileFault t e st a
  | none =>
    let s1 := (s.modFlight t e id (fun f => { f with src := some src, dst := dst })).touchPages p (s.localRuns src.spans)
    (s1.fetchElsewhere p src (.tile t e id)).runFlight t e id

/-- Starts a store or an add of bytes computed at issue. -/
def State.startStore (s : State) (t : Nat) (e : Engine) (id : Nat) (dst : Option View) (out : List (Nat × List Byte)) (halves : List (Nat × Nat × Nat)) : State :=
  let p := s.tilePart t
  let g : Flight := { out := out, halves := halves }
  match s.firstDenied p g.outRuns with
  | some (st, a) => s.tileFault t e st a
  | none =>
    ((s.modFlight t e id (fun f => { f with dst := dst, out := out, halves := halves })).touchPages p (s.localRuns g.outRuns)).runFlight t e id

/-! ## FLOAD, FRECV, FHINT -/

/-- FLOAD: a memory view into the store, or a store view into memory (R113). -/
def execFload (tile : Nat) (soft : Soft) (s : State) : Out :=
  s.issue tile .F 0x10 (fun _ _ => true) (fun w id st0 => st0.withSoft tile .F soft Tile.zeroWord (fun st =>
    let x := st.tile tile
    match x.view .F (fld w 7 0), x.view .F (fld w 15 8) with
    | some src, some dst =>
      if src.ts == dst.ts then st.programFault tile .F .spaces
      else if !src.sameShape dst then st.programFault tile .F .shape
      else if dst.ts then st.startLoad tile .F id src (some dst)
      else
        let r := storeRuns src dst x.store (st.policyZ (st.tilePart tile)) src.indices
        st.startStore tile .F id none r.1 r.2
    | _, _ => st.programFault tile .F .descriptor))

/-- FRECV: posts a receipt for SET and TAG, with at most 8 outstanding (R135). -/
def execFrecv (tile : Nat) (s : State) : Out :=
  s.issue tile .F opFRECV (fun _ st => decide ((st.tile tile).receipts.length < 8)) (fun w id st =>
    let x := st.tile tile
    match x.view .F (fld w 15 8) with
    | some dst =>
      if !dst.ts then st.programFault tile .F .spaces
      else
        (st.modFlight tile .F id (fun f => { f with dst := some dst })).modTile tile (fun y =>
          { y with receipts := y.receipts ++ [{ set := fld w 19 16, tag := fld w 35 20, flight := id }] })
    | none => st.programFault tile .F .descriptor)

/-- FHINT: passes a hint for every tiered page the view touches (R113, R244); its accesses are checked (R245). -/
def execFhint (tile : Nat) (s : State) : Out :=
  s.issue tile .F 0x13 (fun _ _ => true) (fun w id st =>
    let p := st.tilePart tile
    match (st.tile tile).view .F (fld w 7 0), hintOf (fld w 9 8) with
    | some v, some _ =>
      if v.ts then st.atOnce tile .F id
      else match st.firstDenied p v.spans with
        | some (e, a) => st.tileFault tile .F e a
        | none =>
          let pages := (tierNeeds (st.localRuns v.spans)).map (·.1)
          (st.modFlight tile .F id (fun f => { f with hints := pages })).runFlight tile .F id
    | _, _ => st.programFault tile .F .descriptor)

/-! ## FMCAST (R134, R135) -/

/-- The tiles of a multicast set. -/
def Part.setTiles (p : Part) (k : Nat) : List Nat := (List.range 256).filter (fun t => (Tbl.get 0 p.sets k).getLsbD t)

/-- FMCAST: reads SRC once; the delivery is MULTICAST_DELIVER's. A sender outside the set writes no DST; its SRC and DST follow
R113 all the same, unless DST is 255 (assumption 69). -/
def execFmcast (tile : Nat) (s : State) : Out :=
  s.issue tile .F opFMCAST (fun _ _ => true) (fun w id st =>
    let x := st.tile tile
    let inSet := (Tbl.get 0 (st.part (st.tilePart tile)).sets (fld w 19 16)).getLsbD tile
    let dst := x.view .F (fld w 15 8)
    match x.view .F (fld w 7 0) with
    | none => st.programFault tile .F .descriptor
    | some src =>
      let noDst := !inSet && fld w 15 8 == 255
      if !noDst && !((dst.map (fun d => d.ts && src.sameShape d)).getD false) then st.programFault tile .F .multicast
      else if src.ts then st.modFlight tile .F id (fun f => { f with src := some src, dst := if inSet then dst else none })
      else st.startLoad tile .F id src (if inSet then dst else none))

/-- Whether a tile has posted a receipt for a set and tag, for the same partition. -/
def State.receiptOf (s : State) (p t set tag : Nat) : Option Receipt :=
  if s.tilePart t = p ∧ (s.tile t).running then (s.tile t).receipts.find? (fun r => r.set == set && r.tag == tag) else none

/-- Delivers the bytes of SRC to one receiver: its DST must hold exactly those bytes, else the receiver faults. -/
def State.deliverTo (s : State) (t : Nat) (r : Receipt) (src : View) (m : BMap) : State :=
  let x := s.tile t
  let dst := (x.f.flights.find? (fun f => f.id == r.flight)).bind (·.dst)
  match dst with
  | none => s
  | some d =>
    if !src.sameShape d then s.programFault t .F .multicast
    else
      (s.setTile t { x with store := copyView src d m x.store, receipts := x.receipts.erase r, gated := false }).ranFlight t .F r.flight

/-- MULTICAST_DELIVER: the FMCAST of a tile delivers when its data are there and every other tile of the set has posted its
receipt. -/
def execMulticastDeliver (tile : Nat) (s : State) : Out :=
  let p := s.tilePart tile
  .next (match (s.tile tile).f.flights.find? Flight.multicastPending with
  | none => s
  | some f =>
    match f.src with
    | none => s
    | some src =>
      let set := fld f.word 19 16
      let tag := fld f.word 35 20
      let others := ((s.part p).setTiles set).filter (fun t => t != tile)
      let rs := if src.ts then [] else s.localRuns src.spans
      if !(s.tile tile).running || f.waits ≠ 0 || !others.all (fun t => (s.receiptOf p t set tag).isSome) then s.watch tile
      else match others.find? (fun t => !s.tileOf p t) with
        | some _ => s.tileFault tile .F stDENIED 0
        | none =>
          let (ready, s1) := s.askTier p rs .read (.tile tile .F f.id)
          if !ready || !rs.all (fun r => s1.answers p r.1 r.2) then s1
          else
            let g : Got := if src.ts then { st := s1 } else s1.gather p src.spans src.check f.buf
            if g.status ≠ 0 then g.st.tileFault tile .F g.status g.bad (some (g.st.faultDetail p g.bad g.cause))
            else
              let m := if src.ts then (g.st.tile tile).store else layRuns src.spans g.bytes []
              let s2 := forEach others g.st (fun t st => match st.receiptOf p t set tag with
                | some r => st.deliverTo t r src m
                | none => st)
              let s3 := match f.dst with
                | some d => s2.modTile tile (fun x => { x with store := copyView src d m x.store })
                | none => s2
              ((s3.modTile tile (fun x => { x with gated := false })).ranFlight tile .F f.id).watch tile)

/-! ## SSTORE, SADD, SACCW -/

/-- A remote signal to a tile outside the partition's sections is an access outside the partition table (R127). -/
def State.signalDenied (s : State) (p : Nat) (w : BitVec 128) : Bool := w.getLsbD 33 && !s.tileOf p (fld w 27 20)

/-- The elements an SSTORE writes: all, or those whose row or block trains (R83); none is a tile fault. -/
def Tile.stored (x : Tile) (w : BitVec 128) (v : View) : Option (List (List Nat)) :=
  if !w.getLsbD 16 then some v.indices
  else
    let g := x.group (fld w 19 17)
    let bitOf := fun (i : List Nat) => maskBit g.maskMode g.maskCols (g.m0 + i.getD 1 0) (g.n0 + i.getD 0 0)
    if g.maskMode = 0 ∨ v.indices.any (fun i => decide (cfgBase ≤ g.maskAddr + bitOf i / 8)) then none
    else some (v.indices.filter (fun i => maskTrains x.store g.maskAddr (bitOf i)))

/-- SSTORE. -/
def execSstore (tile : Nat) (s : State) : Out :=
  s.issue tile .S 0x60 (fun _ _ => true) (fun w id st =>
    let x := st.tile tile
    let p := st.tilePart tile
    match x.view .S (fld w 7 0), x.view .S (fld w 15 8) with
    | some src, some dst =>
      if st.signalDenied p w then st.tileFault tile .S stDENIED 0
      else if !src.ts || dst.ts then st.programFault tile .S .spaces
      else if !src.sameShape dst then st.programFault tile .S .shape
      else match x.stored w src with
        | none => st.programFault tile .S .maskNone
        | some idx =>
          let r := storeRuns src dst x.store (st.policyZ p) idx
          st.startStore tile .S id none r.1 r.2
    | _, _ => st.programFault tile .S .descriptor)

/-- Whether views serve an add in the format: formats that match ADDFMT, DST in memory, elements aligned to their size (R193,
R223). -/
def addViewsOk (addfmt : Nat) (src dst : View) : Bool :=
  addfmt < 5 && src.fmt == addFmtOf addfmt && dst.fmt == addFmtOf addfmt && src.sameShape dst && src.ts && !dst.ts &&
  dst.indices.all (fun i => (dst.elemAddr i).1 % (addBytes addfmt : Int) == 0)

/-- Whether a run lies at host addresses, or in the tiered window. -/
def hostRun (w : Nat) : Bool := match engineAddr w with | .host _ => true | _ => false
def tierRun (w : Nat) : Bool := match engineAddr w with | .dev a => isTiered a | .remote _ a => isTiered a | _ => false

/-- The common part of SADD and SACCW: element runs in element order, then the adds. -/
def State.startAdd (s : State) (t id addfmt : Nat) (w : BitVec 128) (src dst : View) (bad : Nat → Bool) : State :=
  let runs := (storeRuns src dst (s.tile t).store false src.indices).1
  if s.signalDenied (s.tilePart t) w then s.tileFault t .S stDENIED 0
  else if !addViewsOk addfmt src dst || runs.any (fun r => bad r.1) then s.programFault t .S .format
  else s.startStore t .S id (some dst) runs []

/-- SADD (R193 to R196). -/
def execSadd (tile : Nat) (s : State) : Out :=
  s.issue tile .S 0x61 (fun _ _ => true) (fun w id st =>
    let x := st.tile tile
    match x.view .S (fld w 7 0), x.view .S (fld w 15 8) with
    | some src, some dst => st.startAdd tile id (fld w 18 16) w src dst hostRun
    | _, _ => st.programFault tile .S .descriptor)

/-- SACCW (R223, R224). -/
def execSaccw (tile : Nat) (s : State) : Out :=
  s.issue tile .S 0x62 (fun _ _ => true) (fun w id st =>
    let x := st.tile tile
    match x.view .S (fld w 7 0), x.view .S (fld w 15 8) with
    | some src, some dst =>
      st.startAdd tile id (if dst.fmt = 6 then 0 else if dst.fmt = 4 then 1 else if dst.fmt = 7 then 3 else 7) w src dst
        (fun a => hostRun a || tierRun a)
    | _, _ => st.programFault tile .S .descriptor)

/-! ## Clock gating (R446) -/

/-- TILE_GATE: a tile whose watchdog condition has held for 1 µs, or an ATP at END or waiting on a gate, enters MS1. -/
def execTileGate (unit : GatedUnit) (s : State) : Out :=
  .next (match unit with
  | .tile t =>
    let x := s.tile t
    let still := engines.all (fun e => (x.eng e).ended || x.blocked e) && x.drained
    if t < 256 && x.running && still && (x.finished || (x.blockedAt.map (fun u => decide (u + 1000 ≤ s.now))).getD false) then
      s.setTile t { x with gated := true }
    else s
  | .atp n =>
    let a := s.atp n
    if n < 16 && a.running && (a.ended || a.gateFrom.isSome) then s.setAtp n { a with gated := true } else s)

end Sys2Proof.Machine
end

