-- ==== Sys2Proof/Machine/Vector.lean ====
section
/-! DEFINITION. The vector engine and its reduction unit (R87 to R105): lanes, the functions of R93, register mode, stream mode,
tables, reductions and VPSUM. -/

namespace Sys2Proof.Machine

open Sys2Proof

/-! ## Lanes (R87) -/

def Tile.vreg (t : Tile) (k : Nat) : BitVec 2048 := Tbl.get 0 t.vregs k
def Tile.setVreg (t : Tile) (k : Nat) (x : BitVec 2048) : Tile := { t with vregs := Tbl.set 0 t.vregs k x }

/-- The `n` fields of `w` bits of a register, lowest first. -/
def splitReg (w n : Nat) (x : BitVec 2048) : List Nat := (List.range n).map (fun i => x.toNat / 2 ^ (w * i) % 2 ^ w)

/-- A register from its fields of `w` bits. -/
def joinReg (w : Nat) (xs : List Nat) : BitVec 2048 :=
  BitVec.ofNat 2048 (xs.foldr (fun x acc => x % 2 ^ w + 2 ^ w * acc) 0)

/-- Lanes of a register: 64 of 32 bits, or 128 packed elements. -/
def Tile.lanes (t : Tile) (packed : Bool) (k : Nat) : List Nat :=
  if packed then splitReg 16 128 (t.vreg k) else splitReg 32 64 (t.vreg k)
def Tile.setLanes (t : Tile) (packed : Bool) (k : Nat) (xs : List Nat) : Tile :=
  t.setVreg k (joinReg (if packed then 16 else 32) xs)

/-- FP64 elements of an even-odd register pair. -/
def Tile.pairs (t : Tile) (k : Nat) : List Nat :=
  ((t.lanes false k).zip (t.lanes false (k + 1))).map (fun p => p.1 + p.2 * 2 ^ 32)
def Tile.setPairs (t : Tile) (k : Nat) (xs : List Nat) : Tile :=
  (t.setLanes false k (xs.map (· % 2 ^ 32))).setLanes false (k + 1) (xs.map (· / 2 ^ 32))

/-! ## Functions of R93 -/

/-- The format code of a lane form (R115). -/
def formFmt (form : Nat) : Nat := if form = 0 then 6 else if form = 1 then 4 else if form = 2 then 5 else 7

/-- Which operands a function reads besides x (R92). -/
def readsY (f : Nat) : Bool := f == 2 || f == 3 || f == 4 || f == 9 || f == 10 || f == 11 || f == 12 || f == 13
def readsZ (f sub : Nat) : Bool := (f == 4 && sub == 1) || f == 11 || f == 13

/-- The largest SUB of a function, none for a reserved code. -/
def subMax (f : Nat) : Option Nat :=
  if f = 0 ∨ 15 ≤ f then none else if f = 3 ∨ f = 4 ∨ f = 14 then some 1 else if f = 12 then some 5 else some 0

/-- Rounds an exact result into format code `fmt`, keeping the flags of the operation. -/
def finish (fmt : Nat) (rnd : Rnd) (lfsr : BitVec 32) (r : Val × BitVec 6) : Num :=
  let n := toFmt fmt rnd lfsr r.1
  { n with flags := n.flags ||| r.2 }

/-- A comparison of R93 under R58. -/
def compare (sub : Nat) (x y : Val) : Bool :=
  if x.isNan || y.isNan then sub == 1
  else
    let c := Val.cmp x y
    if sub = 0 then c == 0 else if sub = 1 then c != 0 else if sub = 2 then c < 0
    else if sub = 3 then c ≤ 0 else if sub = 4 then 0 < c else 0 ≤ c

/-- SCALE's exponent (R93). -/
def scaleExp (y : Val) : Int :=
  match y with
  | .inf neg => if neg then -300 else 300
  | _ => rtzClamp y (-300) 300

/-- A table lookup (R99). -/
def lookup (t : VTable) (interp : Bool) (x : Nat) : Num :=
  let at' := fun (i : Nat) => (Tbl.get 0 t.values i).toNat
  let v := f32 x
  if v.isNan then { val := qnan fFP32 }
  else if !interp then
    let n := encodeFloat fFP32 .rne 1 (f32 (at' (rtzClamp v 0 ((t.n : Int) - 1)).toNat))
    { n with flags := 0 }
  else
    let d := f32Sub x t.x0.toNat
    let g := f32Mul d.val t.invH.toNat
    let fl := d.flags ||| g.flags
    if (f32 g.val).isNan then { val := qnan fFP32, flags := fl }
    else
      let c := Val.min (Val.max (f32 g.val) (.fin false 0 0)) (Val.ofInt ((t.n : Int) - 1))
      let i := min c.floor.toNat (t.n - 2)
      let w := f32Sub (f32Of c) (f32Of (Val.ofInt i))
      let a := f32Sub (at' (i + 1)) (at' i)
      let b := f32Mul w.val a.val
      let r := f32Add (at' i) b.val
      { val := r.val, flags := fl ||| w.flags ||| a.flags ||| b.flags ||| r.flags }

/-- One function on operands of format code `fmt` (FP32, BF16 or FP16), rounded once (R88, R93); CVT is apart. -/
def stageFn (f sub fmt : Nat) (rnd : Rnd) (lfsr : BitVec 32) (table : Option VTable) (x y z : Nat) : Num :=
  let vx := elemVal fmt x 0
  let vy := elemVal fmt y 0
  let vz := elemVal fmt z 0
  let out := finish fmt rnd lfsr
  if f = 2 then (if vy.isNan then out (.nan, 0) else out (vx.scale (scaleExp vy), 0))
  else if f = 3 then out (Val.add vx (if sub = 1 then vy.neg else vy))
  else if f = 4 then (if sub = 1 then out (Val.fma vx vy vz) else out (Val.mul vx vy))
  else if f = 5 then { fExp2 x with lfsr := lfsr }
  else if f = 6 then { fLog2 x with lfsr := lfsr }
  else if f = 7 then { fRcp x with lfsr := lfsr }
  else if f = 8 then { fRsqrt x with lfsr := lfsr }
  else if f = 9 then out (Val.max vx vy, 0)
  else if f = 10 then out (Val.min vx vy, 0)
  else if f = 11 then out (if vz.isNan || vz.isZero then vy else vx, 0)
  else if f = 12 then out (if compare sub vx vy then .fin false 1 0 else .fin false 0 0, 0)
  else if f = 13 then out (Val.min (Val.max vx vy) vz, 0)
  else match table with
    | some t => { lookup t (sub == 1) x with lfsr := lfsr }
    | none => { val := 0, lfsr := lfsr }

/-- Runs a function over lanes in element order, the LFSR passing from one to the next (R49). -/
def mapLanes (g : BitVec 32 → Nat × Nat × Nat → Num) : List (Nat × Nat × Nat) → BitVec 32 → List Nat × BitVec 6 × BitVec 32
  | [], l => ([], 0, l)
  | p :: ps, l =>
    let n := g l p
    let (rest, f, l') := mapLanes g ps n.lfsr
    (n.val :: rest, n.flags ||| f, l')

/-- Three operand lists, zipped. -/
def zip3 (xs ys zs : List Nat) : List (Nat × Nat × Nat) := xs.zip (ys.zip zs)

/-! ## Register mode: VOP (R88, R93, R115) -/

/-- The fields of a VOP word. -/
structure Vop where
  func : Nat
  sub  : Nat
  vd   : Nat
  vx   : Nat
  vy   : Nat
  vz   : Nat
  rnd  : Nat
  form : Nat
  pair : Bool
  fmt  : Nat
  slot : Nat
  deriving DecidableEq, Repr

def readVop (w : BitVec 128) : Vop :=
  { func := fld w 3 0, sub := fld w 7 4, vd := fld w 12 8, vx := fld w 17 13, vy := fld w 22 18, vz := fld w 27 23, rnd := fld w 29 28
    form := fld w 31 30, pair := w.getLsbD 32, fmt := fld w 36 33, slot := fld w 39 37 }

/-- Whether R50 lists a conversion between two unscaled format codes under an RND code. -/
def converts (src dst rnd : Nat) : Bool :=
  rnd < 3 &&
  (((src == 4 || src == 5) && (dst == 6 || dst == 9)) || (src == 6 && dst == 9) || (src == 6 && (dst == 4 || dst == 5)) ||
   (src == 9 && dst == 6 && rnd < 2) || (src == 6 && dst == 7 && rnd < 2) || (src == 7 && dst == 6 && rnd == 0))

/-- Whether a VOP is one the engine has (R88, R93, R115); the loader refuses any other. Register pairs convert to and from FP32
alone (R88), so R50's BF16 and FP16 to FP64 is a conversion in two steps here (DESIGN CHOICE, assumption 185). -/
def Vop.formed (o : Vop) : Bool :=
  let even := o.vd % 2 == 0 && o.vx % 2 == 0 && o.vy % 2 == 0
  match subMax o.func with
  | none => false
  | some m =>
    o.sub ≤ m && o.rnd < 3 && o.fmt < 12 && (!o.pair || even) &&
    (if o.func = 1 then
      (if o.pair then (o.fmt == 9 && o.form == 0) || (o.fmt == 6 && o.rnd < 2)
       else o.fmt != 9 && converts (formFmt o.form) o.fmt o.rnd && !((o.form == 1 || o.form == 2) && o.vd == 31))
     else if o.pair then o.func == 3 && o.sub == 0
     else if o.form = 3 then (o.func == 3 && o.sub == 0) || o.func == 9 || o.func == 10 || o.func == 12
     else o.form == 0 || !((5 ≤ o.func && o.func ≤ 8) || o.func == 14))

/-- One S32 lane (R88). -/
def s32Fn (f sub x y : Nat) : Nat :=
  let a := signed 32 x
  let b := signed 32 y
  if f = 3 then unsigned 32 (if sub = 1 then a - b else a + b)
  else if f = 9 then unsigned 32 (max a b)
  else if f = 10 then unsigned 32 (min a b)
  else if (if sub = 0 then a == b else if sub = 1 then a != b else if sub = 2 then a < b else if sub = 3 then a ≤ b
    else if sub = 4 then b < a else b ≤ a) then 1 else 0

/-- A tile with lanes written, flags raised and the LFSR moved on. -/
def Tile.vresult (t : Tile) (f : BitVec 6) (lfsr : BitVec 32) : Tile := { t.raise f with lfsr := lfsr }

/-- VOP's CVT (R115). -/
def Tile.vopCvt (t : Tile) (o : Vop) (r : Rnd) : Tile :=
  let conv := fun (src dst : Nat) (l : BitVec 32) (p : Nat × Nat × Nat) =>
    if dst = 7 then { toS32 r p.1 with lfsr := l } else finish dst r l (elemVal src p.1 0, 0)
  let one := fun (xs : List Nat) => zip3 xs xs xs
  if o.pair && o.fmt == 9 then
    let q := mapLanes (conv 6 9) (one (t.lanes false o.vx)) t.lfsr
    (t.setPairs o.vd q.1).vresult q.2.1 q.2.2
  else if o.pair then
    let q := mapLanes (conv 9 6) (one (t.pairs o.vx)) t.lfsr
    (t.setLanes false o.vd q.1).vresult q.2.1 q.2.2
  else if o.fmt = 4 ∨ o.fmt = 5 then
    let q := mapLanes (conv 6 o.fmt) (one (t.lanes false o.vx ++ t.lanes false o.vy)) t.lfsr
    (t.setLanes true o.vd q.1).vresult q.2.1 q.2.2
  else if o.form = 1 ∨ o.form = 2 then
    let q := mapLanes (conv (formFmt o.form) o.fmt) (one (t.lanes true o.vx)) t.lfsr
    ((t.setLanes false o.vd (q.1.take 64)).setLanes false (o.vd + 1) (q.1.drop 64)).vresult q.2.1 q.2.2
  else
    let q := mapLanes (conv (formFmt o.form) o.fmt) (one (t.lanes false o.vx)) t.lfsr
    (t.setLanes false o.vd q.1).vresult q.2.1 q.2.2

/-- A VOP on a tile; the table slot has been checked. -/
def Tile.vop (t : Tile) (o : Vop) : Tile :=
  let r := (rndOf o.rnd).getD .rne
  if o.func = 1 then t.vopCvt o r
  else if o.pair then
    let q := mapLanes (fun l p => stageFn 3 o.sub 9 r l none p.1 p.2.1 0) (zip3 (t.pairs o.vx) (t.pairs o.vy) (t.pairs o.vy)) t.lfsr
    (t.setPairs o.vd q.1).vresult q.2.1 q.2.2
  else
    let packed := o.form == 1 || o.form == 2
    let xs := t.lanes packed o.vx
    let ys := t.lanes packed o.vy
    let zs := t.lanes packed o.vz
    if o.form = 3 then t.setLanes false o.vd ((xs.zip ys).map (fun p => s32Fn o.func o.sub p.1 p.2))
    else
      let q := mapLanes (fun l p => stageFn o.func o.sub (formFmt o.form) r l (Tbl.get none t.tables o.slot) p.1 p.2.1 p.2.2) (zip3 xs ys zs) t.lfsr
      (t.setLanes packed o.vd q.1).vresult q.2.1 q.2.2

/-- Zeroes the 64-bit word `w` of a tile's vector registers, 32 words to a register. -/
def Tile.zeroVreg (w : Nat) (t : Tile) : Tile :=
  t.setVreg (w / 32) (t.vreg (w / 32) &&& ~~~(0xFFFFFFFFFFFFFFFF#2048 <<< (64 * (w % 32))))

/-- VOP. -/
def execVop (tile : Nat) (soft : Soft) (s : State) : Out :=
  s.issue tile .V 0x41 (fun w _ => fld w 3 0 != 0xE) (fun w id st0 => st0.withSoft tile .V soft Tile.zeroVreg (fun st =>
    let o := readVop w
    if !o.formed then st.vectorFault tile .operand
    else (st.modTile tile (fun t => t.vop o)).atOnce tile .V id))

/-- VLUT: VOP with FUNC 0xE; a slot that holds no table is a vector fault (R99). -/
def execVlut (tile : Nat) (s : State) : Out :=
  s.issue tile .V 0x41 (fun w _ => fld w 3 0 == 0xE) (fun w id st =>
    let o := readVop w
    if !o.formed then st.vectorFault tile .operand
    else if (Tbl.get none (st.tile tile).tables o.slot).isNone then st.vectorFault tile .tableSlot
    else (st.modTile tile (fun t => t.vop o)).atOnce tile .V id)

/-- VMODE: waits until every earlier vector instruction has completed; an open reduction slot is a vector fault (R89, R102). -/
def execVmode (tile : Nat) (s : State) : Out :=
  s.issue tile .V 0x40 (fun _ st => (st.tile tile).v.flights.isEmpty) (fun w id st =>
    if !(st.tile tile).reds.isEmpty then st.vectorFault tile .modeSlotOpen
    else (st.modTile tile (fun t => { t with stream := w.getLsbD 0 })).atOnce tile .V id)

/-- VSEED: loads the rounding LFSR; zero loads 1 (R49). -/
def execVseed (tile : Nat) (s : State) : Out :=
  s.issue tile .V 0x48 (fun _ _ => true) (fun w id st =>
    (st.modTile tile (fun t => { t with lfsr := if fld w 31 0 = 0 then 1 else BitVec.ofNat 32 (fld w 31 0) })).atOnce tile .V id)

/-! ## Access to the tile store -/

/-- Whether the vector engine may touch a span: below the configuration block, and outside the areas of open groups (R104,
R137). -/
def Tile.vMay (t : Tile) (a n : Nat) : Bool :=
  decide (a + n ≤ cfgBase) &&
  (List.range 8).all (fun g => !(t.group g).isOpen || (t.group g).areas.all (fun b => decide (a + n ≤ b) || decide (b + 2048 ≤ a)))

/-- The fault of a span it may not touch: beyond the store, in the configuration block (R137), else in a group's area. -/
def Tile.vDenied (_t : Tile) (a n : Nat) : FaultName :=
  if storeEnd < a + n then .vector .storeAddress else if cfgBase < a + n then .program .configBlock else .vector .groupArea

/-- Whether it may touch every byte of a view, and of some elements of it with their scales. -/
def Tile.vMayView (t : Tile) (v : View) : Bool := v.spans.all (fun p => t.vMay p.1 p.2)
def Tile.vMayPart (t : Tile) (v : View) (idx : List (List Nat)) : Bool :=
  idx.all (fun i => t.vMay ((v.elemAddr i).1).toNat v.elemBytes && (!fmtScaled v.fmt || t.vMay (v.scaleAddr i).toNat 1))

/-- The indices of a chunk of a view, in element order. -/
def View.chunk (v : View) (n k : Nat) : List (List Nat) := (v.indices.drop (n * k)).take n

/-- A view operand of a vector instruction: in the tile store and open to the engine wherever the instruction touches it, all of
it or one chunk, else the fault (R104, R122). -/
def Tile.vView (t : Tile) (i : Nat) (chunk : Option (Nat × Nat) := none) : Except FaultName View :=
  match t.view .V i with
  | none => .error (.program .descriptor)
  | some v =>
    if !v.ts then .error (.vector .notStoreView)
    else if (match chunk with
      | none => t.vMayView v
      | some (n, k) => t.vMayPart v (v.chunk n k)) then .ok v
    else .error (.vector .groupArea)

/-- A vector instruction's fault under its name. -/
def State.vFault (s : State) (t : Nat) (f : FaultName) : State := s.tileFault t .V stBAD_PARAM 0 none false (some f)

/-! ## VLD and VST (R90, R115) -/

/-- What a VLD accepts (R50, R90). -/
def vldOk (fmt vd : Nat) (packed : Bool) (rnd : Nat) : Bool :=
  rnd < 3 &&
  (if packed then fmt == 4 || fmt == 5 || fmt ≤ 3 || (fmt == 8 && rnd < 2)
   else fmt != 9 && (fmt != 8 || rnd < 2) || (fmt == 9 && vd % 2 == 0))

/-- Whether a view has stride zero in every dimension (R91). -/
def View.isScalar (v : View) : Bool := v.stride.all (fun x => x == 0)

/-- VLD: elements 64 x CHUNK on (128 with PACKED16), +0 beyond the view's end; a view with stride zero in every dimension gives
every lane its one element, whatever its extents (R91 before R115's padding: DESIGN CHOICE, assumption 180). Only ACC48 is
rounded as the word says; the exact conversions overflow to infinity under every RND (R50). A NaN comes out canonical, an FP32
one too (R39; DESIGN CHOICE, assumption 181: stream inputs and VST keep an FP32 NaN's bits). -/
def execVld (tile : Nat) (s : State) : Out :=
  s.issue tile .V 0x42 (fun _ _ => true) (fun w id st =>
    let t := st.tile tile
    let vd := fld w 12 8
    let packed := w.getLsbD 13
    let n := if packed then 128 else 64
    match t.vView (fld w 7 0) (some (n, fld w 27 16)) with
    | .error f => st.vFault tile f
    | .ok v =>
      if !vldOk v.fmt vd packed (fld w 15 14) then st.vectorFault tile .operand
      else
        let r := if v.fmt = 8 then (rndOf (fld w 15 14)).getD .rne else .rne
        let idx := if v.isScalar then [[0, 0, 0, 0, 0]] else v.chunk n (fld w 27 16)
        let dst := if packed then (if v.fmt = 5 then 5 else 4) else 6
        let ns : List Num := idx.map (fun i =>
          if v.fmt = 9 ∨ v.fmt = 7 then { val := v.getElem t.store i } else finish dst r 1 (v.value t.store i, 0))
        let xs := if v.isScalar then List.replicate n ((ns.map (·.val)).headD 0) else padTo n 0 (ns.map (·.val))
        let t1 := if v.fmt = 9 then t.setPairs vd xs else t.setLanes packed vd xs
        (st.setTile tile (t1.raise (ns.foldl (fun f x => f ||| x.flags) 0))).atOnce tile .V id)

/-- What a VST accepts (R90). -/
def vstOk (fmt vs : Nat) (packed pair : Bool) (rnd : Nat) : Bool :=
  rnd < 3 &&
  (if pair then fmt == 9 && vs % 2 == 0 && !packed
   else if packed then fmt == 4 || fmt == 5
   else fmt == 4 || fmt == 5 || fmt == 6 || fmt == 7)

/-- Converts lanes for a store, drawing in element order. -/
def storeLanes (fmt : Nat) (r : Rnd) (xs : List Nat) (l : BitVec 32) : List Nat × BitVec 6 × BitVec 32 :=
  mapLanes (fun l p => if fmt = 7 ∨ fmt = 6 then { val := p.1, lfsr := l } else finish fmt r l (f32 p.1, 0)) (zip3 xs xs xs) l

/-- VST: nothing is written beyond the view's end. -/
def execVst (tile : Nat) (s : State) : Out :=
  s.issue tile .V 0x43 (fun _ _ => true) (fun w id st =>
    let t := st.tile tile
    let vs := fld w 12 8
    let packed := w.getLsbD 13
    let pair := w.getLsbD 28
    match t.vView (fld w 7 0) (some (if packed then 128 else 64, fld w 27 16)) with
    | .error f => st.vFault tile f
    | .ok v =>
      if !vstOk v.fmt vs packed pair (fld w 15 14) then st.vectorFault tile .operand
      else
        let r := (rndOf (fld w 15 14)).getD .rne
        let idx := v.chunk (if packed then 128 else 64) (fld w 27 16)
        let raw := if pair then t.pairs vs else t.lanes packed vs
        let (xs, f, l) := if pair || packed then (raw, (0 : BitVec 6), t.lfsr) else storeLanes v.fmt r (raw.take idx.length) t.lfsr
        let m := (idx.zip xs).foldl (fun m p => v.putElem m p.1 p.2) t.store
        (st.setTile tile ({ (t.raise f) with lfsr := l, store := m })).atOnce tile .V id)

/-! ## Tables (R99) -/

/-- VTLOAD: fills a table slot; a header that breaks R99 is a vector fault and leaves the slot without a table. -/
def execVtload (tile : Nat) (s : State) : Out :=
  s.issue tile .V 0x45 (fun _ _ => true) (fun w id st =>
    let t := st.tile tile
    let slot := fld w 2 0
    let a := fld w 21 3 * 8
    let n := signed 32 (BMap.readLe t.store a 4)
    let empty := st.setTile tile { t with tables := Tbl.set none t.tables slot none }
    if !t.vMay a 16 then st.vFault tile (t.vDenied a 16)
    else if n < 2 ∨ 1024 < n ∨ BMap.readLe t.store (a + 12) 4 ≠ 0 then empty.vectorFault tile .tableSlot
    else if !t.vMay a (16 + 4 * n.toNat) then st.vFault tile (t.vDenied a (16 + 4 * n.toNat))
    else
      let tab : VTable := {
        n := n.toNat, x0 := BitVec.ofNat 32 (BMap.readLe t.store (a + 4) 4), invH := BitVec.ofNat 32 (BMap.readLe t.store (a + 8) 4)
        values := (List.range n.toNat).foldl (fun tb i => Tbl.set 0 tb i (BitVec.ofNat 32 (BMap.readLe t.store (a + 16 + 4 * i) 4))) [] }
      (st.setTile tile { t with tables := Tbl.set none t.tables slot (some tab) }).atOnce tile .V id)

/-! ## The reduction unit (R100 to R102) -/

/-- Adds a carry out of the ladder to the spill word, in the operation's own format (R101). -/
def spillAdd (add : Nat → Nat → Num) (spill : Option Nat) (carry : Option Nat) : Option Nat × BitVec 6 :=
  match spill, carry with
  | s, none => (s, 0)
  | none, some c => (some c, 0)
  | some s, some c => let r := add s c; (some r.val, r.flags)

/-- Whether FP32 value `y` beats `x` as a maximum: greater, or +0 over -0 (R58). -/
def beats (y x : BitVec 32) : Bool :=
  let c := Val.cmp (f32 y.toNat) (f32 x.toNat)
  0 < c || (c == 0 && x.toNat == 2 ^ 31 && y.toNat == 0)

/-- One value of a MAX, MIN or ARGMAX run: a NaN stays; the first of equal maxima stays. The index counts the valid lanes entered
so far, so a VRED.PUT of fewer than 64 lanes advances it by those (R102; DESIGN CHOICE, assumption 184). -/
def extreme (r : RedSlot) (x : Nat) : RedSlot :=
  let b := BitVec.ofNat 32 x
  let put := { r with best := some (if (f32 x).isNan then BitVec.ofNat 32 (qnan fFP32) else b), index := r.seen, seen := r.seen + 1 }
  let keep := { r with seen := r.seen + 1 }
  match r.best with
  | none => put
  | some c =>
    if (f32 c.toNat).isNan then keep
    else if (f32 x).isNan then put
    else if r.op = 4 then (if beats c b then put else keep)
    else (if beats b c then put else keep)

/-- Enters one group of 1 to 64 FP32 values (R101): the slot and the flags raised. -/
def RedSlot.put (r : RedSlot) (xs : List Nat) : RedSlot × BitVec 6 :=
  if r.op = 1 ∨ r.op = 2 then
    let add := if r.op = 1 then f32Add else f64Add
    let vs := if r.op = 1 then xs else xs.map (fun x => (encodeFloat fFP64 .rne 1 (f32 x)).val)
    let (v, f) := pairTree add 6 (padTo 64 (if r.op = 1 then 2 ^ 31 else 2 ^ 63) vs)
    let (lv, c, g) := ladderInsert add 16 0 r.levels v
    let (sp, h) := spillAdd add r.spill c
    ({ r with levels := lv, spill := sp, seen := r.seen + xs.length }, f ||| g ||| h)
  else (xs.foldl extreme r, 0)

/-- The result of a run: value, index and flags. A sum of nothing is +0 (R75); the extremum of nothing is not stated, so it is
the free value given. -/
def RedSlot.close (r : RedSlot) (free : Nat) : Nat × Nat × BitVec 6 :=
  if r.op = 1 ∨ r.op = 2 then
    let add := if r.op = 1 then f32Add else f64Add
    let (a, f) := ladderClose add r.levels
    match r.spill, a with
    | none, x => (x.getD 0, 0, f)
    | some z, none => let n := add z 0; (n.val, 0, f ||| n.flags)
    | some z, some y => let n := add z y; (n.val, 0, f ||| n.flags)
  else match r.best with
    | some b => (b.toNat, r.index, 0)
    | none => (free % 2 ^ 32, free / 2 ^ 32 % 2 ^ 32, 0)

/-- VRED.OPEN: a slot that is already open is a vector fault. -/
def execVredOpen (tile : Nat) (s : State) : Out :=
  s.issue tile .V 0x46 (fun w _ => fld w 1 0 == 0) (fun w id st =>
    let t := st.tile tile
    let k := fld w 3 2
    if (Tbl.get none t.reds k).isSome then st.vectorFault tile .slotOpen
    else if fld w 6 4 = 0 || 5 < fld w 6 4 then st.vectorFault tile .operand
    else (st.setTile tile { t with reds := Tbl.set none t.reds k (some { op := fld w 6 4 }) }).atOnce tile .V id)

/-- VRED.PUT: one register as one group with COUNT valid lanes. -/
def execVredPut (tile : Nat) (s : State) : Out :=
  s.issue tile .V 0x46 (fun w _ => fld w 1 0 == 1) (fun w id st =>
    let t := st.tile tile
    let k := fld w 3 2
    match Tbl.get none t.reds k with
    | none => st.vectorFault tile .slotNotOpen
    | some r =>
      let (r', f) := r.put ((t.lanes false (fld w 11 7)).take (fld w 17 12 + 1))
      (st.setTile tile ({ (t.raise f) with reds := Tbl.set none t.reds k (some r') })).atOnce tile .V id)

/-- VRED.CLOSE: broadcasts the result to every lane (R102). -/
def execVredClose (tile : Nat) (s : State) : Out :=
  s.issue tile .V 0x46 (fun w _ => fld w 1 0 == 2) (fun w id st =>
    let t := st.tile tile
    let k := fld w 3 2
    let vr := fld w 11 7
    match Tbl.get none t.reds k with
    | none => st.vectorFault tile .slotNotOpen
    | some r =>
      if (r.op = 2 ∧ vr % 2 = 1) ∨ (r.op = 5 ∧ vr = 31) then st.vectorFault tile .closeRegister
      else
        let (x, st1) := st.fresh
        let (v, i, f) := r.close x
        let all := fun (n : Nat) => List.replicate 64 (n % 2 ^ 32)
        let t1 := if r.op = 2 then (t.setLanes false vr (all v)).setLanes false (vr + 1) (all (v / 2 ^ 32))
          else if r.op = 5 then (t.setLanes false vr (all v)).setLanes false (vr + 1) (all i)
          else t.setLanes false vr (all v)
        (st1.setTile tile ({ (t1.raise f) with reds := Tbl.set none t.reds k none })).atOnce tile .V id)

/-! ## VPSUM (R103) -/

/-- The sum of one element position over the partials. -/
def partialSum (xs : List Nat) : Nat × BitVec 6 :=
  let r := ladderSum f64Add xs
  (r.1.getD 0, r.2)

/-- VPSUM: partials 0 to P - 1 as ladder entries in index order, written as FP64, ACC48 or FP32 under RNE and the policy. -/
def execVpsum (tile : Nat) (s : State) : Out :=
  s.issue tile .V 0x47 (fun _ _ => true) (fun w id st =>
    let t := st.tile tile
    match t.vView (fld w 7 0), t.vView (fld w 15 8) with
    | .ok a, .ok d =>
      let e := a.ext.getD 0 0
      let p := a.ext.getD 1 0
      if a.fmt ≠ 9 ∨ (d.fmt ≠ 9 ∧ d.fmt ≠ 8 ∧ d.fmt ≠ 6) ∨ (a.ext.drop 2).any (fun x => x != 1) ∨ p < 2 ∨ 4096 < p ∨ 65536 < e ∨ d.count ≠ e then
        st.vectorFault tile .operand
      else
        let z := match t.program with
          | some (q, _) => st.policyZ q
          | none => false
        let step := fun (acc : BMap × BitVec 6) (x : Nat × List Nat) =>
          let (v, f) := partialSum ((List.range p).map (fun j => a.getElem t.store [x.1, j, 0, 0, 0]))
          let n := if d.fmt = 9 then { val := v } else finish d.fmt .rne 1 (decodeFloat fFP64 v, 0)
          (d.putElem acc.1 x.2 (policyWrite z d.fmt n.val), acc.2 ||| f ||| n.flags)
        let r := ((List.range e).zip d.indices).foldl step (t.store, 0)
        (st.setTile tile ({ (t.raise r.2) with store := r.1 })).atOnce tile .V id
    | .error f, _ => st.vFault tile f
    | _, .error f => st.vFault tile f)

/-! ## Stream mode (R91 to R97, R117) -/

/-- A stage word (R92). -/
structure Stage where
  func : Nat
  sub  : Nat
  x    : Nat
  y    : Nat
  z    : Nat
  rnd  : Nat
  fmt  : Nat
  zero : Nat
  k    : Nat
  deriving DecidableEq, Repr

def readStage (w : Nat) : Stage :=
  { func := bits w 3 0, sub := bits w 7 4, x := bits w 10 8, y := bits w 13 11, z := bits w 16 14, rnd := bits w 18 17
    fmt := bits w 22 19, zero := bits w 31 23, k := bits w 63 32 }

/-- Whether stage number `i` is one that R92 and R93 allow, given which of A, B and C the instruction supplies. -/
def Stage.formed (g : Stage) (i : Nat) (have' : Nat → Bool) : Bool :=
  let src := fun (used : Bool) (c : Nat) => if used then c < 5 && (c != 0 || i != 0) && (c == 0 || c == 4 || have' c) else c == 0
  let usesK := g.x == 4 || (readsY g.func && g.y == 4) || (readsZ g.func g.sub && g.z == 4)
  (match subMax g.func with
   | some m => decide (g.sub ≤ m)
   | none => false) &&
  src true g.x && src (readsY g.func) g.y && src (readsZ g.func g.sub) g.z && g.zero == 0 && (usesK || g.k == 0) &&
  (if g.func = 1 then g.rnd < 3 && (g.fmt == 4 || g.fmt == 5) else g.rnd == 0 && g.fmt == 0)

/-- A stream record (R117). -/
structure StreamRec where
  plan   : Nat
  stages : Nat
  tapOp  : Nat
  outctl : Nat
  tapL   : Nat
  tapA   : Nat
  scale  : Nat
  zero   : Nat
  deriving DecidableEq, Repr

def readStream (m : BMap) (a : Nat) : StreamRec :=
  { plan := BMap.readLe m a 4, stages := BMap.readLe m (a + 4) 1, tapOp := BMap.readLe m (a + 5) 1, outctl := BMap.readLe m (a + 6) 1
    tapL := BMap.readLe m (a + 8) 4, tapA := BMap.readLe m (a + 12) 4, scale := BMap.readLe m (a + 16) 8
    zero := BMap.readLe m (a + 7) 1 + BMap.readLe m (a + 24) 8 }

/-- Whether a record is one that R117 allows. -/
def StreamRec.formed (r : StreamRec) : Bool :=
  r.plan % 8 == 0 && 1 ≤ r.stages && r.stages ≤ 8 && r.tapOp ≤ 5 && r.outctl < 8 && r.outctl % 4 != 3 && r.zero == 0 &&
  (r.tapOp == 0 || (1 ≤ r.tapL && r.tapA % 8 == 0))

/-- The stages of a plan. -/
def readPlan (m : BMap) (r : StreamRec) : List Stage := (List.range r.stages).map (fun i => readStage (BMap.readLe m (r.plan + 8 * i) 8))

/-- What the stages of one element leave: the value, flags and LFSR. `ins` gives the FP32 value of A, B and C. -/
def runStages (tabs : Nat → Option VTable) (ins : Nat → Num) : List Stage → Nat → Num → Num
  | [], _, prev => prev
  | g :: gs, i, prev =>
    let get := fun (c : Nat) => if c = 0 then prev.val else if c = 4 then g.k else (ins c).val
    let fl := fun (c : Nat) => if 1 ≤ c ∧ c ≤ 3 then (ins c).flags else 0
    let fs := fl g.x ||| (if readsY g.func then fl g.y else 0) ||| (if readsZ g.func g.sub then fl g.z else 0)
    let n : Num := if g.func = 1 then
        let c := finish g.fmt ((rndOf g.rnd).getD .rne) prev.lfsr (f32 (get g.x), 0)
        { c with val := f32Of (elemVal g.fmt c.val 0) }
      else stageFn g.func g.sub 6 .rne prev.lfsr (tabs i) (get g.x) (get g.y) (get g.z)
    runStages tabs ins gs (i + 1) { n with flags := n.flags ||| prev.flags ||| fs }

/-- E_hist of a tensor scale record for a format, none when its history is not usable (R54). -/
def histScale (rec' : BMap) (fmt : Nat) : Option Nat :=
  let hidx := BMap.readLe rec' 68 1 % 16
  let n := min 16 (BMap.readLe rec' 69 1)
  let vs := (List.range n).map (fun j => f32 (BMap.readLe rec' (4 * ((hidx + 15 - j) % 16)) 4))
  let hmax := vs.foldl (fun a v => if Val.cmp a v < 0 then v else a) (.fin false 0 0)
  let q := Val.ofInt (qmax fmt)
  let t := f32 (BMap.readLe rec' 64 4)
  let target := if t.isFinite && 0 < Val.cmp t (.fin false 0 0) && Val.cmp t q ≤ 0 then t else q
  if n = 0 ∨ hmax.isZero then none else some (leastScale hmax target)

/-- A tap's run in progress: results written so far, the open run, and the flags raised. -/
structure TapRun where
  slot    : RedSlot
  group   : List Nat
  results : List (Nat × Nat)
  flags   : BitVec 6 := 0

/-- Gives one element to the tap: a group of 64 or the run's last elements enter together (R94, R101). -/
def TapRun.give (t : TapRun) (op len x : Nat) : TapRun :=
  let g := t.group ++ [x]
  let inRun := t.slot.seen + g.length
  if g.length = 64 ∨ inRun = len then
    let (s, f) := t.slot.put g
    if inRun = len then
      let (v, i, h) := s.close 0
      { slot := { op := op }, group := [], results := t.results ++ [(v, i)], flags := t.flags ||| f ||| h }
    else { t with slot := s, group := [], flags := t.flags ||| f }
  else { t with group := g }

/-- Bytes of one tap result (R100). -/
def tapBytes (op : Nat) (r : Nat × Nat) : List Byte :=
  if op = 2 then natLe r.1 8 else if op = 5 then natLe r.1 4 ++ natLe r.2 4 else natLe r.1 4

/-- Everything a stream operation is given once its operands are resolved. -/
structure StreamJob where
  ins    : Nat → Option View
  out    : Option View
  rec'   : StreamRec
  stages : List Stage
  hist   : Option Nat        -- E_hist when the mode is HISTORY and the history usable

/-- The state of a stream operation: the tile store being written, LFSR, flags, tap and the largest finite result. -/
structure StreamRun where
  store : BMap
  lfsr  : BitVec 32
  flags : BitVec 6 := 0
  tap   : TapRun
  amax  : BitVec 32 := 0

/-- Cuts element indices into draw units (R97): runs of one output block, or single elements. -/
def drawUnits (out : Option View) (idx : List (List Nat)) : List (List (List Nat)) :=
  match out with
  | some v => if fmtScaled v.fmt then idx.splitBy (fun a b => v.blockOf a == v.blockOf b) else idx.map (fun i => [i])
  | none => idx.map (fun i => [i])

/-- One draw unit: the stages of its elements, then the output port (R96, R97). `src` is the store as it was before the operation:
an in-place view whose own elements overlap one another is read so throughout (R95; DESIGN CHOICE, assumption 183). -/
def StreamJob.unit (j : StreamJob) (t : Tile) (src : BMap) (r : StreamRun) (u : List (List Nat)) : StreamRun :=
  let input := fun (i : List Nat) (c : Nat) => match j.ins c with
    | some v => if v.fmt = 6 then { val := v.getElem src i } else finish 6 .rne 1 (v.value src i, 0)
    | none => { val := 0 }
  let (vals, f1, l1) := mapLanes (fun l p => runStages (fun k => Tbl.get none t.tables k) (input (u.getD p.1 [])) j.stages 0 { val := 0, lfsr := l })
    (zip3 (List.range u.length) (List.range u.length) (List.range u.length)) r.lfsr
  let tap := if j.rec'.tapOp = 0 then r.tap else vals.foldl (fun a x => a.give j.rec'.tapOp j.rec'.tapL x) r.tap
  match j.out with
  | none => { r with lfsr := l1, flags := r.flags ||| f1, tap := tap }
  | some v =>
    let rnd := (rndOf (j.rec'.outctl % 4)).getD .rne
    if fmtScaled v.fmt then
      let b := convertBlock v.fmt rnd j.hist (vals.map f32) l1
      let m1 := (u.zip b.q).foldl (fun m p => v.putElem m p.1 p.2) r.store
      let m2 := BMap.write m1 ((v.scaleAddr (u.getD 0 []) % (2 ^ 64)).toNat) (BitVec.ofNat 8 b.e8)
      let mx := vals.foldl (fun a x => if (f32 x).isFinite then maxBits a (BitVec.ofNat 32 (x % 2 ^ 31)) else a) r.amax
      { store := m2, lfsr := b.lfsr, flags := r.flags ||| f1 ||| b.flags, tap := tap, amax := mx }
    else
      let c := mapLanes (fun l p => if v.fmt = 6 then { val := p.1, lfsr := l } else if v.fmt = 7 then { toS32 rnd p.1 with lfsr := l }
        else finish v.fmt rnd l (f32 p.1, 0)) (zip3 vals vals vals) l1
      { r with store := (u.zip c.1).foldl (fun m p => v.putElem m p.1 p.2) r.store, lfsr := c.2.2, flags := r.flags ||| f1 ||| c.2.1, tap := tap }

/-- Whether two views share a byte. -/
def View.meets (x y : View) : Bool := x.spans.any (fun p => y.spans.any (fun q => decide (p.1 < q.1 + q.2) && decide (q.1 < p.1 + p.2)))

/-- Whether two views are the same, base and strides alike (R95). -/
def View.same (x y : View) : Bool :=
  x.base == y.base && x.off == y.off && x.sbase == y.sbase && x.stride == y.stride && x.fmt == y.fmt && x.layout == y.layout

/-- Formats of the stream ports (R35, R50, R96). -/
def streamIn (fmt : Nat) : Bool := fmt != 9 && fmt < 12
def streamOut (fmt rnd : Nat) : Bool := fmtScaled fmt || fmt == 4 || fmt == 5 || fmt == 6 || (fmt == 7 && rnd < 2)

/-- The fault of a VSTREAM whose resolved operands break a rule (R92, R94 to R96, R104), none when none does. -/
def StreamJob.fault (j : StreamJob) (t : Tile) : Option FaultName :=
  let ins := [1, 2, 3].filterMap j.ins
  let all := ins ++ (match j.out with | some v => [v] | none => [])
  let n := match all with | v :: _ => v.count | [] => 0
  let tapBytes := n / j.rec'.tapL * (if j.rec'.tapOp = 2 ∨ j.rec'.tapOp = 5 then 8 else 4)
  if !all.all (fun v => v.ext == (all.headD v).ext) then some (.vector .extents)
  else if all.isEmpty || !ins.all (fun v => streamIn v.fmt) || !j.stages.zipIdx.all (fun p => p.1.formed p.2 (fun c => (j.ins c).isSome)) ||
      (match j.out with
       | some v => !streamOut v.fmt (j.rec'.outctl % 4) || (fmtScaled v.fmt && v.sd != 0)
       | none => false) then some (.vector .operand)
  else if !j.stages.zipIdx.all (fun p => p.1.func != 14 || (Tbl.get none t.tables p.2).isSome) then some (.vector .tableSlot)
  else if (match j.out with
       | some v => ins.any (fun i => !i.same v && i.meets v)
       | none => false) then some (.vector .overlap)
  else if j.rec'.tapOp != 0 && n % j.rec'.tapL != 0 then some (.vector .runLength)
  else if j.rec'.tapOp != 0 && !t.vMay j.rec'.tapA tapBytes then some (t.vDenied j.rec'.tapA tapBytes)
  else none

/-- Runs a stream operation on a tile. -/
def StreamJob.run (j : StreamJob) (t : Tile) : Tile :=
  let all := [1, 2, 3].filterMap j.ins ++ (match j.out with | some v => [v] | none => [])
  let idx := match all with | v :: _ => v.indices | [] => []
  let r := (drawUnits j.out idx).foldl (j.unit t t.store)
    { store := t.store, lfsr := t.lfsr, tap := { slot := { op := j.rec'.tapOp }, group := [], results := [] } }
  let m := if j.rec'.tapOp = 0 then r.store
    else BMap.writeBytes r.store j.rec'.tapA (r.tap.results.flatMap (tapBytes j.rec'.tapOp))
  let t1 : Tile := { (t.raise (r.flags ||| r.tap.flags)) with store := m, lfsr := r.lfsr }
  match j.out with
  | some v => if fmtScaled v.fmt && j.rec'.scale != 0 then t1.keepMax j.rec'.scale r.amax else t1
  | none => t1

/-- The record a HISTORY conversion reads: verified (R185), within the partition's stack windows; a status when it cannot be
read. -/
def State.readHistory (s : State) (p a : Nat) : Nat × Nat × BMap × State :=
  if a % 128 ≠ 0 then (stBAD_PARAM, 0, [], s)
  else if !(s.part p).inWindow a 128 then (stDENIED, 0, [], s)
  else
    let g := s.readStack a 128 true
    (g.status, if g.status = 0 then 0 else blockDetail g.bad g.cause, BMap.writeBytes [] 0 g.bytes, g.st)

/-- Whether VSTREAM's record is in reach: a record that asks for scale maxima reads its scale record at issue (R55). -/
def vstreamReady (tile : Nat) (w : BitVec 128) (st : State) : Bool :=
  let r := readStream (st.tile tile).store (fld w 50 32 * 8)
  r.outctl / 4 = 0 || r.scale = 0 || st.answers 0 r.scale 128

/-- VSTREAM's work: its record, views and plan are checked, then its stages run over the elements. All groups are written in one
step, so that a stop leaves all of them or none, each of which is a prefix (R105; assumption 182). A block-scaled output whose
record is 0 is converted in BLOCK mode whatever OUTCTL says (assumption 58). -/
def State.vstreamRun (tile : Nat) (w : BitVec 128) (id : Nat) (st : State) : State :=
  let t := st.tile tile
  let a := fld w 50 32 * 8
  let r := readStream t.store a
  let name := fun (c : Nat) => if c = 1 then fld w 7 0 else if c = 2 then fld w 15 8 else if c = 3 then fld w 23 16 else fld w 31 24
  let bad := fun (c : Nat) => if name c = 255 then none else match t.vView (name c) with | .error f => some f | .ok _ => none
  let view := fun (c : Nat) => if name c = 255 then none else (t.vView (name c)).toOption
  let p := ((t.program).map (·.1)).getD 0
  let j0 : StreamJob := { ins := fun c => if 1 ≤ c ∧ c ≤ 3 then view c else none, out := view 4, rec' := r, stages := readPlan t.store r, hist := none }
  let fmt := ((view 4).map (·.fmt)).getD 6
  if !t.vMay a 32 then st.vFault tile (t.vDenied a 32)
  else if !r.formed then st.vectorFault tile .operand
  else if !t.vMay r.plan (8 * r.stages) then st.vFault tile (t.vDenied r.plan (8 * r.stages))
  else match [1, 2, 3, 4].findSome? bad, j0.fault t with
  | some f, _ => st.vFault tile f
  | none, some f => st.vFault tile f
  | none, none =>
  if r.outctl / 4 = 1 ∧ fmtScaled fmt ∧ r.scale ≠ 0 then
    let (e, d, m, st1) := st.readHistory p r.scale
    if e ≠ 0 then st1.tileFault tile .V e r.scale (some d)
    else (st1.modTile tile (fun x => StreamJob.run { j0 with hist := histScale m fmt } x)).atOnce tile .V id
  else (st.modTile tile (fun x => j0.run x)).atOnce tile .V id

/-- VSTREAM. -/
def execVstream (tile : Nat) (s : State) : Out := s.issue tile .V 0x44 (vstreamReady tile) (State.vstreamRun tile)

end Sys2Proof.Machine
end

