-- ==== Sys2Proof/Machine/Loader.lean ====
section
/-! DEFINITION. LOAD_PROGRAM (R369, R370): the program image and its records, the loader's checks (R35, R50, R89, R92, R124,
R131, R133), and writing the image. -/

namespace Sys2Proof.Machine

open Sys2Proof

/-! ## The image (R369) -/

/-- A record of an image. -/
structure ImgRec where
  type   : Nat
  target : Nat
  offset : Nat
  bytes  : List Byte
  deriving DecidableEq, Repr

/-- What an image gives one tile: its configuration block, the words of its streams by 4096 x engine + position, and its STORE
records in order. -/
structure TileImg where
  tile   : Nat
  config : Option (List Byte) := none
  words  : Tbl (Option (BitVec 128)) := []
  stores : List (Nat × List Byte) := []
  deriving DecidableEq, Repr

/-- A parsed image. -/
structure Image2 where
  tiles : List TileImg := []
  atps  : List (Nat × Nat × List Byte) := []   -- ATP, first byte of job memory, bytes
  sets  : List (Nat × BitVec 256) := []
  deriving DecidableEq, Repr

/-- Bytes of the image header. -/
def headerBytes : Nat := 32

/-- Reads the records from a byte offset; none when one is cut short or a zero byte is not zero. -/
def readRecords (m : BMap) (total : Nat) : Nat → Nat → Option (List ImgRec)
  | 0, o => if o = total then some [] else none
  | k + 1, o =>
    let n := BMap.readLe m (o + 8) 4
    let pad := ceilDiv n 16 * 16
    if total < o + 16 + pad ∨ BMap.readLe m (o + 1) 1 ≠ 0 ∨ BMap.readLe m (o + 12) 4 ≠ 0 ∨
        BMap.readLe m (o + 16 + n) (pad - n) ≠ 0 then none
    else
      (readRecords m total k (o + 16 + pad)).map (fun rs =>
        { type := BMap.readLe m o 1, target := BMap.readLe m (o + 2) 2, offset := BMap.readLe m (o + 4) 4, bytes := BMap.readBytes m (o + 16) n } :: rs)

/-- Changes, or begins, what an image gives a tile. -/
def modTileImg (t : Nat) (f : TileImg → TileImg) : List TileImg → List TileImg
  | [] => [f { tile := t }]
  | x :: xs => if x.tile = t then f x :: xs else x :: modTileImg t f xs

/-- The 128-bit words of a byte string. -/
def wordsOf (bs : List Byte) : List (BitVec 128) := (List.range (bs.length / 16)).map (fun i => BitVec.ofNat 128 (leNat ((bs.drop (16 * i)).take 16)))

/-- Whether a record is well formed by itself (R369). -/
def ImgRec.formed (r : ImgRec) : Bool :=
  let set := bit r.target 15
  let n := r.bytes.length
  (if set then bits r.target 14 4 == 0 else bits r.target 14 8 == 0) &&
  (if r.type = 1 then r.offset == 0 && n == 1024
   else if 2 ≤ r.type ∧ r.type ≤ 5 then n % 16 == 0 && decide (r.offset + n / 16 ≤ 4096)
   else if r.type = 6 then decide (r.offset + n ≤ cfgBase)
   else if r.type = 7 then !set && decide (r.target < 16) && n % 128 == 0 && decide (r.offset + n / 128 ≤ 1024)
   else if r.type = 8 then set && r.offset == 0 && n == 32
   else false)

/-- Adds one record to what has been parsed; none when it breaks R369. -/
def Image2.add (g : Image2) (r : ImgRec) : Option Image2 :=
  if !r.formed then none
  else if r.type = 8 then some { g with sets := g.sets.filter (fun s => s.1 != r.target % 16) ++ [(r.target % 16, BitVec.ofNat 256 (leNat r.bytes))] }
  else if r.type = 7 then some { g with atps := g.atps ++ [(r.target, 128 * r.offset, r.bytes)] }
  else
    let put := fun (x : TileImg) =>
      if r.type = 1 then { x with config := some r.bytes }
      else if r.type = 6 then { x with stores := x.stores ++ [(r.offset, r.bytes)] }
      else { x with words := (wordsOf r.bytes).zipIdx.foldl (fun t w => Tbl.set none t (4096 * (r.type - 2) + r.offset + w.2) (some w.1)) x.words }
    if bit r.target 15 then
      match g.sets.find? (fun s => s.1 == r.target % 16) with
      | none => none
      | some s => some { g with tiles := ((List.range 256).filter (fun t => s.2.getLsbD t)).foldl (fun ts t => modTileImg t put ts) g.tiles }
    else some { g with tiles := modTileImg r.target put g.tiles }

/-- Whether the CRC of an image matches (R369). -/
def crcOk (m : BMap) (total : Nat) : Bool :=
  headerBytes ≤ total && BMap.readLe m 12 4 == crc32c (BMap.readBytes m headerBytes (total - headerBytes))

/-- The image that `total` bytes hold, none when the header or a record breaks R369. -/
def parseImage (m : BMap) (total : Nat) : Option Image2 :=
  if total < headerBytes ∨ BMap.readLe m 0 4 ≠ 0x47503257 ∨ BMap.readLe m 4 2 ≠ 1 ∨ BMap.readLe m 6 2 ≠ 0 ∨ BMap.readLe m 16 8 ≠ total ∨
      BMap.readLe m 24 8 ≠ 0 then none
  else
    (readRecords m total (BMap.readLe m 8 4) headerBytes).bind (fun rs =>
      rs.foldl (fun (g : Option Image2) r => g.bind (fun x => x.add r)) (some {}))

/-! ## Instruction words (R111 to R116) -/

/-- Bits of [95:0] that each opcode's operands use; none for an opcode that does not exist. -/
def operandBits (o : Nat) : Option Nat :=
  if o = 0x00 ∨ o = 0x04 then some 0
  else if o = 0x01 then some (2 ^ 18 - 1)
  else if o = 0x02 then some (2 ^ 28 - 1)
  else if o = 0x03 then some (2 ^ 20 - 1)
  else if o = 0x10 ∨ o = 0x47 then some (2 ^ 16 - 1)
  else if o = 0x11 then some (2 ^ 36 - 1)
  else if o = 0x12 then some (2 ^ 36 - 2 ^ 8)
  else if o = 0x13 then some (2 ^ 10 - 1)
  else if o = 0x20 then some (2 ^ 43 - 1)
  else if o = 0x21 then some (2 ^ 66 - 1)
  else if o = 0x22 then some (2 ^ 28 - 1)
  else if o = 0x23 then some 7
  else if o = 0x40 then some 1
  else if o = 0x41 then some (2 ^ 40 - 1)
  else if o = 0x42 then some (2 ^ 28 - 1)
  else if o = 0x43 then some (2 ^ 29 - 1)
  else if o = 0x44 then some (2 ^ 51 - 1)
  else if o = 0x45 then some (2 ^ 22 - 1)
  else if o = 0x46 then some (2 ^ 18 - 1)
  else if o = 0x48 then some (2 ^ 32 - 1)
  else if o = 0x60 then some (2 ^ 34 - 1)
  else if o = 0x61 then some (2 ^ 34 - 1 - (2 ^ 20 - 2 ^ 19))
  else if o = 0x62 then some (2 ^ 34 - 1 - (2 ^ 20 - 2 ^ 16))
  else if o = 0x63 then some (2 ^ 8 - 1)
  else none

/-- Whether an opcode may stand in an engine's stream. -/
def opcodeIn (e o : Nat) : Bool :=
  o ≤ 4 || (e == 0 && 0x10 ≤ o && o ≤ 0x13) || (e == 1 && 0x20 ≤ o && o ≤ 0x23) || (e == 2 && 0x40 ≤ o && o ≤ 0x48) || (e == 3 && 0x60 ≤ o && o ≤ 0x63)

/-- Whether the fields of a word hold no reserved value. -/
def fieldsOk (w : BitVec 128) : Bool :=
  let o := wOpc w
  if o = 0x02 then fld w 27 16 != 0
  else if o = 0x13 then fld w 9 8 != 3
  else if o = 0x20 then (fld w 6 3 == 0 || 4 ≤ fld w 6 3) && fld w 42 41 != 3
  else if o = 0x41 then (readVop w).formed
  else if o = 0x42 ∨ o = 0x43 then fld w 15 14 != 3
  else if o = 0x46 then fld w 1 0 != 3 && (fld w 6 4 < 6) && !(fld w 1 0 == 0 && fld w 6 4 == 0)
  else if o = 0x61 then fld w 18 16 < 5
  else true

/-- Whether a word may stand in the stream of engine `e`. -/
def wordOk (e : Nat) (w : BitVec 128) : Bool :=
  match operandBits (wOpc w) with
  | none => false
  | some m => opcodeIn e (wOpc w) && wEng w == e && (fld w 95 0) &&& m == fld w 95 0 && fieldsOk w

/-- Descriptor operands of a word; 255 stands for none where the instruction allows none (R112, R134). -/
def descOps (w : BitVec 128) : List Nat :=
  let o := wOpc w
  let opt := fun (xs : List Nat) => xs.filter (fun d => d != 255)
  if o = 0x10 ∨ o = 0x22 ∨ o = 0x47 ∨ o = 0x60 ∨ o = 0x61 ∨ o = 0x62 then [fld w 7 0, fld w 15 8]
  else if o = 0x11 then fld w 7 0 :: opt [fld w 15 8]
  else if o = 0x12 then [fld w 15 8]
  else if o = 0x13 ∨ o = 0x42 ∨ o = 0x43 ∨ o = 0x63 then [fld w 7 0]
  else if o = 0x44 then opt [fld w 7 0, fld w 15 8, fld w 23 16, fld w 31 24]
  else []

/-! ## The checks of one tile (R124) -/

/-- A tile as the image leaves it: configuration block and STORE bytes over zeros, and which bytes STORE records write. -/
def TileImg.store (x : TileImg) : BMap :=
  x.stores.foldl (fun m r => BMap.writeBytes m r.1 r.2) (BMap.writeBytes [] cfgBase (x.config.getD []))
def TileImg.covers (x : TileImg) (a n : Nat) : Bool :=
  (List.range n).all (fun i => x.stores.any (fun r => decide (r.1 ≤ a + i) && decide (a + i < r.1 + r.2.length)))

/-- A word of a stream. -/
def TileImg.word (x : TileImg) (e i : Nat) : Option (BitVec 128) := Tbl.get none x.words (4096 * e + i)

/-- The words of a stream up to and with its END, none when an unwritten word comes first (R370). -/
def TileImg.stream (x : TileImg) (e : Nat) : Nat → Nat → Option (List (BitVec 128))
  | 0, _ => none
  | fuel + 1, i =>
    match x.word e i with
    | none => none
    | some w => if wOpc w = opEND then some [w] else (x.stream e fuel (i + 1)).map (fun ws => w :: ws)

/-- The configuration block's own rules (R123). SLOT_BYTES = 0 in a ring in use, a multiple of 256 that makes every slot one, is
refused (DESIGN CHOICE, assumption 186). -/
def Tile.configOk (t : Tile) : Bool :=
  let used := (List.range 16).filter (fun r => t.ringSlots r != 0)
  let slots := used.map (fun r => (t.ringBase r, t.ringSlots r * t.ringBytes r))
  let table := if t.descCount = 0 then [] else [(t.descBase, 64 * t.descCount)]
  t.descBase % 64 == 0 && decide (t.descBase + 64 * t.descCount ≤ cfgBase) && t.cfg 325 3 == 0 && t.cfg 464 560 == 0 &&
  (t.cfg 456 8 == 0 || (decide (1000000 ≤ t.cfg 456 8) && decide (t.cfg 456 8 ≤ 60000000000))) &&
  (List.range 16).all (fun r => t.cfg (75 + 16 * r) 5 == 0) &&
  used.all (fun r => t.ringSlots r ≤ 16 && t.ringBase r % 256 == 0 && t.ringBytes r % 256 == 0 && t.ringBytes r != 0 &&
    t.ringProducer r < 4 && t.ringConsumer r < 4) &&
  slots.all (fun r => decide (r.1 + r.2 ≤ cfgBase)) && disjointRanges (slots ++ table)

/-- Whether engine `e` may use ring `r`. -/
def Tile.ringFor (t : Tile) (e r : Nat) : Bool :=
  t.ringSlots r != 0 && t.ringProducer r != t.ringConsumer r && (t.ringProducer r == e || t.ringConsumer r == e)

/-- SEG markers of a stream: SEGMENT, STEP, REPLAYABLE. -/
def segsOf (ws : List (BitVec 128)) : List (Nat × Bool × Bool) :=
  ws.filterMap (fun w => if wOpc w = opSEG then some (fld w 15 0, w.getLsbD 16, w.getLsbD 17) else none)

/-- REPLAYs of a stream: the number of the segment they stand in (0 before any marker, else segment + 1), SEGMENT and
REBASE_SLOT. -/
def replaysOf : List (BitVec 128) → Nat → List (Nat × Nat × Nat)
  | [], _ => []
  | w :: ws, k =>
    if wOpc w = opSEG then replaysOf ws (k + 1)
    else if wOpc w = 0x03 then (k, fld w 15 0, fld w 19 16) :: replaysOf ws k
    else replaysOf ws k

/-- Loop bodies of a stream as (first, last) positions. -/
def loopsOf (ws : List (BitVec 128)) : List (Nat × Nat) :=
  ws.zipIdx.filterMap (fun p => if wOpc p.1 = 0x02 then some (p.2 + 1, p.2 + fld p.1 27 16) else none)

/-- Loops end inside their stream and one another, cross no SEG marker and nest at most 4 deep. -/
def loopsOk (ws : List (BitVec 128)) : Bool :=
  let ls := loopsOf ws
  let segs := (ws.zipIdx.filter (fun p => wOpc p.1 = opSEG)).map (·.2)
  ls.all (fun l => decide (l.2 < ws.length) && !segs.any (fun i => decide (l.1 ≤ i) && decide (i ≤ l.2)) &&
    (ls.filter (fun m => decide (m.1 ≤ l.1) && decide (l.1 ≤ m.2) && m != l)).all (fun m => decide (l.2 ≤ m.2)) &&
    decide ((ls.filter (fun m => decide (m.1 ≤ l.1) && decide (l.1 ≤ m.2))).length ≤ 4))

/-- REPLAY's rules (R133), for streams that share their markers. -/
def replaysOk (segs : List (Nat × Bool × Bool)) (rs : List (Nat × Nat × Nat)) : Bool :=
  rs.all (fun r => decide (r.2.1 + 1 < r.1) && (match segs[r.2.1]? with
    | some (_, step, rep) => rep && !step
    | none => false) && !rs.any (fun q => q.1 == r.2.1 + 1))

/-- Modes of the vector stream (R89): within a segment no instruction of the other mode. `first` is set until the segment's first
vector instruction. VSEED, to which R115 gives no mode, may stand in either (DESIGN CHOICE, assumption 187). -/
def modesOk : List (BitVec 128) → Bool → Bool → Bool
  | [], _, _ => true
  | w :: ws, stream, first =>
    let o := wOpc w
    if o = opSEG then modesOk ws false true
    else if o = 0x40 then (if first then modesOk ws (w.getLsbD 0) false else (w.getLsbD 0 == stream) && modesOk ws stream false)
    else if 0x41 ≤ o ∧ o ≤ 0x47 then ((o == 0x44) == stream) && modesOk ws stream false
    else if o = 0x48 then modesOk ws stream false
    else modesOk ws stream first

/-- FMT of a descriptor entry that STORE records write whole, none otherwise. -/
def TileImg.fmtOf (x : TileImg) (t : Tile) (d : Nat) : Option Nat :=
  if x.covers (t.descBase + 64 * d) 64 then some ((readDesc t.store (t.descBase + 64 * d)).fmt) else none

/-- Whether the formats a word names, in entries the image writes, are ones it allows (R35, R50). -/
def TileImg.formatsOk (x : TileImg) (t : Tile) (w : BitVec 128) : Bool :=
  let f := fun (d : Nat) (q : Nat → Bool) => match x.fmtOf t d with | some m => q m | none => true
  let o := wOpc w
  if o = 0x22 then f (fld w 7 0) (· < 4) && f (fld w 15 8) (· < 4)
  else if o = 0x42 then f (fld w 7 0) (fun m => m < 12 && vldOk m (fld w 12 8) (w.getLsbD 13) (fld w 15 14))
  else if o = 0x43 then f (fld w 7 0) (fun m => vstOk m (fld w 12 8) (w.getLsbD 13) (w.getLsbD 28) (fld w 15 14))
  else if o = 0x47 then f (fld w 7 0) (· == 9) && f (fld w 15 8) (fun m => m == 9 || m == 8 || m == 6)
  else if o = 0x44 then
    let a := fld w 50 32 * 8
    let rnd := if x.covers a 32 then (readStream t.store a).outctl % 4 else 0
    ([fld w 7 0, fld w 15 8, fld w 23 16].filter (· != 255)).all (fun d => f d streamIn) &&
      (fld w 31 24 == 255 || f (fld w 31 24) (fun m => streamOut m rnd))
  else true

/-- Whether a VSTREAM's record and plan, where the image writes them, are ones that R92 and R117 allow. -/
def TileImg.plansOk (x : TileImg) (t : Tile) (w : BitVec 128) : Bool :=
  let a := fld w 50 32 * 8
  if wOpc w ≠ 0x44 ∨ !x.covers a 32 then true
  else
    let r := readStream t.store a
    let have' := fun (c : Nat) => (c == 1 && fld w 7 0 != 255) || (c == 2 && fld w 15 8 != 255) || (c == 3 && fld w 23 16 != 255)
    r.formed && (!x.covers r.plan (8 * r.stages) || (readPlan t.store r).zipIdx.all (fun p => p.1.formed p.2 have'))

/-- Whether one tile's part of an image passes the loader (R124, R370). -/
def TileImg.ok (x : TileImg) : Bool :=
  let t : Tile := { store := x.store }
  let ws := (List.range 4).map (fun e => x.stream e 4096 0)
  let ss := ws.map (fun o => o.getD [])
  let all := ss.zipIdx.flatMap (fun p => p.1.map (fun w => (p.2, w)))
  let waits := all.filterMap (fun p => if wWaitEn p.2 then some (wWaitToken p.2, p.1) else none)
  let segs := segsOf (ss.headD [])
  x.config.isSome && t.configOk && ws.all Option.isSome &&
  x.words.all (fun e => match e.2 with | some w => wordOk (e.1 / 4096) w | none => true) &&
  waits.all (fun a => waits.all (fun b => a.1 != b.1 || a.2 == b.2)) &&
  all.all (fun p =>
    (!wAcqEn p.2 || t.ringFor p.1 (wAcqRing p.2)) && (!wRelEn p.2 || t.ringFor p.1 (wRelRing p.2)) &&
    (descOps p.2).all (fun d => decide (d < t.descCount) &&
      (let desc := readDesc t.store (t.descBase + 64 * d); !desc.ringEn || t.ringFor p.1 desc.ring)) &&
    x.formatsOk t p.2 && x.plansOk t p.2) &&
  ss.all (fun s => segsOf s == segs && loopsOk s && replaysOf s 0 == replaysOf (ss.headD []) 0) &&
  segs.zipIdx.all (fun p => p.1.1 == p.2) && replaysOk segs (replaysOf (ss.headD []) 0) && modesOk (ss.getD 2 []) false true

/-! ## LOAD_PROGRAM (R370) -/

/-- Tiles and ATPs an image names. -/
def Image2.tileNames (g : Image2) : List Nat := g.tiles.map (·.tile)
def Image2.atpNames (g : Image2) : List Nat := (g.atps.map (·.1)).eraseDups

/-- Whether a running program of the partition uses a multicast set. -/
def State.setInUse (s : State) (p k : Nat) : Bool :=
  (s.part p).programs.any (fun e => e.2.cmd.isSome && e.2.tiles.any (fun t =>
    (s.tile t).f.imem.any (fun i => (wOpc i.2 == opFMCAST || wOpc i.2 == opFRECV) && fld i.2 19 16 == k)))

/-- Programs of the partition that the image replaces: those holding its tiles or ATPs, and the one with its number. -/
def State.replaced (s : State) (p g : Nat) (m : Image2) : List Nat :=
  (s.part p).programs.filterMap (fun e =>
    if e.2.loaded && (e.1 == g || e.2.tiles.any m.tileNames.contains || e.2.atps.any m.atpNames.contains) then some e.1 else none)

/-- What the checks of an image read whole answer: its status, 0 when it may be loaded. -/
def State.imageCheck (s : State) (p g total : Nat) (bytes : BMap) : Nat × Image2 :=
  if !crcOk bytes total then (if total < headerBytes then stBAD_PARAM else stDATA_ERROR, {})
  else match parseImage bytes total with
    | none => (stBAD_PARAM, {})
    | some m =>
      let old := s.replaced p g m
      let kept := (s.part p).programs.filter (fun e => e.2.loaded && !old.contains e.1)
      if !(m.tiles.all (fun x => s.tileOf p x.tile && x.ok)) ∨ !(m.atpNames.all (fun n => s.atpOf p n)) ∨
          m.sets.any (fun k => (List.range 256).any (fun t => k.2.getLsbD t && !s.tileOf p t)) ∨ 8 ≤ kept.length then (stBAD_PARAM, m)
      else if old.any (fun k => (s.program p k).cmd.isSome) ∨ m.sets.any (fun k => s.setInUse p k.1) ∨ s.draining m.tileNames m.atpNames then (stBUSY, m)
      else (0, m)

/-- CONTROL of the descriptor entries that an image leaves unwritten takes its reset value 0 (R118, R124). -/
def TileImg.resetDescs (x : TileImg) (m : BMap) : BMap :=
  let t : Tile := { store := m }
  ((List.range t.descCount).filter (fun d => !x.stores.any (fun r =>
      decide (r.1 < t.descBase + 64 * (d + 1)) && decide (t.descBase + 64 * d < r.1 + r.2.length)))).foldl
    (fun m d => BMap.clear m (t.descBase + 64 * d + 60) 4) m

/-- A tile with its part of an image written: instruction memories, configuration block, STORE bytes, the reset values of
descriptor entries left unwritten; its table slots hold no table (R99). -/
def Tile.load (t : Tile) (p g : Nat) (x : TileImg) : Tile :=
  let imem := fun (e : Nat) => x.words.foldl (fun (m : Tbl (BitVec 128)) w =>
    if w.1 / 4096 = e then Tbl.set 0 m (w.1 % 4096) (w.2.getD 0) else m) []
  { t with
    program := some (p, g), tables := [], gated := false
    store := x.resetDescs (x.stores.foldl (fun m r => BMap.writeBytes m r.1 r.2) (BMap.writeBytes t.store cfgBase (x.config.getD [])))
    f := { imem := imem 0 }, m := { imem := imem 1 }, v := { imem := imem 2 }, s := { imem := imem 3 } }

/-- Writes a checked image. -/
def State.writeImage (s : State) (p g : Nat) (m : Image2) : State :=
  let s1 := forEach m.tiles s (fun x st => st.modTile x.tile (fun t => t.load p g x))
  let s2 := forEach m.atps s1 (fun r st => st.modAtp r.1 (fun a =>
    { a with program := some (p, g), jobs := BMap.writeBytes a.jobs r.2.1 r.2.2, gated := false }))
  let s3 := s2.modPart p (fun x => { x with sets := m.sets.foldl (fun t k => Tbl.set 0 t k.1 k.2) x.sets })
  let q : Program := { loaded := true, tiles := m.tileNames, atps := m.atpNames }
  (s3.setProgram p g q).traceDies q 8 g id

/-- Unloads the programs an image replaces. -/
def State.clearFor (s : State) (p g : Nat) (m : Image2) : State := forEach (s.replaced p g m) s (fun k st => st.unload p k)

/-- Ends a load whose image has been read a second time. -/
def State.loadEnd (s : State) (f n g total : Nat) (bytes : BMap) : State :=
  let r := s.imageCheck f g total bytes
  if r.1 ≠ 0 then s.finishCmd f n r.1
  else ((s.clearFor f g r.2).writeImage f g r.2).replyOk f n [r.2.tiles.length, r.2.atpNames.length]

/-- Reads a local image, verified, once its pages and stacks serve. -/
def State.loadDev (s : State) (f n a total : Nat) : State :=
  s.whenServed f [(a, total)] [] .read (.command f n) (fun st =>
    let g := st.readDev f a total true
    if g.status ≠ 0 then g.st.finishCmd f n g.status
    else g.st.loadEnd f n ((st.cmd f n).param 0 1) total (BMap.writeBytes [] 0 g.bytes))

/-- Carries on a load: a local image is read once it can be; of one in host the first reading is checked, then the named tiles
hold no program while the image is read again. -/
def State.loadOn (s : State) (f n : Nat) : State :=
  let c := s.cmd f n
  let g := c.param 0 1
  let total := c.param 16 8
  if c.reads ≠ 0 then s
  else if c.failed ≠ 0 then s.finishCmd f n c.failed
  else if c.stage = 3 then s.loadDev f n (c.param 8 8) total
  else if c.stage = 1 then
    let r := s.imageCheck f g total c.buf
    if r.1 ≠ 0 then s.finishCmd f n r.1
    else
      let s1 := (s.clearFor f g r.2).modCmd f n (fun x => { x with stage := 2, buf := [] })
      s1.hostRead f (c.param 8 8 % 2 ^ 63) total (.command f n)
  else s.loadEnd f n g total c.buf

/-- LOAD_PROGRAM. A local image is read and verified as device memory; a host image by host reads. -/
def execLoadProgram (fn slot : Nat) (s : State) : Out :=
  .next (if s.canTake fn slot opLOAD_PROGRAM then
      let s1 := s.take fn slot
      let c := s1.cmd fn slot
      let image := c.param 8 8
      let total := c.param 16 8
      if c.param 0 1 = 0 ∨ c.param 1 7 ≠ 0 ∨ total < headerBytes then s1.finishCmd fn slot stBAD_PARAM
      else match engineAddr image with
        | .dev a =>
          if a % 2048 ≠ 0 then s1.finishCmd fn slot stBAD_PARAM
          else if !s1.within fn a total then s1.finishCmd fn slot stDENIED
          else ((s1.beginCmd fn slot).modCmd fn slot (fun x => { x with stage := 3 })).loadDev fn slot a total
        | .host a =>
          if a % 8 ≠ 0 then s1.finishCmd fn slot stBAD_PARAM
          else if s1.hostStatus fn ≠ 0 then s1.finishCmd fn slot (s1.hostStatus fn)
          else ((s1.beginCmd fn slot).modCmd fn slot (fun x => { x with stage := 1 })).hostRead fn a total (.command fn slot)
        | _ => s1.finishCmd fn slot stBAD_PARAM
    else if s.inRun fn slot opLOAD_PROGRAM then s.loadOn fn slot else s)

end Sys2Proof.Machine
end

