-- ==== Sys2Proof/Machine/Chisel.lean ====
section
/-! DEFINITION. Chisel units (R203 to R228): operation records and their checks, row operations with their codes, lists and
their order, gate words, fences, and the rows CHISEL_RUN, CHSET, CHROW, CHACC, CHFNC, FENCE and SCFENCE. -/

namespace Sys2Proof.Machine

open Sys2Proof

/-! ## Gate words (R160, R308, R372) -/

/-- What a look at a gate word gives: a failure, its value, whether a remote read is under way. -/
structure GateSeen where
  status : Nat := 0
  value  : Option Nat := none
  asked  : Bool := false
  st     : State

/-- The status that the address of a gate word gives: 8-byte aligned, no host address (R142, R338), within the table (R29). -/
def State.gateStatus (s : State) (p w : Nat) : Nat :=
  if w % 8 ≠ 0 ∨ hostRun w then stBAD_PARAM else s.runStatus p w 8

/-- Reads a gate word: at once in this module, by a READ in another one. -/
def State.seeGate (s : State) (p w : Nat) (o : Owner) (asked : Bool) (waits : Nat) (buf : BMap) : GateSeen :=
  match s.localAddr w, engineAddr w with
  | some a, _ =>
    let x := s.ready p [(a, 8)] [] .read o
    if !x.1 then { st := x.2 }
    else
      let g := x.2.readDev p a 8 true
      { status := g.status, value := if g.status = 0 then some (leNat g.bytes) else none, st := g.st.endGrants o }
  | none, .remote i a =>
    if !asked then { asked := true, st := s.remoteRead (s.part p).domain i a 8 o true }
    else if waits ≠ 0 then { asked := true, st := s }
    else { value := some (BMap.readLe buf w 8), st := s }
  | none, _ => { status := stDENIED, st := s }

/-- Adds 1 to a gate word (R160), a memory-side S64 add: whether it is done, or sent to another module in the name of `away`. -/
def State.raiseGate (s : State) (p w : Nat) (o away : Owner) : Bool × Got :=
  match s.localAddr w, engineAddr w with
  | some a, _ =>
    let x := s.ready p [] [(a, 8)] .add o
    if !x.1 then (false, { st := x.2 })
    else
      let g := x.2.addGate p a
      (true, { g with st := g.st.endGrants o })
  | none, .remote i a => (true, { st := s.remoteAdd (s.part p).domain i a 4 (natLe 1 8) away })
  | none, _ => (true, { status := stDENIED, bad := w, st := s })

/-! ## Operation records (R206 to R208) -/

/-- The fields of an operation record. -/
structure OpRec where
  op    : Nat
  fmtS  : Nat
  fmtD  : Nat
  ctl   : Nat
  alpha : Nat
  beta  : Nat
  ea    : Nat
  eb    : Nat
  ed    : Nat
  dst   : Nat
  a     : Nat
  b     : Nat
  n     : Nat
  clean : Bool       -- its zero bytes are zero
  deriving DecidableEq, Repr, Inhabited

/-- Reads the 64 bytes of a record. -/
def readOpRec (bs : List Byte) : OpRec :=
  let f := fun o n => leNat ((bs.drop o).take n)
  { op := f 0 1, fmtS := f 1 1 % 16, fmtD := f 1 1 / 16, ctl := f 2 1, alpha := f 4 4, beta := f 8 4, ea := f 12 1, eb := f 13 1, ed := f 14 1,
    dst := f 16 8, a := f 24 8, b := f 32 8, n := f 40 8, clean := f 3 1 == 0 && f 15 1 == 0 && f 48 16 == 0 }

def OpRec.square (o : OpRec) : Bool := bit o.ctl 0
def OpRec.serial (o : OpRec) : Bool := bit o.ctl 2
def OpRec.isFence (o : OpRec) : Bool := o.op == 0x0D
def OpRec.isCvt (o : OpRec) : Bool := o.op == 8

/-- Operands that an operation reads (R207). -/
def OpRec.readsA (o : OpRec) : Bool := (1 ≤ o.op && o.op ≤ 8) || o.op == 0x0B || o.op == 0x0C
def OpRec.readsB (o : OpRec) : Bool := o.op == 1 || o.op == 2 || o.op == 3 || o.op == 5 || o.op == 6 || o.op == 7
def OpRec.readsD (o : OpRec) : Bool := o.op == 0x0C

/-- Formats an operation takes (R207): FP32 6, BF16 4, S32 7, S8 0. -/
def opFormats (op : Nat) : List Nat :=
  if op = 1 ∨ op = 2 ∨ op = 6 ∨ op = 7 ∨ op = 9 ∨ op = 0x0B then [6, 4, 7, 0]
  else if op = 3 ∨ op = 4 then [6, 4, 0]
  else if op = 5 ∨ op = 8 ∨ op = 0x0C then [6, 4]
  else if op = 0x0A then [6, 4, 7]
  else []

/-- Bytes of an element. -/
def chWidth (fmt : Nat) : Nat := if fmt = 0 then 1 else if fmt = 4 then 2 else 4

/-- Whether the fields follow R206 to R208. -/
def OpRec.formed (o : OpRec) : Bool :=
  o.clean && o.ctl < 8 &&
  (if o.isFence then o.fmtS == 0 && o.fmtD == 0 && o.dst == 0 && o.a == 0 && o.b == 0 && o.n == 0 && o.ea == 0 && o.eb == 0 && o.ed == 0
  else
    (opFormats o.op).contains o.fmtS && (if o.isCvt then o.fmtD == 10 - o.fmtS else o.fmtD == o.fmtS) &&
    1 ≤ o.n && o.n ≤ 2 ^ 36 && (o.readsA || o.a == 0) && (o.readsB || o.b == 0) &&
    (if o.fmtS = 0 then (if o.readsA then o.ea < 0xFF else o.ea == 0) && (if o.readsB then o.eb < 0xFF else o.eb == 0) && 1 ≤ o.ed && o.ed < 0xFF
     else o.ea == 0 && o.eb == 0 && o.ed == 0))

/-! ## Layout (R209 to R212) -/

/-- A relative row (R212). -/
def rowSpan : Nat := 2 ^ 23

/-- BF16 rows of a CVT, and its BF16 and FP32 addresses. -/
def OpRec.bfRows (o : OpRec) : Nat := ceilDiv (2 * o.n) rowSpan
def OpRec.bfAddr (o : OpRec) : Nat := if o.fmtS = 4 then o.a else o.dst
def OpRec.fpAddr (o : OpRec) : Nat := if o.fmtS = 4 then o.dst else o.a

/-- Rows of the wide-striped operand that hold elements (R210). -/
def OpRec.fpRows (o : OpRec) : Nat := 2 * o.bfRows - (if o.n ≤ (o.bfRows - 1) * (rowSpan / 2) + 512 then 1 else 0)

/-- The relative rows a record spans (R212). -/
def OpRec.rows (o : OpRec) : Nat :=
  if o.isFence then 0
  else if o.isCvt then (if o.fmtS = 4 then 2 * o.bfRows else o.bfRows)
  else ceilDiv (o.dst % rowSpan + o.n * chWidth o.fmtD) rowSpan

/-- The stack of an address. -/
def stackAt (a : Nat) : Nat := a / 2 ^ 37

/-- Addresses of element 0 of the destination and of the operands it reads. -/
def OpRec.bases (o : OpRec) : List Nat := [o.dst] ++ (if o.readsA then [o.a] else []) ++ (if o.readsB then [o.b] else [])

/-- Whether a record follows R209 or R210. -/
def State.layoutOk (s : State) (p : Nat) (o : OpRec) : Bool :=
  o.bases.all (fun x => decide (x < 2 ^ 47) && (s.part p).inWindow x 1 && stackAt x == stackAt o.dst) &&
  (if o.isCvt then
    o.dst % rowSpan == 0 && o.a % rowSpan == 0 &&
      !overlaps (o.bfAddr, o.bfRows * rowSpan) (o.fpAddr, o.fpRows * rowSpan)
  else
    let len := o.n * chWidth o.fmtS
    o.bases.all (fun x => x % rowSpan == o.dst % rowSpan && x % chWidth o.fmtS == 0 &&
      o.bases.all (fun y => x == y || !overlaps (x, len) (y, len))))

/-- Whether every byte of its ranges is within the partition table (R211). -/
def State.recordWithin (s : State) (p : Nat) (o : OpRec) : Bool :=
  if o.isCvt then
    let rest := 2 * o.n - (o.bfRows - 1) * rowSpan
    (s.part p).inWindow o.bfAddr ((o.bfRows - 1) * rowSpan + rest) && (s.part p).inWindow o.fpAddr (o.fpRows * rowSpan)
  else o.bases.all (fun x => (s.part p).inWindow x (o.n * chWidth o.fmtS))

/-- The check of a record (R211): 0, BAD_PARAM or DENIED. -/
def State.recordCheck (s : State) (p : Nat) (o : OpRec) : Nat :=
  if !o.formed then stBAD_PARAM
  else if o.isFence then 0
  else if !s.layoutOk p o then stBAD_PARAM
  else if !s.recordWithin p o then stDENIED
  else 0

/-- One row operation: its destination block, the bytes it writes there, the rows of A and B it reads, whether it reads the
destination, and which half of the BF16 row it converts. -/
structure RowOp where
  dest  : Nat
  lo    : Nat
  hi    : Nat
  rowsA : List Nat := []
  rowB  : Option Nat := none
  readD : Bool := false
  half  : Nat := 0
  deriving DecidableEq, Repr

/-- The row operation of a record in relative row `r` of a bank slot (R212), none when the slot holds no part of it. -/
def OpRec.rowOp (o : OpRec) (r slot : Nat) : Option RowOp :=
  if o.isFence then none
  else if o.isCvt then
    let wide := o.fmtS = 4
    let i0 := if wide then (r / 2 * 4096 + slot) * 1024 + r % 2 * 512 else (r * 4096 + slot) * 1024
    let per := if wide then 512 else 1024
    if o.n ≤ i0 then none
    else
      let cnt := min per (o.n - i0)
      some {
        dest := o.dst + r * rowSpan + slot * 2048, lo := 0, hi := cnt * (2048 / per), half := if wide then r % 2 else 0
        rowsA := if wide then [o.a + r / 2 * rowSpan + slot * 2048]
          else [o.a + 2 * r * rowSpan + slot * 2048] ++ (if 512 < cnt then [o.a + (2 * r + 1) * rowSpan + slot * 2048] else [])
        readD := cnt < per }
  else
    let blk := o.dst / rowSpan * rowSpan + r * rowSpan + slot * 2048
    let lo := max o.dst blk
    let hi := min (o.dst + o.n * chWidth o.fmtD) (blk + 2048)
    if hi ≤ lo then none
    else some {
      dest := blk, lo := lo - blk, hi := hi - blk
      rowsA := if o.readsA then [blk + o.a - o.dst] else [], rowB := if o.readsB then some (blk + o.b - o.dst) else none
      readD := o.readsD || decide (hi - lo < 2048) }

/-- The next relative row, from `d` on, in which a bank slot takes part. -/
def OpRec.nextRow (o : OpRec) (slot d : Nat) : Option Nat := findFrom (fun r => (o.rowOp r slot).isSome) d (o.rows - d)

/-! ## Element arithmetic (R207, R208) -/

/-- A result with INVALID when it is NaN though no operand is. -/
def settleNan (operands : List Val) (r : Val) : Val × BitVec 6 := (r, nanFlag (operands.any Val.isNan) r)

/-- The exact value of an element's result from the exact operands; the floating and S8 operations of R207. -/
def OpRec.exact (o : OpRec) (a b d : Val) : Val × BitVec 6 :=
  let al := f32 o.alpha
  let be := f32 o.beta
  if o.op = 1 then settleNan [a, b] (Val.add a b).1
  else if o.op = 2 then settleNan [a, b] (Val.add a b.neg).1
  else if o.op = 3 then settleNan [al, a, b] (Val.fma al a b).1
  else if o.op = 4 then settleNan [al, a] (Val.mul al a).1
  else if o.op = 5 then settleNan [a, b, al] (Val.fma a b al).1
  else if o.op = 6 then (Val.max a b, 0)
  else if o.op = 7 then (Val.min a b, 0)
  else if o.op = 9 then (.fin false 0 0, 0)
  else if o.op = 0x0A then (al, 0)
  else if o.op = 0x0C then
    let a' := if o.square then (Val.mul a a).1 else a
    settleNan [be, d, a] (Val.add (Val.mul be d).1 (Val.mul (Val.add (.fin false 1 0) be.neg).1 a').1).1
  else (a, 0)

/-- S32 results (R207): two's complement, wrapping. -/
def OpRec.s32 (o : OpRec) (a b : Nat) : Nat :=
  let r : Int :=
    if o.op = 1 then signed 32 a + signed 32 b
    else if o.op = 2 then signed 32 a - signed 32 b
    else if o.op = 6 then max (signed 32 a) (signed 32 b)
    else if o.op = 7 then min (signed 32 a) (signed 32 b)
    else if o.op = 9 then 0
    else if o.op = 0x0A then o.alpha
    else signed 32 a
  unsigned 32 r

/-- An exact result written to a uniformly scaled S8 destination (R208). -/
def toS8 (ed : Nat) (r : Val × BitVec 6) : Num :=
  match r.1 with
  | .nan => { val := 0, flags := fINVALID }
  | .inf neg => { val := if neg then 129 else 127, flags := r.2 ||| fSATURATE }
  | .fin neg m e =>
    let n := (roundAt .rne 1 m (e + 127 - ed) 0).1
    let q := min n 127
    { val := if neg then unsigned 8 (-(q : Int)) else q, flags := r.2 ||| (if n ≤ 127 then 0 else fSATURATE) }

/-- One element's result from the stored bits of its operands; policy Z turns a written −0 into +0 (R59). -/
def OpRec.elem (o : OpRec) (z : Bool) (a b d : Nat) : Num :=
  if o.fmtS = 7 then { val := o.s32 a b }
  else if o.fmtS = 0 then toS8 o.ed (o.exact (scaledVal 0 a o.ea) (scaledVal 0 b o.eb) (.fin false 0 0))
  else
    let r := o.exact (elemVal o.fmtS a 0) (elemVal o.fmtS b 0) (elemVal o.fmtD d 0)
    let n := toFmt o.fmtD .rne 1 r.1
    { n with val := policyWrite z o.fmtD n.val, flags := n.flags ||| r.2 }

/-- Element `i` of `w` bytes of a row. -/
def elemAt (w i : Nat) (row : List Byte) : Nat := leNat ((row.drop (w * i)).take w)

/-- The bytes a row operation writes, from the rows it has read (A rows joined), and its flags. -/
def OpRec.compute (o : OpRec) (z : Bool) (x : RowOp) (rowA rowB rowD : List Byte) : List Byte × BitVec 6 :=
  let w := chWidth o.fmtD
  (List.range ((x.hi - x.lo) / w)).foldl (fun acc j =>
    let i := x.lo / w + j
    let ai := if o.isCvt ∧ o.fmtS = 4 then 512 * x.half + i else i
    let r := o.elem z (elemAt (chWidth o.fmtS) ai rowA) (elemAt w i rowB) (elemAt w i rowD)
    (acc.1 ++ natLe r.val w, acc.2 ||| r.flags)) ([], 0)

/-! ## Row operations (R215 to R218) -/

/-- Reads one whole row for a row operation (R216), inside the bank: whether it is bad, its bytes, the state. The row operation is
one activation of the bank, counted once (R197), and its rows do not cross the interface (R192). -/
def State.readRow (s : State) (a : Nat) : Bool × List Byte × State :=
  let r := s.senseBlock (a / 2048 * 2048) 2048 true none false
  (r.1 != 0, BMap.readBytes r.2.2.mem (a / 2048 * 2048) 2048, r.2.2)

/-- The outcome of a row operation: whether it failed, its flags, the state. -/
structure RowDone where
  failed : Bool := false
  cause  : Nat := 0
  flags  : BitVec 6 := 0
  st     : State

/-- Carries a row operation out: a bad input row poisons the destination with CAUSE 0x3, a bad destination that was read is
left poisoned, and otherwise the row is written with fresh codes. -/
def State.doRow (s : State) (o : OpRec) (z : Bool) (x : RowOp) : RowDone :=
  let a := x.rowsA.foldl (fun (acc : Bool × List Byte × State) r =>
    let g := acc.2.2.readRow r
    (acc.1 || g.1, acc.2.1 ++ g.2.1, g.2.2)) (false, [], s)
  let b := match x.rowB with
    | some r => a.2.2.readRow r
    | none => (false, [], a.2.2)
  let d := if x.readD then b.2.2.readRow x.dest else (false, [], b.2.2)
  let st := d.2.2
  if (st.stack (stackAt x.dest)).mode == .failed then { failed := true, st := st }
  else if d.1 then { failed := true, cause := (st.block x.dest).cause, st := st }
  else if a.1 || b.1 then { failed := true, cause := 3, st := st.poison x.dest 3 }
  else
    let r := o.compute z x a.2.1 b.2.1 d.2.1
    { flags := r.2, st := ({ st with mem := BMap.writeBytes st.mem (x.dest + x.lo) r.1 }).setBlock x.dest {} }

/-! ## Lists (R205, R213, R222, R225) -/

def ChiselList.rec' (l : ChiselList) (i : Nat) : OpRec := readOpRec (l.records.getD i [])
def ChiselList.progress (l : ChiselList) (i slot : Nat) : Nat := Tbl.get 0 l.done (i * 4096 + slot)

/-- The next relative row of record `i` in a bank slot. -/
def ChiselList.nextAt (l : ChiselList) (i slot : Nat) : Option Nat := (l.rec' i).nextRow slot (l.progress i slot)

/-- Whether record `i` has ended in every bank slot. -/
def ChiselList.ended (l : ChiselList) (i : Nat) : Bool :=
  if (l.rec' i).isFence then l.fenced.contains i
  else (List.range 4096).all (fun b => (l.nextAt i b).isNone)

/-- The first FENCE of the list that has not ended, or the list's length: the records below it are accepted by the stacks. -/
def ChiselList.accepted (l : ChiselList) : Nat :=
  ((List.range l.records.length).find? (fun i => (l.rec' i).isFence && !l.fenced.contains i)).getD l.records.length

/-- The record and relative row that a bank slot of stack `k` runs next, among the records from `i` on (R213, R222). -/
def ChiselList.dueFrom (l : ChiselList) (k slot : Nat) : Nat → Nat → Option (Nat × Nat)
  | 0, _ => none
  | fuel + 1, i =>
    if l.accepted ≤ i then none
    else
      let o := l.rec' i
      match (if stackAt o.dst = k then l.nextAt i slot else none) with
      | none => l.dueFrom k slot fuel (i + 1)
      | some r => if o.serial ∧ i ≠ 0 ∧ !l.ended (i - 1) then none else some (i, r)

def ChiselList.due (l : ChiselList) (k slot : Nat) : Option (Nat × Nat) := l.dueFrom k slot l.records.length 0

/-- Records that the stacks have accepted from the lists of a partition and that have not ended. -/
def State.acceptedRecords (s : State) (p : Nat) : List (Nat × Nat) :=
  (s.chisel.filter (fun l => l.pt == p)).flatMap (fun l => ((List.range l.accepted).filter (fun i => !l.ended i)).map (fun i => (l.id, i)))

/-- Whether a record of a list has ended; a list that is gone has no work left. -/
def State.recordEnded (s : State) (id i : Nat) : Bool :=
  match s.chisel.find? (fun l => l.id == id) with
  | some l => l.ended i
  | none => true

/-- The broadcast step that a record has reached: the least relative row that some bank slot has to run (R212); its row count when it
has ended. -/
def ChiselList.steps (l : ChiselList) (i : Nat) : Nat :=
  (List.range 4096).foldl (fun m b => min m ((l.nextAt i b).getD (l.rec' i).rows)) (l.rec' i).rows

/-- Whether a list has a row operation to make now in a pseudo-channel: one of the step its record has reached. -/
def ChiselList.waitsAt (l : ChiselList) (k pc : Nat) : Bool :=
  (List.range 64).any (fun c => match l.due k (pc + 64 * c) with
    | some (i, r) => l.steps i == r
    | none => false)

/-- The list whose turn it is in a pseudo-channel: lists interleave step by step, in arrival order, and every list is of class 2
(R205, R213). The one that has waited longest comes first (DESIGN CHOICE, assumption 192). -/
def State.turnAt (s : State) (k pc : Nat) : Option ChiselList :=
  (s.chisel.filter (fun l => l.waitsAt k pc)).foldl (fun (best : Option ChiselList) l => match best with
    | none => some l
    | some b => if Tbl.get 0 l.turns (k * 64 + pc) < Tbl.get 0 b.turns (k * 64 + pc) then some l else best) none

/-- The turn of a list that has just been served. -/
def State.nextTurn (s : State) (k pc : Nat) : Nat := s.chisel.foldl (fun m l => max m (Tbl.get 0 l.turns (k * 64 + pc))) 0 + 1

/-- Changes one list. -/
def State.modList (s : State) (id : Nat) (g : ChiselList → ChiselList) : State :=
  { s with chisel := s.chisel.map (fun l => if l.id = id then g l else l) }

/-- A FENCE that its list reaches waits for the records accepted before it (R222). -/
def State.reachFence (s : State) (id : Nat) : State :=
  match s.chisel.find? (fun l => l.id == id) with
  | none => s
  | some l =>
    if l.accepted < l.records.length ∧ !l.before.any (fun b => b.1 == l.accepted) then
      s.modList id (fun x => { x with before := x.before ++ [(l.accepted, s.acceptedRecords l.pt)] })
    else s

/-- The result words of R372. -/
def ChiselList.results (l : ChiselList) : List Nat :=
  let n := ((List.range l.records.length).find? (fun i => !l.ended i)).getD l.records.length
  [l.flags.toNat + l.failed % 2 ^ 32 * 2 ^ 32, l.firstBad, n, if n < l.records.length then l.steps n else 0]

/-- Brings a list's results into its command, and ends the command when every record has ended: the done gate, then DATA_ERROR
when a row failed (R218, R372). -/
def State.closeList (s : State) (id : Nat) : State :=
  match s.chisel.find? (fun l => l.id == id) with
  | none => s
  | some l =>
    let s1 := s.modCmd l.fn l.slot (fun c => { c with result := l.results.map (BitVec.ofNat 64) })
    if (List.range l.records.length).all l.ended then
      let c := s1.cmd l.fn l.slot
      let o : Owner := .command l.fn l.slot
      let (done, g) := if c.param 32 8 = 0 ∨ c.failed ≠ 0 then (true, { status := c.failed, st := s1 }) else s1.raiseGate l.pt (c.param 32 8) o o
      if !done then g.st
      else
        let s2 := { g.st with chisel := g.st.chisel.filter (fun x => x.id != id) }
        (s2.finishCmd l.fn l.slot (if l.failed ≠ 0 then stDATA_ERROR else g.status)).endAt l.fn l.slot l.lastEnd
    else s1.reachFence id

/-! ## CHISEL_RUN (R372) -/

/-- Reads and checks the list, then starts it (R211). -/
def State.beginList (s : State) (f n : Nat) : State :=
  let c := s.cmd f n
  let list := c.param 0 8
  let count := c.param 8 4
  if !s.answers f list (64 * count) then s.modCmd f n (fun x => { x with stage := 3 })
  else
    let g := s.readStack list (64 * count) true
    if g.status ≠ 0 then
      (g.st.error pHIF { status := g.status, cls := cREQUEST, unit := 7, unitId := 64 * stackAt g.bad + bits g.bad 16 11, pt := f, addr := g.bad,
                         detail := blockDetail g.bad g.cause, fn := f, slot := n, tag := c.tag }).finishCmd f n g.status
    else
      let recs := (List.range count).map (fun i => (g.bytes.drop (64 * i)).take 64)
      match (recs.map (fun r => g.st.recordCheck f (readOpRec r))).find? (fun x => x != 0) with
      | some st => g.st.finishCmd f n st
      | none =>
        let l : ChiselList := { id := g.st.nextList, pt := f, fn := f, slot := n, records := recs }
        let s1 := { g.st with chisel := g.st.chisel ++ [l], nextList := g.st.nextList + 1 }
        (s1.modCmd f n (fun x => { x with stage := 4 })).closeList l.id

/-- A poll of the gate of CHISEL_RUN (R160). -/
def State.pollChisel (s : State) (f n : Nat) : State :=
  let c := s.cmd f n
  let w := c.param 16 8
  if c.failed ≠ 0 then s.finishCmd f n c.failed
  else
  let g := s.seeGate f w (.command f n) (c.stage == 2) c.reads c.buf
  if g.status ≠ 0 then g.st.finishCmd f n g.status
  else match g.value with
    | none => g.st.modCmd f n (fun x => { x with stage := if g.asked then 2 else 1 })
    | some v => if c.param 24 8 ≤ v then g.st.beginList f n else g.st.modCmd f n (fun x => { x with stage := 1 })

/-- Check 6 of CHISEL_RUN. -/
def State.chiselCheck (s : State) (f : Nat) (c : Cmd) : Nat :=
  let gates := [c.param 16 8, c.param 32 8].filter (fun w => w != 0)
  let bad := gates.map (s.gateStatus f)
  if c.param 0 8 % 64 ≠ 0 ∨ c.param 8 4 = 0 ∨ 4096 < c.param 8 4 ∨ !c.zeros [(12, 4)] ∨ 20 * 2 ^ 37 ≤ c.param 0 8 ∨ bad.contains stBAD_PARAM then
    stBAD_PARAM
  else if !(s.part f).inWindow (c.param 0 8) (64 * c.param 8 4) then stDENIED
  else (bad.find? (fun x => x != 0)).getD 0

/-- CHISEL_RUN: its checks, then the gate, then the list, whose records end it; a done gate that must wait for its page is tried again. -/
def execChiselRun (fn slot : Nat) (s : State) : Out :=
  .next (if s.canTake fn slot opCHISEL_RUN then
      let s1 := s.take fn slot
      let st := s1.chiselCheck fn (s1.cmd fn slot)
      if st ≠ 0 then s1.finishCmd fn slot st
      else
        let s2 := (s1.beginCmd fn slot).modCmd fn slot (fun c => { c with stage := 1, result := [0, 0, 0, 0] })
        if (s2.cmd fn slot).param 16 8 = 0 then s2.beginList fn slot else s2.pollChisel fn slot
    else if s.inRun fn slot opCHISEL_RUN && (s.cmd fn slot).stage == 3 then s.beginList fn slot
    else if s.inRun fn slot opCHISEL_RUN && (s.cmd fn slot).stage == 4 then
      (match s.chisel.find? (fun l => l.fn == fn && l.slot == slot) with
      | some l => s.closeList l.id
      | none => s)
    else s)

/-! ## Commands on the bond (R214) -/

/-- CHSET: loads the setup latch of a pseudo-channel. -/
def execChset (stack pc : Nat) (setup : ChiselSetup) (s : State) : Out :=
  .next (if stack < 20 && pc < 64 && (s.stack stack).mode == .service then
    s.modStack stack (fun x => { x with latch := Tbl.set default x.latch pc setup }) else s)

/-- The setup a record needs in the latch. -/
def OpRec.setup (o : OpRec) : ChiselSetup :=
  { op := BitVec.ofNat 8 o.op, fmts := BitVec.ofNat 8 (o.fmtS + 16 * o.fmtD), ctl := BitVec.ofNat 8 o.ctl, alpha := BitVec.ofNat 32 o.alpha,
    beta := BitVec.ofNat 32 o.beta, ea := BitVec.ofNat 8 o.ea, eb := BitVec.ofNat 8 o.eb, ed := BitVec.ofNat 8 o.ed, base := stackAt o.dst }

/-- Enables of the elements of one 32-byte column that `[lo, hi)` of the row covers; an enable of a 1-byte element covers two. -/
def columnEnables (w lo hi col : Nat) : BitVec 16 :=
  let g := max w 2
  BitVec.ofNat 16 (((List.range 16).filter (fun i => decide (g * i < 32) && decide (lo < 32 * col + g * (i + 1)) &&
    decide (32 * col + g * i < hi))).foldl (fun m i => m + 2 ^ i) 0)

/-- The row of an address within its bank slot (R203). -/
def rowAt (a : Nat) : Nat := bits a 36 23

/-- The fields of the CHROW that a row operation needs, its masks apart. -/
def RowOp.fields (x : RowOp) (w : Nat) (sid : BitVec 4) (bank : BitVec 16) : ChiselRow :=
  { sidMask := sid, bankMask := bank, rowD := rowAt x.dest, rowA := ((x.rowsA.head?).map rowAt).getD 0, rowB := (x.rowB.map rowAt).getD 0,
    colFirst := x.lo / 32, enFirst := columnEnables w x.lo x.hi (x.lo / 32), colLast := (x.hi - 1) / 32, enLast := columnEnables w x.lo x.hi ((x.hi - 1) / 32) }

/-- The bank slots that a CHROW selects on a pseudo-channel (R180, R203, R214). -/
def rowSlots (r : ChiselRow) (pc : Nat) : List Nat :=
  (List.range 64).filterMap (fun i => if r.sidMask.getLsbD (i / 16) && r.bankMask.getLsbD (i % 16) then some (pc + 64 * (i % 16) + 1024 * (i / 16)) else none)

/-- The record of a list that a CHROW serves: the selected bank slots are those of the pseudo-channel that run the step its record
has reached with the fields of the command, for the slots act together (R212), and the latch holds its setup. -/
def State.serves (s : State) (k pc : Nat) (row : ChiselRow) (l : ChiselList) : Option (Nat × Nat) :=
  match rowSlots row pc with
  | [] => none
  | b :: bs =>
    match l.due k b with
    | none => none
    | some (i, r) =>
      let o := l.rec' i
      let fits := fun c => l.due k c == some (i, r) && (match o.rowOp r c with
        | some x => x.fields (chWidth o.fmtD) row.sidMask row.bankMask == row
        | none => false)
      if (List.range 64).all (fun c => fits (pc + 64 * c) == (b :: bs).contains (pc + 64 * c)) && l.steps i == r &&
          Tbl.get default (s.stack k).latch pc == o.setup then some (i, r) else none

/-- One bank slot's row operation of a list, with its failure counted and recorded (R218). -/
def State.runRow (s : State) (k pc id i r slot : Nat) : State :=
  match s.chisel.find? (fun l => l.id == id) with
  | none => s
  | some l =>
    match (l.rec' i).rowOp r slot with
    | none => s
    | some x =>
      let d := (s.activate x.dest).doRow (l.rec' i) (s.policyZ l.pt) x
      let (w, s0) := d.st.stamp (.hbmPhy k)
      let s1 := s0.modList id (fun y => { y with
        lastEnd := some (max w (y.lastEnd.getD 0))
        done := Tbl.set 0 y.done (i * 4096 + slot) (r + 1), flags := y.flags ||| d.flags
        failed := if d.failed then y.failed + 1 else y.failed, firstBad := if d.failed ∧ y.failed = 0 then x.dest else y.firstBad })
      if d.failed then
        s1.error (pDCTL (dieOfStack k)) { status := stDATA_ERROR, cls := cREQUEST, unit := 7, unitId := 64 * k + pc, pt := l.pt, addr := x.dest,
                                          detail := blockDetail x.dest d.cause, fn := l.fn, slot := l.slot, tag := (s1.cmd l.fn l.slot).tag }
      else s1

/-- Ordinary requests that wait at a pseudo-channel: re-reads, of class 1, with the requests of class 0 and 1, and those of class 2
and 3 that the regulator admits (R219). -/
def State.waitersAt (s : State) (k pc : Nat) : Nat × Nat :=
  let x := s.stack k
  let here := fun (a : Nat) => bits a 16 11 == pc
  let hs := x.held.filter (fun h => here h.op.addr && s.stackOwner k == h.pt && (h.cls < 2 || decide ((h.bytes : Int) ≤ s.bucketNow k h.pt)))
  ((x.rereads.filter (fun r => here r.1)).length + (hs.filter (fun h => h.cls < 2)).length, (hs.filter (fun h => 2 ≤ h.cls)).length)

/-- CHROW: one row operation in every selected bank, for the list whose turn it is; none begins at level L5 or under the clamp (R226,
R400), nor while an ordinary request waits at the pseudo-channel, of which BATCH lets those of class 2 and 3 wait for up to 8 row
operations (R219). -/
def execChrow (stack pc : Nat) (row : ChiselRow) (s : State) : Out :=
  .next (if stack < 20 && pc < 64 && s.stackUp stack && !s.rowsHeld stack then
    match s.turnAt stack pc with
    | none => s
    | some l => match s.serves stack pc row l with
      | none => s
      | some (i, r) =>
        let n := s.waitersAt stack pc
        let batch := bit (l.rec' i).ctl 1 && n.1 == 0 && decide (Tbl.get 0 (s.stack stack).batch pc < 8)
        if n.1 + n.2 ≠ 0 && !batch then s
        else
          let s1 := (s.modStack stack (fun x => { x with batch := Tbl.set 0 x.batch pc (if n.2 = 0 then 0 else Tbl.get 0 x.batch pc + 1) })).modList
            l.id (fun y => { y with turns := Tbl.set 0 y.turns (stack * 64 + pc) (s.nextTurn stack pc) })
          (forEach (rowSlots row pc) s1 (fun b st => st.runRow stack pc l.id i r b)).closeList l.id
  else s)

/-- The ADDFMT of an accumulate in a format (R223). -/
def accFormat (fmt : Nat) : Option Nat := if fmt = 6 then some 0 else if fmt = 4 then some 1 else if fmt = 7 then some 3 else none

/-- CHACC: the bank verifies the block, adds the enabled elements of the column and rewrites the block (R224), one row operation of
which the regulator counts the data (R192) and which L5 and the clamp hold (R226). The latch's format applies; a bad block is
poisoned with CAUSE 0x3. -/
def execChacc (stack pc row col bank : Nat) (enable : BitVec 16) (data : List Byte) (s : State) : Out :=
  let a := stack * 2 ^ 37 + row * rowSpan + (bank / 16 * 1024 + bank % 16 * 64 + pc) * 2048 + 32 * col
  let p := s.stackOwner stack
  .next (match accFormat ((Tbl.get default (s.stack stack).latch pc).fmts.toNat % 16) with
  | none => s
  | some f =>
    if stack < 20 && pc < 64 && bank < 64 && row < 9216 && col < 64 && data.length == 32 && s.stackUp stack && !s.rowsHeld stack then
      let w := addBytes f
      let masked := (List.range 32).map (fun i => if enable.getLsbD (i / w) then data.getD i 0 else 0)
      let r := ((s.activate a).charge a 32).changeBlock a 32 3 false (fun old =>
        let sum := (addRun f w (s.policyZ p) 32 old masked).1
        ((List.range 32).map (fun i => if enable.getLsbD (i / w) then sum.getD i 0 else old.getD i 0), 0)) false
      if r.1 ≠ 0 then
        r.2.2.2.error (pDCTL (dieOfStack stack)) { status := r.1, cls := cREQUEST, unit := 7, unitId := 64 * stack + pc, pt := p, addr := a,
                                                   detail := blockDetail a r.2.1 }
      else r.2.2.2
    else s)

/-! ## Fences (R221, R222) -/

/-- Whether record `i` of a list has a row operation to come that reads or writes one of the blocks, in a pseudo-channel. -/
def ChiselList.touches (l : ChiselList) (i pc : Nat) (blocks : List Nat) : Bool :=
  let o := l.rec' i
  blocks.any (fun b =>
    let slot := b / 2048 % 4096
    slot % 64 == pc && stackAt b == stackAt o.dst &&
      (List.range o.rows).any (fun r => decide (l.progress i slot ≤ r) &&
        ((o.rowOp r slot).map (fun x => x.dest == b || x.rowsA.contains b || x.rowB == some b)).getD false))

/-- The blocks of a view of local device addresses. -/
def View.blocks (v : View) : List Nat := (v.spans.flatMap (fun r => (spansOf blockSize r.1 r.2).map (fun c => c.1 / 2048 * 2048))).eraseDups

/-- What an SCFENCE that issues now waits for. -/
def State.fenceMarks (s : State) (p : Nat) (blocks : List Nat) : List (Nat × Nat × Nat) :=
  (s.acceptedRecords p).flatMap (fun e => match s.chisel.find? (fun l => l.id == e.1) with
    | none => []
    | some l => ((List.range 64).filter (fun pc => l.touches e.2 pc blocks)).map (fun pc => (e.1, e.2, pc)))

/-- SCFENCE: a local view below the tier shares of granted stacks; it waits for the accepted work on its rows. -/
def execScfence (tile : Nat) (s : State) : Out :=
  s.issue tile .S 0x63 (fun _ _ => true) (fun w id st =>
    let p := st.tilePart tile
    match (st.tile tile).view .S (fld w 7 0) with
    | none => st.programFault tile .S .descriptor
    | some v =>
      if v.ts || v.spans.any (fun r => match engineAddr r.1 with | .dev _ => false | _ => true) then st.programFault tile .S .spaces
      else match v.spans.find? (fun r => !(st.part p).inWindow r.1 r.2) with
        | some r => st.tileFault tile .S stDENIED r.1
        | none =>
          let m := st.fenceMarks p v.blocks
          st.modFlight tile .S id (fun f => { f with src := some v, marks := m, ran := m.isEmpty }))

/-- Drops the marks of a fence that a pseudo-channel of a stack no longer holds. -/
def State.dropMarks (s : State) (k pc : Nat) (f : Flight) : Flight :=
  let blocks := (f.src.map View.blocks).getD []
  let left := f.marks.filter (fun m => !(m.2.2 == pc && (match s.chisel.find? (fun l => l.id == m.1) with
    | none => true
    | some l => stackAt (l.rec' m.2.1).dst == k && !l.touches m.2.1 pc blocks)))
  if f.marks.isEmpty then f else { f with marks := left, ran := left.isEmpty }

/-- CHFNC: returns for a pseudo-channel; fences that wait on it lose what has ended there. -/
def execChfnc (stack pc : Nat) (s : State) : Out :=
  .next (if stack < 20 && pc < 64 then
    { s with tiles := Tbl.mapV {} (fun (t : Tile) =>
      { t with s := { t.s with flights := t.s.flights.map (s.dropMarks stack pc) } }) s.tiles }
  else s)

/-- FENCE: the list's next FENCE ends when every record accepted before it was reached has ended. -/
def execFence (list : Nat) (s : State) : Out :=
  .next (match s.chisel.find? (fun l => l.id == list) with
  | none => s
  | some l =>
    match l.before.find? (fun b => b.1 == l.accepted) with
    | none => s
    | some b =>
      if b.2.all (fun e => s.recordEnded e.1 e.2) then
        (s.modList list (fun x => { x with fenced := x.fenced ++ [l.accepted] })).closeList list
      else s)

end Sys2Proof.Machine
end

