-- ==== Sys2Proof/Machine/Complete.lean ====
section
/-! DEFINITION. The completion of tile instructions in issue order, with their ring credits and signals (R108, R109, R127,
R128). -/

namespace Sys2Proof.Machine

open Sys2Proof

/-- Tries again every instruction of an engine whose work waits for data, the tier or a stack. -/
def State.retryFlights (s : State) (t : Nat) (e : Engine) : State :=
  forEach (((s.tile t).eng e).flights.filter (fun f => !f.ran)) s (fun f st => st.runFlight t e f.id)

/-- Whether an S instruction carries a remote signal (R116). -/
def sendsRemote (e : Engine) (w : BitVec 128) : Bool := e == .S && (wOpc w == 0x60 || wOpc w == 0x61 || wOpc w == 0x62) && w.getLsbD 33

/-- The release and the signals of a completed instruction. -/
def State.settleFlight (s : State) (t : Nat) (e : Engine) (f : Flight) : State :=
  let w := f.word
  let s1 := s.modTile t (fun x =>
    let y := x.setEng e { x.eng e with flights := (x.eng e).flights.drop 1 }
    if wRelEn w then y.credit e (wRelRing w) else y)
  let s2 := if sendsRemote e w then { s1 with signals := s1.signals ++ [(fld w 27 20, fld w 32 28, s1.tilePart t)] } else s1
  let s3 := if wSignalEn w then s2.signal t e (wSignalToken w) else s2
  s3.watch t

/-- INSTRUCTION_COMPLETE: the oldest instruction of the engine, once it has completed. -/
def execInstructionComplete (tile : Nat) (eng : Engine) (s : State) : Out :=
  .next (if tile < 256 && (s.tile tile).running then
    let s1 := s.retryFlights tile eng
    match ((s1.tile tile).eng eng).flights with
    | f :: _ => if f.done && (s1.tile tile).running then s1.settleFlight tile eng f else s1
    | [] => s1
  else s)

end Sys2Proof.Machine
end

