-- ==== Sys2Proof/Machine/Shards.lean ====
section
/-! DEFINITION. Shards (R261 to R268, R516): records and their fields, working buffers, the checks of TRAIN_SETUP, the apply
journal (R416, R417), tensor scale records (R54 to R56), the regeneration of a working copy (R271), and TRAIN_SETUP. -/

namespace Sys2Proof.Machine

open Sys2Proof

/-! ## Records -/

/-- A shard record's 512 bytes (R262). -/
structure Shard where
  b : BMap
  deriving DecidableEq, Repr, Inhabited

def Shard.u (r : Shard) (o n : Nat) : Nat := BMap.readLe r.b o n
def Shard.i (r : Shard) (o n : Nat) : Int := signed (8 * n) (BMap.readLe r.b o n)
def Shard.rule (r : Shard) : Nat := r.u 0 1
def Shard.delay (r : Shard) : Nat := bits (r.u 1 1) 2 0
def Shard.replica (r : Shard) : Bool := bit (r.u 1 1) 3
def Shard.audit (r : Shard) : Bool := bit (r.u 1 1) 4
def Shard.bf16 (r : Shard) : Bool := bit (r.u 1 1) 5
def Shard.ties (r : Shard) : Nat := r.u 2 1
def Shard.wfmt (r : Shard) : Nat := bits (r.u 3 1) 3 0
def Shard.blk (r : Shard) : Nat := blockLen (bits (r.u 3 1) 5 4)
def Shard.sd (r : Shard) : Nat := bits (r.u 3 1) 6 6
def Shard.layout (r : Shard) : Nat := bits (r.u 3 1) 7 7
def Shard.rows (r : Shard) : Nat := r.u 4 4
def Shard.cols (r : Shard) : Nat := r.u 8 4
def Shard.iters (r : Shard) : Nat := r.u 12 1
def Shard.rootP (r : Shard) : Nat := r.u 13 1
def Shard.rootInterval (r : Shard) : Nat := r.u 14 2
def Shard.lr (r : Shard) : Nat := r.u 16 4
def Shard.beta1 (r : Shard) : Nat := r.u 20 4
def Shard.beta2 (r : Shard) : Nat := r.u 24 4
def Shard.eps (r : Shard) : Nat := r.u 28 4
def Shard.wdecay (r : Shard) : Nat := r.u 32 4
def Shard.slotBytes (r : Shard) : Nat := r.u 36 4
def Shard.scaleRec (r : Shard) : Nat := r.u 40 8
def Shard.coef (r : Shard) : Nat := r.u 48 8
def Shard.scratch (r : Shard) : Nat := r.u 56 8
def Shard.peer (r : Shard) : Nat := r.u 64 8
def Shard.grad (r : Shard) : Nat := r.u 72 8
def Shard.master (r : Shard) (k : Nat) : Nat := r.u (80 + 8 * k) 8
def Shard.stateA (r : Shard) (k : Nat) : Nat := r.u (96 + 8 * k) 8
def Shard.stateB (r : Shard) (k : Nat) : Nat := r.u (112 + 8 * k) 8
def Shard.root (r : Shard) (k : Nat) : Nat := r.u (128 + 8 * k) 8
def Shard.work (r : Shard) (k : Nat) : Nat := r.u (144 + 8 * k) 8
def Shard.wscale (r : Shard) (k : Nat) : Nat := r.u (184 + 8 * k) 8
def Shard.version (r : Shard) : Nat := r.u 256 8
def Shard.lastStep (r : Shard) : Int := r.i 264 8
def Shard.sstate (r : Shard) : Nat := r.u 272 1
def Shard.active (r : Shard) : Nat := bits r.sstate 0 0
def Shard.rootActive (r : Shard) : Nat := bits r.sstate 1 1
def Shard.faulted (r : Shard) : Bool := bit r.sstate 3
def Shard.ringL (r : Shard) (k : Nat) : Int := r.i (273 + k) 1
def Shard.wtag (r : Shard) (k : Nat) : Int := r.i (280 + 8 * k) 8

/-- Elements, working buffers (R261), and the bytes of a stored state element. -/
def Shard.n (r : Shard) : Nat := r.rows * r.cols
def Shard.buffers (r : Shard) : Nat := max 2 (r.delay + 1)
def Shard.stateBytes (r : Shard) : Nat := if r.bf16 then 2 else 4

/-- First byte of a ring entry's slot (R267). -/
def Shard.slotAddr (r : Shard) (step tie : Nat) : Nat := r.grad + ((step % (r.delay + 1)) * r.ties + tie) * r.slotBytes

/-- Rows of a working buffer with the padding of the tile-blocked layout (R84). -/
def Shard.padRows (r : Shard) : Nat := if r.layout = 1 then ceilDiv r.rows 64 * 64 else r.rows

/-- Bytes of a working buffer and of its scale plane (R516). -/
def Shard.workBytes (r : Shard) : Nat :=
  (if r.layout = 1 then r.padRows * (ceilDiv r.cols 64 * 64) else r.n) * (if r.wfmt = 0 then 1 else 2)
def Shard.planeBytes (r : Shard) : Nat :=
  if r.wfmt ≠ 0 then 0 else if r.sd = 0 then ceilDiv r.cols r.blk * r.padRows else r.cols * ceilDiv r.padRows r.blk

/-- A working buffer as a view (R516). -/
def Shard.workView (r : Shard) (k : Nat) : View :=
  { fmt := r.wfmt, bs := if r.wfmt = 0 then r.blk else 1, sd := r.sd, layout := r.layout, check := true, ts := false
    base := r.work k, sbase := r.wscale k, off := 0, ext := [r.cols, r.rows, 1, 1, 1]
    stride := if r.layout = 1 then [(r.cols : Int), 0, 0, 0, 0] else [1, (r.cols : Int), 0, 0, 0]
    pstride := if r.sd = 0 then [1, (ceilDiv r.cols r.blk : Int), 0, 0, 0] else [1, (r.cols : Int), 0, 0, 0] }

/-- The working buffer that a step reads (R266): the largest tag not above `t`, -1 counting as a tag and -2 as none. -/
def Shard.bufferFor (r : Shard) (t : Int) : Option Nat :=
  (List.range r.buffers).foldl (fun (best : Option Nat) k =>
    if r.wtag k = -2 ∨ (t < r.wtag k ∧ r.wtag k ≠ -1) then best
    else match best with
      | none => some k
      | some j => if r.wtag j < r.wtag k then some k else best) none

/-- The working buffer that an apply or a fetch writes (R266). -/
def Shard.bufferOut (r : Shard) : Nat :=
  (List.range r.buffers).foldl (fun j k => if r.wtag k < r.wtag j then k else j) 0

/-- The address of a shard's record. -/
def State.shardAddr (s : State) (p i : Nat) : Nat := (s.part p).train.table + 512 * i

/-- A shard record as memory holds it, with no check. -/
def State.shard (s : State) (p i : Nat) : Shard := ⟨BMap.writeBytes [] 0 (BMap.readBytes s.mem (s.shardAddr p i) 512)⟩

/-- Writes a field of a record that still lies within the partition table (R29, R30). -/
def State.putShard (s : State) (p i o n v : Nat) : State :=
  if (s.part p).inWindow (s.shardAddr p i) 512 then (s.writeStack (s.shardAddr p i + o) (natLe v n)).st else s

/-- The shard numbers of a partition's table. -/
def State.shardNums (s : State) (p : Nat) : List Nat := List.range (s.part p).train.shards
def State.owners (s : State) (p : Nat) : List Nat := (s.shardNums p).filter (fun i => !(s.shard p i).replica)
def State.replicas (s : State) (p : Nat) : List Nat := (s.shardNums p).filter (fun i => (s.shard p i).replica)

/-- The update unit that runs a shard's applies (R269). -/
def Shard.upu (r : Shard) : Nat := dieOfStack (stackAt r.grad)

/-- Whether the partition's stacks answer now. -/
def State.hbmReady (s : State) (p : Nat) : Bool :=
  (s.part p).stackList.all (fun k => (s.stack k).mode == .service || (s.stack k).mode == .failed)

/-! ## Element lists -/

/-- A byte string as elements of `w` bytes. -/
def splitLe (w : Nat) (bytes : List Byte) : List Nat := (List.range (bytes.length / w)).map (fun i => leNat ((bytes.drop (w * i)).take w))
def joinLe (w : Nat) (xs : List Nat) : List Byte := xs.flatMap (fun x => natLe x w)

/-- Reads `n` elements of `w` bytes of device memory, verified (R278). -/
def State.readElems (s : State) (p a w n : Nat) : Got × List Nat :=
  let g := s.readDev p a (w * n) true
  (g, splitLe w g.bytes)

/-- Writes elements. -/
def State.writeElems (s : State) (p a w : Nat) (xs : List Nat) : Got :=
  s.writeDev p a (joinLe w xs)

/-- Writes the elements and scales of a view from a byte array. -/
def State.writeView (s : State) (p : Nat) (v : View) (m : BMap) : Got :=
  v.spans.foldl (fun (g : Got) r => g.andThen (fun st => st.writeDev p r.1 (BMap.readBytes m r.1 r.2))) { st := s }

/-! ## The journal (R415 to R417) -/

def Part.journalAddr (p : Part) : Nat := bits p.journal.toNat 47 11 * 2048
def Part.journalSize (p : Part) : Nat := 2 ^ (bits p.journal.toNat 51 48 + 10)

/-- The bytes of a journal entry. -/
def journalBytes (kind sst wbuf shard : Nat) (step : Int) (version stamp boot aux seq : Nat) : List Byte :=
  let body := BMap.readBytes (fieldBytes [(0, 1, kind), (1, 1, sst % 4), (2, 1, wbuf), (4, 4, shard), (8, 8, unsigned 64 step), (16, 8, version),
    (24, 8, stamp), (32, 4, boot), (36, 4, aux), (40, 8, seq)]) 0 60
  body ++ natLe (crc32c body) 4

/-- Appends an entry to a partition's journal, when it has one. -/
def State.journalAdd (s : State) (p kind sst wbuf shard : Nat) (step : Int) (version aux : Nat) : State :=
  let x := s.part p
  if x.journalAddr = 0 ∨ !x.inWindow x.journalAddr (64 * x.journalSize) then s
  else
    let (t, s1) := s.stamp .hub
    let e := journalBytes kind sst wbuf shard step version t (s.startCount % 2 ^ 32) aux x.jseq
    (s1.writeStack (x.journalAddr + 64 * (x.jseq % x.journalSize)) e).st.modPart p (fun y => { y with jseq := y.jseq + 1 })

/-! ## Tensor scale records (R54 to R56) -/

/-- A loss-scale exponent clamped to its range. -/
def clampLs (i : Int) : Int := max (-32) (min 32 i)

/-- STEP_LS of a record; 0 of none, and of one that the partition no longer holds. -/
def State.stepLs (s : State) (p a : Nat) : Int := if a = 0 ∨ !(s.part p).inWindow a 128 then 0 else clampLs (signed 8 (BMap.readLe s.mem (a + 70) 1))

/-- Records that owner shards name. -/
def State.scaleRecs (s : State) (p : Nat) : List Nat := (((s.owners p).map (fun i => (s.shard p i).scaleRec)).filter (fun a => a != 0)).eraseDups

/-- Copies LS_EXP into STEP_LS for every record that an owner shard names (R263, R265). -/
def State.copyLs (s : State) (p : Nat) : State :=
  forEach ((s.scaleRecs p).filter (fun a => (s.part p).inWindow a 128)) s (fun a st => (st.writeStack (a + 70) (natLe (unsigned 8 (clampLs (signed 8 (BMap.readLe st.mem (a + 72) 1)))) 1)).st)

/-- Writes a step's maximum into a record's history (R55): the status and the state. -/
def State.keepHistory (s : State) (p a : Nat) (x : BitVec 32) : Nat × State :=
  if !(s.part p).inWindow a 128 then (stDENIED, s)
  else
    let g := s.readStack a 128 true
    if g.status ≠ 0 then (g.status, g.st)
    else
      let m := BMap.writeBytes [] 0 g.bytes
      let i := BMap.readLe m 68 1 % 16
      let m1 := BMap.writeLe (BMap.writeLe (BMap.writeLe m (4 * i) 4 x.toNat) 68 1 ((i + 1) % 16)) 69 1 (min (BMap.readLe m 69 1 + 1) 16)
      let w := g.st.writeStack a (BMap.readBytes m1 0 128)
      (w.status, w.st)

/-- The maxima of every tile of a partition, one a record. -/
def State.stepMaxima (s : State) (p : Nat) : List (Nat × BitVec 32) :=
  ((List.range 256).filter (fun t => (s.part p).sections.getLsbD (sectionOf t))).foldl (fun acc t =>
    (s.tile t).maxima.foldl (fun (l : List (Nat × BitVec 32)) m =>
      if l.any (fun e => e.1 == m.1) then l.map (fun e => if e.1 == m.1 then (e.1, maxBits e.2 m.2) else e) else l ++ [m]) acc) []

/-- The history update of a step fence (R55): the first failing status and the state. -/
def State.historyUpdate (s : State) (p : Nat) : Nat × State :=
  let r := (s.stepMaxima p).foldl (fun (acc : Nat × State) m =>
    let x := acc.2.keepHistory p m.1 m.2
    (if acc.1 = 0 then x.1 else acc.1, x.2)) (0, s)
  (r.1, forEach ((List.range 256).filter (fun t => (s.part p).sections.getLsbD (sectionOf t))) r.2 (fun t st => st.modTile t (fun x => { x with maxima := [] })))

/-! ## The checks of TRAIN_SETUP (R261, R262, R264, R516) -/

/-- Homes: a whole stack window or the tiered window of the address map (R20). -/
def homeStack (a n : Nat) : Bool := stackAt a < 20 && a % 2 ^ 37 + n ≤ windowBytes
def homeTier (a n : Nat) : Bool := tierBase ≤ a && a + n ≤ tierBase + 2 ^ 45

/-- Bytes of a root pair, and what SCRATCH needs (R275). -/
def Shard.rootBytes (r : Shard) : Nat := 4 * (r.rows * r.rows + r.cols * r.cols)
def Shard.scratchNeed (r : Shard) : Nat :=
  let lo := min r.rows r.cols
  let hi := max r.rows r.cols
  if r.rule = 3 then 8 * lo * hi + 8 * lo * lo else if r.rule = 4 then 12 * hi * hi + 4 * r.n else r.stateBytes * r.n

/-- Bytes of STATE_A and STATE_B, 0 where the rule has none. -/
def Shard.aBytes (r : Shard) : Nat := if r.rule = 4 then r.stateBytes * r.rows * r.rows else r.stateBytes * r.n
def Shard.bBytes (r : Shard) : Nat := if r.rule = 4 then r.stateBytes * r.cols * r.cols else if r.rule = 2 then r.stateBytes * r.n else 0

/-- Buffers of a record that must lie in stack windows, and those that may be tiered, as (address, bytes). -/
def Shard.stackBufs (r : Shard) : List (Nat × Nat) :=
  (List.range r.buffers).flatMap (fun k => [(r.work k, r.workBytes), (r.wscale k, r.planeBytes)]) ++
  (if r.replica then [] else [(r.grad, (r.delay + 1) * r.ties * r.slotBytes)]) ++ [(r.scratch, if r.scratch = 0 then 0 else r.scratchNeed)]
def Shard.stateBufs (r : Shard) : List (Nat × Nat) :=
  if r.replica then [] else [0, 1].flatMap (fun k => [(r.master k, 4 * r.n), (r.stateA k, r.aBytes), (r.stateB k, r.bBytes)])
def Shard.anyBufs (r : Shard) : List (Nat × Nat) :=
  r.stateBufs ++ (if r.replica then [] else [0, 1].map (fun k => (r.root k, if r.rule = 4 then r.rootBytes else 0)))
def Shard.allBufs (r : Shard) : List (Nat × Nat) := (r.stackBufs ++ r.anyBufs).filter (fun b => b.2 != 0)

/-- The fields of a record follow R262. -/
def Shard.formed (r : Shard) : Bool :=
  1 ≤ r.rule && r.rule ≤ 4 && r.u 1 1 < 64 && r.delay ≤ 4 && 1 ≤ r.ties && r.ties ≤ 8 &&
  (r.wfmt == 0 || (r.wfmt == 4 && bits (r.u 3 1) 6 4 == 0)) && 1 ≤ r.rows && 1 ≤ r.cols && r.n ≤ 2 ^ 36 &&
  (if r.rule = 3 then 1 ≤ r.iters && r.iters ≤ 8 else if r.rule = 4 then 1 ≤ r.iters && r.iters ≤ 32 else r.iters == 0) &&
  (if r.rule = 4 then (r.rootP == 2 || r.rootP == 4) && 1 ≤ r.rootInterval else r.rootP == 0 && r.rootInterval == 0) &&
  r.slotBytes % 2048 == 0 && (if r.rule = 3 then r.coef != 0 else r.coef == 0) && r.u 224 32 == 0 &&
  (if r.replica then bit r.peer 62 && !bit r.peer 63 else r.peer == 0) &&
  (r.wfmt == 0 || (List.range 5).all (fun k => r.wscale k == 0)) &&
  (r.layout == 0 || (List.range r.buffers).all (fun k => r.work k % 4096 == 0)) &&
  (r.replica || (2 * r.n ≤ r.slotBytes && r.scaleRec % 128 == 0))

/-- The copies lie in their homes (R261). -/
def Shard.housed (r : Shard) : Bool :=
  (r.stackBufs.all (fun b => b.2 == 0 || homeStack b.1 b.2)) && (r.anyBufs.all (fun b => b.2 == 0 || homeStack b.1 b.2 || homeTier b.1 b.2)) &&
  (r.replica || ((r.scaleRec == 0 || homeStack r.scaleRec 128) && (r.rule != 3 || homeStack r.coef (12 * r.iters) || homeTier r.coef (12 * r.iters))))

/-- The sizes and the scratch area follow R264; an owner's ring lies on a die of its sections, and with D = 0 its master and state are
not tiered. -/
def State.shapeOk (s : State) (p : Nat) (r : Shard) : Bool :=
  (r.replica || ((s.part p).sections.toNat / 2 ^ (4 * r.upu) % 16 != 0 && (r.delay != 0 || r.stateBufs.all (fun b => b.2 == 0 || b.1 < tierBase)))) &&
    ((r.rule != 3 || (min r.rows r.cols ≤ 8192 && max r.rows r.cols ≤ 65536)) && (r.rule != 4 || (r.rows ≤ 8192 && r.cols ≤ 8192)) &&
    (if r.scratch = 0 then r.rule ≤ 2 else (s.part p).inWindow r.scratch r.scratchNeed))

/-- The check of one record, `others` being the buffers of the other records: 0, BAD_PARAM or DENIED. -/
def State.shardCheck (s : State) (p : Nat) (others : List (Nat × Nat)) (r : Shard) : Nat :=
  if !r.formed ∨ !r.housed ∨ !s.shapeOk p r ∨ !disjointRanges r.allBufs ∨ r.allBufs.any (fun b => others.any (overlaps b)) then stBAD_PARAM
  else if !r.allBufs.all (fun b => s.within p b.1 b.2) ∨ (!r.replica && r.scaleRec != 0 && !(s.part p).inWindow r.scaleRec 128) ∨
      (!r.replica && r.coef != 0 && !s.within p r.coef (12 * r.iters)) ∨
      (r.replica && s.runStatus p r.peer 512 != 0) then stDENIED
  else 0

/-- Record `i` of a table as memory holds it. -/
def State.shardIn (s : State) (table i : Nat) : Shard := ⟨BMap.writeBytes [] 0 (BMap.readBytes s.mem (table + 512 * i) 512)⟩

/-- What the first failing record of a table gives, in shard-number order. -/
def State.tableCheck (s : State) (p table n : Nat) : Nat :=
  let others := fun i => ((List.range n).filter (fun j => j != i)).flatMap (fun j => (s.shardIn table j).allBufs)
  ((List.range n).map (fun i => s.shardCheck p (others i) (s.shardIn table i))).find? (fun x => x != 0) |>.getD 0

/-! ## Regeneration (R271) -/

/-- The largest drift and the count above half a step, the drift in grid steps. -/
structure Drift where
  most : Val := .fin false 0 0
  many : Nat := 0

/-- One element's drift: |decode - master| over the grid step 2^q. -/
def Drift.add (d : Drift) (decoded master : Val) (q : Int) : Drift :=
  match (Val.add decoded master.neg).1 with
  | .fin _ m e =>
    let x := Val.fin false m (e - q)
    { most := if Val.cmp d.most x < 0 then x else d.most, many := if Val.cmp (.fin false 1 (-1)) x < 0 then d.many + 1 else d.many }
  | _ => d

/-- The exponent of a BF16 ulp at a value (R271). -/
def bf16Step (v : Val) : Int :=
  match v with
  | .fin _ m e => if m = 0 then -133 else max (-133) (topExp m e - 7)
  | _ => 0

/-- Converts a master into a working buffer: the bytes by address, and the audit. -/
def Shard.regenerate (r : Shard) (k : Nat) (w : List Nat) (z : Bool) : BMap × Drift :=
  let v := r.workView k
  let at' := fun (i : List Nat) => w.getD (i.getD 1 0 * r.cols + i.getD 0 0) 0
  if r.wfmt = 4 then
    v.indices.foldl (fun acc i =>
      let x := (encodeFloat fBF16 .rne 1 (f32 (at' i))).val
      (v.putElem acc.1 i (policyWrite z 4 x), acc.2.add (decodeFloat fBF16 x) (f32 (at' i)) (bf16Step (f32 (at' i))))) ([], {})
  else
    (v.indices.map v.blockOf).eraseDups.foldl (fun acc b =>
      let idx := v.indices.filter (fun i => v.blockOf i == b)
      let o := convertBlock 0 .rne none (idx.map (fun i => f32 (at' i))) 1
      let m := BMap.write acc.1 ((v.sbase + dotStride b v.pstride) % 2 ^ 64).toNat (BitVec.ofNat 8 o.e8)
      ((idx.zip o.q).foldl (fun m' e => v.putElem m' e.1 e.2) m,
       if o.e8 = 0xFF then acc.2 else (idx.zip o.q).foldl (fun d e => d.add (scaledVal 0 e.2 o.e8) (f32 (at' e.1)) ((o.e8 : Int) - 127)) acc.2))
      ([], {})

/-- Reads a master buffer and regenerates working buffer `k` from it. -/
def State.regenInto (s : State) (p : Nat) (r : Shard) (master k : Nat) : Got × Drift :=
  let (g, w) := s.readElems p master 4 r.n
  if g.status ≠ 0 then (g, {})
  else
    let (m, d) := r.regenerate k w (s.policyZ p)
    (g.st.writeView p (r.workView k) m, d)

/-! ## TRAIN_SETUP (R263, R264, R373) -/

/-- The bytes of an FP32 identity matrix. -/
def identity (n : Nat) : List Nat := (List.range (n * n)).map (fun i => if i / n = i % n then 0x3F800000 else 0)

/-- The status bytes as INIT writes them (R262). -/
def statusReset : List Byte :=
  BMap.readBytes (fieldBytes ([(8, 8, 2 ^ 64 - 1)] ++ (List.range 5).map (fun k => (24 + 8 * k, 8, 2 ^ 64 - 2)))) 0 256

/-- Initialises one record (R263): the first failing status and the state. -/
def State.initShard (s : State) (p i : Nat) : Nat × State :=
  let r := s.shard p i
  let s1 := (s.writeStack (s.shardAddr p i + 256) statusReset).st
  if r.replica then (0, s1)
  else
    let g := (s1.regenInto p r (r.master 0) 0).1
    let h := if r.rule = 4 then
        (g.andThen (fun st => st.writeElems p (r.root 0) 4 (identity r.rows))).andThen
          (fun st => st.writeElems p (r.root 0 + 4 * r.rows * r.rows) 4 (identity r.cols))
      else g
    (h.status, h.st.putShard p i 280 8 (2 ^ 64 - 1))

/-- CTL_CRC of a record (R262). -/
def State.sealShard (s : State) (p i : Nat) : State :=
  s.putShard p i 332 4 (crc32c (BMap.readBytes s.mem (s.shardAddr p i) 224))

/-- Clears FAULTED on a record and queues its unfinished applies again, from PREPARE (R285, R414). -/
def State.reviveShard (s : State) (p i : Nat) : State :=
  let r := s.shard p i
  if !r.faulted then s
  else
    let s1 := s.putShard p i 272 1 (r.sstate % 4 + r.sstate / 16 % 2 * 16)
    let from' := (r.lastStep + 1).toNat
    s1.modPart p (fun x => { x with train := { x.train with
      applies := x.train.applies ++ ((List.range (x.train.closed - from')).map (fun j => ({ shard := i, step := from' + j } : Apply))) } })

/-- Check 6 of TRAIN_SETUP, in its order. -/
def State.setupCheck (s : State) (f n : Nat) (c : Cmd) : Nat :=
  let table := c.param 8 8
  let keep := c.param 16 8
  let slots := c.param 24 4
  let bytes := c.param 28 4
  if !(s.cmdsOf f (fun d => d.phase == .running)).all (fun m => m == n) ∨ s.applyPending f then stBUSY
  else if 1 < c.param 0 1 ∨ !c.zeros [(1, 3)] ∨ c.param 4 4 = 0 ∨ 65536 < c.param 4 4 ∨ table % 2048 ≠ 0 ∨ tierBase ≤ table ∨
      4096 < slots ∨ bytes % 2048 ≠ 0 ∨ keep % 2048 ≠ 0 ∨ (slots = 0 ∧ keep ≠ 0) ∨ (slots ≠ 0 ∧ tierBase ≤ keep) then stBAD_PARAM
  else if !(s.part f).inWindow table (512 * c.param 4 4) ∨ (slots ≠ 0 ∧ !(s.part f).inWindow keep (slots * bytes)) then stDENIED
  else
    let g := s.readStack table (512 * c.param 4 4) true
    if g.status ≠ 0 then g.status else s.tableCheck f table (c.param 4 4)

/-- What TRAIN_SETUP reads and writes of device memory beside the table: in INIT, MASTER[0] of each owner shard and its WORK[0] and
ROOT[0]. -/
def State.setupRuns (s : State) (c : Cmd) : List (Nat × Nat) × List (Nat × Nat) :=
  let own := if c.param 0 1 ≠ 0 then [] else ((List.range (c.param 4 4)).map (s.shardIn (c.param 8 8))).filter (fun r => !r.replica)
  (own.map (fun r => (r.master 0, 4 * r.n)),
   own.flatMap (fun r => (r.workView 0).spans ++ (if r.rule = 4 then [(r.root 0, r.rootBytes)] else [])))

/-- TRAIN_SETUP's work. CONTINUE keeps the decisions on the scale records: each step of a record is decided once (R273). -/
def State.setUp (s : State) (f n : Nat) : State :=
  let c := s.cmd f n
  let init := c.param 0 1 = 0
  let s1 := s.modPart f (fun x => { x with train := { x.train with
    isSetUp := true, table := c.param 8 8, shards := c.param 4 4, keepAddr := c.param 16 8, keepSlots := c.param 24 4, keepBytes := c.param 28 4
    faults := [], lsDone := if init then [] else x.train.lsDone, fetched := [], keeps := []
    step := if init then 0 else x.train.step, closed := if init then 0 else x.train.closed } })
  let nums := s1.shardNums f
  let r := if init then nums.foldl (fun (acc : Nat × State) i =>
      let y := acc.2.initShard f i
      (if acc.1 = 0 then y.1 else acc.1, y.2)) (0, s1)
    else (0, forEach nums s1 (fun i st => st.reviveShard f i))
  let s2 := (forEach nums r.2 (fun i st => st.sealShard f i)).copyLs f
  let own := (s2.owners f).length
  if r.1 ≠ 0 then s2.finishCmd f n r.1
  else s2.replyOk f n [(s2.part f).train.step, own + (nums.length - own) * 2 ^ 32]

/-- TRAIN_SETUP once its tiered buffers and its stacks serve. -/
def State.setUpOn (s : State) (f n : Nat) : State :=
  let c := s.cmd f n
  if c.failed ≠ 0 then s.finishCmd f n c.failed
  else s.whenServed f (s.setupRuns c).1 (s.setupRuns c).2 .write (.command f n) (fun st => st.setUp f n)

/-- TRAIN_SETUP. -/
def execTrainSetup (fn slot : Nat) (s : State) : Out :=
  .next (if s.canTake fn slot opTRAIN_SETUP then
    let s0 := s.take fn slot
    let st := s0.setupCheck fn slot (s0.cmd fn slot)
    if st ≠ 0 then s0.finishCmd fn slot st
    else ((s0.beginCmd fn slot).modCmd fn slot (fun c => { c with stage := 1 })).setUpOn fn slot
  else if s.inRun fn slot opTRAIN_SETUP && (s.cmd fn slot).stage == 1 then s.setUpOn fn slot
  else s)

end Sys2Proof.Machine
end

