-- ==== Sys2Proof/Machine/Apply.lean ====
section
/-! DEFINITION. The apply of a gradient (R269 to R278, R285): its phases PREPARE, STATE, RULE, REGENERATE and COMMIT, the update
rules, the decision on each tensor scale record, and faults. -/

namespace Sys2Proof.Machine

open Sys2Proof

/-! ## Arithmetic of the update unit (R274, R276, R277) -/

def f32Div (x y : Nat) : Num := toF32 (Val.div (f32 x) (f32 y))
def f32Sqrt (x : Nat) : Num := toF32 (Val.sqrt (f32 x))

/-- Sum, difference, product and quotient of FP32 bits. -/
def addF (x y : Nat) : Nat := (f32Add x y).val
def subF (x y : Nat) : Nat := (f32Sub x y).val
def mulF (x y : Nat) : Nat := (f32Mul x y).val
def divF (x y : Nat) : Nat := (f32Div x y).val

/-- FP32 bits of 1 and of a small integer. -/
def oneF : Nat := 0x3F800000
def intF (i : Int) : Nat := f32Of (Val.ofInt i)

/-- The exact k-th power, rounded once (R274). -/
def powF (x k : Nat) : Nat :=
  match f32 x with
  | .fin neg m e => f32Of (.fin (neg && k % 2 == 1) (m ^ k) (e * k))
  | v => f32Of (if k = 0 then .fin false 1 0 else v)

/-- A matrix as its rows. -/
abbrev Mat := List (List Nat)

def toMat (cols : Nat) (xs : List Nat) : Mat := (List.range (xs.length / max cols 1)).map (fun i => (xs.drop (cols * i)).take cols)
def Mat.flat (m : Mat) : List Nat := m.flatten
def Mat.t (m : Mat) : Mat := (List.range (m.headD []).length).map (fun j => m.map (fun r => r.getD j 0))
def Mat.map2 (f : Nat → Nat → Nat) (a b : Mat) : Mat := (a.zip b).map (fun r => (r.1.zip r.2).map (fun e => f e.1 e.2))
def Mat.scale (x : Nat) (m : Mat) : Mat := m.map (fun r => r.map (fun y => mulF x y))

/-- A diagonal matrix. -/
def diag (n x : Nat) : Mat := (List.range n).map (fun i => (List.range n).map (fun j => if i = j then x else 0))

/-- Adds a list of terms two at a time in the order of `pick`, each sum rounded once to FP32. -/
def sumBy (pick : Nat → Nat × Nat) : Nat → List Val → List Val
  | 0, xs => xs
  | n + 1, xs =>
    let i := (pick n).1 % max 1 xs.length
    let rest := xs.eraseIdx i
    let j := (pick n).2 % max 1 rest.length
    sumBy pick n (match xs[i]?, rest[j]? with
      | some a, some b => rest.eraseIdx j ++ [f32 (toF32 (Val.add a b)).val]
      | _, _ => xs)

/-- A partial product of the matrix array: up to 64 products added under RNE, in an order and with a rounding of the products that the
manual does not state (R277). -/
def arraySum (xs : List (BitVec 32 × BitVec 32)) : Nat :=
  let ps := xs.map (fun e => (Val.mul (f32 e.1.toNat) (f32 e.2.toNat)).1)
  let ts := if Config.arrayRounds xs then ps.map (fun v => f32 (f32Of v)) else ps
  f32Of ((sumBy (Config.arrayPick xs) (ts.length - 1) ts).headD (.fin false 0 0))

/-- z^(1/p) for p of 2 or 4: one of the FP32 neighbours of the root, or the root when it is exact (R277). -/
def rootStart (z p : Nat) : Nat :=
  let v := (Val.sqrt (f32 z)).1
  (neighbour (Config.rootUp (BitVec.ofNat 32 z) p) (if p = 4 then (Val.sqrt v).1 else v)).val

/-- One output of a product: partial products of 64, the partials on the pairwise ladder (R277). -/
def dotF (xs ys : List Nat) : Nat :=
  let pairs := (xs.zip ys).map (fun e => (BitVec.ofNat 32 e.1, BitVec.ofNat 32 e.2))
  let parts := (List.range (ceilDiv pairs.length 64)).map (fun i => arraySum ((pairs.drop (64 * i)).take 64))
  ((ladderSum f32Add parts).1).getD 0

def Mat.mul (a b : Mat) : Mat := let c := b.t; a.map (fun r => c.map (fun k => dotF r k))

/-- The sum of squares as SUM64 of R101, FP64 bits. -/
def sumSquares (xs : List Nat) : Nat :=
  let sq := xs.map (fun x => (encodeFloat fFP64 .rne 1 (Val.mul (f32 x) (f32 x)).1).val)
  let groups := (List.range (ceilDiv sq.length 64)).map (fun i => (pairTree f64Add 6 (padTo 64 (2 ^ 63) ((sq.drop (64 * i)).take 64))).1)
  ((ladderSum f64Add groups).1).getD 0

/-- Its square root as FP32. -/
def normF (m : Mat) : Nat := f32Of (Val.sqrt (decodeFloat fFP64 (sumSquares m.flat))).1

/-- The orthogonalisation of R276. -/
def ortho (eps : Nat) (coef : List (Nat × Nat × Nat)) (m : Mat) : Mat :=
  let tall := decide ((m.headD []).length < m.length)
  let x0 := if tall then m.t else m
  let x1 := Mat.scale (fRcp (addF (normF x0) eps)).val x0
  let x2 := coef.foldl (fun x c =>
    let a := Mat.mul x x.t
    let b := Mat.map2 addF (Mat.scale c.2.1 a) (Mat.scale c.2.2 (Mat.mul a a))
    Mat.map2 addF (Mat.scale c.1 x) (Mat.mul b x)) x1
  if tall then x2.t else x2

/-- The inverse root of R277 by `iters` steps of the coupled Newton iteration. -/
def invRoot (p iters : Nat) (a : Mat) : Mat :=
  let n := a.length
  let pf := intF p
  let z := divF (intF (1 + p)) (mulF (intF 2) (normF a))
  let step := fun (xm : Mat × Mat) =>
    let t := (Mat.map2 subF (diag n (intF (p + 1))) xm.2).map (fun r => r.map (fun y => divF y pf))
    let t2 := Mat.mul t t
    (Mat.mul xm.1 t, Mat.mul (if p = 2 then t2 else Mat.mul t2 t2) xm.2)
  ((List.range iters).foldl (fun xm _ => step xm) (diag n (rootStart z p), Mat.scale z a)).1

/-! ## The prepared gradient (R270) -/

/-- One element from its tied values: exact in FP64, added pairwise, scaled and rounded once. -/
def preparedElem (l : Int) (xs : List Nat) : Nat :=
  let ys := xs.map (fun x => (encodeFloat fFP64 .rne 1 (decodeFloat fBF16 x)).val)
  f32Of ((decodeFloat fFP64 (pairTree f64Add 3 (padTo 8 (2 ^ 63) ys)).1).scale (-l))

/-- The prepared gradient of a step, FP32 bits. -/
def State.gradient (s : State) (p : Nat) (r : Shard) (step : Nat) : Got × List Nat :=
  let l := r.ringL (step % (r.delay + 1))
  let acc := (List.range r.ties).foldl (fun (a : Got × List (List Nat)) j =>
    if a.1.status ≠ 0 then a
    else let (g, xs) := a.1.st.readElems p (r.slotAddr step j) 2 r.n; (g, a.2 ++ [xs])) ({ st := s }, [])
  (acc.1, (List.range r.n).map (fun i => preparedElem l (acc.2.map (fun xs => xs.getD i 0))))

/-- Whether FP32 bits are NaN or infinite. -/
def badF (x : Nat) : Bool := !(f32 x).isFinite

/-! ## Where the state lies (R275) -/

/-- A state element from and to its stored form. -/
def Shard.fromState (r : Shard) (x : Nat) : Nat := if r.bf16 then x * 65536 else x
def Shard.toState (r : Shard) (z : Bool) (x : Nat) : Nat :=
  if r.bf16 then policyWrite z 4 (encodeFloat fBF16 .rne 1 (f32 x)).val else policyWrite z 6 x

/-- Whether the STATE phase runs on the Chisel units. -/
def Shard.onChisel (r : Shard) : Bool :=
  let bufs := [r.scratch, r.stateA 0, r.stateA 1] ++ (if r.rule = 2 then [r.stateB 0, r.stateB 1] else [])
  r.scratch != 0 && r.rule ≤ 3 &&
    bufs.all (fun b => decide (b < tierBase) && stackAt b == stackAt r.scratch && b % rowSpan == r.scratch % rowSpan && b % r.stateBytes == 0)

/-- A Chisel record of an apply. -/
def Shard.chiselRec (r : Shard) (op ctl alpha beta dst a b : Nat) : OpRec :=
  { op := op, fmtS := if r.bf16 then 4 else 6, fmtD := if r.bf16 then 4 else 6, ctl := ctl, alpha := alpha, beta := beta, ea := 0, eb := 0, ed := 0
    dst := dst, a := a, b := b, n := r.n, clean := true }

/-- The records of the STATE phase in list order (R275). -/
def Shard.stateRecords (r : Shard) : List OpRec :=
  let o := r.active
  let w := 1 - o
  if r.rule = 2 then
    [r.chiselRec 0x0B 0 0 0 (r.stateA w) (r.stateA o) 0, r.chiselRec 0x0C 0 0 r.beta1 (r.stateA w) r.scratch 0,
     r.chiselRec 0x0B 0 0 0 (r.stateB w) (r.stateB o) 0, r.chiselRec 0x0C 1 0 r.beta2 (r.stateB w) r.scratch 0]
  else [r.chiselRec 3 0 r.beta1 0 (r.stateA w) (r.stateA o) r.scratch]

/-- Runs a whole record of an apply: every row operation of every bank slot, each an activation of its bank (R197), a failed row giving
DATA_ERROR and an error entry (R218). -/
def State.runRecord (s : State) (p : Nat) (o : OpRec) : Got :=
  let z := s.policyZ p
  (List.range o.rows).foldl (fun (g : Got) r => (List.range 4096).foldl (fun (g : Got) b =>
    match o.rowOp r b with
    | none => g
    | some x =>
      let d := (g.st.activate x.dest).doRow o z x
      let k := stackAt x.dest
      let st := if d.failed then
          d.st.error (pDCTL (dieOfStack k)) { status := stDATA_ERROR, cls := cREQUEST, unit := 7, unitId := 64 * k + b % 64, pt := p, addr := x.dest
                                              detail := blockDetail x.dest d.cause }
        else d.st
      { g with status := if d.failed then stDATA_ERROR else g.status, bad := if d.failed ∧ g.status = 0 then x.dest else g.bad, cause := if d.failed ∧ g.status = 0 then d.cause else g.cause,
               flags := g.flags ||| d.flags, st := st }) g) { st := s }

/-- The runs of device memory that a phase of the apply of a step reads, and those it writes (R270 to R277). -/
def Shard.phaseRuns (r : Shard) (step phase : Nat) : List (Nat × Nat) × List (Nat × Nat) :=
  let o := r.active
  let n := 1 - o
  let slots := (List.range r.ties).map (fun j => (r.slotAddr step j, 2 * r.n))
  let states := fun k => [(r.stateA k, r.aBytes), (r.stateB k, r.bBytes)]
  let runs : List (Nat × Nat) × List (Nat × Nat) :=
    if phase = 1 then (slots, if r.onChisel then [(r.scratch, r.stateBytes * r.n)] else [])
    else if phase = 2 then
      (if r.rule = 4 then ([], []) else ((if r.onChisel then [(r.scratch, r.stateBytes * r.n)] else slots) ++ states o, states n))
    else if phase = 3 then
      (if r.rule = 4 then
        (slots ++ [(r.master o, 4 * r.n), (r.root r.rootActive, r.rootBytes)] ++ states o,
         states n ++ [(r.master n, 4 * r.n)] ++ (if (r.version + 1) % max r.rootInterval 1 = 0 then [(r.root (1 - r.rootActive), r.rootBytes)] else []))
      else ([(r.master o, 4 * r.n)] ++ states n ++ (if r.rule = 3 then [(r.coef, 12 * r.iters)] else []), [(r.master n, 4 * r.n)]))
    else if phase = 4 then ([(r.master n, 4 * r.n)], (r.workView r.bufferOut).spans)
    else ([], [])
  (runs.1.filter (fun b => b.2 != 0), runs.2.filter (fun b => b.2 != 0))

/-! ## Applies under way (R269) -/

def State.applyOf (s : State) (p i : Nat) : Option Apply := (s.part p).train.applies.find? (fun a => a.shard == i)
def State.modTrain (s : State) (p : Nat) (g : Train → Train) : State := s.modPart p (fun x => { x with train := g x.train })
def State.modApply (s : State) (p i step : Nat) (g : Apply → Apply) : State :=
  s.modTrain p (fun t => { t with applies := t.applies.map (fun a => if a.shard = i ∧ a.step = step then g a else a) })

/-- The other applies of the same update unit and partition. -/
def State.fellows (s : State) (p : Nat) (a : Apply) : List Apply :=
  (s.part p).train.applies.filter (fun b => (b.shard != a.shard || b.step != a.step) && (s.shard p b.shard).upu == (s.shard p a.shard).upu)

/-- Whether it is an apply's turn within its partition (R269). For PREPARE, earlier steps are finished on its unit, and so is the PREPARE
of every lower shard; for a later phase every PREPARE of the step on its unit is done, its record is decided, and the lower shards
of the step are finished. -/
def State.inTurn (s : State) (p : Nat) (a : Apply) : Bool :=
  !a.halted && s.hbmReady p &&
  (if a.phase = 1 then (s.fellows p a).all (fun b => a.step < b.step || (b.step == a.step && (a.shard < b.shard || b.phase != 1)))
   else a.decided && (s.fellows p a).all (fun b => a.step < b.step || (b.step == a.step && b.phase != 1 && a.shard < b.shard)))

/-- The applies queued on update unit `d`, each with its partition. -/
def State.upuQueue (s : State) (d : Nat) : List (Nat × Apply) :=
  allParts.flatMap (fun q => ((s.part q).train.applies.filter (fun a => (s.shard q a.shard).upu == d && !a.halted)).map (fun a => (q, a)))

/-- Whether a partition's work is in hand in a queue: an apply past its STATE phase, or the PREPAREs of a step, which count as one. -/
def inHand (q : List (Nat × Apply)) (p : Nat) : Bool :=
  q.any (fun e => e.1 == p && (decide (3 ≤ e.2.phase) ||
    (e.2.phase == 2 && q.any (fun f => f.1 == p && f.2.step == e.2.step && f.2.phase == 1))))

/-- Whether update unit `d` works for a partition now: it finishes what it has in hand, and then alternates between the partitions one
apply at a time (R269). The next is the first in turn after the one it last worked for. -/
def State.upuFor (s : State) (d p : Nat) : Bool :=
  let q := s.upuQueue d
  match allParts.find? (inHand q) with
  | some x => x == p
  | none =>
    let able := allParts.filter (fun x => q.any (fun e => e.1 == x && s.inTurn x e.2))
    (able.filter (fun x => decide (((s.die d).upuLast.getD 0) < x)) ++ able).head? == some p

/-- Whether PREPARE of an apply, or a later phase, may run now. -/
def State.mayPrepare (s : State) (p : Nat) (a : Apply) : Bool :=
  a.phase == 1 && s.inTurn p a && s.procUp (pDCTL (s.shard p a.shard).upu) && s.upuFor (s.shard p a.shard).upu p
def State.mayRun (s : State) (p : Nat) (a : Apply) (phase : Nat) : Bool :=
  a.phase == phase && phase != 1 && s.inTurn p a && s.procUp (pDCTL (s.shard p a.shard).upu) && s.upuFor (s.shard p a.shard).upu p

/-- The unit begins work for a partition: its array, registers and local buffers are cleared when its last job was another's (R27). -/
def State.upuBegin (s : State) (d p : Nat) : State :=
  if (s.die d).upuLast == some p then s else s.modDie d (fun x => { x with upuLast := some p, upuHeld := [] })

/-- What a job leaves in the unit. -/
def State.upuHold (s : State) (d : Nat) (xs : List Nat) : State := s.modDie d (fun x => { x with upuHeld := xs.map (BitVec.ofNat 32) })

/-- Whether the conditions of R279 hold for a fence that closes step `t`: every owner's apply of t - D is finished or faulted,
every replica fetched. -/
def State.fenceMet (s : State) (p t : Nat) : Bool :=
  let x := (s.part p).train
  (s.shardNums p).all (fun i =>
    let r := s.shard p i
    if r.replica then x.fetched.contains i
    else (x.applies.all (fun a => !(a.shard == i && a.step + r.delay ≤ t))))

/-- Notes the moment at which a waiting fence's conditions come to hold (R280). -/
def State.noteMet (s : State) (p : Nat) : State :=
  match (s.part p).train.fence with
  | none => s
  | some w =>
    if w.met.isNone && s.fenceMet p w.step then s.modTrain p (fun t => { t with fence := some { w with met := some s.now } }) else s

/-- An apply leaves the queue. -/
def State.endApply (s : State) (p i step : Nat) : State :=
  s.modTrain p (fun t => { t with applies := t.applies.filter (fun a => !(a.shard == i && a.step == step)) })

/-- An apply faults (R285): FAULTED, no further apply of the shard, an error entry, a journal entry. -/
def State.faultApply (s : State) (p i step status addr : Nat) : State :=
  let r := s.shard p i
  let sst := r.sstate / 16 * 16 + r.sstate % 4 + 8
  let s1 := s.putShard p i 272 1 sst
  let s2 := s1.error (pDCTL r.upu) { status := status, cls := cSHARD, unit := 5, unitId := r.upu, pt := p, addr := addr, detail := i }
  let s3 := s2.journalAdd p 3 sst 0xFF i step r.version status
  (s3.modTrain p (fun t => { t with
    applies := t.applies.filter (fun a => a.shard != i), faulted := t.faulted + 1, firstBad := some (t.firstBad.getD i)
    faults := Tbl.set (0, 0) t.faults i (status, step) })).orphanRequests (fun o => o == .apply p i) |>.noteMet p

/-- An apply is skipped (R273): LAST_SKIPPED, LAST_STEP, SKIPS, and its log entry. -/
def State.skipApply (s : State) (p i step : Nat) : State :=
  let r := s.shard p i
  let sst := r.sstate % 4 + r.sstate / 8 % 2 * 8 + 16
  let s1 := ((s.putShard p i 272 1 sst).putShard p i 264 8 step).putShard p i 328 4 ((r.u 328 4 + 1) % 2 ^ 32)
  let s2 := s1.event (pDCTL r.upu) p 0x000A 0 i step 0 0
  let s3 := s2.journalAdd p 2 sst 0xFF i step r.version 0
  ((s3.endApply p i step).modTrain p (fun t => { t with finished := t.finished + 1, skipped := t.skipped + 1, lastDone := some i })).noteMet p

/-- Reads a shard's record, verified: a bad block, or a record outside the partition table, faults the apply. -/
def State.withShard (s : State) (p i step : Nat) (body : Shard → State → State) : State :=
  let g : Got := if (s.part p).inWindow (s.shardAddr p i) 512 then s.readStack (s.shardAddr p i) 512 true
    else { status := stDENIED, bad := s.shardAddr p i, st := s }
  if g.status ≠ 0 then g.st.faultApply p i step g.status g.bad else body ⟨BMap.writeBytes [] 0 g.bytes⟩ g.st

/-- Goes on with an apply after device memory has answered, or faults it. -/
def Got.orFault (g : Got) (p i step : Nat) (next : State → State) : State :=
  if g.status ≠ 0 then g.st.faultApply p i step g.status g.bad else next g.st

/-- Runs a phase of an apply, which the trace may record (R433), once its memory serves: a tiered access that has failed, or a run outside the partition table, faults the
apply (R29, R278, R285). -/
def State.servePhase (s : State) (p i : Nat) (a : Apply) (r : Shard) (phase : Nat) (body : State → State) : State :=
  let x := r.phaseRuns a.step phase
  if a.failed ≠ 0 then s.faultApply p i a.step a.failed a.failedAt
  else match (x.1 ++ x.2).find? (fun b => !s.within p b.1 b.2) with
    | some b => s.faultApply p i a.step stDENIED b.1
    | none => s.whenServed p x.1 x.2 .write (.apply p i) (fun st => body ((st.upuBegin r.upu p).trace (pDCTL r.upu) 11 i phase a.step))

/-! ## PREPARE and the decision (R270, R273) -/

/-- PREPARE of a shard's oldest apply. Where its record has been decided for the step already, before the shard faulted, that decision
stands, and the apply is skipped too when its own gradient is not finite (R273, R285). -/
def execPrepare (pt shard : Nat) (s : State) : Out :=
  .next (match s.applyOf pt shard with
  | none => s
  | some a =>
    if !s.mayPrepare pt a then s
    else s.withShard pt shard a.step (fun r s1 =>
      if crc32c (BMap.readBytes r.b 0 224) ≠ r.u 332 4 then s1.faultApply pt shard a.step stBAD_PARAM 0
      else s1.servePhase pt shard a r 1 (fun s1 =>
        let (g, xs) := (s1.putShard pt shard 272 1 (r.sstate % 4 + r.sstate / 8 * 8 + 4)).gradient pt r a.step
        g.orFault pt shard a.step (fun s2 =>
          let bad := xs.any badF
          let decision := (s2.part pt).train.lsDone.find? (fun e => e.1 == r.scaleRec && e.2.1 == a.step)
          let decided := r.scaleRec = 0 ∨ decision.isSome
          let w : Got := if r.onChisel then s2.writeElems pt r.scratch r.stateBytes (xs.map (r.toState (s2.policyZ pt))) else { st := s2 }
          w.orFault pt shard a.step (fun s3 =>
            let s4 := (s3.upuHold r.upu xs).modApply pt shard a.step (fun b => { b with phase := 2, nonFinite := bad, decided := decided })
            if (decided ∧ bad) ∨ (decision.map (·.2.2)).getD false then s4.skipApply pt shard a.step else s4)))))

/-- Changes LS_EXP and its counts (R56). -/
def lossScaleBytes (m : BMap) (bad : Bool) : BMap :=
  let l := clampLs (signed 8 (BMap.readLe m 72 1))
  let top := clampLs (signed 8 (BMap.readLe m 73 1))
  let gi := BMap.readLe m 74 2
  let clean := (BMap.readLe m 76 2 + 1) % 65536
  let put := fun (x : BMap) (l' : Int) (c : Nat) => BMap.writeLe (BMap.writeLe x 72 1 (unsigned 8 l')) 76 2 c
  if bad then
    let m1 := BMap.writeLe m 80 4 ((BMap.readLe m 80 4 + 1) % 2 ^ 32)
    if gi = 0 then m1 else put m1 (max (l - 1) (-32)) 0
  else if gi = 0 then m
  else if clean = gi then put m (min (l + 1) top) 0
  else BMap.writeLe m 76 2 clean

/-- LOSS_SCALE_UPDATE: the record is decided for the oldest step whose shards that name it have all been prepared. -/
def execLossScaleUpdate (pt record : Nat) (s : State) : Out :=
  let names := fun (a : Apply) => (s.shard pt a.shard).scaleRec == record
  let mine := (s.part pt).train.applies.filter (fun a => names a && !a.decided)
  .next (match mine.foldl (fun (m : Option Nat) a => some (min (m.getD a.step) a.step)) none with
  | none => s
  | some step =>
    let group := mine.filter (fun a => a.step == step)
    if record = 0 || group.any (fun a => a.phase != 2 || a.halted) || !s.hbmReady pt then s
    else
      let g : Got := if (s.part pt).inWindow record 128 then s.readStack record 128 true else { status := stDENIED, bad := record, st := s }
      if g.status ≠ 0 then forEach group g.st (fun a st => st.faultApply pt a.shard a.step g.status g.bad)
      else
        let bad := group.any (fun a => a.nonFinite)
        let m := lossScaleBytes (BMap.writeBytes [] 0 g.bytes) bad
        let s1 := ((g.st.writeStack record (BMap.readBytes m 0 128)).st).modTrain pt (fun t => { t with lsDone := t.lsDone ++ [(record, step, bad)] })
        if bad then forEach group s1 (fun a st => st.skipApply pt a.shard a.step)
        else forEach group s1 (fun a st => st.modApply pt a.shard a.step (fun b => { b with decided := true })))

/-! ## STATE and RULE (R274 to R277) -/

/-- A later phase of a shard's oldest apply. -/
def State.phase (s : State) (p i phase : Nat) (body : Apply → Shard → State → State) : State :=
  match s.applyOf p i with
  | none => s
  | some a => if !s.mayRun p a phase then s else s.withShard p i a.step (fun r s1 => s1.servePhase p i a r phase (body a r))

/-- Moves an apply to its next phase. -/
def State.nextPhase (s : State) (p i step : Nat) : State := s.modApply p i step (fun b => { b with phase := b.phase + 1 })

/-- The state update that the update unit computes itself, FP32 in and out: m' and u' (R274). -/
def Shard.newM (r : Shard) (m g : Nat) : Nat :=
  if r.rule = 2 then addF (mulF r.beta1 m) (mulF (subF oneF r.beta1) g) else addF (mulF r.beta1 m) g
def Shard.newU (r : Shard) (u g : Nat) : Nat := addF (mulF r.beta2 u) (mulF (subF oneF r.beta2) (mulF g g))

/-- STATE (R275). Records on the Chisel units wait while their stack is at L5 or clamped (R226). KRON's factors are matrix work of the
RULE phase. -/
def execApplyState (pt shard : Nat) (s : State) : Out :=
  .next (s.phase pt shard 2 (fun a r s1 =>
    let z := s1.policyZ pt
    let w := 1 - r.active
    if r.rule = 4 then s1.nextPhase pt shard a.step
    else if r.onChisel then
      if s1.rowsHeld (stackAt r.scratch) then s1
      else (r.stateRecords.foldl (fun (g : Got) o => g.andThen (fun st => st.runRecord pt o)) { st := s1 }).orFault pt shard a.step
        (fun st => st.nextPhase pt shard a.step)
    else
      let (g, grad) := s1.gradient pt r a.step
      let (h, ms) := g.st.readElems pt (r.stateA r.active) r.stateBytes r.n
      let (k, us) := if r.rule = 2 then h.st.readElems pt (r.stateB r.active) r.stateBytes r.n else (h, [])
      let g3 : Got := { k with status := if g.status ≠ 0 then g.status else if h.status ≠ 0 then h.status else k.status }
      g3.orFault pt shard a.step (fun s2 =>
        let g4 := s2.writeElems pt (r.stateA w) r.stateBytes ((ms.zip grad).map (fun e => r.toState z (r.newM (r.fromState e.1) e.2)))
        let g5 := if r.rule = 2 then
            g4.andThen (fun st => st.writeElems pt (r.stateB w) r.stateBytes ((us.zip grad).map (fun e => r.toState z (r.newU (r.fromState e.1) e.2))))
          else g4
        g5.orFault pt shard a.step (fun st => (st.upuHold r.upu (ms ++ us)).nextPhase pt shard a.step))))

/-- The new master of one element under MOMENTUM, and under ORTHO with X in place of m'. -/
def Shard.decayed (r : Shard) (w x : Nat) : Nat := subF w (mulF r.lr (addF x (mulF r.wdecay w)))

/-- The new master of one element under TWO_MOMENT at version k. -/
def Shard.twoMoment (r : Shard) (k w m u : Nat) : Nat :=
  let mh := divF m (subF oneF (powF r.beta1 k))
  let uh := divF u (subF oneF (powF r.beta2 k))
  subF w (mulF r.lr (addF (divF mh (addF (f32Sqrt uh).val r.eps)) (mulF r.wdecay w)))

/-- The coefficient triples of ORTHO from their bytes. -/
def triples (bytes : List Byte) : List (Nat × Nat × Nat) :=
  let xs := splitLe 4 bytes
  (List.range (xs.length / 3)).map (fun i => (xs.getD (3 * i) 0, xs.getD (3 * i + 1) 0, xs.getD (3 * i + 2) 0))

/-- The matrix work of KRON (R277): the new factors, and the roots when they are recomputed. -/
structure KronWork where
  lf    : Mat
  rf    : Mat
  roots : Option (Mat × Mat)

def Shard.kron (r : Shard) (k : Nat) (lf rf g : Mat) : KronWork :=
  let mix := fun (f x : Mat) => Mat.map2 addF (Mat.scale r.beta2 f) (Mat.scale (subF oneF r.beta2) x)
  let lf' := mix lf (Mat.mul g g.t)
  let rf' := mix rf (Mat.mul g.t g)
  let reg := fun (f : Mat) => Mat.map2 addF f (diag f.length r.eps)
  { lf := lf', rf := rf', roots := if k % max r.rootInterval 1 = 0 then some (invRoot r.rootP r.iters (reg lf'), invRoot r.rootP r.iters (reg rf')) else none }

/-- RULE: the new master, and the factors and roots of KRON, into the inactive buffers. -/
def execApplyRule (pt shard : Nat) (s : State) : Out :=
  .next (s.phase pt shard 3 (fun a r s1 =>
    let z := s1.policyZ pt
    let o := r.active
    let n := 1 - o
    let k := r.version + 1
    let (g0, ws) := s1.readElems pt (r.master o) 4 r.n
    let put := fun (st : State) (xs : List Nat) => st.writeElems pt (r.master n) 4 (xs.map (policyWrite z 6))
    let done := fun (g : Got) => g.orFault pt shard a.step (fun st => (st.upuHold r.upu ws).nextPhase pt shard a.step)
    g0.orFault pt shard a.step (fun s2 =>
      if r.rule = 4 then
        let (g1, gs) := s2.gradient pt r a.step
        let (g2, ls) := g1.st.readElems pt (r.stateA o) r.stateBytes (r.rows * r.rows)
        let (g3, rs) := g2.st.readElems pt (r.stateB o) r.stateBytes (r.cols * r.cols)
        let (g4, ro) := g3.st.readElems pt (r.root r.rootActive) 4 (r.rows * r.rows + r.cols * r.cols)
        let bad := [g1.status, g2.status, g3.status, g4.status].find? (fun x => x != 0)
        let gm := toMat r.cols gs
        let kw := r.kron k (toMat r.rows (ls.map r.fromState)) (toMat r.cols (rs.map r.fromState)) gm
        let (pl, pr) := kw.roots.getD (toMat r.rows (ro.take (r.rows * r.rows)), toMat r.cols (ro.drop (r.rows * r.rows)))
        let x := Mat.mul (Mat.mul pl gm) pr
        ({ g4 with status := bad.getD 0 } : Got).orFault pt shard a.step (fun s3 =>
          let g5 := (s3.writeElems pt (r.stateA n) r.stateBytes (kw.lf.flat.map (r.toState z))).andThen
            (fun st => st.writeElems pt (r.stateB n) r.stateBytes (kw.rf.flat.map (r.toState z)))
          let g6 := match kw.roots with
            | some q => g5.andThen (fun st => st.writeElems pt (r.root (1 - r.rootActive)) 4 ((q.1.flat ++ q.2.flat).map (policyWrite z 6)))
            | none => g5
          done (g6.andThen (fun st => put st ((ws.zip x.flat).map (fun e => r.decayed e.1 e.2)))))
      else
        let (g1, ms0) := s2.readElems pt (r.stateA n) r.stateBytes r.n
        let ms := ms0.map r.fromState
        if r.rule = 2 then
          let (g2, us) := g1.st.readElems pt (r.stateB n) r.stateBytes r.n
          ({ g2 with status := if g1.status ≠ 0 then g1.status else g2.status } : Got).orFault pt shard a.step (fun s3 =>
            done (put s3 ((ws.zip (ms.zip (us.map r.fromState))).map (fun e => r.twoMoment k e.1 e.2.1 e.2.2))))
        else if r.rule = 3 then
          let c := g1.st.readDev pt r.coef (12 * r.iters) true
          ({ c with status := if g1.status ≠ 0 then g1.status else c.status } : Got).orFault pt shard a.step (fun s3 =>
            let x := (ortho r.eps (triples c.bytes) (toMat r.cols ms)).flat
            done (put s3 ((ws.zip x).map (fun e => r.decayed e.1 (mulF r.beta2 e.2)))))
        else g1.orFault pt shard a.step (fun s3 => done (put s3 ((ws.zip ms).map (fun e => r.decayed e.1 e.2)))))))

/-! ## REGENERATE and COMMIT (R271, R272) -/

/-- REGENERATE: the working buffer of R266 from the new master, with the audit when asked for. -/
def execRegenerate (pt shard : Nat) (s : State) : Out :=
  .next (s.phase pt shard 4 (fun a r s1 =>
    let (g, d) := s1.regenInto pt r (r.master (1 - r.active)) r.bufferOut
    g.orFault pt shard a.step (fun s2 =>
      let s3 := if r.audit then
          let (t, s') := s2.stamp (.core r.upu)
          let most := f32Of d.most
          let s'' := ((s'.putShard pt shard 344 4 most).putShard pt shard 348 4 (d.many % 2 ^ 32)).putShard pt shard 352 8 t
          if d.many = 0 then s'' else s''.event (pDCTL r.upu) pt 0x000C 0 shard d.many most 0
        else s2
      s3.nextPhase pt shard a.step)))

/-- Bytes 256 to 327 of a record after a commit (R272). -/
def Shard.committed (r : Shard) (step stamp buffer : Nat) (roots : Bool) : List Byte :=
  let sst := (1 - r.active) + 2 * (if roots then 1 - r.rootActive else r.rootActive) + r.sstate / 8 % 2 * 8
  let m := BMap.writeLe (BMap.writeLe (BMap.writeLe r.b 256 8 ((r.version + 1) % 2 ^ 64)) 264 8 step) 272 1 sst
  BMap.readBytes (BMap.writeLe (BMap.writeLe m (280 + 8 * buffer) 8 step) 320 8 stamp) 256 72

/-- COMMIT: the journal entry, then the one write that makes the new version current. -/
def execCommit (pt shard : Nat) (s : State) : Out :=
  .next (s.phase pt shard 5 (fun a r s1 =>
    let roots := r.rule = 4 ∧ (r.version + 1) % max r.rootInterval 1 = 0
    let b := r.bufferOut
    let (t, s2) := s1.stamp (.core r.upu)
    let bytes := r.committed a.step t b roots
    let s3 := s2.journalAdd pt 1 (bytes.getD 16 0).toNat b shard a.step ((r.version + 1) % 2 ^ 64) 0
    let s4 := ((s3.writeStack (s3.shardAddr pt shard + 256) bytes).st).endApply pt shard a.step
    (s4.modTrain pt (fun x => { x with finished := x.finished + 1, lastDone := some shard })).noteMet pt))

end Sys2Proof.Machine
end

