-- ==== Sys2Proof/Machine/Steps.lean ====
section
/-! DEFINITION. Steps of a partition (R265, R267, R279 to R283, R371, R374): STEP_FENCE and its end, the fetch of a replica,
bindings, RUN and its end. -/

namespace Sys2Proof.Machine

open Sys2Proof

/-! ## STEP_FENCE (R265, R279, R280) -/

/-- Applies that a HALT stopped start again (R361). -/
def State.resumeApplies (s : State) (p : Nat) : State :=
  s.modTrain p (fun t => { t with applies := t.applies.map (fun a => { a with halted := false }) })

/-- Queues the applies of a step: RING_L of each owner shard's ring entry, then the apply, in shard-number order; no apply of a FAULTED
shard starts (R285). -/
def State.queueApplies (s : State) (p step : Nat) : State :=
  forEach (s.owners p) s (fun i st =>
    let r := st.shard p i
    let st1 := st.putShard p i (273 + step % (r.delay + 1)) 1 (unsigned 8 (st.stepLs p r.scaleRec))
    if r.faulted then st1 else st1.modTrain p (fun t => { t with applies := t.applies ++ [{ shard := i, step := step }] }))

/-- Closes the current step, once: the histories, the applies. The first failing status of the histories is the fence's. -/
def State.closeStep (s : State) (p : Nat) : Nat × State :=
  let t := (s.part p).train
  if t.step < t.closed then (0, s)
  else
    let h := s.historyUpdate p
    (h.1, (h.2.queueApplies p t.step).modTrain p (fun x => { x with closed := t.step + 1, fetched := [], keeps := [] }))

/-- STEP_FENCE. -/
def execStepFence (fn slot : Nat) (s : State) : Out :=
  .next (if s.canTake fn slot opSTEP_FENCE && (s.part fn).train.fence.isNone then
    let s1 := s.take fn slot
    if !(s1.cmdsOf fn (fun c => c.phase == .running && c.opcode == opRUN)).isEmpty then s1.finishCmd fn slot stBUSY
    else if !(s1.beginCmd fn slot).hbmReady fn then s
    else
      let r := ((s1.beginCmd fn slot).resumeApplies fn).closeStep fn
      let t := (r.2.part fn).train
      (r.2.modTrain fn (fun x => { x with keeps := [], fence := some { fn := fn, slot := slot, step := t.step, since := r.2.now, error := r.1 } })).noteMet fn
  else s)

/-- The status of the fault that a fence waits behind (R285): a faulted shard whose failed apply it needs. -/
def State.fenceFault (s : State) (p t : Nat) : Option Nat :=
  ((s.part p).train.faults.find? (fun e => decide (e.2.2 + (s.shard p e.1).delay ≤ t))).map (·.2.1)

/-- Ends a fence's wait and replies; the counts start again. -/
def State.endFence (s : State) (p : Nat) (w : FenceWait) (status stall : Nat) : State :=
  let t := (s.part p).train
  (s.closeFence p (fun x => { x with finished := 0, skipped := 0, faulted := 0, firstBad := none, lastDone := none, waited := 0, keeps := [] }))
    |>.modCmd w.fn w.slot (fun c => { c with result := (fenceWords t w stall t.step).map (BitVec.ofNat 64) })
    |>.finishCmd w.fn w.slot status

/-- A stall above 0 adds to the shard's STALL_NS and is recorded (R280). -/
def State.noteStall (s : State) (p stall : Nat) : State :=
  match (s.part p).train.lastDone with
  | none => s
  | some i =>
    if stall = 0 then s
    else
      let r := s.shard p i
      (s.putShard p i 336 8 ((r.u 336 8 + stall) % 2 ^ 64)).event (pDCTL r.upu) p 0x000B 0 i stall 0 0

/-- STEP_FENCE_COMPLETE: the wait of R279 has ended. A fault ends the fence without counting the step. -/
def execStepFenceComplete (fn slot : Nat) (s : State) : Out :=
  .next (match (s.part fn).train.fence with
  | none => s
  | some w =>
    if w.fn ≠ fn ∨ w.slot ≠ slot ∨ !s.inRun fn slot opSTEP_FENCE ∨ !s.hbmReady fn then s
    else
      let stall := w.stall s.now
      let all := stall + (s.part fn).train.waited
      if w.error ≠ 0 then (s.noteStall fn all).endFence fn w w.error stall
      else match s.fenceFault fn w.step with
        | some st => (s.noteStall fn all).endFence fn w st stall
        | none =>
          if !s.fenceMet fn w.step then s
          else
            let s1 := (s.noteStall fn all).copyLs fn
            let s2 := s1.modTrain fn (fun t => { t with step := t.step + 1, fetched := [] })
            let s3 := s2.journalAdd fn 4 0 0xFF 0xFFFFFFFF w.step 0 ((s2.part fn).train.step % 2 ^ 32)
            s3.endFence fn w stOK stall)

/-! ## Replicas (R281, R282) -/

/-- The owner's buffer that a replica takes at the fence of step t: the largest tag not above t - D. -/
def newestTag (tags : List Int) (bound : Int) : Option (Nat × Int) :=
  (List.range tags.length).foldl (fun (best : Option (Nat × Int)) k =>
    let g := tags.getD k (-2)
    if g = -2 ∨ (bound < g ∧ g ≠ -1) then best
    else match best with
      | none => some (k, g)
      | some b => if b.2 < g then some (k, g) else best) none

/-- The working buffer's bytes laid out in the replica: elements, then the scale plane. -/
def State.writeReplica (s : State) (p : Nat) (r : Shard) (k : Nat) (data scales : List Byte) : Got :=
  (s.writeDev p (r.work k) (data.take r.workBytes)).andThen (fun st =>
    if r.planeBytes = 0 then { st := st } else st.writeDev p (r.wscale k) (scales.take r.planeBytes))

/-- A fence fails over a replica shard. -/
def State.failFence (s : State) (p i status : Nat) : State :=
  s.modTrain p (fun t => { t with fence := t.fence.map (fun w => if w.error = 0 then { w with error := status, shard := i } else w) })

/-- Begins a stage of a fetch: reads of the owner's module, each verified, its own memory at once (R29, R185, R298). -/
def State.fetchRuns (s : State) (p i : Nat) (x : Fetch) (rs : List (Nat × Nat)) : State :=
  let s1 := s.modTrain p (fun t => { t with fetches := Tbl.set none t.fetches i (some x) })
  forEach rs s1 (fun r st =>
    let o : Owner := .replica p i
    if st.runStatus p r.1 r.2 ≠ 0 then st.failOwner o (st.runStatus p r.1 r.2) r.1
    else match st.localAddr r.1, engineAddr r.1 with
      | some a, _ =>
        let g := st.readDev p a r.2 true
        if g.status ≠ 0 then g.st.failOwner o g.status g.bad else g.st.modFetch p i (fun y => { y with buf := BMap.writeBytes y.buf r.1 g.bytes })
      | none, .remote j a => st.remoteRead (st.part p).domain j a r.2 o true
      | none, _ => st.failOwner o stDENIED r.1)

/-- The owner's buffer `k` in its module, elements and scale plane, as engine addresses (R281). -/
def Shard.ownerRuns (r own : Shard) (k : Nat) : List (Nat × Nat) :=
  let base := r.peer / 2 ^ 48 * 2 ^ 48
  [(base + own.work k % 2 ^ 48, r.workBytes)] ++ (if r.planeBytes = 0 then [] else [(base + own.wscale k % 2 ^ 48, r.planeBytes)])

/-- REPLICA_FETCH: the next thing the fetch of a replica does for the waiting fence of a step. It reads the owner's record, again every 10 us until the owner is far
enough; then, where that buffer is newer, it copies it and reads its tag again (R281, R282). -/
def execReplicaFetch (pt shard step : Nat) (s : State) : Out :=
  .next (match (s.part pt).train.fence with
  | none => s
  | some w =>
    let r := s.shard pt shard
    let bound : Int := (w.step : Int) - r.delay
    if w.step != step || !((s.replicas pt).contains shard) || (s.part pt).train.fetched.contains shard || w.error != 0 || !s.hbmReady pt then s
    else
      let record := [(r.peer, 512)]
      let done := fun (st : State) => (st.modTrain pt (fun t => { t with
        fetched := t.fetched ++ [shard], lastDone := some shard, fetches := Tbl.set none t.fetches shard none })).noteMet pt
      match Tbl.get none (s.part pt).train.fetches shard with
      | none => s.fetchRuns pt shard { since := s.now } record
      | some x =>
        let own : Shard := ⟨BMap.writeBytes [] 0 (BMap.readBytes x.buf r.peer 512)⟩
        if x.failed ≠ 0 then s.failFence pt shard x.failed
        else if x.waits ≠ 0 then s
        else if x.stage = 1 then
          if own.lastStep < bound then (if s.now < x.since + 10000 then s else s.fetchRuns pt shard { since := s.now } record)
          else match newestTag ((List.range own.buffers).map own.wtag) bound with
            | none => done s
            | some (k, tag) =>
              if (List.range r.buffers).any (fun k => decide (tag ≤ r.wtag k)) then done s
              else (s.putShard pt shard (280 + 8 * r.bufferOut) 8 (2 ^ 64 - 2)).fetchRuns pt shard
                { x with stage := 2, buffer := k, tag := tag } (r.ownerRuns own k)
        else if x.stage = 2 then
          let runs := (r.ownerRuns own x.buffer).map (fun e => BMap.readBytes x.buf e.1 e.2)
          let g := s.writeReplica pt r r.bufferOut (runs.getD 0 []) (runs.getD 1 [])
          if g.status ≠ 0 then g.st.failFence pt shard g.status
          else g.st.fetchRuns pt shard { x with stage := 3, buf := [] } [(r.peer + 280 + 8 * x.buffer, 8)]
        else if signed 64 (BMap.readLe x.buf (r.peer + 280 + 8 * x.buffer) 8) ≠ x.tag then s.failFence pt shard stDATA_ERROR
        else done (s.putShard pt shard (280 + 8 * r.bufferOut) 8 (unsigned 64 x.tag)))

/-! ## RUN (R267, R371) -/

/-- The bindings of a RUN packet. -/
def Cmd.bindings (c : Cmd) : List Nat := (List.range (bits (c.param 0 8) 12 8)).map (fun i => c.param (8 + 8 * i) 8)

def bindShard (b : Nat) : Nat := bits b 31 16
def bindGrad (b : Nat) : Bool := bits b 33 32 = 1

/-- The step a partition is in. -/
def State.step' (s : State) (p : Nat) : Nat := (s.part p).train.step

/-- Whether a binding may be made. -/
def State.bindOk (s : State) (p b : Nat) : Bool :=
  let r := s.shard p (bindShard b)
  bits b 33 32 < 2 && bits b 63 37 == 0 && bits b 7 5 == 0 && bindShard b < (s.part p).train.shards && !r.faulted &&
    (if bindGrad b then bits b 36 34 < r.ties else (r.bufferFor ((s.step' p : Int) - r.delay - 1)).isSome)

/-- The record of a replica's owner: in this module, or as read from another one. -/
def State.ownerRec (s : State) (buf : BMap) (r : Shard) : Shard :=
  match s.localAddr r.peer with
  | some a => ⟨BMap.writeBytes [] 0 (BMap.readBytes s.mem a 512)⟩
  | none => ⟨BMap.writeBytes [] 0 (BMap.readBytes buf r.peer 512)⟩

/-- BASE and SCALE_BASE that a binding writes (R267); a GRAD binding leaves SCALE_BASE. -/
def State.bound (s : State) (p b : Nat) (buf : BMap) : Nat × Option Nat :=
  let r := s.shard p (bindShard b)
  let t := s.step' p
  if bindGrad b then
    if r.replica then (r.peer / 2 ^ 48 * 2 ^ 48 + (s.ownerRec buf r).slotAddr t (bits b 36 34) % 2 ^ 48, none)
    else (r.slotAddr t (bits b 36 34), none)
  else
    let k := (r.bufferFor ((t : Int) - r.delay - 1)).getD 0
    (r.work k, some (r.wscale k))

/-- Tiles of a program that a binding names. -/
def State.boundTiles (s : State) (p g b : Nat) : List Nat :=
  (s.program p g).tiles.filter (fun t => bit b 4 || (Tbl.get 0 (s.part p).sets (bits b 3 0)).getLsbD t)

/-- Writes the bound fields into the named descriptor of each tile. -/
def State.bindAll (s : State) (p g : Nat) (bs : List Nat) (buf : BMap) : State :=
  forEach bs s (fun b st =>
    let (base, sbase) := st.bound p b buf
    forEach (st.boundTiles p g b) st (fun t st' => st'.modTile t (fun x =>
      let a := x.descBase + 64 * bits b 15 8
      if x.descCount ≤ bits b 15 8 then x
      else
        let m := BMap.writeLe x.store a 8 base
        { x with store := match sbase with | some w => BMap.writeLe m (a + 8) 8 w | none => m })))

/-- An engine at a program's start. -/
def EngineState.started (e : EngineState) : EngineState := { imem := e.imem }

/-- A tile at a program's start (R57, R125, R128, R371). -/
def Tile.started (t : Tile) : Tile :=
  { t.halted with
    running := true, flags := 0, steps := 0, stream := false, f := t.f.started, m := t.m.started, v := t.v.started, s := t.s.started
    tokens := (List.range 32).foldl (fun k i => Tbl.set 0 k i (t.tokenInit i)) []
    rings := (List.range 16).foldl (fun k i => Tbl.set {} k i { free := t.ringSlots i }) [] }

/-- Releases a program's tiles and ATPs. -/
def State.launch (s : State) (p g f n : Nat) : State :=
  let q := s.program p g
  let s1 := forEach q.tiles s (fun t st => (st.modTile t Tile.started).watch t)
  let s2 := forEach q.atps s1 (fun a st => st.modAtp a (fun x => { x.halted with running := true, ended := false, pc := 0, flags := 0, gated := false }))
  s2.setProgram p g { q with cmd := some (f, n), stop := none }

/-- The check of RUN. -/
def State.runCheck (s : State) (f : Nat) (c : Cmd) : Nat :=
  let g := c.param 0 1
  let q := s.program f g
  let w := c.param 0 8
  if bits w 63 13 ≠ 0 ∨ 24 < bits w 12 8 ∨ !q.loaded then stBAD_PARAM
  else if !c.bindings.isEmpty ∧ (!(s.part f).train.isSetUp ∨ !c.bindings.all (s.bindOk f)) then stBAD_PARAM
  else if q.cmd.isSome ∨ (s.part f).train.fence.isSome ∨ s.draining q.tiles q.atps then stBUSY
  else if (s.part f).hbm = 0 ∨ (s.part f).sections = 0 then stNO_RESOURCE
  else 0

/-- Owners' records in other modules that the GRAD bindings need (R267). -/
def State.remotePeers (s : State) (f : Nat) (bs : List Nat) : List Nat :=
  ((bs.filter bindGrad).map (fun b => s.shard f (bindShard b))).filterMap (fun r =>
    if r.replica ∧ (s.localAddr r.peer).isNone then some r.peer else none) |>.eraseDups

/-- Binds and starts, once every owner's record is there. -/
def State.runNow (s : State) (f n : Nat) : State :=
  let c := s.cmd f n
  let g := c.param 0 1
  if c.failed ≠ 0 then (s.setProgram f g { (s.program f g) with cmd := none }).finishCmd f n c.failed
  else if c.reads ≠ 0 then s
  else
    let s1 := ((s.bindAll f g c.bindings c.buf).launch f g f n).modCmd f n (fun x => { x with stage := 2 })
    s1.traceDies (s1.program f g) 9 g id

/-- RUN. -/
def execRun (fn slot : Nat) (s : State) : Out :=
  .next (if s.canTake fn slot opRUN then
      let s1 := s.take fn slot
      let c := s1.cmd fn slot
      let st := s1.runCheck fn c
      if st ≠ 0 then s1.finishCmd fn slot st
      else if !(s1.beginCmd fn slot).hbmReady fn then s
      else
        let g := c.param 0 1
        let s2 := ((s1.beginCmd fn slot).modCmd fn slot (fun x => { x with stage := 1 })).resumeApplies fn
        let s3 := s2.setProgram fn g { (s2.program fn g) with cmd := some (fn, slot) }
        let s4 := forEach (s3.remotePeers fn c.bindings) s3 (fun a st' => match engineAddr a with
          | .remote i d => st'.remoteRead (st'.part fn).domain i d 512 (.command fn slot) true
          | _ => st')
        s4.runNow fn slot
    else if s.inRun fn slot opRUN && (s.cmd fn slot).stage == 1 then s.runNow fn slot
    else s)

/-- Whether a tile and an ATP have done their part of a program. -/
def Tile.over' (t : Tile) : Bool := !t.running || t.finished
def Atp.over' (a : Atp) : Bool := !a.running || (a.ended && a.active.isEmpty)

/-- RUN_COMPLETE: every tile and ATP has ended or stopped; the first stop gives the status. -/
def execRunComplete (fn slot : Nat) (s : State) : Out :=
  let c := s.cmd fn slot
  let g := c.param 0 1
  let q := s.program fn g
  .next (if s.inRun fn slot opRUN && c.stage == 2 && q.cmd == some (fn, slot) && q.tiles.all (fun t => (s.tile t).over') && q.atps.all (fun n => (s.atp n).over') then
    let s1 := forEach q.tiles s (fun t st => st.modTile t (fun x => if x.running then x.halted else x))
    let s2 := forEach q.atps s1 (fun n st => st.modAtp n (fun x => if x.running then x.halted else x))
    let rs := s2.runResults fn g
    let s3 := s2.setProgram fn g { q with cmd := none, stop := none }
    (s3.modCmd fn slot (fun x => { x with result := rs.map (BitVec.ofNat 64) })).finishCmd fn slot ((q.stop.map (·.status)).getD stOK)
  else s)

end Sys2Proof.Machine
end

