-- ==== Sys2Proof/Machine/Attention.lean ====
section
/-! DEFINITION. Attention pipelines (R139 to R163): job records and their checks, the input stage, the two product stages and
the soft maximum, the writing of a context, and the merging of partials. -/

namespace Sys2Proof.Machine

open Sys2Proof

/-! ## Job records (R142, R143) -/

/-- The fields of a job record. -/
structure JobRec where
  kind      : Nat
  mask      : Nat
  dhCode    : Nat
  rope      : Nat
  rows      : Nat
  ropeDims  : Nat
  kvSrc     : Nat
  kvHead    : Nat
  window    : Nat
  scale     : Nat
  ctx       : Nat
  qDesc     : Nat
  oDesc     : Nat
  rowMeta   : Nat
  lse       : Nat
  kDesc     : Nat
  vDesc     : Nat
  kMeta     : Nat
  kFirst    : Nat
  kCount    : Nat
  freq      : Nat
  gate      : Nat
  gateValue : Nat
  gateStep  : Int
  doneTile  : Nat
  doneCtl   : Nat
  doneGate  : Nat
  pads      : Nat      -- bytes marked zero
  deriving DecidableEq, Repr, Inhabited

/-- Reads record `r` of an ATP's job memory. -/
def Atp.jobRec (a : Atp) (r : Nat) : JobRec :=
  let f := fun o n => BMap.readLe a.jobs (128 * r + o) n
  { kind := f 0 1, mask := f 1 1, dhCode := f 2 1, rope := f 3 1, rows := f 4 2, ropeDims := f 6 2, kvSrc := f 8 1, kvHead := f 9 1,
    window := f 12 4, scale := f 16 4, ctx := f 20 4, qDesc := f 24 8, oDesc := f 32 8, rowMeta := f 40 8, lse := f 48 8, kDesc := f 56 8,
    vDesc := f 64 8, kMeta := f 72 8, kFirst := f 80 4, kCount := f 84 4, freq := f 88 8, gate := f 96 8, gateValue := f 104 8,
    gateStep := signed 32 (f 112 4), doneTile := f 116 1, doneCtl := f 117 1, doneGate := f 120 8, pads := f 10 2 + f 118 2 }

def JobRec.causal (j : JobRec) : Bool := bit j.mask 0
def JobRec.windowed (j : JobRec) : Bool := bit j.mask 1
def JobRec.segmented (j : JobRec) : Bool := bit j.mask 2
def JobRec.lseEn (j : JobRec) : Bool := bit j.mask 3
def JobRec.advances (j : JobRec) : Bool := bit j.mask 4
def JobRec.dh (j : JobRec) : Nat := 32 * (j.dhCode + 1)
def JobRec.dense (j : JobRec) : Bool := j.kvSrc == 1
def JobRec.doneToken (j : JobRec) : Nat := bits j.doneCtl 4 0
def JobRec.doneSignal (j : JobRec) : Bool := bit j.doneCtl 5
def JobRec.doneAdd (j : JobRec) : Bool := bit j.doneCtl 6

/-- ROPE and ROPE_DIMS fit together. -/
def JobRec.ropeOk (j : JobRec) : Bool :=
  if j.rope = 0 then j.ropeDims == 0 else j.rope < 3 && j.ropeDims % 2 == 0 && 2 ≤ j.ropeDims && j.ropeDims ≤ j.dh

/-- Whether the fields follow R142 and R143; LOOP and END use no other field than their own. -/
def JobRec.formed (j : JobRec) : Bool :=
  let common := j.dhCode < 8 && 1 ≤ j.rows && j.rows ≤ 64 && j.gate % 8 == 0 && j.doneGate % 8 == 0 && j.doneCtl < 128
  let zero := fun (xs : List Nat) => xs.all (fun x => x == 0)
  let plain := zero [j.mask, j.dhCode, j.rope, j.kvSrc, j.kvHead, j.window, j.scale, j.ctx, j.qDesc, j.oDesc, j.rowMeta, j.lse, j.kDesc, j.vDesc,
    j.kMeta, j.kFirst, j.kCount, j.freq, j.gate, j.gateValue, j.doneTile, j.doneCtl, j.doneGate] && j.gateStep == 0
  j.pads == 0 &&
  (if j.kind = 0 then
    common && j.mask < 16 && j.ropeOk && j.kvSrc < 2 && j.rowMeta % 8 == 0 && j.lse % 4 == 0 && j.window ≤ 2 ^ 23 &&
    (!j.windowed || 1 ≤ j.window) &&
    (if j.dense then zero [j.kvHead, j.ctx] && j.kMeta % 8 == 0 && 1 ≤ j.kCount && j.kCount ≤ 2 ^ 23
     else j.ctx < 2 ^ 18 && zero [j.kDesc, j.vDesc, j.kMeta])
  else if j.kind = 1 then
    common && (j.mask == 0 || j.mask == 16) && j.ropeOk && j.ctx < 2 ^ 18 &&
    zero [j.kvSrc, j.window, j.scale, j.qDesc, j.oDesc, j.rowMeta, j.lse, j.kMeta, j.kFirst, j.kCount]
  else if j.kind = 2 then
    common && (j.mask == 0 || j.mask == 8) && 2 ≤ j.kCount && j.kCount ≤ 64 && j.lse % 4 == 0 && j.kMeta % 8 == 0 &&
    zero [j.rope, j.ropeDims, j.kvSrc, j.kvHead, j.window, j.scale, j.ctx, j.rowMeta, j.kDesc, j.vDesc, j.kFirst, j.freq]
  else if j.kind = 3 then plain && 1 ≤ j.ropeDims && j.ropeDims < 1024
  else j.kind == 4 && plain && zero [j.rows, j.ropeDims])

/-! ## Reading what a job needs -/

/-- What an attempt to read gives: a failure, the bytes by engine address, or neither while something is awaited. -/
structure Need where
  status : Nat := 0
  bad    : Nat := 0
  ready  : Bool := false
  mem    : BMap := []
  st     : State

/-- The partition an ATP runs for. -/
def State.atpPart (s : State) (n : Nat) : Nat := (((s.atp n).program).map (·.1)).getD 0

def State.job (s : State) (n id : Nat) : Job := ((s.atp n).active.find? (fun j => j.id == id)).getD {}

/-- Counts a job's access on the tiered pages it has not counted yet (R237). -/
def State.countJob (s : State) (n id : Nat) (rs : List (Nat × Nat)) : State :=
  let p := s.atpPart n
  let old := (s.job n id).counted
  let pages := ((tierNeeds rs).map (·.1)).filter (fun g => !old.contains g)
  (forEach pages s (fun g st => let x := st.page p g; st.setPage p g { x with count := min 255 (x.count + 1) })).modJob n id
    (fun j => { j with counted := old ++ pages })

/-- Whether stacks take the accesses of a job now; one that follows another in the same step does not wait for the regulators again
(assumption 27). -/
def State.jobMay (s : State) (p : Nat) (runs : List (Nat × Nat)) (follows : Bool) : Bool :=
  runs.all (fun r => if follows then s.stacksServe p r.1 r.2 else s.answers p r.1 r.2)

/-- Reads runs for a job, every block verified (R185): runs elsewhere are asked for once and awaited; a host address is an ATP fault
(R338). -/
def State.need (s : State) (n id : Nat) (runs : List (Nat × Nat)) (follows : Bool := false) : Need :=
  let p := s.atpPart n
  let j := s.job n id
  match runs.find? (fun r => hostRun r.1) with
  | some r => { status := stBAD_PARAM, bad := r.1, st := s }
  | none =>
    match s.firstDenied p runs with
    | some (st, a) => { status := st, bad := a, st := s }
    | none =>
      let away := (runs.filter (fun r => (s.localAddr r.1).isNone)).filter (fun r => !j.asked.contains r)
      let here := s.localRuns runs
      if !away.isEmpty then
        { st := (forEach away s (fun r st =>
            match engineAddr r.1 with
            | .remote i a => st.remoteRead (st.part p).domain i a r.2 (.atp n id) true
            | _ => st)).modJob n id (fun x => { x with asked := x.asked ++ away }) }
      else if j.waits ≠ 0 then { st := s }
      else
        let (ready, s1) := (s.countJob n id here).askTier p here .read (.atp n id)
        if !ready || !s1.jobMay p here follows then { st := s1 }
        else
        runs.foldl (fun (g : Need) r =>
          if g.status ≠ 0 then g
          else
            let x := g.st.gather p [r] true j.buf
            if x.status ≠ 0 then { g with status := x.status, bad := x.bad, st := x.st, ready := false }
            else { g with mem := BMap.writeBytes g.mem r.1 x.bytes, st := x.st }) { ready := true, st := s1 }

/-- Goes on when the bytes are there; a failure ends the job as an ATP fault. -/
def Need.andThen (g : Need) (n record : Nat) (k : BMap → State → State) : State :=
  if g.status ≠ 0 then g.st.atpFault n record g.status g.bad else if g.ready then k g.mem g.st else g.st

/-- A descriptor that a job names (R143): in memory, no ring, advanced by the ATP's loops. -/
def atpView (m : BMap) (w : Nat) (indices : List Nat) : Option View :=
  let d := readDesc m w
  if w % 64 ≠ 0 ∨ d.ts ∨ d.ringEn then none else d.resolve (indices.getD d.iterLoop 0) 0 (fun _ => none)

/-- Whether a view has the given leading extents and 1 beyond. -/
def View.shaped (v : View) (e : List Nat) : Bool := v.ext == e ++ List.replicate (5 - e.length) 1

/-! ## FP32 helpers -/

/-- A value with the flags raised on its way. -/
abbrev Flagged := Nat × BitVec 6

/-- The MAX of R58 on FP32 bits. -/
def maxF (x y : Nat) : Nat := f32Of (Val.max (f32 x) (f32 y))

/-- Pairwise sum of a list whose length is 2^`depth`, FP32 RNE. -/
def treeF (depth : Nat) (xs : List Nat) : Flagged := pairTree f32Add depth xs

/-- FP32 minus zero, minus infinity and the canonical quiet NaN (R39). -/
def negZeroF : Nat := 2 ^ 31
def negInfF : Nat := 0xFF800000
def nanF : Nat := 0x7FC00000

/-- OR of the flags of a list, and its values. -/
def gatherFlags (xs : List Num) : List Nat × BitVec 6 := (xs.map (·.val), xs.foldl (fun f x => f ||| x.flags) 0)

/-! ## Rotary encoding (R149) -/

/-- The turn's fraction: exact, with the sign of the product. -/
def turnFraction (pos freq : Nat) : Val :=
  match (Val.mul (Val.ofInt pos) (f32 freq)).1 with
  | .fin neg m e => if 0 ≤ e then .fin neg 0 0 else .fin neg (m % 2 ^ (-e).toNat) e
  | _ => .nan

/-- Cosine and sine of 2 pi t for a turn's fraction t, each a free value within 2 ulp of the exact one. -/
def rotation (t : Val) : Nat × Nat :=
  match t with
  | .fin _ _ _ =>
    let w := BitVec.ofNat 64 (encodeFloat fFP64 .rne 1 t).val
    (near2Ulp t.turn.1 (Config.cos2pi w).toNat, near2Ulp t.turn.2 (Config.sin2pi w).toNat)
  | _ => (nanF, nanF)

/-- Rotates pair (a, b) of a vector. -/
def rotatePair (t : Val) (a b : Nat) (x : List Nat) : List Nat × BitVec 6 :=
  let (c, sn) := rotation t
  let u := f32 (x.getD a 0)
  let v := f32 (x.getD b 0)
  let uc := Val.mul u (f32 c)
  let vs := Val.mul v (f32 sn)
  let us := Val.mul u (f32 sn)
  let vc := Val.mul v (f32 c)
  let p := toF32 (Val.add uc.1 vs.1.neg)
  let q := toF32 (Val.add us.1 vc.1)
  let operandNan := u.isNan || v.isNan || (f32 c).isNan
  ((x.set a p.val).set b q.val, if operandNan then 0 else p.flags ||| q.flags ||| uc.2 ||| vs.2 ||| us.2 ||| vc.2)

/-- Rotates a vector of FP32 bits at a position. -/
def rotate (rope dims pos : Nat) (freqs x : List Nat) : List Nat × BitVec 6 :=
  if rope = 0 then (x, 0)
  else (List.range (dims / 2)).foldl (fun acc i =>
    let r := rotatePair (turnFraction pos (freqs.getD i 0)) (if rope = 1 then 2 * i else i) (if rope = 1 then 2 * i + 1 else i + dims / 2) acc.1
    (r.1, acc.2 ||| r.2)) (x, 0)

/-- Converts a vector into blocks of 32 along dh (R51, BLOCK mode, RNE): element fields and scales. -/
def toBlocks (fmt : Nat) (x : List Nat) : List Nat × List Nat × BitVec 6 :=
  (List.range (x.length / 32)).foldl (fun acc b =>
    let r := convertBlock fmt .rne none (((x.drop (32 * b)).take 32).map f32) 1
    (acc.1 ++ r.q, acc.2.1 ++ [r.e8], acc.2.2 ||| r.flags)) ([], [], 0)

/-! ## The input stage (R148) -/

/-- A prepared row: elements and the scale of each block of 32. -/
structure Row where
  q : List Int
  e : List Nat
  deriving DecidableEq, Repr, Inhabited

/-- The FP32 bits of row `r` of a BF16 or FP32 view. -/
def View.rowF (v : View) (m : BMap) (r : Nat) : List Nat := (List.range (v.ext.getD 0 0)).map (fun i => f32Of (v.value m [i, r, 0, 0, 0]))

/-- Frequencies of the rotary table. -/
def JobRec.freqs (j : JobRec) (m : BMap) : List Nat := (List.range (j.ropeDims / 2)).map (fun i => BMap.readLe m (j.freq + 4 * i) 4)

/-- POS and SEG of an entry of metadata (R144). -/
def metaPos (m : BMap) (base i : Nat) : Nat := BMap.readLe m (base + 8 * i) 4 % 2 ^ 23
def metaSeg (m : BMap) (base i : Nat) : Nat := BMap.readLe m (base + 8 * i + 4) 2

/-- Prepares the query rows. -/
def JobRec.queries (j : JobRec) (m : BMap) (v : View) : List Row × BitVec 6 :=
  (List.range j.rows).foldl (fun acc r =>
    if v.fmt = 0 then
      (acc.1 ++ [{ q := (List.range j.dh).map (fun i => elemInt 0 (v.getElem m [i, r, 0, 0, 0])),
                   e := (List.range (j.dh / 32)).map (fun b => v.getScale m [32 * b, r, 0, 0, 0]) }], acc.2)
    else
      let x := rotate j.rope j.ropeDims (metaPos m j.rowMeta r) (j.freqs m) (v.rowF m r)
      let y := toBlocks 0 x.1
      (acc.1 ++ [{ q := y.1.map (elemInt 0), e := y.2.1 }], acc.2 ||| x.2 ||| y.2.2)) ([], 0)

/-! ## Key blocks (R145, R146, R150 to R152) -/

/-- A key of a block: its position and segment, and its index in the K and V views. -/
structure Key where
  slot : Nat      -- place in the block, 0-255
  pos  : Nat
  seg  : Nat
  idx  : Nat
  deriving DecidableEq, Repr, Inhabited

/-- `allowed(r, k)` of R146, with the row's position and segment. -/
def JobRec.allowed (j : JobRec) (pos seg : Nat) (k : Key) : Bool :=
  seg != 0xFFFF && k.seg != 0xFFFF && (!j.segmented || k.seg == seg) && (!j.causal || decide (k.pos ≤ pos)) &&
  (!j.windowed || decide (pos < k.pos + j.window))

/-- The score of a row and a key (R150). -/
def score (dh scale : Nat) (row : Row) (kv : View) (m : BMap) (k : Key) : Flagged :=
  let x := gatherFlags ((List.range (dh / 32)).map (fun b =>
    let eq := row.e.getD b 0
    let ek := kv.getScale m [32 * b, k.idx, 0, 0, 0]
    if eq = 0xFF ∨ ek = 0xFF then { val := nanF }
    else if eq = 0 ∨ ek = 0 then { val := 0 }
    else
      let sum := (List.range 32).foldl (fun (a : Int) i =>
        a + row.q.getD (32 * b + i) 0 * elemInt kv.fmt (kv.getElem m [32 * b + i, k.idx, 0, 0, 0])) 0
      toF32 ((Val.ofInt sum).scale ((eq : Int) - 127 + ((ek : Int) - 127)), 0)))
  let dot := treeF 3 (padTo 8 negZeroF x.1)
  let y := f32Mul dot.1 scale
  (y.val, x.2 ||| dot.2 ||| y.flags)

/-- One key's term of an output element (R152). -/
def pvTerm (pq ep : Nat) (vv : View) (m : BMap) (k : Key) (i : Nat) : Num :=
  let ev := vv.getScale m [i, k.idx, 0, 0, 0]
  if ep = 0xFF ∨ ev = 0xFF then { val := nanF }
  else if ep = 0 ∨ ev = 0 then { val := 0 }
  else toF32 ((Val.ofInt ((pq : Int) * elemInt vv.fmt (vv.getElem m [i, k.idx, 0, 0, 0]))).scale ((ep : Int) - 127 + ((ev : Int) - 127)), 0)

/-- One row takes one key block (R151, R152): `keys` are the allowed keys with their scores, at least one. -/
def RowAcc.take (a : RowAcc) (dh : Nat) (keys : List (Key × Nat)) (vv : View) (m : BMap) : RowAcc × BitVec 6 :=
  let mb := keys.foldl (fun x k => maxF x k.2) negInfF
  let mnew := maxF a.m.toNat mb
  let d := f32Sub a.m.toNat mnew
  let alpha := fExp2 d.val
  let at' := fun i => keys.find? (fun k => k.1.slot == i)
  let ps := gatherFlags ((List.range 256).map (fun i => match at' i with
    | some k => let e := f32Sub k.2 mnew; let x := fExp2 e.val; { x with flags := x.flags ||| e.flags }
    | none => { val := 0 }))
  let (q, e, f) := toBlocks 1 ps.1
  let hat := gatherFlags ((List.range 256).map (fun i => toF32 ((Val.ofInt (q.getD i 0)).scale ((e.getD (i / 32) 0 : Int) - 127), 0)))
  let sum := treeF 8 hat.1
  let l := f32Fma a.l.toNat alpha.val sum.1
  let os := (List.range dh).foldl (fun (acc : Tbl (BitVec 32) × BitVec 6) i =>
    let t := gatherFlags ((List.range 256).map (fun k => match at' k with
      | some key => pvTerm (q.getD k 0) (e.getD (k / 32) 0) vv m key.1 i
      | none => { val := 0 }))
    let c := treeF 8 t.1
    let o := f32Fma (Tbl.get 0 a.o i).toNat alpha.val c.1
    (Tbl.set 0 acc.1 i (BitVec.ofNat 32 o.val), acc.2 ||| t.2 ||| c.2 ||| o.flags)) (a.o, 0)
  ({ m := BitVec.ofNat 32 mnew, l := BitVec.ofNat 32 l.val, o := os.1, any := true, bad := a.bad || keys.any (fun k => !(f32 k.2).isFinite) },
   d.flags ||| alpha.flags ||| ps.2 ||| f ||| hat.2 ||| sum.2 ||| l.flags ||| os.2)

/-- All rows take a key block. -/
def JobRec.block (j : JobRec) (rows : List Row) (inputs : BMap) (keys : List Key) (kv vv : View) (m : BMap) (accs : Tbl RowAcc) : Tbl RowAcc × BitVec 6 :=
  (List.range j.rows).foldl (fun (acc : Tbl RowAcc × BitVec 6) r =>
    let ks := keys.filter (j.allowed (metaPos inputs j.rowMeta r) (metaSeg inputs j.rowMeta r))
    if ks.isEmpty then acc
    else
      let scored := ks.map (fun k => (k, score j.dh j.scale (rows.getD r default) kv m k))
      let x := (Tbl.get {} accs r).take j.dh (scored.map (fun e => (e.1, e.2.1))) vv m
      (Tbl.set {} acc.1 r x.1, scored.foldl (fun f e => f ||| e.2.2) (acc.2 ||| x.2))) (accs, 0)

/-- Runs of a job's output, and the flags of its making. -/
abbrev OutRuns := List (Nat × List Byte) × BitVec 6

/-- Row `r` written to O_DESC, and its LSE (R59, R147, R153, R154): FP32 values, the LSE's address if it is written. -/
def rowOut (o : View) (z : Bool) (r : Nat) (xs : List Nat) (lse : Option (Nat × Nat)) : OutRuns :=
  let es := xs.mapIdx (fun i x =>
    let e := toFmt o.fmt .rne 1 (f32 x)
    ((((o.elemAddr [i, r, 0, 0, 0]).1 % 2 ^ 64).toNat, natLe (policyWrite z o.fmt e.val) o.elemBytes), e.flags))
  (es.map (·.1) ++ (match lse with
    | some (a, v) => [(a, natLe (policyWrite z 6 v) 4)]
    | none => []), es.foldl (fun f e => f ||| e.2) 0)

/-- The outputs of one row of an ATTEND (R147, R153, R154): elements, LSE, flags. -/
def RowAcc.finish (a : RowAcc) (dh : Nat) (lseEn : Bool) : List Nat × Nat × BitVec 6 :=
  if !a.any then (List.replicate dh 0, negInfF, 0)
  else if a.bad then (List.replicate dh nanF, nanF, 0)
  else
    let inv := fRcp a.l.toNat
    let xs := gatherFlags ((List.range dh).map (fun i => f32Mul (Tbl.get 0 a.o i).toNat inv.val))
    let lg := fLog2 a.l.toNat
    let lse := f32Add a.m.toNat lg.val
    (xs.1, lse.val, inv.flags ||| xs.2 ||| (if lseEn then lg.flags ||| lse.flags else 0))

/-- The outputs of an ATTEND. -/
def JobRec.outputs (j : JobRec) (o : View) (z : Bool) (accs : Tbl RowAcc) : OutRuns :=
  (List.range j.rows).foldl (fun (acc : OutRuns) r =>
    let x := (Tbl.get {} accs r).finish j.dh j.lseEn
    let y := rowOut o z r x.1 (if j.lseEn then some (j.lse + 4 * r, x.2.1) else none)
    (acc.1 ++ y.1, acc.2 ||| x.2.2 ||| y.2)) ([], 0)

/-! ## COMBINE (R161) -/

/-- One row of a COMBINE: outputs, LSE and flags. -/
def combineRow (dh : Nat) (os : Nat → Nat → Nat) (lses : List Nat) : List Nat × Nat × BitVec 6 :=
  let m := lses.foldl maxF negInfF
  if m = negInfF then (List.replicate dh 0, negInfF, 0)
  else
    let ws := gatherFlags (lses.map (fun x => let d := f32Sub x m; let e := fExp2 d.val; { e with flags := e.flags ||| d.flags }))
    let w := treeF 6 (padTo 64 negZeroF ws.1)
    let inv := fRcp w.1
    let xs := gatherFlags ((List.range dh).map (fun j =>
      let t := gatherFlags (ws.1.mapIdx (fun i wi => f32Mul wi (os i j)))
      let c := treeF 6 (padTo 64 negZeroF t.1)
      let r := f32Mul c.1 inv.val
      { r with flags := r.flags ||| t.2 ||| c.2 }))
    let lg := fLog2 w.1
    let lse := f32Add m lg.val
    (xs.1, lse.val, ws.2 ||| w.2 ||| inv.flags ||| xs.2 ||| lg.flags ||| lse.flags)

/-- The outputs of a COMBINE. -/
def JobRec.combined (j : JobRec) (m : BMap) (q o : View) (z : Bool) : OutRuns :=
  (List.range j.rows).foldl (fun (acc : OutRuns) r =>
    let x := combineRow j.dh (fun i k => q.getElem m [k, r, i, 0, 0]) ((List.range j.kCount).map (fun i => BMap.readLe m (j.lse + 4 * (j.rows * i + r)) 4))
    let y := rowOut o z r x.1 (if j.lseEn then some (j.kMeta + 4 * r, x.2.1) else none)
    (acc.1 ++ y.1, acc.2 ||| x.2.2 ||| y.2)) ([], 0)

/-! ## Starting and finishing a job -/

/-- Key blocks of a job. -/
def JobRec.blocks (r : JobRec) (j : Job) : Nat := if r.dense then ceilDiv r.kCount 256 else j.pages.length

/-- Whether a job is in the first product stage (R140): an ATTEND leaves it with its last key block, any other job when it has
finalised. -/
def Atp.inFirst (a : Atp) (j : Job) : Bool :=
  let r := a.jobRec j.record
  j.stage != .finalised && !(r.kind == 0 && j.stage == .keys && decide (r.blocks j ≤ j.nextBlk))

/-- The jobs that have left the first stage and have not finished finalise. -/
def Atp.beyond (a : Atp) : List Job := a.active.filter (fun j => j.stage != .finalised && !a.inFirst j)

/-- Whether the pipeline can hold another job: no job is in the first stage, and at most three are beyond it (R140). -/
def Atp.hasRoom (a : Atp) : Bool := a.active.all (fun j => !a.inFirst j) && decide (a.beyond.length ≤ 3)

/-- Whether every job before one has finished finalise; jobs leave the pipeline in order. -/
def Atp.isOldest (a : Atp) (id : Nat) : Bool := (a.active.takeWhile (fun j => j.id != id)).all (fun j => j.stage == .finalised)

/-- Ends the stages of a job with its outputs, each written in row order (R163), once the jobs before it have finalised; the job
then waits for its acknowledgements. -/
def State.writeOut (s : State) (n id : Nat) (out : OutRuns) (follows : Bool) : State :=
  let p := s.atpPart n
  let j := s.job n id
  let runs := joinRuns out.1
  if !(s.atp n).isOldest id then s else
  match runs.find? (fun r => hostRun r.1) with
  | some r => s.atpFault n j.record stBAD_PARAM r.1
  | none =>
    match s.firstDenied p (runs.map (fun r => (r.1, r.2.length))) with
    | some (st, a) => s.atpFault n j.record st a
    | none =>
      let here := s.localRuns (runs.map (fun r => (r.1, r.2.length)))
      let (ready, s0) := (s.countJob n id here).askTier p here .write (.atp n id)
      if !ready || !s0.jobMay p here follows then s0
      else
        let s1 := s0.modAtp n (fun a => a.raise out.2)
        let g := runs.foldl (fun (g : Got) r => g.andThen (fun st => st.putRun p (.atp n id) r.1 r.2)) { st := s1 }
        if g.status ≠ 0 then g.st.atpFault n j.record g.status g.bad
        else g.st.modJob n id (fun x => { x with stage := .finalised, rows := [], inputs := [], asked := [], buf := [] }) |>.endGrants (.atp n id)

/-- The status that a job's context gives (R164): not OPEN or not as the record says is an ATP fault, another partition's
is denied. -/
def State.jobCtx (s : State) (p : Nat) (r : JobRec) : Nat :=
  let c := s.ctx r.ctx
  if c.state = 0 then stBAD_PARAM
  else if c.owner ≠ p then stDENIED
  else if c.state ≠ 1 ∨ c.headsM1 < r.kvHead ∨ c.dhCode ≠ r.dhCode then stBAD_PARAM
  else 0

/-- Reads the inputs of an ATTEND, and checks its descriptors. -/
def State.prepareAttend (s : State) (n id : Nat) (r : JobRec) (j : Job) : State :=
  let ds := [r.qDesc, r.oDesc] ++ (if r.dense then [r.kDesc, r.vDesc] else [])
  let dr := ds.map (fun w => (w, 64))
  (s.need n id dr).andThen n j.record (fun m st =>
    let vs := ds.map (fun w => atpView m w j.indices)
    let kvOk := fun (v : Option View) => match v with
      | some x => (x.fmt == 0xA || x.fmt == 0xB) && x.ext.getD 0 0 == r.dh && r.kFirst + r.kCount ≤ x.ext.getD 1 0 && (x.ext.drop 2).all (fun e => e == 1)
      | none => false
    match vs.getD 0 none, vs.getD 1 none with
    | some q, some o =>
      if !(((q.fmt == 0 && q.bs == 32 && q.sd == 0 && r.rope == 0) || q.fmt == 4 || q.fmt == 6) && q.shaped [r.dh, r.rows] &&
           (o.fmt == 4 || o.fmt == 6) && o.shaped [r.dh, r.rows] && (!r.dense || (kvOk (vs.getD 2 none) && kvOk (vs.getD 3 none)))) then
        st.atpFault n j.record stBAD_PARAM 0
      else
        (st.need n id (dr ++ q.spans ++ [(r.rowMeta, 8 * r.rows)] ++
          (if r.rope = 0 then [] else [(r.freq, 2 * r.ropeDims)])) true).andThen n j.record (fun m1 st1 =>
          (st1.modAtp n (fun a => a.raise (r.queries m1 q).2)).modJob n id (fun x => { x with
            inputs := m1, stage := if r.dense then .keys else .waiting, asked := [], buf := [] }) |>.endGrants (.atp n id))
    | _, _ => st.atpFault n j.record stBAD_PARAM 0)

/-- Reads the inputs of an APPEND. -/
def State.prepareAppend (s : State) (n id : Nat) (r : JobRec) (j : Job) : State :=
  let dr := [(r.kDesc, 64), (r.vDesc, 64)]
  (s.need n id dr).andThen n j.record (fun m st =>
    let good := fun (v : View) => (v.fmt == 4 || v.fmt == 6) && v.shaped [r.dh, r.rows]
    match atpView m r.kDesc j.indices, atpView m r.vDesc j.indices with
    | some k, some v =>
      if !good k || !good v then st.atpFault n j.record stBAD_PARAM 0
      else
        (st.need n id (dr ++ k.spans ++ v.spans ++ (if r.rope = 0 then [] else [(r.freq, 2 * r.ropeDims)])) true).andThen n j.record
          (fun m1 st1 => st1.modJob n id (fun x => { x with
            inputs := m1, stage := .waiting, behind := (st1.ctx r.ctx).appending, asked := [], buf := [] }) |>.endGrants (.atp n id))
    | _, _ => st.atpFault n j.record stBAD_PARAM 0)

/-- Reads the inputs of a COMBINE, merges them and writes the result. -/
def State.runCombine (s : State) (n id : Nat) (r : JobRec) (j : Job) : State :=
  let dr := [(r.qDesc, 64), (r.oDesc, 64)]
  (s.need n id dr).andThen n j.record (fun m st =>
    match atpView m r.qDesc j.indices, atpView m r.oDesc j.indices with
    | some q, some o =>
      if !(q.fmt == 6 && q.shaped [r.dh, r.rows, r.kCount] && (o.fmt == 4 || o.fmt == 6) && o.shaped [r.dh, r.rows]) then
        st.atpFault n j.record stBAD_PARAM 0
      else
        (st.need n id (dr ++ q.spans ++ [(r.lse, 4 * r.rows * r.kCount)]) true).andThen n j.record (fun m1 st1 =>
          st1.writeOut n id (r.combined m1 q o (st1.policyZ (st1.atpPart n))) true)
    | _, _ => st.atpFault n j.record stBAD_PARAM 0)

/-- Carries a job on as far as its inputs allow. -/
def State.prepareJob (s : State) (n id : Nat) : State :=
  let j := s.job n id
  let r := (s.atp n).jobRec j.record
  if j.stage ≠ .starting then s
  else if r.kind = 0 then s.prepareAttend n id r j
  else if r.kind = 1 then s.prepareAppend n id r j
  else s.runCombine n id r j

/-- Starts the job at the position the ATP has reached (R140, R164). -/
def State.startJob (s : State) (n : Nat) : State :=
  let a := s.atp n
  let r := a.jobRec a.pc
  let e := if (r.kind = 0 && !r.dense) || r.kind = 1 then s.jobCtx (s.atpPart n) r else 0
  if e ≠ 0 then s.atpFault n a.pc e 0
  else
    let next := stepLoops a.pc a.loops.reverse
    let j : Job := { id := a.nextJob, record := a.pc, indices := a.loops.map (·.index), stage := .starting, ctxNum := r.ctx }
    (s.setAtp n { a with active := a.active ++ [j], nextJob := a.nextJob + 1, loops := next.1.reverse, pc := next.2
                         gateFrom := none, gateAsked := false, gateWaits := 0, gateBuf := [], gated := false }).prepareJob n j.id

/-- The value a job's gate must reach (R160). -/
def Atp.gateTarget (a : Atp) (r : JobRec) : Nat :=
  unsigned 64 ((r.gateValue : Int) + ((((a.loops[0]?).map (·.index)).getD 0 : Nat) : Int) * r.gateStep)

/-- Looks at the gate of the job at the ATP's position and starts the job when it is open (R160). -/
def State.pollAtp (s : State) (n : Nat) : State :=
  let a := s.atp n
  let r := a.jobRec a.pc
  let p := s.atpPart n
  let w := r.gate
  if s.gateStatus p w ≠ 0 then s.atpFault n a.pc (s.gateStatus p w) w
  else
    let g := s.seeGate p w (.atp n a.nextJob) a.gateAsked a.gateWaits a.gateBuf
    if g.status ≠ 0 then g.st.atpFault n a.pc g.status w
    else match g.value with
      | some v =>
        if a.gateTarget r ≤ v then g.st.startJob n
        else g.st.modAtp n (fun x => { x with gateFrom := some (x.gateFrom.getD s.now), gateAsked := false })
      | none => g.st.modAtp n (fun x => { x with gateFrom := some (x.gateFrom.getD s.now), gateAsked := g.asked })

/-- The record an ATP has reached, when it is of the given kind; a reserved kind, a malformed record or a list that runs past
its memory is an ATP fault (R162). -/
def State.atRecord (s : State) (n kind : Nat) (body : JobRec → State → State) : State :=
  let a := s.atp n
  let r := a.jobRec a.pc
  if 16 ≤ n ∨ !a.running ∨ a.ended ∨ a.stopping.isSome then s
  else if 1024 ≤ a.pc ∨ 5 ≤ r.kind then s.atpFault n a.pc stBAD_PARAM 0
  else if r.kind ≠ kind then s
  else if !r.formed then s.atpFault n a.pc stBAD_PARAM 0
  else body r s

/-- Starts the job at the ATP's position if it may start now. -/
def State.tryStart (s : State) (n : Nat) (r : JobRec) : State :=
  if !(s.atp n).hasRoom then s else if r.gate = 0 then s.startJob n else s.pollAtp n

/-- The job of a kind in the first stage, if one is there. -/
def Atp.first (a : Atp) (kind : Nat) : Option Job := a.active.find? (fun j => a.inFirst j && (a.jobRec j.record).kind == kind)

/-! ## ATTEND and its key blocks -/

/-- ATTEND: starts the job at the ATP's position, or carries on the reading of its inputs. -/
def execAttend (atp : Nat) (s : State) : Out :=
  .next (match (s.atp atp).first 0 with
  | some j => s.prepareJob atp j.id
  | none => s.atRecord atp 0 (fun r st => st.tryStart atp r))

/-- Keys of block `b` of a DENSE job (R145), with their metadata in `m`. -/
def JobRec.denseKeys (r : JobRec) (b : Nat) (m : BMap) : List Key :=
  (List.range (min 256 (r.kCount - 256 * b))).map (fun i =>
    let k := r.kFirst + 256 * b + i
    { slot := i, pos := metaPos m r.kMeta k, seg := metaSeg m r.kMeta k, idx := k })

/-- Keys of a context page in the job's position range. -/
def JobRec.pageKeys (r : JobRec) (seg length page : Nat) : List Key :=
  ((List.range 256).map (fun i => { slot := i, pos := 256 * page + i, seg := seg, idx := i : Key })).filter
    (fun k => decide (r.kFirst ≤ k.pos) && decide (k.pos < min r.kCount length))

/-- The K or V view of one head of a context page (R166). -/
def pageView (c : Ctx) (base : Nat) : View :=
  let dh := c.dh
  { fmt := c.fmt, bs := 32, sd := 0, layout := 0, check := true, ts := false, base := base, sbase := base + elemRegion c.fmt dh, off := 0
    ext := [dh, 256, 1, 1, 1], stride := [1, (dh : Int), 0, 0, 0], pstride := [1, ((dh / 32 : Nat) : Int), 0, 0, 0] }

/-- Address of the K part of a head in a physical page; the V part follows it (R166). -/
def headAddr (q : Pool) (c : Ctx) (page head : Nat) : Nat := q.pageAddr + page * q.pageBytes + head * headBytes c.fmt c.dh

/-- Runs of the elements and scales of some keys of a view. -/
def View.keyRuns (v : View) (keys : List Key) : List (Nat × Nat) :=
  let dh := v.ext.getD 0 0
  let at' := fun (i : Int) => (i % (2 ^ 64)).toNat
  joinSpans (keys.flatMap (fun k => (List.range dh).map (fun i => (at' (v.elemAddr [i, k.idx, 0, 0, 0]).1, v.elemBytes))) ++
    keys.flatMap (fun k => (List.range (dh / 32)).map (fun b => (at' (v.scaleAddr [32 * b, k.idx, 0, 0, 0]), 1))))

/-- Whether some row may attend to some key. -/
def JobRec.anyAllowed (r : JobRec) (inputs : BMap) (keys : List Key) : Bool :=
  (List.range r.rows).any (fun i => keys.any (r.allowed (metaPos inputs r.rowMeta i) (metaSeg inputs r.rowMeta i)))

/-- Takes the arithmetic of a key block into the rows, and finalises after the last. -/
def State.takeBlock (s : State) (n id : Nat) (r : JobRec) (accs : Tbl RowAcc) (f : BitVec 6) (follows : Bool) : State :=
  let j := s.job n id
  let s1 := ((s.modAtp n (fun a => a.raise f)).modJob n id (fun x => { x with rows := accs, nextBlk := x.nextBlk + 1, asked := [], buf := [] })).endGrants (.atp n id)
  if j.nextBlk + 1 < r.blocks j then s1
  else match atpView j.inputs r.oDesc j.indices with
    | some o => s1.writeOut n id (r.outputs o (s1.policyZ (s1.atpPart n)) accs) follows
    | none => s1

/-- KEY_BLOCK: the job's next key block arrives and passes the stages, or is skipped (R156); after the last the job finalises. The
first stage takes no block of a new job while three jobs are beyond it (R140). Of a context page only the blocks with keys below L
are read (R167). -/
def execKeyBlock (atp job : Nat) (s : State) : Out :=
  let j := s.job atp job
  let r := (s.atp atp).jobRec j.record
  .next (if !(s.atp atp).active.any (fun x => x.id == job) || j.stage != .keys || r.kind ≠ 0 ||
      (j.nextBlk == 0 && decide (3 ≤ (s.atp atp).beyond.length)) then s
  else if r.blocks j ≤ j.nextBlk then
    match atpView j.inputs r.oDesc j.indices with
    | some o => s.writeOut atp job (r.outputs o (s.policyZ (s.atpPart atp)) j.rows) false
    | none => s
  else match atpView j.inputs r.qDesc j.indices with
    | none => s
    | some q =>
      let rows := (r.queries j.inputs q).1
      if r.dense then
        let meta' := [(r.kMeta + 8 * (r.kFirst + 256 * j.nextBlk), 8 * min 256 (r.kCount - 256 * j.nextBlk))]
        (s.need atp job meta').andThen atp j.record (fun m st =>
          let keys := r.denseKeys j.nextBlk m
          match atpView j.inputs r.kDesc j.indices, atpView j.inputs r.vDesc j.indices with
          | some k, some v =>
            if !r.anyAllowed j.inputs keys then st.takeBlock atp job r j.rows 0 true
            else
              (st.need atp job (meta' ++ k.keyRuns keys ++ v.keyRuns keys) true).andThen atp j.record (fun m1 st1 =>
                let x := r.block rows j.inputs keys k v m1 j.rows
                st1.takeBlock atp job r x.1 x.2 true)
          | _, _ => st)
      else
        let (g, i) := j.pages.getD j.nextBlk (0, 0)
        let keys := r.pageKeys j.ctx.seg j.length g
        if !r.anyAllowed j.inputs keys then s.takeBlock atp job r j.rows 0 false
        else
          let base := headAddr j.source j.ctx i r.kvHead
          let k := pageView j.ctx base
          let v := pageView j.ctx (base + headBytes j.ctx.fmt j.ctx.dh / 2)
          let runs := k.keyRuns keys ++ v.keyRuns keys
          if !runs.all (fun x => s.answers (s.atpPart atp) x.1 x.2) then s
          else
            let (g, m1) := runs.foldl (fun (acc : Got × BMap) x =>
              let g := acc.1.andThen (fun st => st.readStack x.1 x.2 true)
              (g, if acc.1.status = 0 ∧ g.status = 0 then BMap.writeBytes acc.2 x.1 g.bytes else acc.2)) ({ st := s }, [])
            if g.status ≠ 0 then g.st.atpFault atp j.record g.status g.bad
            else
              let y := r.block rows j.inputs keys k v m1 j.rows
              g.st.takeBlock atp job r y.1 y.2 true)

/-! ## PIN and UNPIN (R173) -/

/-- A manager operation of a waiting job: it begins when it can and its turn has come, and ends the job when its context is no longer
as the record says (R159, R164, R172). -/
def State.mgrJob (s : State) (n : Nat) (j : Job) (body : JobRec → State → State) : State :=
  let r := (s.atp n).jobRec j.record
  let me : Owner := .atp n j.id
  if j.stage ≠ .waiting then s
  else if !s.jobMayBegin n j.id || !s.mgrTurn me then
    (s.mgrWait me).modJob n j.id (fun x => { x with behind := x.behind || (r.kind == 1 && (s.ctx r.ctx).appending) })
  else
    let s1 := s.mgrBegin me
    if s1.jobCtx (s1.atpPart n) r ≠ 0 then s1.atpFault n j.record (s1.jobCtx (s1.atpPart n) r) 0 else body r s1

/-- PIN: fixes L and pins the pages with the positions that the ATTEND will read. -/
def execPin (atp : Nat) (s : State) : Out :=
  .next (match (s.atp atp).first 0 with
  | none => s
  | some j => s.mgrJob atp j (fun r s =>
      let c := s.ctx r.ctx
      let top := min r.kCount c.pos
      let m : Mgr := if r.kFirst < top then s.pinPages r.ctx r.kFirst (top - 1) else { st := s }
      let q := s.poolOf c.owner c.pool
      let s1 := (m.st.stampCtx r.ctx (fun x => { x with activePins := x.activePins + 1 })).modJob atp j.id (fun x => { x with
        pinned := true, pages := m.pages, length := c.pos, ctx := c, source := q.shape, stage := .keys })
      if m.status ≠ 0 then (s1.faultCtx r.ctx).atpFault atp j.record m.status 0 else s1))

/-- Whether an operation of class 2 that does not wait can begin on a job's pool: its stack takes requests, and no operation that can
begin waits (R172, R189). -/
def State.mgrOpen (s : State) (j : Job) : Bool := s.poolUp j.ctx.owner j.ctx.pool && s.mgrTurn .none

/-- UNPIN: at the end of an ATTEND, by completion or stop. -/
def execUnpin (atp job : Nat) (s : State) : Out :=
  .next (match (s.atp atp).active.find? (fun j => j.id == job && j.pinned && j.stage == .finalised && j.acks == 0) with
  | some j => if s.mgrOpen j then (s.unpinJob j true).2.modJob atp job (fun x => { x with pinned := false, closed := true }) else s
  | none =>
    match (s.atp atp).unpins.find? (fun j => j.id == job) with
    | some j =>
      if s.mgrOpen j then (s.unpinJob j false).2.modAtp atp (fun a => { a with unpins := a.unpins.filter (fun x => x.id != job) }) else s
    | none => s)

/-! ## APPEND, RESOLVE, SWITCH and ADVANCE (R158, R159, R173 to R175) -/

/-- Writes one new position of one part (K or V) of a head: elements, scales, and the zeros beyond the scales (R166, R167). -/
def State.writePosition (s : State) (c : Ctx) (base pos : Nat) (x : List Nat) : Got :=
  let dh := c.dh
  let y := toBlocks c.fmt x
  let n := elemRegion c.fmt dh / 256
  let bytes : List Byte := if c.fmt = 0xB then (List.range (dh / 2)).map (fun i => BitVec.ofNat 8 (y.1.getD (2 * i) 0 + 16 * y.1.getD (2 * i + 1) 0))
    else y.1.map (BitVec.ofNat 8)
  let sc := base + elemRegion c.fmt dh
  ((({ flags := y.2.2, st := s : Got }).andThen (fun st => st.writeStack (base + n * (pos % 256)) bytes)).andThen
    (fun st => st.writeStack (sc + dh / 32 * (pos % 256)) (y.2.1.map (BitVec.ofNat 8)))).andThen
    (fun st => if dh = 256 then { st := st } else st.writeStack (sc + 8 * dh) (List.replicate (2048 - 8 * dh) 0))

/-- Writes the rows of a resolved APPEND. -/
def State.writeAppend (s : State) (n id : Nat) (r : JobRec) (j : Job) (k v : View) : State :=
  let base := fun pos => headAddr j.source j.ctx (((j.pages.find? (fun e => e.1 == pos / 256)).map (·.2)).getD 0) r.kvHead
  let half := headBytes j.ctx.fmt j.ctx.dh / 2
  if !((List.range r.rows).all (fun i => s.answers (s.atpPart n) (base (j.length + i)) (2 * half))) then s
  else
    let g := (List.range r.rows).foldl (fun (g : Got) i =>
      let pos := j.length + i
      let x := rotate r.rope r.ropeDims pos (r.freqs j.inputs) (k.rowF j.inputs i)
      (({ g with flags := g.flags ||| x.2 }).andThen (fun st => st.writePosition j.ctx (base pos) pos x.1)).andThen
        (fun st => st.writePosition j.ctx (base pos + half) pos (v.rowF j.inputs i))) { st := s }
    let s1 := g.st.modAtp n (fun a => a.raise g.flags)
    if g.status ≠ 0 then s1.atpFault n j.record g.status g.bad
    else s1.modJob n id (fun x => { x with stage := .finalised, inputs := [] })

/-- APPEND: starts the job at the ATP's position, carries on the reading of its inputs, or, once its pages are resolved and its
copies switched, writes its positions. -/
def execAppend (atp : Nat) (s : State) : Out :=
  .next (match (s.atp atp).first 1 with
  | none => s.atRecord atp 1 (fun r st => st.tryStart atp r)
  | some j =>
    let r := (s.atp atp).jobRec j.record
    if j.stage = .starting then s.prepareJob atp j.id
    else if j.stage = .keys ∧ j.copies = 0 then
      match atpView j.inputs r.kDesc j.indices, atpView j.inputs r.vDesc j.indices with
      | some k, some v => s.writeAppend atp j.id r j k v
      | _, _ => s
    else s)

/-- RESOLVE: takes free pages, or starts copies on write, for the positions of an APPEND; it waits behind another APPEND on the
context. -/
def execResolve (atp job : Nat) (s : State) : Out :=
  .next (match (s.atp atp).first 1 with
  | none => s
  | some j => if j.id ≠ job then s else s.mgrJob atp j (fun r s =>
    let c := s.ctx r.ctx
    if 8388608 < c.pos + r.rows then s.atpFault atp j.record stBAD_PARAM 0
    else
      let m := s.resolvePages r.ctx r.rows atp job
      if m.status = stNO_RESOURCE then m.st.atpFault atp j.record stNO_RESOURCE 0
      else if m.status ≠ 0 then (m.st.faultCtx r.ctx).atpFault atp j.record m.status 0
      else
        let q := m.st.poolOf c.owner c.pool
        (m.st.stampCtx r.ctx (fun x => { x with appending := true })).modJob atp job (fun x => { x with
          appends := true, pages := m.pages, copies := m.copies, length := c.pos, ctx := c, source := q.shape, stage := .keys })))

/-- SWITCH: ends a copy on write. -/
def execSwitch (pt ctx page : Nat) (s : State) : Out :=
  .next (match s.copies.find? (fun e => e.pt == pt && e.ctx == ctx && e.page == page) with
  | none => s
  | some cp =>
    let q := s.poolOf pt cp.pool
    if !s.answers pt (q.pageAddr + cp.source * q.pageBytes) q.pageBytes || !s.mgrTurn .none then s
    else
      let s1 := s.switchPage cp
      let owns := (s1.atp cp.atp).active.any (fun j => j.id == cp.job)
      if owns && (s1.ctx ctx).state == 3 then s1.atpFault cp.atp (s1.job cp.atp cp.job).record stDATA_ERROR 0
      else if owns then s1.modJob cp.atp cp.job (fun j => { j with copies := j.copies - 1 })
      else s1)

/-- The context's counters when an APPEND completes. -/
def State.appended (s : State) (j : Job) (rows : Nat) : State :=
  s.stampCtx j.ctxNum (fun x => { x with pos := x.pos + rows, appends := x.appends + 1, appending := false })

/-- ADVANCE: at the end of an APPEND with ADVANCE set, every write acknowledged, L = L + ROWS. -/
def execAdvance (atp job : Nat) (s : State) : Out :=
  .next (match (s.atp atp).active.find? (fun j => j.id == job && j.appends && j.stage == .finalised && j.acks == 0) with
  | none => s
  | some j =>
    let r := (s.atp atp).jobRec j.record
    if !r.advances || j.closed || !s.mgrTurn .none then s
    else (s.appended j r.rows).modJob atp job (fun x => { x with closed := true, appends := false }))

/-! ## COMBINE, LOOP, END -/

/-- COMBINE: starts the job, or carries on with its inputs. -/
def execCombine (atp : Nat) (s : State) : Out :=
  .next (match (s.atp atp).first 2 with
  | some j => s.prepareJob atp j.id
  | none => s.atRecord atp 2 (fun r st => st.tryStart atp r))

/-- LOOP: the body repeats COUNT times; more than four loops deep, or a body that leaves its own loop or the job memory, is an
ATP fault. -/
def execAtpLoop (atp : Nat) (s : State) : Out :=
  .next (s.atRecord atp 3 (fun r st =>
    let a := st.atp atp
    let last := a.pc + r.ropeDims
    if 4 ≤ a.loops.length ∨ 1024 ≤ last ∨ ((a.loops.getLast?).map (fun f => decide (f.last < last))).getD false then st.atpFault atp a.pc stBAD_PARAM 0
    else st.setAtp atp { a with loops := a.loops ++ [{ first := a.pc + 1, last := last, index := 0, count := r.rows + 1 }], pc := a.pc + 1 }))

/-- END: the job list ends. -/
def execAtpEnd (atp : Nat) (s : State) : Out :=
  .next (s.atRecord atp 4 (fun _ st => st.modAtp atp (fun a => { a with ended := true })))

/-! ## Completion and the gate watchdog -/

/-- Takes a completed job off the pipeline; a stop that was due takes effect when none is left (R163). -/
def State.retireJob (s : State) (n id : Nat) : State :=
  let s1 := s.modAtp n (fun a => { a with active := a.active.filter (fun j => j.id != id) })
  if (s1.atp n).stopping.isSome && (s1.atp n).active.isEmpty then s1.stopAtp n else s1

/-- JOB_COMPLETE: the oldest job has finalised and its writes are acknowledged: it adds to DONE_GATE, then signals DONE_TOKEN
(R160). -/
def execJobComplete (atp : Nat) (s : State) : Out :=
  .next (match (s.atp atp).active with
  | [] => s
  | j :: _ =>
    let r := (s.atp atp).jobRec j.record
    let p := s.atpPart atp
    if j.stage ≠ .finalised ∨ j.acks ≠ 0 ∨ j.pinned ∨ (r.kind = 1 ∧ r.advances ∧ !j.closed) then s
    else
      let s1 := if r.kind = 1 ∧ !r.advances ∧ j.appends then (s.appended j 0).modJob atp j.id (fun x => { x with appends := false }) else s
      if r.doneAdd ∧ s1.gateStatus p r.doneGate ≠ 0 then s1.atpFault atp j.record (s1.gateStatus p r.doneGate) r.doneGate
      else
        let (done, g) := if r.doneAdd then s1.raiseGate p r.doneGate (.atp atp j.id) .none else (true, { st := s1 })
        if !done then g.st
        else if g.status ≠ 0 then g.st.atpFault atp j.record g.status r.doneGate
        else if r.doneSignal ∧ !g.st.tileOf p r.doneTile then g.st.atpFault atp j.record stDENIED 0
        else
          let s2 := if r.doneSignal then { g.st with signals := g.st.signals ++ [(r.doneTile, r.doneToken, ((g.st.atp atp).program.map (·.1)).getD 0)] } else g.st
          s2.retireJob atp j.id)

/-- The lowest-numbered tile of an ATP's section (R163). -/
def State.firstTile (s : State) (n : Nat) : Nat :=
  ((List.range 16).map (fun i => 16 * n + i)).find? (fun t => !(s.die (dieOfTile t)).absent.contains (t % 64)) |>.getD (16 * n)

/-- GATE_WATCHDOG: the ATP has waited on a gate for longer than WATCHDOG; the program stops with TIMEOUT and the error entry
names the gate and its value. -/
def execGateWatchdog (atp : Nat) (s : State) : Out :=
  let a := s.atp atp
  .next (match a.gateFrom with
  | none => s
  | some t =>
    if a.running && decide (t + (s.tile (s.firstTile atp)).watchdogNs < s.now) && !s.timersHeld (s.atpPart atp) then
      let w := (a.jobRec a.pc).gate
      let v := match s.localAddr w with
        | some d => s.peekLe (s.atpPart atp) d 8
        | none => BMap.readLe a.gateBuf w 8
      s.atpFault atp a.pc stTIMEOUT w v
    else s)

end Sys2Proof.Machine
end

