-- ==== Sys2Proof/Machine/Thermal.lean ====
section
/-! DEFINITION. Heat, the clamp and power limits (R200 to R202, R400 to R402, R460): temperature readings and the throttling
ladder, the emergency clamp and its release, and PWR's ceilings. -/

namespace Sys2Proof.Machine

open Sys2Proof

/-! ## Ceilings -/

/-- Sets a die's CORE frequency under its ceiling (R33, R201, R385, R400), which the trace may record (R433). Which frequency from
0.60 GHz up to the ceiling PWR sets is a free value (assumption 191). -/
def State.settleCore (s : State) (d : Nat) : State :=
  let c := s.dieCeiling d
  let (r, s1) := s.fresh
  (s1.modDie d (fun x => { x with coreMhz := 600 + r % (c - 600 + 1) })).trace pPWR 9 d c 0

/-- Moves a stack to another throttling level, with its log entry and its time at the old level (R202). -/
def State.enterLevel (s : State) (k l : Nat) : State :=
  let x := s.stack k
  if x.level = l then s
  else
    let s1 := s.setStack k { x with level := l, levelSince := s.now, levelNs := Tbl.set 0 x.levelNs x.level (Tbl.get 0 x.levelNs x.level + (s.now - x.levelSince)) }
    let s2 := s1.eventAll (if l = 5 then pCLAMP else pPWR) (s1.partsOfDie (dieOfStack k)) 0x0001 k l x.level x.temperature 0
    (s2.trace pPWR 8 k l 0).settleCore (dieOfStack k)

/-- Entry value of a level in 1/16 degree C, and the value every reading must not pass for it to be left (R201). -/
def levelEntry (l : Nat) : Nat := if l = 1 then 85 * 16 else if l = 2 then 88 * 16 else if l = 3 then 91 * 16 else if l = 4 then 93 * 16 else 95 * 16
def levelExit (l : Nat) : Nat := if l = 5 then 92 * 16 else levelEntry l - 3 * 16

/-! ## The emergency clamp (R400, R401) -/

/-- Both flags as the CLAMP event holds them. -/
def State.flagWord (s : State) : Nat := s.power.thermal.toNat + 2 * s.power.overPower.toNat

/-- Clamps one die: 0.60 GHz, its stacks' regulators at 32, their Chisel units stopped. -/
def State.clampDie (s : State) (heat : Bool) (d : Nat) : State :=
  s.modDie d (fun x => { x with
    preClamp := if x.clamped then x.preClamp else x.coreMhz, coreMhz := 600, hot := x.hot || heat, overload := x.overload || !heat })

/-- Sets an emergency flag, clamps dies, asserts THERM_N for THERMAL and ALERT_N, records the event for each die, 4 being
the hub, and interrupts PWR at class 0 (R401, R429, R495). -/
def State.clamp (s : State) (heat : Bool) (dies units : List Nat) (reading : Nat) : State :=
  let s1 := forEach dies s (fun d st => st.clampDie heat d)
  let s2 := { s1 with
    power := { s1.power with thermal := s1.power.thermal || heat, overPower := s1.power.overPower || !heat }
    side := { s1.side with thermLow := s1.side.thermLow || heat } }
  (forEach units s2 (fun u st => st.eventAll pCLAMP (if u < 4 then st.partsOfDie u else st.partsPresent) 0x0002 u st.flagWord reading 0 0)).alert.classZero pPWR s.now true

/-- The dies on a rail (R462). -/
def railDies (rail : Nat) : List Nat := if rail < 20 then [rail % 4] else if rail = 31 then [0, 1, 2, 3] else []

/-- Updates since when each level may be left. -/
def Stack.watch (x : Stack) (now : Nat) : Stack :=
  { x with below := (List.range 5).foldl (fun (t : Tbl (Option Nat)) i =>
      let l := i + 1
      Tbl.set none t l (if x.temperature ≤ levelExit l then some ((Tbl.get none x.below l).getD now) else none)) [] }

/-- Since when a reading has been within a bound. -/
def coolSince (ok : Bool) (since : Option Nat) (now : Nat) : Option Nat := if ok then some (since.getD now) else none

/-- Whether it has been for 10 ms. -/
def heldFor10ms (since : Option Nat) (now : Nat) : Bool := (since.map (fun t => decide (t + 10000000 ≤ now))).getD false

/-- Stores a reading of a stack's measurement point (R200). -/
def State.readStackPoint (s : State) (k point reading : Nat) : State :=
  s.modStack k (fun x => ({ x with readings := Tbl.set 0 x.readings point reading }).watch s.now)

/-- What a trigger clamps, with its reading kept. The reading that enters L5 is one of the diodes under the stack, which hardware
reads (R200); rail limits are values of the part, so a rail's trigger is taken as it comes. -/
def State.clampBy (s : State) (t : ClampTrigger) : State :=
  match t with
  | .stackTemperature k r =>
    if k < 20 && levelEntry 5 ≤ r then
      let s1 := if r ≤ (s.stack k).temperature then s else s.readStackPoint k 0 r
      (s1.enterLevel k 5).clamp true [dieOfStack k] [dieOfStack k] r
    else s
  | .dieDiode d r =>
    let s1 := s.modDie d (fun x => { x with diode := r, coolFrom := coolSince (decide (r ≤ levelExit 5)) x.coolFrom s.now })
    if 4 ≤ d then s else if 105 * 16 ≤ r then s1.clamp true [d] [d] r else s1
  | .hubDiode r =>
    let s1 := { s with power := { s.power with hubTemp := r, hubCool := coolSince (decide (r ≤ levelExit 5)) s.power.hubCool s.now } }
    if 105 * 16 ≤ r then s1.clamp true [0, 1, 2, 3] [4] r else s1
  | .inletPower w =>
    let s1 := { s with power := { s.power with
      mW := w, peakMw := max s.power.peakMw w, lowFrom := coolSince (decide (w ≤ 2200000)) s.power.lowFrom s.now } }
    if 2400000 < w then s1.clamp false [0, 1, 2, 3] [0, 1, 2, 3] w else s1
  | .railCurrent i r =>
    if i < 32 then ({ s with power := { s.power with railsOver := s.power.railsOver ||| (1#32 <<< i) } }).clamp false (railDies i)
      (if (railDies i).isEmpty then [4] else railDies i) r
    else s

/-- Whether the dies, stacks and hub are powered. -/
def State.powered (s : State) : Bool := s.power.state == .ms0 || s.power.state == .starting

/-- Whether what a trigger measures has power: in MS3 the dies are off and the hub is on (R445). -/
def State.measures (s : State) (t : ClampTrigger) : Bool :=
  s.powered || (s.power.state == .ms3 && (match t with
    | .stackTemperature _ _ => false
    | .dieDiode _ _ => false
    | _ => true))

/-- EMERGENCY_CLAMP: a reading of what the clamp watches, in hardware, and the clamp when it crosses its threshold (R13, R400). -/
def execEmergencyClamp (trigger : ClampTrigger) (s : State) : Out :=
  .next (if s.measures trigger then s.clampBy trigger else s)

/-- A die's frequency once no clamp holds it: what it ran at before, under its ceiling. -/
def State.unclampDie (s : State) (d : Nat) : State :=
  let x := s.die d
  if x.clamped then s else s.modDie d (fun y => { y with coreMhz := min x.preClamp (s.dieCeiling d) })

/-- Whether every reading under a THERMAL clamp follows the exit rule of R201: no stack at L5, and the diode of each clamped die and
the hub's at or below 92 °C for 10 ms. -/
def State.cooled (s : State) : Bool :=
  (List.range 20).all (fun k => (s.stack k).level < 5) && heldFor10ms s.power.hubCool s.now &&
  (List.range 4).all (fun d => !(s.die d).hot || heldFor10ms (s.die d).coolFrom s.now)

/-- CLAMP_RELEASE (R402): a THERMAL clamp under the exit rule of R201; a POWER clamp after inlet power has stayed at or below 2,200 W
for 10 ms and PWR has set a firmware ceiling on every die. The second of R383 begins. -/
def execClampRelease (flag : EmergencyFlag) (s : State) : Out :=
  let all := List.range 4
  .next (match flag with
  | .thermal =>
    if s.power.thermal && s.cooled && (s.proc pPWR).restart.isNone then
      let s1 := { s with
        power := { s.power with thermal := false, clearAt := s.now }, side := { s.side with thermLow := false } }
      forEach all s1 (fun d st =>
        let was := (st.die d).hot
        let st1 := st.modDie d (fun x => { x with hot := false })
        if was then st1.unclampDie d else st1)
    else s
  | .power =>
    if s.power.overPower && heldFor10ms s.power.lowFrom s.now && (s.proc pPWR).restart.isNone then
      let s1 := { s with power := { s.power with overPower := false, clearAt := s.now, raiseAt := s.now } }
      let s2 := forEach all s1 (fun d st => st.modDie d (fun x => { x with
        fwCeiling := some (max 600 ((if x.clamped then x.preClamp else x.coreMhz) - 150)), overload := false }))
      forEach all s2 (fun d st => if (s.die d).overload then st.unclampDie d else st.settleCore d)
    else s)

/-! ## The throttling ladder (R200, R201) -/

/-- The level whose entry value a temperature reaches: L1 by the controller, L2 to L4 by PWR or, while it restarts, by hardware
(R435), L5 by the clamp. -/
def levelFor (temperature : Nat) : Nat :=
  if levelEntry 5 ≤ temperature then 5
  else if levelEntry 4 ≤ temperature then 4
  else if levelEntry 3 ≤ temperature then 3
  else if levelEntry 2 ≤ temperature then 2
  else if levelEntry 1 ≤ temperature then 1
  else 0

/-- TEMPERATURE_READING: point 0-1 TSB, 2-17 TSM, in 1/16 degree C. -/
def execTemperatureReading (stack point reading : Nat) (s : State) : Out :=
  .next (if stack < 20 && point < 18 && s.powered then
    let s1 := s.readStackPoint stack point reading
    let y := s1.stack stack
    let l := levelFor y.temperature
    if l ≤ y.level then s1
    else if l = 5 then s1.clampBy (.stackTemperature stack y.temperature)
    else s1.enterLevel stack l
  else s)

/-- THROTTLE_LEVEL_EXIT: a level is left for the one below when its exit rule has held for 10 ms; none is while PWR restarts (R435). -/
def execThrottleLevelExit (stack : Nat) (s : State) : Out :=
  let x := s.stack stack
  .next (if stack < 20 && 0 < x.level && (s.proc pPWR).restart.isNone then
    match Tbl.get none x.below x.level with
    | some t => if t + 10000000 ≤ s.now then s.enterLevel stack (x.level - 1) else s
    | none => s
  else s)

/-! ## PWR's ceilings (R460) -/

/-- POWER_LIMIT_STEP: one step every 1 ms while the 100 ms average is above POWER_LIMIT. -/
def execPowerLimitStep (mW100 : Nat) (s : State) : Out :=
  .next (if s.power.state == .ms0 && (s.proc pPWR).restart.isNone && decide (s.power.limitAt + 1000000 ≤ s.now) then
    let s1 := { s with power := { s.power with mW100 := mW100, limitAt := s.now } }
    if s.power.limitW.toNat * 1000 < mW100 then
      forEach (List.range 4) s1 (fun d st => (st.modDie d (fun x => { x with limitMhz := max 600 (x.limitMhz - 75) })).settleCore d)
    else s1
  else s)

/-- CEILING_RAISE: a step up every 100 ms while inlet power stays below POWER_LIMIT - 200 W; a firmware ceiling ends at
1.65 GHz. -/
def execCeilingRaise (mW100 : Nat) (s : State) : Out :=
  .next (if s.power.state == .ms0 && (s.proc pPWR).restart.isNone && decide (s.power.raiseAt + 100000000 ≤ s.now) then
    let s1 := { s with power := { s.power with mW100 := mW100, raiseAt := s.now } }
    if mW100 + 200000 < s.power.limitW.toNat * 1000 then
      forEach (List.range 4) s1 (fun d st => (st.modDie d (fun x => { x with
        limitMhz := min 1650 (x.limitMhz + 75)
        fwCeiling := x.fwCeiling.bind (fun c => if 1650 ≤ c + 75 then none else some (c + 75)) })).settleCore d)
    else s1
  else s)

end Sys2Proof.Machine
end

