-- ==== Sys2Proof/Machine/Controller.lean ====
section
/-! DEFINITION. Memory controllers and stacks as they serve blocks (R184 to R199, R408, R409): block requests under the
regulators, re-reads, refresh, patrol, start-up, recovery and failure of a stack. -/

namespace Sys2Proof.Machine

open Sys2Proof

/-! ## Block requests (R184, R186, R195) -/

/-- Bytes a request moves across the interface (R192): the columns of a read or, verified, its whole block (R185), and both halves
of a merge and of an add. -/
def MemOp.bytes : MemOp → Nat
  | .read a n verify _ => fetchBytes a n verify
  | .write .. => 2048
  | .merge .. => 4096
  | .add .. => 4096

/-- Whether a request has the form of its row: it lies in one block of a stack window. -/
def MemOp.formed : MemOp → Bool
  | .read a n _ _ => decide (0 < n) && decide (a % 2048 + n ≤ 2048)
  | .write a d => a % 2048 == 0 && d.length == 2048
  | .merge a d _ _ => d != [] && d.length < 2048 && decide (a % 2048 + d.length ≤ 2048)
  | .add a f d _ _ => f < 5 && d != [] && decide (a % 2048 + d.length ≤ 2048) && a % addBytes f == 0 && d.length % addBytes f == 0

/-- The error entry of a block that fails a request (R188). -/
def State.blockError (s : State) (p a cause : Nat) : State :=
  let k := a / 2 ^ 37
  s.error (pDCTL (dieOfStack k)) { status := stDATA_ERROR, cls := cREQUEST, unit := 6, unitId := 64 * k + bits (a % 2 ^ 37) 16 11, pt := p,
                                   addr := a, detail := blockDetail a cause }

/-- The reading half of a merge or an add: whether the block is good, after one re-read; a bad one is poisoned. -/
def State.readHalf (s : State) (p a cause : Nat) (first second : Sense) : Bool × State :=
  if (s.block a).poison then (false, s.blockError p a (s.block a).cause)
  else if !senseBad first true then (true, s)
  else
    let s1 := s.deduct (a / 2 ^ 37) p 2048
    if senseBad second true then (false, ((s1.countRetry a false).poison a cause).blockError p a cause)
    else (true, s1.countRetry a true)

/-- Carries a block request out. Row operations of BATCH begin to count anew (R219). -/
def State.doRequest (s : State) (p : Nat) (o : MemOp) : State :=
  let s0 := (s.activate o.addr).modStack (o.addr / 2 ^ 37) (fun x => { x with batch := Tbl.set 0 x.batch (bits o.addr 16 11) 0 })
  match o with
  | .read a n verify sensed =>
    if (s0.block a).poison then s0.blockError p a (s0.block a).cause
    else
      let s1 := s0.setBlock a { (s0.block a) with sense := sensed, cols := if verify then BitVec.allOnes 64 else columnMask a n }
      if senseBad sensed verify then s1.modStack (a / 2 ^ 37) (fun x => { x with rereads := x.rereads ++ [(a / 2048 * 2048, verify)] }) else s1
  | .write a d => ({ s0 with mem := BMap.writeBytes s0.mem a d }).setBlock a {}
  | .merge a d x y =>
    let r := s0.readHalf p a 4 x y
    if r.1 then ({ r.2 with mem := BMap.writeBytes r.2.mem a d }).setBlock a {} else r.2
  | .add a f d x y =>
    let r := s0.readHalf p a 5 x y
    if r.1 then
      let sum := (addRun f (addBytes f) (r.2.policyZ p) d.length (BMap.readBytes r.2.mem a d.length) d).1
      ({ r.2 with mem := BMap.writeBytes r.2.mem a sum }).setBlock a {}
    else r.2

/-- A parity error on the bond in SERVICE (R190): the die executes the command all the same; the controller counts the error and
records it, folded within one second a stack (R406), and above 1,000 in one second PARITY_STORM is set. -/
def State.parityError (s : State) (k a : Nat) : State :=
  let s1 := s.modStack k (fun x =>
    let fresh := decide (x.stormFrom + 1000000000 ≤ s.now)
    let n := if fresh then 1 else x.stormCount + 1
    { x with parity := x.parity + 1, stormFrom := if fresh then s.now else x.stormFrom, stormCount := n, parityStorm := x.parityStorm || decide (1000 < n) })
  s1.error (pDCTL (dieOfStack k)) { cls := cREQUEST, unit := 6, unitId := 64 * k, pt := s.stackOwner k, addr := a }

/-- A block request of the partition that holds the stack, with a parity error on the bond or not: of class 0 or 1 it is admitted
at once; of class 2 or 3 it is served when its regulator has the bytes and held behind those waiting until then; each is held while
the stack recovers and fails in FAILED (R189, R192, R408, R409). -/
def State.request' (s : State) (cls : Nat) (parity : Bool) (o : MemOp) : State :=
  let k := o.addr / 2 ^ 37
  let p := s.stackOwner k
  let x := s.stack k
  let hold : State := s.modStack k (fun y => { y with held := y.held ++ [{ pt := p, cls := cls, bytes := o.bytes, op := o }] })
  if 20 ≤ k ∨ windowBytes ≤ o.addr % 2 ^ 37 ∨ p = 0 ∨ !o.formed ∨ 3 < cls then s
  else if x.mode = .failed then s.blockError p o.addr 0
  else if x.mode = .recovery then hold
  else if x.mode ≠ .service then s
  else
    let s1 := if parity then s.parityError k o.addr else s
    if 2 ≤ cls ∧ (x.held.any (fun h => h.pt == p && h.cls ≤ cls) ∨ s.bucketNow k p < o.bytes) then
      s1.modStack k (fun y => { y with held := y.held ++ [{ pt := p, cls := cls, bytes := o.bytes, op := o }] })
    else (s1.deduct k p o.bytes).doRequest p o

/-- MEMORY_READ: of bytes of one block. -/
def execMemoryRead (req : BlockRequest) (span : BlockRead) (sensed : Sense) (s : State) : Out :=
  .next (s.request' req.cls req.parity (.read req.addr span.len span.verify sensed))

/-- MEMORY_WRITE: a whole block. -/
def execMemoryWrite (req : BlockRequest) (data : List Byte) (s : State) : Out := .next (s.request' req.cls req.parity (.write req.addr data))

/-- PARTIAL_WRITE_MERGE. -/
def execPartialWriteMerge (req : BlockRequest) (data : List Byte) (first second : Sense) (s : State) : Out :=
  .next (s.request' req.cls req.parity (.merge req.addr data first second))

/-- MEMORY_SIDE_ADD. -/
def execMemorySideAdd (req : BlockRequest) (addfmt : Nat) (data : List Byte) (first second : Sense) (s : State) : Out :=
  .next (s.request' req.cls req.parity (.add req.addr addfmt data first second))

/-- BLOCK_REREAD: the one re-read of a bad block, at class 1: delivered, or poisoned and failed (R186). -/
def execBlockReread (addr : Nat) (sensed : Sense) (s : State) : Out :=
  let k := addr / 2 ^ 37
  let b := addr / 2048 * 2048
  .next (match (s.stack k).rereads.find? (fun r => r.1 == b) with
  | none => s
  | some (_, verify) =>
    let p := s.stackOwner k
    let s1 := (((s.deduct k p 2048).activate b).modStack k (fun x => { x with rereads := x.rereads.erase (b, verify) })).setBlock b
      { (s.block b) with sense := sensed }
    if (s.stack k).mode ≠ .service then s
    else if (s.block b).poison then s1.blockError p b (s.block b).cause
    else if senseBad sensed verify then
      let c := senseCause sensed
      ((s1.countRetry b false).poison b c).blockError p b c
    else s1.countRetry b true)

/-- The request that a partition's regulator admits next at a stack: by class, and by arrival within a class (R192). -/
def Stack.nextHeld (x : Stack) (p : Nat) : Option Held :=
  [0, 1, 2, 3].findSome? (fun c => x.held.find? (fun h => h.pt == p && h.cls == c))

/-- REGULATOR_ADMIT: the first request a partition has waiting at a stack, once its bucket holds the bytes; one whose partition no
longer holds the stack is gone (R14). With none waiting, the writes of stopped instructions that waited with them. -/
def execRegulatorAdmit (stack pt : Nat) (s : State) : Out :=
  .next (if 20 ≤ stack ∨ (s.stack stack).mode ≠ .service then s
  else match (s.stack stack).nextHeld pt with
  | none => s.runLoose pt
  | some h =>
    let s1 := s.modStack stack (fun x => { x with held := x.held.erase h })
    if s.stackOwner stack ≠ pt then s1
    else if h.cls < 2 ∨ (h.bytes : Int) ≤ s.bucketNow stack pt then (s1.deduct stack pt h.bytes).doRequest pt h.op
    else s)

/-! ## Refresh and patrol (R197, R199) -/

/-- Forgets a bank's activations. -/
def State.refreshBank (s : State) (k pc bank : Nat) : State :=
  s.modStack k (fun x => { x with activations := Tbl.set 0 x.activations (pc * 64 + bank) 0 })

/-- REFRESH: per-bank refresh in SERVICE. Error check and scrub works through the die's words meanwhile; how many it corrects is a
free value, which the module only counts (R181, assumption 190). -/
def execRefresh (stack pc bank : Nat) (s : State) : Out :=
  .next (if stack < 20 && pc < 64 && bank < 64 && (s.stack stack).mode == .service then
    let (r, s1) := s.fresh
    (s1.refreshBank stack pc bank).modStack stack (fun x => { x with onDie := x.onDie + r % 2 ^ 16 })
  else s)

/-- RFM: after 96 activations of a bank since its last refresh or RFM. -/
def execRfm (stack pc bank : Nat) (s : State) : Out :=
  .next (if stack < 20 && pc < 64 && bank < 64 && (s.stack stack).mode == .service && decide (96 ≤ Tbl.get 0 (s.stack stack).activations (pc * 64 + bank))
    then s.refreshBank stack pc bank else s)

/-- PATROL: the next block of a granted stack; a block corrected at the first or the second sensing is rewritten, a block bad after
its re-read poisoned with an error entry. -/
def execPatrol (stack : Nat) (first second : Sense) (s : State) : Out :=
  let p := s.stackOwner stack
  let off := (s.stack stack).patrolAt
  let a := stack * 2 ^ 37 + off
  .next (if stack < 20 && p != 0 && (s.stack stack).mode == .service then
    let s1 := (s.modStack stack (fun x => { x with patrolAt := (off + 2048) % windowBytes })).activate a
    if (s1.block a).poison then s1
    else if first == .corrected then s1.setBlock a {}
    else if !senseBad first true then s1
    else if senseBad second true then ((s1.countRetry a false).poison a (senseCause second)).blockError p a (senseCause second)
    else (s1.countRetry a true).setBlock a {}
  else s)

/-! ## Start-up (R190) -/

/-- A stack's start-up: training with at most 2 remapped lines a channel and 4 retries, test, zeroing with valid codes; a stack
that does not pass goes to FAILED. `restored` keeps its contents, which come from the hibernation reserve (R454). -/
def State.startStack (s : State) (k : Nat) (o : StackBringUp) (restored : Bool) : State :=
  let fail := fun (st : State) => (st.setMode k .failed).error pPWR { cls := cUNIT, unit := 6, unitId := 64 * k, pt := st.stackOwner k }
  if 2 < o.remaps ∨ 4 < o.retries then fail s
  else
    let s1 := s.setMode k .test
    if !o.testPass then fail s1
    else
      let s2 := if restored then s1 else
        { (s1.clearMem (k * 2 ^ 37) windowBytes) with blocks := s1.blocks.filter (fun e => e.1 * 2048 / 2 ^ 37 != k) }
      s2.setMode k .service

/-- STACK_STARTUP. -/
def execStackStartup (stack : Nat) (outcome : StackBringUp) (s : State) : Out :=
  .next (if stack < 20 && ((s.stack stack).mode == .training || (s.stack stack).mode == .selfRefresh) && s.power.state == .starting then s.startStack stack outcome s.power.image.isSome else s)

/-! ## Recovery (R408 to R410) -/

/-- STACK_RECOVERY: a stack in SERVICE goes to RECOVERY; requests are held from then on. -/
def execStackRecovery (stack : Nat) (cause : RecoveryCause) (s : State) : Out :=
  .next (if stack < 20 && (s.stack stack).mode == .service then
    let s1 := s.modStack stack (fun x => match cause with
      | .trainingLost => x
      | .readParityRun => { x with parity := x.parity + 16 }
      | .parityStorm => { x with parityStorm := true })
    (s1.modStack stack (fun x => { x with recoveryAt := some s.now, retrainFails := 0 })).setMode stack .recovery
  else s)

/-- The tiered pages whose frames lie in a stack. -/
def Part.pagesOn (p : Part) (k : Nat) : List Nat :=
  p.pages.filterMap (fun e => match e.2.frame.bind p.frameAddr with
    | some a => if a / 2 ^ 37 = k then some e.1 else none
    | none => none)

/-- A stack goes to FAILED (R409): held requests end, pages in its frames go HOME with their dirty units failed, contexts with
pools there go to FAULTED. -/
def State.failStack (s : State) (k : Nat) : State :=
  let p := s.stackOwner k
  let s1 := (s.setMode k .failed).error pPWR { status := stDATA_ERROR, cls := cUNIT, unit := 6, unitId := 64 * k, pt := p }
  let s2 := forEach (s1.stack k).held s1 (fun h st => st.blockError h.pt h.op.addr 0)
  let s3 := s2.modStack k (fun x => { x with held := [], rereads := [], recoveryAt := none })
  let s4 := forEach ((s3.part p).pagesOn k) s3 (fun g st =>
    let bad := (List.range 32).filter (fun u => (st.page p g).dirty.getLsbD u)
    let st1 := forEach bad st (fun u t => t.failUnit p g u)
    st1.setPage p g (st1.page p g).home)
  forEach (s4.ctxs.filterMap (fun e => if e.2.state = 1 ∧ (s4.poolOf e.2.owner e.2.pool).pageAddr / 2 ^ 37 = k then some e.1 else none)) s4 (fun c st => st.faultCtx c)

/-- Adds a pause to the timers of a partition that waits on its stack or on a processor (R410). -/
def State.pausePart (s : State) (p d : Nat) : State :=
  { s.pauseDeadlines p d with
    tiles := s.tiles.map (fun e => if (s.part p).sections.getLsbD (sectionOf e.1) then (e.1, { e.2 with blockedAt := e.2.blockedAt.map (· + d) }) else e)
    atps := s.atps.map (fun e => if (s.part p).sections.getLsbD e.1 then (e.1, { e.2 with gateFrom := e.2.gateFrom.map (· + d) }) else e) }

/-- STACK_RECOVERY_END: retraining has passed, or has failed; the second failure ends in FAILED. -/
def execStackRecoveryEnd (stack : Nat) (retrained : Bool) (s : State) : Out :=
  let x := s.stack stack
  .next (if stack < 20 && x.mode == .recovery then
    if retrained then
      let d := s.now - x.recoveryAt.getD s.now
      let p := s.stackOwner stack
      let s1 := (s.modStack stack (fun y => { y with recoveryAt := none, parityStorm := false })).setMode stack .service
      ((s1.pausePart p d).modPart p (fun y => { y with colls := y.colls.map (fun c => { c with readyAt := c.readyAt + d }) })).runLoose p
    else if x.retrainFails = 0 then s.modStack stack (fun y => { y with retrainFails := 1 })
    else s.failStack stack
  else s)

end Sys2Proof.Machine
end

