-- ==== Sys2Proof/Machine/Tier.lean ====
section
/-! DEFINITION. The Plinth tier at work (R235 to R258, R377, R378): waiting requests, fills, direct writes, evictions, cleaning,
hints, ageing, and the flash translation layer's own moves. -/

namespace Sys2Proof.Machine

open Sys2Proof

/-! ## Requests that wait -/

/-- Whether the tier works for a partition: the partition is awake and the module is up (R441, R449, R451). -/
def State.tierWorks (s : State) (p : Nat) : Bool := s.power.state == .ms0 && (s.part p).isPresent && !(s.part p).asleep

/-- Whether the processors of the given units of a page run, so that their channels serve (R260). -/
def State.unitsWork (s : State) (page : Nat) (units : BitVec 32) : Bool := units &&& ~~~(s.unitsUp page) == 0

/-- Fields of TIER_CTL (R246). -/
def Part.promote (p : Part) : Nat := bits p.tierCtl.toNat 3 0
def Part.ageNs (p : Part) : Nat := bits p.tierCtl.toNat 15 8 * 10000000
def Part.limitNs (p : Part) : Nat := bits p.tierCtl.toNat 27 16 * 1000000
def Part.dirtyHigh (p : Part) : Nat := 2 * (bits p.tierCtl.toNat 29 28 + 1)   -- in eighths of the frames

/-- Takes a request off the list and gives its page to its owner, which goes on when it waits for nothing else; with `direct` the
page is served without a frame. -/
def State.grantReq (s : State) (r : TierReq) (direct : Bool) : State :=
  let s1 := ({ s with
    tierReqs := s.tierReqs.filter (fun x => x.id != r.id)
    grants := if r.owner != Owner.none then s.grants ++ [(r.owner, r.page, direct)] else s.grants }).ownReads r.owner (· - 1)
  match r.owner with
  | .tile t e k => s1.runFlight t e k
  | _ => s1

/-- Ends a request with a status (R254). -/
def State.failReq (s : State) (r : TierReq) (status : Nat) : State :=
  let u := (findFrom (fun u => r.units.getLsbD u) 0 32).getD 0
  (({ s with tierReqs := s.tierReqs.filter (fun x => x.id != r.id) }).ownReads r.owner (· - 1)).failOwner r.owner status (tierBase + r.page * pageSize + u * unitSize)

/-- The requests that wait for a page, oldest first. -/
def State.reqsOn (s : State) (p page : Nat) : List TierReq := s.tierReqs.filter (fun r => r.pt == p && r.page == page)

/-- Units a request needs from flash: those it touches and does not cover whole. -/
def TierReq.reads (r : TierReq) : BitVec 32 := r.units &&& ~~~r.whole

/-- Serves what a page can now serve: requests whose units are in the frame go on, requests that read a failed unit end (R238,
R250). -/
def State.servePage (s : State) (p page : Nat) : State :=
  forEach (s.reqsOn p page) s (fun r st =>
    let g := st.page p page
    if !st.tierReqs.contains r then st
    else if (List.range 32).any (fun u => r.reads.getLsbD u && g.failed.getLsbD u && !g.holds u) then st.failReq r stTIER_ERROR
    else if g.serves r.reads then st.grantReq r false
    else st)

/-- Marks units whose codewords stay uncorrectable: their bit, and the erase block that holds them (R250, R258). -/
def State.badUnits (s : State) (p page : Nat) (bad : BitVec 32) : State :=
  forEach ((List.range 32).filter (fun u => bad.getLsbD u)) s (fun u st =>
    let k := (st.part p).flashKey (tierBase + page * pageSize + u * unitSize)
    let s1 := st.failUnit p page u
    match Tbl.get none s1.flash.map (mapKey k) with
    | some (c, b, _) => s1.setEraseBlock c b { (s1.eraseBlock c b) with failing := true }
    | none => s1)

/-- Reads units of a page from flash: those found uncorrectable, and those whose header is another unit's, are marked (R234,
R250). -/
def State.probe (s : State) (p page : Nat) (units bad : BitVec 32) : State :=
  let odd := (List.range 32).filter (fun u => units.getLsbD u && (bad.getLsbD u ||
    !s.headerOk ((s.part p).flashKey (tierBase + page * pageSize + u * unitSize))))
  s.badUnits p page (BitVec.ofNat 32 (odd.foldl (fun m u => m + 2 ^ u) 0))

/-! ## Frames (R240) -/

/-- The lowest-numbered free frame whose stack answers. -/
def State.freeTierFrame (s : State) (p : Nat) : Option Nat :=
  findFrom (fun f => !(s.part p).usedFrames.contains f &&
    (((s.part p).frameAddr f).map (fun a => (s.stack (a / 2 ^ 37)).mode == .service)).getD false) 0 (s.part p).frameCount

/-- Whether a page that is EVICTING frees its frame for a page. -/
def State.heirOf (s : State) (p page : Nat) : Bool := (s.part p).pages.any (fun e => e.2.state == .evicting && e.2.heir == some page)

/-- Whether a page can have a frame: a free one, that of a victim, or one that an eviction is freeing for it (R240). -/
def State.frameFor (s : State) (p page : Nat) : Bool :=
  (s.freeTierFrame p).isSome || s.heirOf p page || (s.victim p (fun _ => true)).isSome

/-- Pages of a partition that are listed, a bound for what an operation over them can need. -/
def Part.pageCount (p : Part) : Nat := p.pages.length + 1

/-- Copies units of a page from flash into its frame with valid codes (R236, R238). -/
def State.fillUnits (s : State) (p page : Nat) (units : BitVec 32) : State :=
  match (s.page p page).frame.bind (s.part p).frameAddr with
  | none => s
  | some b =>
    forEach ((List.range 32).filter (fun u => units.getLsbD u)) s (fun u st =>
      let k := (st.part p).flashKey (tierBase + page * pageSize + u * unitSize)
      let g := (st.countFlashRead k).writeStack (b + u * unitSize) (BMap.readBytes st.flash.data k unitSize)
      let x := g.st.page p page
      g.st.setPage p page { x with filled := x.filled ||| (1#32 <<< u) })

/-- Probes units of a FILLING page and copies the good ones into its frame. -/
def State.fetchUnits (s : State) (p page : Nat) (units bad : BitVec 32) : State :=
  let s1 := s.probe p page units bad
  s1.fillUnits p page (units &&& ~~~((s1.page p page).failed))

/-- A page takes a frame and goes to FILLING. -/
def State.beginFill (s : State) (p page f : Nat) : State :=
  let x := s.page p page
  s.setPage p page { x with state := .filling, frame := some f, filled := 0, dirty := 0 }

/-- Whether a request needs a frame: a write or an add, or a read whose page has reached PROMOTE (R238, R239). -/
def State.wantsFrame (s : State) (r : TierReq) : Bool :=
  r.kind != .read || ((s.part r.pt).promote != 0 && decide ((s.part r.pt).promote ≤ (s.page r.pt r.page).count))

/-- Whether a PIN may be carried out on a page: it is not pinned yet, and a partition pins at most its frame count less 16 (R244). -/
def Part.mayPin (p : Part) (x : TierPage) : Bool :=
  !x.pinned && decide ((p.pages.filter (fun e => e.2.pinned)).length + 1 + 16 ≤ p.frameCount)

/-- Whether a page waits for a frame: a waiting request needs one, or the next hint is a PIN of it. -/
def State.needsFrame (s : State) (p page : Nat) : Bool :=
  (s.page p page).state == .home && !s.heirOf p page &&
  ((s.reqsOn p page).any s.wantsFrame ||
    (match (s.part p).hints with
    | (.pin, g) :: _ => g == page && (s.part p).mayPin (s.page p g)
    | _ => false))

/-! ## Fills and read-throughs -/

/-- READ_THROUGH: the oldest request of a HOME page is a read below PROMOTE, or one for which no frame can be taken; it is
served from flash, or ends with TIER_ERROR when a unit it reads is failed. `bad` names the units found uncorrectable. -/
def execReadThrough (pt page : Nat) (bad : BitVec 32) (s : State) : Out :=
  .next (match s.reqsOn pt page with
  | [] => s
  | r :: _ =>
    if !s.tierWorks pt || !s.unitsWork page r.units || (s.page pt page).state != .home || r.kind != .read ||
        (s.wantsFrame r && s.frameFor pt page) then s
    else if s.wantsFrame r && s.flash.readOnly then s.failReq r stTIER_ERROR
    else
      let s1 := s.probe pt page r.units bad
      if (s1.page pt page).failed &&& r.units != 0 then s1.failReq r stTIER_ERROR else s1.grantReq r true)

/-- The units that the waiting accesses of a page read and that are not in its frame, as far as their channels serve now. -/
def State.unitsDue (s : State) (p page : Nat) : BitVec 32 :=
  (s.reqsOn p page).foldl (fun (m : BitVec 32) r => m ||| r.reads) 0 &&& ~~~((s.page p page).filled) &&& ~~~((s.page p page).failed) &&& s.unitsUp page

/-- FILL: a HOME page with a request that needs a frame takes a free one and goes to FILLING; the units that the waiting accesses
touch are read first, and units a write covers whole are not read (R238, R239). An access that reaches a FILLING page has its
units read next. With no frame to be had, an add ends with NO_RESOURCE and, in a READ_ONLY tier, every request with TIER_ERROR
(R239, R252). -/
def execFill (pt page : Nat) (bad : BitVec 32) (s : State) : Out :=
  let fetch := fun (st : State) => (st.fetchUnits pt page (st.unitsDue pt page) bad).servePage pt page
  .next (if !s.tierWorks pt then s
  else if (s.page pt page).state == .filling then fetch s
  else match (s.reqsOn pt page).find? s.wantsFrame with
  | none => s
  | some r =>
    if (s.page pt page).state != .home then s
    else match s.freeTierFrame pt with
      | some k => fetch (s.beginFill pt page k)
      | none =>
        if s.frameFor pt page then s
        else if s.flash.readOnly then s.failReq r stTIER_ERROR
        else if r.kind == .add then s.failReq r stNO_RESOURCE
        else s)

/-- FILL_COMPLETE: the other units in ascending order; with all 32 in, or failed, the page is RESIDENT. -/
def execFillComplete (pt : Nat) (found : FillFindings) (s : State) : Out :=
  let page := found.page
  let x := s.page pt page
  .next (if x.state == .filling && s.tierWorks pt then
    let s1 := s.fetchUnits pt page (~~~x.filled &&& ~~~x.failed &&& s.unitsUp page) found.bad
    let y := s1.page pt page
    if ~~~y.filled &&& ~~~y.failed != 0 then s1.servePage pt page
    else
      let n := (s1.part pt).fills + 1
      ((s1.setPage pt page { y with state := .resident, filledAt := n }).modPart pt (fun z => { z with fills := n })).servePage pt page
  else s)

/-- DIRECT_WRITE: the oldest request of a HOME page is a write, and no frame can be taken: each touched unit is merged and
programmed to a new place. -/
def execDirectWrite (pt page : Nat) (bad : BitVec 32) (s : State) : Out :=
  .next (match s.reqsOn pt page with
  | [] => s
  | r :: _ =>
    if !s.tierWorks pt || !s.unitsWork page r.units || (s.page pt page).state != .home || r.kind == .read || s.frameFor pt page then s
    else if s.flash.readOnly then s.failReq r stTIER_ERROR
    else if r.kind == .add then s.failReq r stNO_RESOURCE
    else
      let s1 := s.probe pt page r.reads bad
      if (s1.page pt page).failed &&& r.reads != 0 then s1.failReq r stTIER_ERROR else s1.grantReq r true)

/-! ## Evictions, write-back, cleaning -/

/-- The page that next waits for a frame: that of the oldest waiting request, then that of the PIN at the head of the hints. -/
def State.nextHeir (s : State) (p : Nat) : Option Nat :=
  ((s.tierReqs.filter (fun r => r.pt == p)).map (·.page) ++ ((s.part p).hints.take 1).map (·.2)).find? (s.needsFrame p)

/-- Steps 3 and 4 of an eviction (R241): every dirty unit is written back as far as its channel serves; then the page is HOME and
its frame serves the heir, if that still is HOME. A page with a unit that cannot leave stays RESIDENT (R242, R252). -/
def State.endEvict (s : State) (p g : Nat) : State :=
  let s1 := forEach ((List.range 32).filter (fun u => (s.unitsUp g).getLsbD u)) s (fun u st => (st.writeBackUnit p g u).2)
  let x := s1.page p g
  if x.dirty = 0 then
    let s2 := s1.setPage p g x.home
    match x.heir, x.frame with
    | some h, some f => if (s2.page p h).state == .home then s2.beginFill p h f else s2
    | _, _ => s2
  else if s.flash.readOnly || (List.range 32).any (fun u => s1.stuckUnit p g u) then s1.setPage p g { x with state := .resident, heir := none }
  else s1

/-- EVICTION: with no free frame for a page that waits for one, the victim of R240 goes to EVICTING; a page that is EVICTING has its
dirty units written back and leaves its frame. -/
def execEviction (pt page : Nat) (s : State) : Out :=
  .next (if !s.tierWorks pt then s
  else if (s.page pt page).state == .evicting then s.endEvict pt page
  else if (s.freeTierFrame pt).isNone && s.victim pt (fun _ => true) == some page then
    (match s.nextHeir pt with
    | some h => s.beginEvict pt page (some h)
    | none => s)
  else s)

/-- Units of a page that cleaning can write back now, dirty pages that have some, and of these the one with the lowest COUNT. -/
def State.cleanable (s : State) (p g : Nat) : List Nat :=
  (List.range 32).filter (fun u => (s.page p g).dirty.getLsbD u && (s.unitsUp g).getLsbD u && !s.stuckUnit p g u)
def State.dirtyPages (s : State) (p : Nat) : List (Nat × TierPage) :=
  (s.part p).pages.filter (fun e => e.2.state == .resident && e.2.dirty != 0 && !(s.cleanable p e.1).isEmpty)
def State.coldestDirty (s : State) (p : Nat) : Option Nat :=
  ((s.dirtyPages p).foldl (fun (best : Option (Nat × TierPage)) e => match best with
    | none => some e
    | some b => if e.2.count < b.2.count then some e else best) none).map (·.1)

/-- Whether more than `eighths` of a partition's frames are dirty. -/
def Part.dirtyOver (p : Part) (eighths : Nat) : Bool :=
  decide (p.frameCount * eighths < 8 * (p.pages.filter (fun e => e.2.frame.isSome && e.2.dirty != 0)).length)

/-- Cleaning ends when the share has fallen 1/8 below DIRTY_HIGH (R243). -/
def State.settleCleaning (s : State) (p : Nat) : State :=
  s.modPart p (fun x => { x with cleaning := x.cleaning && x.dirtyOver (x.dirtyHigh - 1) })

/-- WRITE_BACK: one dirty unit of a page that is EVICTING, or of the page that cleaning has reached (R242, R243). -/
def execWriteBack (pt page unit : Nat) (s : State) : Out :=
  let x := s.page pt page
  .next (if unit < 32 && s.tierWorks pt && s.unitsWork page (1#32 <<< unit) && !s.flash.readOnly && x.dirty.getLsbD unit && !s.stuckUnit pt page unit &&
      (x.state == .evicting || ((s.part pt).cleaning && s.coldestDirty pt == some page)) then
    ((s.writeBackUnit pt page unit).2).settleCleaning pt
  else s)

/-- Cleans the coldest dirty page until the share has fallen 1/8 below DIRTY_HIGH. -/
def State.clean (s : State) (p : Nat) : Nat → State
  | 0 => s
  | fuel + 1 =>
    if !(s.part p).dirtyOver ((s.part p).dirtyHigh - 1) then s
    else match s.coldestDirty p with
      | none => s
      | some g => (forEach (s.cleanable p g) s (fun u st => (st.writeBackUnit p g u).2)).clean p fuel

/-- CLEANING: begins when the dirty frames exceed the DIRTY_HIGH share, and goes on; it stops in a READ_ONLY tier. -/
def execCleaning (pt : Nat) (s : State) : Out :=
  let p := s.part pt
  .next (if s.tierWorks pt && !s.flash.readOnly && (p.cleaning || p.dirtyOver p.dirtyHigh) then
    ((s.modPart pt (fun x => { x with cleaning := true })).clean pt p.pageCount).settleCleaning pt
  else s)

/-! ## Ageing and timeouts -/

/-- AGE: every AGE interval every COUNT of the partition is halved. -/
def execAge (pt : Nat) (s : State) : Out :=
  let p := s.part pt
  .next (if p.isPresent && decide (p.agedAt + p.ageNs ≤ s.now) then
    s.setPart pt { p with agedAt := s.now, pages := Tbl.mapV {} (fun (g : TierPage) => { g with count := g.count / 2 }) p.pages }
  else s)

/-- TIER_TIMEOUT: a request has waited longer than TIER_LIMIT; the flash work it started goes on. -/
def execTierTimeout (request : Nat) (s : State) : Out :=
  .next (match s.tierReqs.find? (fun r => r.id == request) with
  | none => s
  | some r =>
    if s.now ≤ r.since + (s.part r.pt).limitNs then s
    else if r.owner == .none then { s with tierReqs := s.tierReqs.filter (fun x => x.id != r.id) }
    else
      let x := s.page r.pt r.page
      let u := (findFrom (fun u => r.units.getLsbD u) 0 32).getD 0
      let s1 := (s.setPage r.pt r.page { x with late := min 255 (x.late + 1) }).modPart r.pt (fun p => { p with lateTotal := p.lateTotal + 1 })
      (s1.tierPageEvent r.pt r.page u 1).failReq r stTIER_TIMEOUT)

/-! ## Hints (R244, R245) -/

/-- The hint at the head of a partition's queue, with the queue's rest taken. -/
def State.nextHint (s : State) (p : Nat) (kind : HintKind) (body : Nat → State → State) : State :=
  match (s.part p).hints with
  | (k, g) :: rest => if k == kind && s.tierWorks p then body g (s.modPart p (fun x => { x with hints := rest })) else s
  | [] => s

/-- PREFETCH: fills a HOME page into a free frame or that of a clean victim with COUNT 0; else it is dropped. A clean page has
nothing to write back, so its eviction and the taking of its frame are one step. -/
def execPrefetch (pt : Nat) (s : State) : Out :=
  .next (s.nextHint pt .prefetch (fun g st =>
    if (st.page pt g).state != PageState.home || st.heirOf pt g then st
    else match st.freeTierFrame pt, st.victim pt (fun x => x.dirty == 0 && x.count == 0) with
      | some f, _ => st.beginFill pt g f
      | none, some v => (st.beginEvict pt v (some g)).endEvict pt v
      | none, none => st))

/-- PIN_HINT: fills the page as a write would and sets PINNED; beyond the frame count less 16 it is refused. While the eviction of a
victim is to free a frame for it, the hint waits at the head of the queue; when no frame can be taken it is dropped (R245). -/
def execPinHint (pt : Nat) (s : State) : Out :=
  let waits := match (s.part pt).hints with
    | (.pin, g) :: _ => (s.part pt).mayPin (s.page pt g) && (s.page pt g).state == PageState.home && (s.freeTierFrame pt).isNone && s.frameFor pt g
    | _ => false
  .next (if waits then s
  else s.nextHint pt .pin (fun g st =>
    let x := st.page pt g
    if x.pinned then st
    else if !(st.part pt).mayPin x then st.modPart pt (fun y => { y with pinRefused := y.pinRefused + 1 })
    else if x.state != .home then st.setPage pt g { x with pinned := true }
    else match st.freeTierFrame pt with
      | some f => (st.beginFill pt g f).setPage pt g { ((st.beginFill pt g f).page pt g) with pinned := true }
      | none => st))

/-- DEMOTE: clears PINNED and COUNT and the page goes to EVICTING. A page that is FILLING is evicted once it is RESIDENT. -/
def execDemote (pt : Nat) (s : State) : Out :=
  .next (match (s.part pt).hints with
  | (.demote, g) :: _ =>
    if (s.page pt g).state == .filling then s
    else s.nextHint pt .demote (fun g st =>
      let st1 := st.setPage pt g { (st.page pt g) with pinned := false, count := 0 }
      if (st1.page pt g).state == .resident && st1.mayLeave pt g then st1.beginEvict pt g none else st1)
  | _ => s)

/-! ## The flash translation layer's own moves (R255 to R258) -/

/-- The units of an erase block that the mapping names (R255). -/
def State.validUnits (s : State) (ch b : Nat) : List UnitCopy :=
  (s.eraseBlock ch b).units.filter (fun u => Tbl.get none s.flash.map (u.extent * 2 ^ 20 + u.unit) == some (ch, b, u.pos))

/-- Moves an erase block's valid units to other blocks of its channel; only mapping entries change, and the bytes written on
behalf of partitions stay as they are (R255, R259). -/
def State.moveUnits (s : State) (ch b : Nat) : State :=
  forEach (s.validUnits ch b) s (fun u st => st.remap (u.extent * extentSize + u.unit * unitSize))

/-- Erases a block: nothing is programmed in it, and its reads count from 0 (R257). -/
def State.eraseFlash (s : State) (ch b : Nat) : State :=
  let e := s.eraseBlock ch b
  s.setEraseBlock ch b { e with cycles := e.cycles + 1, reads := 0, next := 0, units := [] }

/-- Whether a channel's processor works. -/
def State.channelWorks (s : State) (ch : Nat) : Bool := ch < 32 && s.power.state == .ms0 && (s.proc (ftlOfChannel ch)).restart.isNone

/-- WEAR_LEVELLING: with more than 500 cycles between a channel's blocks, the least-worn block's data move into the most-worn
free block. -/
def execWearLevelling (channel : Nat) (s : State) : Out :=
  let bs := s.channelBlocks channel
  let full := (bs.filter (fun e => !(s.validUnits channel e.1).isEmpty)).foldl (fun (m : Option (Nat × EraseBlock)) e => match m with
    | none => some e
    | some x => if e.2.cycles < x.2.cycles then some e else m) none
  let worn := (bs.filter (fun e => e.2.isFree)).foldl (fun (m : Option (Nat × EraseBlock)) e => match m with
    | none => some e
    | some x => if x.2.cycles < e.2.cycles then some e else m) none
  .next (match full, worn with
  | some (b, e), some (c, w) =>
    if s.channelWorks channel && e.cycles + 500 < w.cycles then
      let s2 := forEach (s.validUnits channel b) s (fun u st => st.mapInto (u.extent * 2 ^ 20 + u.unit) channel c)
      (s2.eraseFlash channel b).trace (ftlOfChannel channel) 9 channel b 0
    else s
  | _, _ => s)

/-- READ_RELOCATION: at 100,000 reads since the block's last erase. -/
def execReadRelocation (channel block : Nat) (s : State) : Out :=
  let e := s.eraseBlock channel block
  .next (if s.channelWorks channel && block < 2 ^ 20 && !e.retired && decide (100000 ≤ e.reads) then
    ((s.moveUnits channel block).eraseFlash channel block).trace (ftlOfChannel channel) 9 channel block 0
  else s)

/-- BLOCK_RETIRE: after a failure of the block, its units move and it serves no more. The share of spare blocks that one block
makes is the part's own, a free value; below 1 % the module warns, below 0.2 % the tier is READ_ONLY. -/
def execBlockRetire (channel block : Nat) (s : State) : Out :=
  let e := s.eraseBlock channel block
  .next (if s.channelWorks channel && block < 2 ^ 20 && !e.retired then
    let s1 := s.moveUnits channel block
    let (r, s2) := s1.fresh
    let lost := min 300 (Tbl.get 0 s2.flash.spare channel + r % 301)
    let s3 := s2.setEraseBlock channel block { (s2.eraseBlock channel block) with retired := true, failing := false }
    let s4 := { s3 with flash := { s3.flash with
      spare := Tbl.set 0 s3.flash.spare channel lost
      wearWarn := s3.flash.wearWarn || decide (200 < lost)
      readOnly := s3.flash.readOnly || decide (280 < lost) } }
    (s4.error (ftlOfChannel channel) { cls := cUNIT, unit := 10, unitId := channel }).trace (ftlOfChannel channel) 11 channel block 0
  else s)

/-- GARBAGE_COLLECTION: a block's valid units move to other blocks, and the block is erased. -/
def execGarbageCollection (channel block : Nat) (s : State) : Out :=
  .next (if s.channelWorks channel && block < 2 ^ 20 && !(s.eraseBlock channel block).retired then
    ((s.moveUnits channel block).eraseFlash channel block).trace (ftlOfChannel channel) 8 channel block 0
  else s)

/-! ## TIER_HINT and TIER_STATUS -/

/-- Check 6 of a command over a range of pages. -/
def State.rangeCheck (s : State) (f first n most : Nat) : Nat :=
  if n = 0 ∨ most < n then stBAD_PARAM
  else if (s.part f).extents.length * 32768 < first + n then stDENIED
  else 0

/-- Queues a TIER_HINT's hints while there is room; `note` counts them, and the two counts of RESULT[1] stand in the result until
the end. -/
def State.queueHints (s : State) (f n : Nat) : State :=
  let c := s.cmd f n
  let pages := (List.range (c.param 4 4 - c.note)).map (fun i => c.param 0 4 + c.note + i)
  let old := (s.part f).hints
  let (q, rest) := pushHints ((hintOf (c.param 8 1)).getD .prefetch) pages old
  let put := pages.length - rest.length
  let dropped := old.length + put - q.length
  let s1 := (s.modPart f (fun x => { x with hints := q, dropped := x.dropped + dropped })).modCmd f n (fun x => { x with note := x.note + put, stage := 1 })
  if rest.isEmpty then
    let start := (c.result.getD 0 0).toNat
    let p := s1.part f
    s1.replyOk f n [c.param 4 4, (p.pinRefused - start % 2 ^ 32) % 2 ^ 32 + (p.dropped - start / 2 ^ 32) * 2 ^ 32]
  else s1

/-- TIER_HINT: waits for queue space as FHINT does, and completes when its last hint is queued. -/
def execTierHint (fn slot : Nat) (s : State) : Out :=
  .next (if s.canTake fn slot opTIER_HINT then
    let s1 := s.take fn slot
    let c := s1.cmd fn slot
    let st := if (hintOf (c.param 8 1)).isNone ∨ !c.zeros [(9, 7)] then stBAD_PARAM else s1.rangeCheck fn (c.param 0 4) (c.param 4 4) (2 ^ 24)
    if st ≠ 0 then s1.finishCmd fn slot st
    else
      let p := s1.part fn
      ((s1.beginCmd fn slot).modCmd fn slot (fun x => { x with result := [BitVec.ofNat 64 (p.pinRefused % 2 ^ 32 + p.dropped * 2 ^ 32)] })).queueHints fn slot
  else if s.inRun fn slot opTIER_HINT && (s.cmd fn slot).stage == 1 then s.queueHints fn slot
  else s)

/-- The record of a page (R235). -/
def TierPage.record (g : TierPage) : List Byte :=
  let st := match g.state with
    | .home => 0
    | .filling => 1
    | .resident => 2
    | .evicting => 3
  natLe st 1 ++ natLe g.pinned.toNat 1 ++ natLe g.count 1 ++ natLe g.late 1 ++ natLe g.dirty.toNat 4 ++ natLe g.failed.toNat 4 ++
    natLe (g.frame.getD 0xFFFFFFFF) 4

/-- TIER_STATUS. -/
def execTierStatus (fn slot : Nat) (s : State) : Out :=
  takeOp s fn slot opTIER_STATUS (fun s1 =>
    let c := s1.cmd fn slot
    let out := c.param 8 8
    let st := if out % 16 ≠ 0 ∨ 2 ^ 63 ≤ out then stBAD_PARAM else s1.rangeCheck fn (c.param 0 4) (c.param 4 4) 65536
    if st ≠ 0 then s1.finishCmd fn slot st
    else if s1.hostStatus fn ≠ 0 then s1.finishCmd fn slot (s1.hostStatus fn)
    else
      let bytes := (List.range (c.param 4 4)).flatMap (fun i => (s1.page fn (c.param 0 4 + i)).record)
      ((s1.beginCmd fn slot).hostWrite fn out bytes (.command fn slot)).replyOk fn slot [c.param 4 4])

end Sys2Proof.Machine
end

