-- ==== Sys2Proof/Machine/Links.lean ====
section
/-! DEFINITION. Fabric ports (R286 to R291, R299), FAB_CONFIG (R294, R367), Caliper time over the fabric (R301, R302, R387,
R389), and sending unacknowledged packets again (R298). -/

namespace Sys2Proof.Machine

open Sys2Proof

/-! ## Time of a packet (R303, R391) -/

/-- How far the stamp of a packet lies from this module's time: the nearest value with the same low 24 bits. -/
def State.lead (s : State) (k : Packet) : Int :=
  let d : Nat := (k.low.toNat + k.epoch.toNat * 65536 + (2 ^ 24 - s.now % 2 ^ 24)) % 2 ^ 24
  if d ≤ 2 ^ 23 then (d : Int) else (d : Int) - 2 ^ 24

/-- The full stamp of a packet's sending (R391). -/
def State.sendStamp (s : State) (k : Packet) : Nat := ((s.now : Int) + s.lead k).toNat

/-- Whether the first of two events, of one module or of two modules of a fabric, certainly happened before the second: `sa` and `sb`
are their stamps, `u` the uncertainty of the first (R392). -/
def certainlyBefore (u sa sb : Nat) (oneModule inHoldover : Bool) : Bool :=
  if oneModule then decide (sa + u + 2 < sb) else !inHoldover && decide (sa + u + 26 < sb)

/-- Whether a packet is more than 4 ms old on arrival. -/
def State.isStale (s : State) (k : Packet) : Bool := decide (s.lead k < -4000000)

/-- A packet discarded for its age, counted. -/
def State.countStale (s : State) : State := { s with fabric := { s.fabric with stale := s.fabric.stale + 1 } }

/-! ## Port states -/

/-- Lanes that carry data. -/
def Port.lanes (x : Port) : Nat := 8 - (x.lanesBad.length - x.spareUsed.toNat)

/-- Whether the spare lane is armed: present, unused, and the fabric larger than 32 modules (R287, R321, R496). -/
def State.armed (s : State) (q : Nat) : Bool := (s.port q).hasSpare && !(s.port q).spareUsed && decide (32 < s.fabricN)

/-- Moves a port to another state, which the log records (R290, R429); FAILED takes it out of service with an error record
(R403, R405). -/
def State.setPortState (s : State) (q : Nat) (x : PortState) : State :=
  if (s.port q).state == x then s
  else
    let s1 := (s.modPort q (fun y => { y with state := x })).eventAll pFAB s.partsInDomain 0x0006 q (portCode x) (s.port q).lengthCm 0 0
    if x == .failed then s1.error pFAB { status := 0, cls := cUNIT, unit := 9, unitId := q } else s1

/-- Sends a packet again, with its sequence number and a new stamp; none is sent without a route. -/
def State.resend (s : State) (id : Nat) : State :=
  match s.fabric.unacked.find? (fun u => u.id == id) with
  | none => s
  | some u =>
    let (k, s1) := s.packet u.packet.type u.packet.cls u.packet.domain u.packet.dst u.packet.addr u.packet.payload
    let k1 := { u.packet with low := k.low, epoch := k.epoch }
    ({ s1 with fabric := { s1.fabric with
        unacked := s1.fabric.unacked.map (fun (v : Unacked) => if v.id = id then { v with packet := k1, last := s1.now } else v) } }).dispatch k1

/-- Whether a collective of this member still depends on CHAIN packets. -/
def Coll.chains (x : Coll) : Bool := x.stage == .run && !x.broken && !x.finalDone

/-- Whether a HALT waits for the writes of a packet's domain (R361 step 4). -/
def State.halting (s : State) (k : Packet) : Bool :=
  k.type != pkREAD && allParts.any (fun p => (s.part p).domain != 0 && (s.part p).domain == k.domain &&
    [0, p].any (fun f => (s.cmdsOf f (fun c => c.phase == .running && c.opcode == opHALT && (haltScope f c).contains p)).length != 0))

/-- A remote write dropped for a HALT: it is not sent again, and the log records it (R399). -/
def State.dropWrite (s : State) (id q : Nat) : State :=
  match s.fabric.unacked.find? (fun u => u.id == id) with
  | none => s
  | some u =>
    ({ s with fabric := { s.fabric with unacked := s.fabric.unacked.filter (fun v => v.id != id) } }.ownWrites u.owner (· - 1)).error pFAB
      { status := 0, cls := cREQUEST, unit := 9, unitId := q, addr := 2 ^ 62 + u.packet.dst * 2 ^ 48 + u.packet.addr }

/-- When the packets of a domain began to be sent by a new route: now, unless some already are. -/
def State.rerouteFrom (s : State) (dom : Nat) : Nat :=
  ((s.fabric.unacked.find? (fun u => u.packet.domain == dom && u.reroute.isSome)).bind (·.reroute)).getD s.now

/-- Requests that are sent again by a new route (R410). -/
def State.beginReroute (s : State) (ids : List Nat) : State :=
  { s with fabric := { s.fabric with unacked := s.fabric.unacked.map (fun (u : Unacked) =>
      if ids.contains u.id then { u with reroute := some (s.rerouteFrom u.packet.domain) } else u) } }

/-- The packets that wait at a port whose link goes down are lost, and a collective whose CHAIN packets are among them breaks (R312). -/
def State.dropWaiting (s : State) (q : Nat) : State :=
  let held := fun (seq : Nat) => s.fabric.outbox.any (fun e => e.1 == q && e.2.type == pkCHAIN && e.2.tag == BitVec.ofNat 16 seq)
  let s1 := forEach allParts s (fun p st =>
    st.modPart p (fun y => { y with colls := y.colls.map (fun c => if c.chains && held c.seq then { c with cut := true } else c) }))
  { s1 with fabric := { s1.fabric with outbox := s1.fabric.outbox.filter (fun e => e.1 != q) } }

/-- A link goes down: the port's new state, the packets that wait there lost, and a re-sending of every unacknowledged packet whose way
it was (R298), but for the writes that a HALT drops (R399). -/
def State.linkDown (s : State) (q : Nat) (x : PortState) : State :=
  let ids := (s.fabric.unacked.filter (fun u => s.routePort u.packet.dst == some q)).map (·.id)
  let wasUp := s.portUp q
  let s1 := s.setPortState q x
  if !wasUp then s1
  else
    let s2 := s1.dropWaiting q
    forEach ids (s2.beginReroute ids) (fun i st =>
      if st.fabric.unacked.any (fun u => u.id == i && st.halting u.packet) then st.dropWrite i q else st.resend i)

/-- A link-up attempt fails: DOWN until the retry, or FAILED after the eighth in a row (R288). -/
def State.attemptFailed (s : State) (q : Nat) : State :=
  let n := (s.port q).fails + 1
  (s.modPort q (fun y => { y with fails := n, failedAt := s.now })).linkDown q (if 8 ≤ n then .failed else .down)

/-! ## Capability exchange (R291) -/

/-- The CRC of the FAB_CONFIG parameters that R291 compares. POSITION differs from module to module, so it is left out. -/
def State.configCrc (s : State) : Nat := crc32c (natLe s.fabric.shape 8)

/-- Sends a port's capabilities to its partner. -/
def State.sendCaps (s : State) (q : Nat) : State :=
  let x := s.port q
  let (k, s1) := s.packet pkCAPS 1 0 (s.neighbour q) 0
    (natLe s.moduleId 8 ++ natLe s.fabric.position 1 ++ natLe q 1 ++ natLe x.lanes 1 ++ natLe 1 1 ++
     natLe (((s.proc pFAB).current.map (·.version)).getD 0) 4 ++ natLe s.configCrc 4 ++ natLe (x.hasSpare.toNat + 2 * (s.armed q).toNat) 1 ++ List.replicate 11 0)
  (s1.send q k).trace pFAB 8 q 4 0

/-- Judges the partner's capabilities: UP or DEGRADED when they match, MISWIRED when they do not. -/
def State.judge (s : State) (q : Nat) (c : Capability) : State :=
  let x := s.port q
  let fits := c.position == s.neighbour q && c.port == partnerPort q && c.configCrc.toNat == s.configCrc && c.fec.getLsbD 0
  let s1 := s.modPort q (fun y => { y with partner := some c })
  if !fits then (s1.modPort q (fun y => { y with failedAt := s.now })).linkDown q .miswired
  else if s.portUp q then s1
  else
    ((s1.modPort q (fun y => { y with fails := 0, corrected := 0, replays := 0, linkUps := min (2 ^ 32 - 1) (y.linkUps + 1) })).setPortState q
      (if x.lanes = 8 then .up else .degraded)).trace pFAB 8 q 5 0 |>.trace pFAB 8 q 6 0

/-- Starts link-up with what the measurement found (R288, R289): on to the capability exchange when training passes. -/
def State.bringUp (s : State) (q : Nat) (f : PortFindings) : State :=
  let s1 := s.modPort q (fun y => { y with
    term := f.term, lengthCm := f.lengthCm, delayNs := f.delayNs, hasSpare := f.hasSpare
    lanesBad := [], spareUsed := false, partner := none })
  let s2 := forEach [1, 2, 3] s1 (fun i st => st.trace pFAB 8 q i 0)
  if f.trained then (s2.setPortState q .caps).sendCaps q else s2.attemptFailed q

/-- Whether ports run: the module is in MS0, past start-up, and configured into a fabric (R367). -/
def State.fabricOn (s : State) : Bool := s.power.state == .ms0 && s.power.devReady && (shapeDims s.fabric.shape).isSome

/-- PORT_PRESENCE. -/
def execPortPresence (port : Nat) (found : PortFindings) (s : State) : Out :=
  .next (if port < 8 && s.fabricOn && (s.port port).state == .down && s.procUp pFAB then s.bringUp port found else s)

/-- PORT_RETRY: 1 s after a failed attempt. -/
def execPortRetry (port : Nat) (found : PortFindings) (s : State) : Out :=
  .next (if port < 8 && s.fabricOn && s.procUp pFAB && (s.port port).state == .down && (s.port port).fails ≠ 0 &&
      decide ((s.port port).failedAt + 1000000000 ≤ s.now) then s.bringUp port found else s)

/-- CAPS: the exchange of step 4, or one that a partner begins again. -/
def execCaps (port : Nat) (packet : Packet) (capability : Capability) (s : State) : Out :=
  let st := (s.port port).state
  .next (if 8 ≤ port || packet.type ≠ pkCAPS || s.power.fatal || !s.fabricOn || !s.procUp pFAB then s
  else if s.isStale packet then (if st == .caps then s.countStale.attemptFailed port else s.countStale)
  else if st == .caps then s.judge port capability
  else if st == .miswired || s.portUp port then (s.sendCaps port).judge port capability
  else s)

/-- MISWIRED_RETRY: the exchange again after 1 s. -/
def execMiswiredRetry (port : Nat) (capability : Capability) (s : State) : Out :=
  .next (if port < 8 && s.fabricOn && s.procUp pFAB && !s.power.fatal && (s.port port).state == .miswired && decide ((s.port port).failedAt + 1000000000 ≤ s.now) then
    (s.sendCaps port).judge port capability else s)

/-! ## Lanes and replay (R287, R299) -/

/-- LANE_FAIL: the spare takes the first failed lane's place, at once when armed; 7 lanes follow, then FAILED. Lane 8 is the
spare. -/
def execLaneFail (port lane : Nat) (s : State) : Out :=
  let x := s.port port
  let retrain := fun (st : State) => (st.linkDown port .caps).sendCaps port
  .next (if 8 ≤ port || 8 < lane || !s.portUp port then s
  else if lane = 8 then
    if !x.hasSpare then s
    else
      let s1 := s.modPort port (fun y => { y with hasSpare := false, spareUsed := false })
      if x.spareUsed then (if (s1.port port).lanes < 7 then s1.linkDown port .failed else retrain s1) else s1
  else if x.lanesBad.contains lane then s
  else
    let s1 := s.modPort port (fun y => { y with
      lanesBad := y.lanesBad ++ [lane]
      spareUsed := y.spareUsed || y.hasSpare
      switches := if y.hasSpare && !y.spareUsed then y.switches + 1 else y.switches })
    if (s1.port port).lanes < 7 then s1.linkDown port .failed
    else if s.armed port then s1
    else retrain s1)

/-- LINK_REPLAY: one replay event; when more than 16 replays would be needed the link goes DOWN. -/
def execLinkReplay (port replays : Nat) (s : State) : Out :=
  .next (if port < 8 && s.portUp port then
    let s1 := s.modPort port (fun y => { y with replays := y.replays + 1 })
    if 16 < replays then (s1.modPort port (fun y => { y with fails := 1, failedAt := s.now })).linkDown port .down else s1
  else s)

/-! ## FAB_CONFIG (R294, R367) -/

/-- Sets shape and position; every port repeats the capability exchange, and stays DOWN with no fabric. -/
def State.configure (s : State) (shape position : Nat) : State :=
  let s1 := { s with fabric := { s.fabric with
    shape := shape, position := position, members := [], parent := none, joined := false, syncSent := none } }
  forEach (List.range 8) s1 (fun q st =>
    let x := (st.port q).state
    let st1 := st.modPort q (fun y => { y with fails := 0, partner := none })
    if shape = 0xFF then st1.linkDown q .down
    else if x == .up || x == .degraded || x == .miswired || x == .caps then (st1.linkDown q .caps).sendCaps q
    else st1.linkDown q .down)

/-- FAB_CONFIG. -/
def execFabConfig (fn slot : Nat) (s : State) : Out :=
  takeOp s fn slot opFAB_CONFIG (fun s1 =>
    let c := s1.cmd fn slot
    let shape := c.param 0 1
    let position := c.param 1 1
    let n := match shapeDims shape with
      | some (x, y, z) => x * y * z
      | none => 0
    if (shape ≠ 0xFF ∧ n ≤ position) ∨ c.param 2 6 ≠ 0 then s1.finishCmd fn slot stBAD_PARAM
    else if allParts.any (fun p => (s1.part p).domain != 0) then s1.finishCmd fn slot stBUSY
    else
      let s2 := (s1.beginCmd fn slot).configure shape (if shape = 0xFF then 0 else position)
      s2.replyOk fn slot [s2.configCrc])

/-! ## Caliper time (R301, R302, R389) -/

/-- The port one step toward coordinate 0 along a dimension; ties go to the - direction. -/
def portToZero (d x n : Nat) : Nat := if 2 * x ≤ n then 2 * d else 2 * d + 1

/-- The ports of the parents in the order of R301, the first first. -/
def State.parentPorts (s : State) : List Nat :=
  [2, 1, 0].filterMap (fun d => if along d s.here = 0 then none else some (portToZero d (along d s.here) (along d s.dims)))

/-- The port to the parent: the one in force while its link is up, else the first of R301 whose link is up. -/
def State.parentPort (s : State) : Option Nat :=
  match s.fabric.parent with
  | some q => some q
  | none => s.parentPorts.head?

/-- Enters or leaves holdover, with its log entry (R389). -/
def State.holdoverEvent (s : State) (enter : Bool) (offset : Int) : State :=
  s.eventAll pFAB s.partsInDomain 0x0003 (s.parentPort.getD 0xFF) enter.toNat (unsigned 64 offset) 0 0

/-- Sets the counter's increment to its nominal value changed by a free amount within 100 ppm toward the offset (R301, R386). -/
def State.slew (s : State) (offset : Int) : State :=
  let (r, s1) := s.fresh
  let d := if offset = 0 then 0 else r % 429497
  { s1 with time := { s1.time with increment := if 0 ≤ offset then 2 ^ 32 + d else 2 ^ 32 - d } }

/-- Acts on a measured offset: a step forward or a run at half rate on joining, otherwise a slew (R301, R389). -/
def State.settleOffset (s : State) (offset : Int) : State :=
  let s1 := { s with fabric := { s.fabric with offset := offset, syncSent := none, holdover := false } }
  let s2 := if s.fabric.holdover then s1.holdoverEvent false offset else s1
  if s2.fabric.halfRate then
    let s3 : State := { s2 with fabric := { s2.fabric with halfRate := false } }
    if -1000 ≤ offset then (s3.slew offset).holdoverEvent false offset else s2
  else if s2.fabric.joined then s2.slew offset
  else
    let s3 := { s2 with fabric := { s2.fabric with joined := true } }
    if 0 < offset then
      let s4 : State := { s3 with time := { s3.time with counter := s3.time.counter + offset.toNat * 2 ^ 32 } }
      (s4.holdoverEvent true offset).holdoverEvent false 0
    else if offset < -1000 then
      let s4 : State := { s3 with fabric := { s3.fabric with halfRate := true }, time := { s3.time with increment := 2 ^ 31 } }
      s4.holdoverEvent true offset
    else s3.slew offset

/-- SYNC_EXCHANGE: a SYNC packet to the parent, stamped t1. -/
def execSyncExchange (s : State) : Out :=
  .next (match s.parentPort with
  | none => s
  | some q =>
    if !s.fabricOn || !s.portUp q then s
    else
      let (k, s1) := s.packet pkSYNC 1 0 (s.neighbour q) 0 []
      let t := s1.sendStamp k
      ({ s1 with fabric := { s1.fabric with syncSent := some t } }).send q { k with payload := natLe t 8 ++ List.replicate 24 0 })

/-- PARENT_LOST: free running, with the next neighbour of R301 whose link is up as parent. -/
def execParentLost (s : State) : Out :=
  .next (match s.parentPort with
  | none => s
  | some q =>
    if !s.fabricOn || s.portUp q then s
    else
      let s1 := if s.fabric.holdover then s else s.holdoverEvent true s.fabric.offset
      { s1 with fabric := { s1.fabric with holdover := true, syncSent := none, parent := (s.parentPorts.find? s.portUp).orElse (fun _ => s.fabric.parent) } })

/-- SYNC: an exchange of a child is answered with t2 and t3; the parent's answer gives the offset. The manual gives the stamps no
place, so the payload holds t1, t2 and t3, and TAG 1 marks an answer. -/
def execSync (port : Nat) (packet : Packet) (s : State) : Out :=
  .next (if 8 ≤ port || packet.type ≠ pkSYNC || !s.portUp port then s
  else if s.isStale packet then s.countStale
  else
    let at' := fun (i : Nat) => leNat ((packet.payload.drop (8 * i)).take 8)
    if packet.tag = 0 then
      let (t2, s1) := s.stamp (.akx port)
      let (k, s2) := s1.packet pkSYNC 1 0 packet.src 0 []
      let t3 := s2.sendStamp k
      s2.send port { k with tag := 1, payload := natLe (at' 0) 8 ++ natLe t2 8 ++ natLe t3 8 ++ List.replicate 8 0 }
    else match s.fabric.syncSent with
      | none => s
      | some t1 =>
        if at' 0 ≠ t1 ∨ s.parentPort ≠ some port then s
        else
          let (t4, s1) := s.stamp (.akx port)
          let (r, s2) := s1.fresh
          let offset := (((at' 1 : Int) - t1) + ((at' 2 : Int) - t4)) / 2 + ((r % 5 : Nat) : Int) - 2
          (s2.settleOffset offset).trace pFAB 10 packet.src (unsigned 64 offset) 0)

/-- CALIPER_REALIGN: every replica counter equals the master's (R387). -/
def execCaliperRealign (s : State) : Out := .next { s with time := { s.time with replicas := [] } }

end Sys2Proof.Machine
end

