-- ==== Sys2Proof/Machine/Collective.lean ====
section
/-! DEFINITION. Collectives on this member (R304 to R319, R379): records and their checks, chunks and rings, chains, copies, the
fallback of R314, PERMUTE, completion, and lost members. -/

namespace Sys2Proof.Machine

open Sys2Proof

/-! ## The record (R305) -/

def Cmd.cOp (c : Cmd) : Nat := c.param 0 1
def Cmd.cFrom (c : Cmd) : Nat := bits (c.param 1 1) 3 0
def Cmd.cTo (c : Cmd) : Nat := bits (c.param 1 1) 7 4
def Cmd.cLandAdd (c : Cmd) : Bool := bit (c.param 2 1) 0
def Cmd.cKeepEn (c : Cmd) : Bool := bit (c.param 2 1) 1
def Cmd.cReuse (c : Cmd) : Bool := bit (c.param 2 1) 2
def Cmd.cForce (c : Cmd) : Bool := bit (c.param 2 1) 3
def Cmd.cRoot (c : Cmd) : Nat := c.param 3 1
def Cmd.cSeq (c : Cmd) : Nat := c.param 4 4
def Cmd.cElems (c : Cmd) : Nat := c.param 8 8
def Cmd.cSrc (c : Cmd) : Nat := c.param 16 8
def Cmd.cDst (c : Cmd) : Nat := c.param 24 8
def Cmd.cScratch (c : Cmd) : Nat := c.param 32 8
def Cmd.cKey (c : Cmd) : Nat := c.param 40 4
def Cmd.cHop (c : Cmd) : Nat := c.param 44 4
def Cmd.cWaitGate (c : Cmd) : Nat := c.param 48 8
def Cmd.cWaitValue (c : Cmd) : Nat := c.param 56 8
def Cmd.cDoneGate (c : Cmd) : Nat := c.param 64 8
def Cmd.cStaging (c : Cmd) : Nat := c.param 72 8
def Cmd.cMapCrc (c : Cmd) : Nat := c.param 80 4

/-- REDUCE_SCATTER and ALL_REDUCE. -/
def Cmd.cReduces (c : Cmd) : Bool := c.cOp == 1 || c.cOp == 3

/-- HOP_WAIT in ns: 0 means 2,000 us. -/
def Cmd.hopNs (c : Cmd) : Nat := (if c.cHop = 0 then 2000 else c.cHop) * 1000

/-- Formats of a reduction. -/
def collFmt (f : Nat) : Bool := f == 4 || f == 6 || f == 8 || f == 9

/-- Bytes of a stored element of a floating format. -/
def elemWidth (f : Nat) : Nat := fmtBits f / 8

/-- C of R307, in elements or bytes. -/
def Cmd.cChunk (c : Cmd) (n : Nat) : Nat :=
  let g := if c.cReduces then 1024 else 2048
  ceilDiv c.cElems (g * n) * g

/-- The units of chunk `k`: first, and one past the last (R307). -/
def Cmd.cSpan (c : Cmd) (n k : Nat) : Nat × Nat := (min (k * c.cChunk n) c.cElems, min ((k + 1) * c.cChunk n) c.cElems)
def Cmd.cSize (c : Cmd) (n k : Nat) : Nat := (c.cSpan n k).2 - (c.cSpan n k).1

/-! ## Finding and changing -/

def State.coll (s : State) (p seq : Nat) : Option Coll := (s.part p).colls.find? (fun x => x.seq == seq)
def State.modColl (s : State) (p seq : Nat) (g : Coll → Coll) : State :=
  s.modPart p (fun y => { y with colls := y.colls.map (fun x => if x.seq = seq then g x else x) })

/-- The record of a collective. -/
def State.collCmd (s : State) (x : Coll) : Cmd := s.cmd x.fn x.slot

/-- Runs `body` on a collective whose data move. -/
def State.withColl (s : State) (p seq : Nat) (body : Coll → Cmd → State → State) : State :=
  match s.coll p seq with
  | none => s
  | some x => if x.stage == .run then body x (s.collCmd x) s else s

/-- Adds to a count of a phase. -/
def bump (t : Tbl Nat) (k n : Nat) : Tbl Nat := Tbl.set 0 t k (Tbl.get 0 t k + n)

/-- Ends a collective on this member because of its own memory (R315), with an error entry. -/
def State.collFault (s : State) (p seq status addr cause : Nat) : State :=
  match s.coll p seq with
  | none => s
  | some x =>
    (s.error pFAB { status := status, cls := cCOLLECTIVE, unit := 6, unitId := 64 * (addr / 2 ^ 37) + bits addr 16 11, pt := p, addr := addr,
                    detail := s.faultDetail p addr cause, fn := x.fn, slot := x.slot, tag := (s.collCmd x).tag }).failColl p seq status

/-- Makes an access of a collective once its memory serves it. -/
def State.collServed (s : State) (p seq : Nat) (rs ws : List (Nat × Nat)) (kind : TierKind) (body : State → State) : State :=
  s.whenServed p (rs.filter (fun r => r.2 != 0)) (ws.filter (fun r => r.2 != 0)) kind (.collective p seq) body

/-! ## Rings (R293, R309) -/

/-- Coordinates of a position in this fabric. -/
def State.coords (s : State) (i : Nat) : Nat × Nat × Nat := coordsOf s.dims.2.1 i

/-- Whether this member holds chunk `k` when a phase begins: it agrees in every earlier dimension. -/
def State.holdsChunk (s : State) (d k : Nat) : Bool := (List.range d).all (fun e => along e (s.coords k) == along e s.here)

/-- Steps from chunk `k`'s owner to this member in the ring of dimension `d`, in a direction. -/
def State.ringStep (s : State) (d k : Nat) (forward : Bool) : Nat :=
  let n := along d s.dims
  let m := along d s.here
  let o := along d (s.coords k)
  if forward then (m + n - o) % n else (o + n - m) % n

/-- The position one step on in a direction. -/
def State.nextIn (s : State) (d : Nat) (forward : Bool) : Nat :=
  posAt s.dims.2.1 (moveBy s.dims d (if forward then 1 else along d s.dims - 1) s.here)

/-- The runs of chunk `k` that one direction carries in a phase, with the port that leaves: half of the elements, split again in
phase X of a fabric of up to 32 modules. -/
def State.chainRuns (s : State) (c : Cmd) (d k : Nat) (forward : Bool) : List (Nat × Nat × Nat) :=
  let (a, b) := c.cSpan s.fabricN k
  let m := a + ceilDiv (b - a) 2
  let (x, y) := if forward then (a, m) else (m, b)
  if d = 0 ∧ s.fabricN ≤ 32 then
    let q := x + ceilDiv (y - x) 2
    [(if forward then 1 else 0, x, q), (if forward then 7 else 6, q, y)]
  else [(if forward then 2 * d + 1 else 2 * d, x, y)]

/-- Cuts `[a, b)` into runs of at most `n`. -/
def cutRun (n : Nat) : Nat → Nat → Nat → List (Nat × Nat)
  | 0, _, _ => []
  | fuel + 1, a, b => if b ≤ a then [] else (a, min n (b - a)) :: cutRun n fuel (a + min n (b - a)) b

/-- Runs of at most `n` of `[a, b)`. -/
def runsOf (n a b : Nat) : List (Nat × Nat) := cutRun n ((b - a) / max n 1 + 1) a b

/-- Elements of a CHAIN packet: 6 bytes each, in whole 32-byte units. -/
def chainLen : Nat := 336

/-! ## Contributions (R309, R314) -/

/-- Fields of `w` bytes. -/
def fieldsOf (w n : Nat) (bytes : List Byte) : List Nat := (List.range n).map (fun i => leNat ((bytes.drop (w * i)).take w))

/-- A stored element as ACC48: exactly, or under RNE from FP64. -/
def accOf (f w : Nat) : Num := if f = 8 then { val := w % 2 ^ 48 } else encodeAcc (elemVal f w 0)

/-- A stored element as FP64, exactly. -/
def fp64Of (f w : Nat) : Nat := if f = 9 then w else (encodeFloat fFP64 .rne 1 (elemVal f w 0)).val

/-- Where this member's contribution to elements `[a, a + n)` lies in a phase: SRC, or the slot of the chunk in SCRATCH. -/
def Cmd.contribAt (c : Cmd) (d a n : Nat) : Nat × Nat :=
  if d = 0 then (c.cSrc + a * elemWidth c.cFrom, n * elemWidth c.cFrom) else (c.cScratch + a * 8, n * 8)

/-- The contribution as ACC48 words: what the read gave, the words, and the flags of the conversions. -/
def State.contribution (s : State) (p : Nat) (c : Cmd) (d a n : Nat) : Got × List Nat × BitVec 6 :=
  let r := c.contribAt d a n
  let g := s.readDev p r.1 r.2 true
  let f := if d = 0 then c.cFrom else 8
  let xs := (fieldsOf (elemWidth f) n g.bytes).map (accOf f)
  (g, xs.map (·.val), xs.foldl (fun a x => a ||| x.flags) 0)

/-- The contribution of R314 as FP64 bytes; policy Z applies to what is sent (R59). -/
def State.partialOf (s : State) (p : Nat) (c : Cmd) (a n : Nat) : Got × List Byte :=
  let r := c.contribAt 0 a n
  let g := s.readDev p r.1 r.2 true
  (g, (fieldsOf (elemWidth c.cFrom) n g.bytes).flatMap (fun w => natLe (policyWrite (s.policyZ p) 9 (fp64Of c.cFrom w)) 8))

/-! ## Sending -/

/-- Sends a running sum to the next member by a port, under policy Z (R59). A CHAIN packet is never acknowledged (R298); a port that is
down holds it. -/
def State.sendChain (s : State) (p seq dst port a : Nat) (sums : List Nat) : State :=
  let (k, s1) := s.packet pkCHAIN 2 (s.part p).domain dst a (sums.flatMap (fun v => natLe (policyWrite (s.policyZ p) 8 v) 6))
  (s1.send port { k with tag := BitVec.ofNat 16 seq }).modColl p seq (fun x =>
    { x with sent := x.sent + 6 * sums.length, cut := x.cut || !s.portUp port })

/-- Sends bytes as acknowledged packets of a collective, at most `m` bytes each. -/
def State.sendRuns (s : State) (p seq type dst addr per w : Nat) (bytes : List Byte) : State :=
  forEach (runsOf (per * w) 0 bytes.length) s (fun r st =>
    let (k, s1) := st.packet type 2 (st.part p).domain dst (addr + r.1 / w) ((bytes.drop r.1).take r.2)
    (s1.request { k with tag := BitVec.ofNat 16 seq } (.collective p seq)).modColl p seq (fun x => { x with sent := x.sent + r.2 }))

/-- Spreads a run of a result along a dimension (R310): the first half of its chunk goes in the + direction, the second in the -
direction, and it stops before its owner. -/
def State.spreadAlong (s : State) (p seq d a w : Nat) (bytes : List Byte) : State :=
  s.withColl p seq (fun _ c st =>
    let k := a / c.cChunk st.fabricN
    let (x, y) := c.cSpan st.fabricN k
    let m := x + ceilDiv (y - x) 2
    let n := bytes.length / w
    let go := fun (forward : Bool) (lo hi : Nat) (t : State) =>
      let n' := along d t.dims
      let last := if forward then (t.ringStep d k true + 1) % n' == 0 else (t.ringStep d k false + 1) % n' == 0
      if hi ≤ lo || last then t
      else t.sendRuns p seq pkCOPY (t.nextIn d forward) lo (2048 / w) w ((bytes.drop ((lo - a) * w)).take ((hi - lo) * w))
    go false (max a m) (a + n) (go true a (min (a + n) m) st))

/-! ## Landing (R310) -/

/-- Where element `a` of a reduction lands: a member of REDUCE_SCATTER holds its own chunk only. -/
def Cmd.landAt (c : Cmd) (n a : Nat) : Nat :=
  c.cDst + (if c.cOp = 1 then a % max 1 (c.cChunk n) else a) * elemWidth c.cTo

/-- Where this member's own chunk lands. -/
def State.landRun (s : State) (c : Cmd) : Nat × Nat :=
  (c.landAt s.fabricN (c.cSpan s.fabricN s.fabric.position).1, c.cSize s.fabricN s.fabric.position * elemWidth c.cTo)

/-- Makes the landing of this member's own chunk, with what it reads for it, once its memory serves; a tiered page that an add needs is
made resident first (R194). -/
def State.whenLanding (s : State) (p seq : Nat) (rs : List (Nat × Nat)) (body : State → State) : State :=
  s.withColl p seq (fun _ c st => st.collServed p seq rs [st.landRun c] (if c.cLandAdd then .add else .write) body)

/-- The final result of this member's chunk is written to DST, or added there with LAND_ADD; for ALL_REDUCE it then travels on
in the order Z, Y, X. -/
def State.landFinal (s : State) (p seq : Nat) (sums : List Nat) (fall : Bool) : State :=
  s.withColl p seq (fun _ c st =>
    let (a, b) := c.cSpan st.fabricN st.fabric.position
    let w := elemWidth c.cTo
    let dst := c.landAt st.fabricN a
    let z := st.policyZ p
    let out := sums.map (fun v => toFmt c.cTo .rne 1 (decodeAcc v))
    let bytes := out.flatMap (fun r => natLe (policyWrite z c.cTo r.val) w)
    let g := if c.cLandAdd then st.addDev p dst (if c.cTo = 6 then 0 else if c.cTo = 4 then 1 else 2) z bytes else st.writeDev p dst bytes
    if g.status ≠ 0 then g.st.collFault p seq g.status g.bad g.cause
    else
      let s1 := g.st.modColl p seq (fun y => { y with
        finalDone := true, fallback := y.fallback || fall, flags := y.flags ||| out.foldl (fun f r => f ||| r.flags) g.flags })
      if c.cOp ≠ 3 then s1
      else
        let r := if c.cLandAdd then s1.readDev p dst ((b - a) * w) true else { bytes := bytes, st := s1 }
        if r.status ≠ 0 then r.st.collFault p seq r.status r.bad r.cause
        else forEach [2, 1, 0] r.st (fun d t => t.spreadAlong p seq d a w r.bytes))

/-! ## Completion (R308) -/

/-- Elements of the chunks this member owns after a phase, and of those it sends on in it. -/
def State.ownElems (s : State) (c : Cmd) (d : Nat) : Nat :=
  (((List.range s.fabricN).filter (s.holdsChunk (d + 1))).map (c.cSize s.fabricN)).foldl (· + ·) 0
def State.passElems (s : State) (c : Cmd) (d : Nat) : Nat :=
  (((List.range s.fabricN).filter (fun k => s.holdsChunk d k && !s.holdsChunk (d + 1) k)).map (c.cSize s.fabricN)).foldl (· + ·) 0

/-- Whether a phase's results that this member owns are all written. -/
def State.phaseDone (s : State) (x : Coll) (c : Cmd) (d : Nat) : Bool := decide (s.ownElems c d ≤ Tbl.get 0 x.done d)

/-- Whether everything this member has to do and to receive is done. -/
def State.collDone (s : State) (x : Coll) (c : Cmd) : Bool :=
  let here := s.fabric.position
  let own := c.cSize s.fabricN here
  s.fabric.unacked.all (fun u => u.owner != .collective x.pt x.seq) && (x.kept || x.begun) && !x.owes &&
  (if x.kept then true
   else if c.cReduces then
     x.finalDone && (x.broken || (List.range 3).all (fun d => decide (s.passElems c d ≤ Tbl.get 0 x.passed d))) &&
       (c.cOp == 1 || decide (c.cElems ≤ own + x.copied))
   else if c.cOp = 2 then decide (c.cElems ≤ own + x.copied)
   else if c.cOp = 4 then here == c.cRoot || decide (c.cElems ≤ x.copied)
   else (List.range x.moves.length).all (fun i =>
     (x.moves.getD i default).dst != here || decide ((x.moves.getD i default).bytes ≤ Tbl.get 0 x.moved i)))

/-- Completes a collective: the keep slot's record, the done gate, the reply. -/
def State.finishColl (s : State) (p seq : Nat) : State :=
  s.withColl p seq (fun x c st =>
    let t := (st.part p).train
    let s1 := if c.cKeepEn && !x.kept then
        st.modTrain p (fun y => { y with keeps := Tbl.set none y.keeps (c.cKey % max 1 t.keepSlots) (some (c.cKey, t.step)) })
      else st
    let o : Owner := .collective p seq
    let (done, g) := if c.cDoneGate = 0 then (true, { st := s1 }) else s1.raiseGate p c.cDoneGate o o
    if !done then g.st else (g.st.endColl p (fun y => y.seq == seq)).finishCmd x.fn x.slot g.status)

/-- Goes on with a collective after something has happened to it: the landing of this member's own chunk, and completion. -/
def State.settleColl (s : State) (p seq : Nat) : State :=
  let s1 := s.withColl p seq (fun x c st =>
    if c.cReduces && !x.broken && !x.finalDone && x.phase == 2 && st.phaseDone x c 2 then
      let (a, b) := c.cSpan st.fabricN st.fabric.position
      st.whenLanding p seq [c.contribAt 2 a (b - a)] (fun t =>
        let g := t.contribution p c 2 a (b - a)
        if g.1.status ≠ 0 then g.1.st.collFault p seq g.1.status g.1.bad g.1.cause else g.1.st.landFinal p seq g.2.1 false)
    else st)
  s1.withColl p seq (fun x c st => if st.collDone x c then st.finishColl p seq else st)

/-! ## Chains (R309) -/

/-- Begins one run of a chain: this member's contribution is its first term. -/
def State.beginRun (s : State) (p seq d port dst a n : Nat) : State :=
  s.withColl p seq (fun _ c st =>
    let g := st.contribution p c d a n
    if g.1.status ≠ 0 then g.1.st.collFault p seq g.1.status g.1.bad g.1.cause
    else
      (g.1.st.sendChain p seq dst port a g.2.1).modColl p seq (fun x =>
        { x with passed := bump x.passed d n, flags := x.flags ||| g.2.2 }))

/-- Adds this member's contribution to a running sum, and writes the sum or sends it on. -/
def State.runChain (s : State) (p seq port : Nat) (k : Packet) : State :=
  s.withColl p seq (fun x c st =>
    let forward := port % 2 == 0
    let d := if 6 ≤ port then 0 else port / 2
    let a := k.addr
    let n := k.payload.length / 6
    let own := a / max 1 (c.cChunk st.fabricN)
    if x.broken ∨ c.cElems < a + n ∨ !st.holdsChunk d own ∨ (6 ≤ port ∧ 32 < st.fabricN) then st
    else
      let g := st.contribution p c d a n
      if g.1.status ≠ 0 then g.1.st.collFault p seq g.1.status g.1.bad g.1.cause
      else
        let rs := ((fieldsOf 6 n k.payload).zip g.2.1).map (fun q => accAdd q.1 q.2)
        let s1 := g.1.st.modColl p seq (fun y => { y with flags := rs.foldl (fun f r => f ||| r.flags) (y.flags ||| g.2.2) })
        let sums := rs.map (·.val)
        if st.ringStep d own forward = 0 then
          let o := s1.writeDev p (c.cScratch + a * 8) (sums.flatMap (fun v => natLe (policyWrite (st.policyZ p) 8 v) 8))
          if o.status ≠ 0 then o.st.collFault p seq o.status o.bad o.cause
          else o.st.modColl p seq (fun y => { y with done := bump y.done d n })
        else
          (s1.sendChain p seq (st.nextIn d forward) (partnerPort port) a sums).modColl p seq (fun y => { y with passed := bump y.passed d n }))

/-- What this member reads and writes to add to a running sum: its contribution, and where it owns the result its place in SCRATCH. -/
def State.chainAccess (s : State) (x : Coll) (port : Nat) (k : Packet) : (Nat × Nat) × List (Nat × Nat) :=
  let c := s.collCmd x
  let d := if 6 ≤ port then 0 else port / 2
  let n := k.payload.length / 6
  (c.contribAt d k.addr n, if s.ringStep d (k.addr / max 1 (c.cChunk s.fabricN)) (port % 2 == 0) = 0 then [(c.cScratch + k.addr * 8, n * 8)] else [])

/-- A CHAIN packet at a collective: added now, or parked until this member is ready: in its phase or past it, and its memory serves. -/
def State.takeChain (s : State) (p seq port : Nat) (k : Packet) : State :=
  match s.coll p seq with
  | none => s
  | some x =>
    if x.broken then s
    else
      let park := fun (st : State) => st.modColl p seq (fun y => { y with parked := y.parked ++ [(port, k)] })
      let e := s.chainAccess x port k
      if x.stage != .run || decide (x.phase < (if 6 ≤ port then 0 else port / 2)) then park s
      else
        let a := s.ready p [e.1] e.2 .write (.collective p seq)
        if a.1 then (a.2.runChain p seq port k).endGrants (.collective p seq) else park a.2

/-- Tries the parked packets again. -/
def State.unpark (s : State) (p seq : Nat) : State :=
  match s.coll p seq with
  | none => s
  | some x => forEach x.parked (s.modColl p seq (fun y => { y with parked := [] })) (fun e st => st.takeChain p seq e.1 e.2)

/-- The runs of a phase whose first term is this member's: direction, port, first element and length. -/
def State.firstRuns (s : State) (c : Cmd) (d : Nat) : List (Bool × Nat × Nat × Nat) :=
  ((List.range s.fabricN).filter (s.holdsChunk d)).flatMap (fun k => [true, false].flatMap (fun forward =>
    if s.ringStep d k forward ≠ 1 then []
    else (s.chainRuns c d k forward).flatMap (fun r => (runsOf chainLen r.2.1 r.2.2).map (fun q => (forward, r.1, q.1, q.2)))))

/-- Begins a phase: every run whose first term is this member's, once its contributions can be read. -/
def State.startPhase (s : State) (p seq : Nat) : State :=
  let s1 := s.withColl p seq (fun x c st =>
    let d := x.phase
    let runs := st.firstRuns c d
    st.collServed p seq (runs.map (fun r => c.contribAt d r.2.2.1 r.2.2.2)) [] .read (fun t =>
      let s0 := (t.modColl p seq (fun y => { y with readyAt := t.now, begun := true })).trace pFAB 9 seq d 0
      forEach runs s0 (fun r t1 => t1.beginRun p seq d r.2.1 (t1.nextIn d r.1) r.2.2.1 r.2.2.2)))
  (s1.unpark p seq).settleColl p seq

/-! ## Breaks and the fallback (R312 to R314) -/

/-- Sends this member's contribution to one chunk to its owner, or keeps it when the chunk is its own. -/
def State.sendPartial (s : State) (p seq k : Nat) : State :=
  s.withColl p seq (fun _ c st =>
    let here := st.fabric.position
    let (a, b) := c.cSpan st.fabricN k
    let g := st.partialOf p c a (b - a)
    if g.1.status ≠ 0 then g.1.st.collFault p seq g.1.status g.1.bad g.1.cause
    else if k = here then
      let o := g.1.st.writeDev p (c.cScratch + here * c.cChunk st.fabricN * 8) g.2
      if o.status ≠ 0 then o.st.collFault p seq o.status o.bad o.cause
      else o.st.modColl p seq (fun x => { x with partials := Tbl.set 0 x.partials here ((b - a) * 8) })
    else g.1.st.sendRuns p seq pkPARTIAL k a 256 8 g.2)

/-- Sends the partials that this member still owes, once its contributions can be read. -/
def State.payPartials (s : State) (p seq : Nat) : State :=
  s.withColl p seq (fun x c st =>
    if !x.owes then st
    else
      let here := st.fabric.position
      st.collServed p seq [c.contribAt 0 0 c.cElems] [(c.cScratch + here * c.cChunk st.fabricN * 8, c.cSize st.fabricN here * 8)] .write (fun t =>
        forEach (List.range t.fabricN) (t.modColl p seq (fun y => { y with owes := false })) (fun k u => u.sendPartial p seq k)))

/-- Drops the CHAIN packets of a collective that no link has sent yet (R313). -/
def State.dropChains (s : State) (p seq : Nat) : State :=
  { s with fabric := { s.fabric with outbox := s.fabric.outbox.filter (fun e =>
      !(e.2.type == pkCHAIN && e.2.domain == (s.part p).domain && e.2.tag == BitVec.ofNat 16 seq)) } }

/-- What a member does at its first break notice: no more CHAIN packets; its contribution to every chunk goes to the chunk's owner. -/
def State.onBreak (s : State) (p seq : Nat) : State :=
  s.withColl p seq (fun _ _ st =>
    let s1 := ((st.dropChains p seq).modColl p seq (fun x => { x with noticeAt := st.now, parked := [], begun := true, owes := true })).trace pFAB 9 seq 4 0
    (s1.payPartials p seq).settleColl p seq)

/-- Notes a break: the first by stamp, then by position (R308). -/
def State.noteBreak (s : State) (p seq stamp pos : Nat) : State :=
  match s.coll p seq with
  | none => s
  | some x =>
    if !(s.collCmd x).cReduces then s
    else
      let s1 := s.modColl p seq (fun y => { y with
        broken := true
        brkStamp := if !y.broken || decide (stamp < y.brkStamp) then stamp else y.brkStamp
        brkPos := if !y.broken || decide (stamp < y.brkStamp) || (stamp == y.brkStamp && decide (pos < y.brkPos)) then pos else y.brkPos })
      if x.broken then s1 else s1.onBreak p seq

/-- This member finds a break: a NOTICE to every member by every route that is up, then what a notice causes. -/
def State.findBreak (s : State) (p seq : Nat) : State :=
  let (k, s1) := s.packet pkNOTICE 1 (s.part p).domain 0 0 []
  let ports := (List.range 8).filter s.portUp
  let s2 := forEach ((List.range s.fabricN).filter (fun i => i != s.fabric.position)) s1 (fun i st =>
    forEach ports st (fun q t => t.send q { k with dst := i, tag := BitVec.ofNat 16 seq }))
  s2.noteBreak p seq (s2.sendStamp k) s.fabric.position

/-- Whether a running sum this member waits for is overdue. -/
def State.overdue (s : State) (x : Coll) (c : Cmd) : Bool :=
  (List.range (x.phase + 1)).any (fun d => !s.phaseDone x c d || decide (Tbl.get 0 x.passed d < s.passElems c d)) &&
    decide (x.readyAt + c.hopNs ≤ s.now)

/-- CHAIN_BREAK. -/
def execChainBreak (pt seq : Nat) (s : State) : Out :=
  .next (s.withColl pt seq (fun x c st =>
    if c.cReduces && !x.broken && st.procUp pFAB && (x.cut || (st.overdue x c && !st.stackRecovers pt)) then st.findBreak pt seq else st))

/-- Whether every member's partial of this member's chunk is in. -/
def State.partialsIn (s : State) (x : Coll) (c : Cmd) : Bool :=
  (List.range s.fabricN).all (fun i => decide (c.cSize s.fabricN s.fabric.position * 8 ≤ Tbl.get 0 x.partials i))

/-- FALLBACK_SUM: the partials of each element summed in slot order on the pairwise tree of R103, rounded once to ACC48. -/
def execFallbackSum (pt seq : Nat) (s : State) : Out :=
  .next (s.withColl pt seq (fun x c st =>
    if !c.cReduces || !x.broken || x.finalDone || !st.partialsIn x c then st
    else
      let n := c.cSize st.fabricN st.fabric.position
      let slot := c.cChunk st.fabricN * 8
      (st.whenLanding pt seq ((List.range st.fabricN).map (fun i => (c.cScratch + i * slot, n * 8))) (fun t =>
        let g := (List.range t.fabricN).foldl (fun (acc : Got × List (List Nat)) i =>
          if acc.1.status ≠ 0 then acc
          else
            let r := acc.1.st.readDev pt (c.cScratch + i * slot) (n * 8) true
            (r, acc.2 ++ [fieldsOf 8 n r.bytes])) ({ st := t }, [])
        if g.1.status ≠ 0 then g.1.st.collFault pt seq g.1.status g.1.bad g.1.cause
        else
          let rs := (List.range n).map (fun e => partialSum (g.2.map (fun xs => xs.getD e 0)))
          let accs := rs.map (fun r => encodeAcc (decodeFloat fFP64 r.1))
          let fl := (rs.zip accs).foldl (fun f r => f ||| r.1.2 ||| r.2.flags) (0 : BitVec 6)
          (g.1.st.modColl pt seq (fun y => { y with flags := y.flags ||| fl })).landFinal pt seq (accs.map (·.val)) true)).settleColl pt seq))

/-! ## Lost members (R315) -/

/-- A member of a partition's domain is lost: its collectives end with ABORTED and an error entry that names the position, and a
DOMAIN command that waits for its report completes with HOST_LINK_LOST, its path not flushed (R345). -/
def State.memberLost (s : State) (p i : Nat) : State :=
  let dom := (s.part p).domain
  let s0 := { s with fabric := { s.fabric with
    members := Tbl.set [] s.fabric.members dom ((s.domainMembers dom).filter (fun j => j != i)) } }
  let s1 := forEach (s0.part p).colls s0 (fun x st =>
    (st.error pFAB { status := stABORTED, cls := cCOLLECTIVE, unit := 9, unitId := (st.routePort i).getD 0xFF, pt := p, detail := i,
                     fn := x.fn, slot := x.slot, tag := (st.collCmd x).tag }).failColl p x.seq stABORTED)
  forEach (s1.cmdsOf p (fun c => c.phase != .none && bit c.cmdFlags 1 && c.relayed.isNone && c.start != 0 && Tbl.get 0 c.reports i == 0)) s1 (fun n st =>
    (st.modCmd p n (fun c => { c with reports := Tbl.set 0 c.reports i (stHOST_LINK_LOST + 1), pathLost := true })).pathError p n i)

/-- MEMBER_LOST. -/
def execMemberLost (pt position : Nat) (s : State) : Out :=
  .next (if (s.part pt).domain ≠ 0 && s.procUp pFAB && position < s.fabricN && position ≠ s.fabric.position then s.memberLost pt position else s)

/-- PARTIAL_TIMEOUT: 1 s after the notice. -/
def execPartialTimeout (pt seq position : Nat) (s : State) : Out :=
  .next (s.withColl pt seq (fun x c st =>
    if c.cReduces && x.broken && !x.finalDone && st.procUp pFAB && position < st.fabricN && position ≠ st.fabric.position &&
        decide (Tbl.get 0 x.partials position < c.cSize st.fabricN st.fabric.position * 8) && decide (x.noticeAt + 1000000000 ≤ st.now) then
      st.memberLost pt position
    else st))

/-! ## PERMUTE (R317, R318) -/

/-- An entry of the map from its 32 bytes. -/
def moveOf (b : List Byte) : Move :=
  { src := leNat (b.take 1), dst := leNat ((b.drop 1).take 1), fromAddr := leNat ((b.drop 8).take 8)
    toAddr := leNat ((b.drop 16).take 8), bytes := leNat ((b.drop 24).take 8) }

/-- Whether an entry's own fields are in range. -/
def moveOk (n : Nat) (b : List Byte) : Bool :=
  let m := moveOf b
  m.src < n && m.dst < n && leNat ((b.drop 2).take 6) == 0 && m.fromAddr % 64 == 0 && m.toAddr % 64 == 0 &&
    m.bytes % 64 == 0 && 64 ≤ m.bytes && m.bytes ≤ 2 ^ 36

/-- Whether two ranges overlap. -/
def overlap (a n b m : Nat) : Bool := decide (a < b + m) && decide (b < a + n)

/-- Whether no two entries of a list write overlapping ranges on one member. -/
def movesApart : List Move → Bool
  | [] => true
  | m :: rest => rest.all (fun x => x.dst != m.dst || !overlap m.toAddr m.bytes x.toAddr x.bytes) && movesApart rest

/-- Moves this member's ranges, the map having been read: every source is read before any landing, so each destination byte gets the value
its source held when the PERMUTE began. What STAGING holds where ranges read and ranges written meet on this member is not
stated: free bytes. -/
def Got.permute (g : Got) (p seq : Nat) (c : Cmd) : State :=
  let st := g.st
  let here := st.fabric.position
  let raw := (List.range c.cElems).map (fun i => (g.bytes.drop (32 * i)).take 32)
  let ms := raw.map moveOf
  let mine := ms.filter (fun m => m.src == here)
  let ends := ms.filter (fun m => m.dst == here)
  let stage := ends.foldl (fun n m => max n m.bytes) 0
  let local' := (mine.filter (fun m => m.dst == here)).map (fun m => (m.toAddr, m.bytes))
  let meet := ends.any (fun e => mine.any (fun m => overlap e.toAddr e.bytes m.fromAddr m.bytes))
  if !raw.all (moveOk st.fabricN) || !movesApart ms || crc32c g.bytes ≠ c.cMapCrc then st.failColl p seq stBAD_PARAM
  else if !mine.all (fun m => st.within p m.fromAddr m.bytes) || !ends.all (fun m => st.within p m.toAddr m.bytes) ||
      (stage ≠ 0 && !st.within p c.cStaging stage) then st.failColl p seq stDENIED
  else st.collServed p seq (mine.map (fun m => (m.fromAddr, m.bytes))) (local' ++ (if meet then [(c.cStaging, stage)] else [])) .write (fun t0 =>
    let r := mine.foldl (fun (acc : Got × List (Move × List Byte)) m =>
      if acc.1.status ≠ 0 then acc
      else let o := acc.1.st.readDev p m.fromAddr m.bytes true; (o, acc.2 ++ [(m, o.bytes)])) ({ g with st := t0 }, [])
    if r.1.status ≠ 0 then r.1.st.collFault p seq r.1.status r.1.bad r.1.cause
    else
      let s1 := if meet then
          let st1 := r.1.st
          (({ st1 with free := st1.free + stage }).writeDev p c.cStaging ((List.range stage).map (fun i => BitVec.ofNat 8 (Config.freeNat (st1.free + i))))).st
        else r.1.st
      let s2 := s1.modColl p seq (fun y => { y with moves := ms, begun := true })
      forEach r.2 s2 (fun e t =>
        if e.1.dst = here then
          let o := t.writeDev p e.1.toAddr e.2
          if o.status ≠ 0 then o.st.collFault p seq o.status o.bad o.cause
          else
            let i := (ms.findIdx? (fun m => m == e.1)).getD 0
            o.st.modColl p seq (fun y => { y with moved := Tbl.set 0 y.moved i e.1.bytes })
        else t.sendRuns p seq pkCOPY e.1.dst e.1.toAddr 2048 1 e.2))

/-- Starts PERMUTE: reads the map, then moves the ranges, each once its memory serves. -/
def State.startPermute (s : State) (p seq : Nat) : State :=
  s.withColl p seq (fun _ c st =>
    let a := st.ready p [(c.cSrc, 32 * c.cElems)] [] .read (.collective p seq)
    if !a.1 then a.2
    else
      let g := a.2.readDev p c.cSrc (32 * c.cElems) true
      if g.status ≠ 0 then g.st.collFault p seq g.status g.bad g.cause else g.permute p seq c)

/-! ## Copies -/

/-- Where an ALL_GATHER lands: DST, or the keep slot of its key (R283). -/
def State.gatherBase (s : State) (p : Nat) (c : Cmd) : Nat :=
  let t := (s.part p).train
  if c.cKeepEn then t.keepAddr + c.cKey % max 1 t.keepSlots * t.keepBytes else c.cDst

/-- The address of a COPY packet's bytes on this member. -/
def State.copyAt (s : State) (p : Nat) (c : Cmd) (a : Nat) : Nat :=
  if c.cOp = 3 then c.landAt s.fabricN a
  else if c.cOp = 2 then s.gatherBase p c + a
  else if c.cOp = 4 then c.cDst + a
  else a

/-- A COPY packet of a collective: written unchanged (R310), counted, and for ALL_REDUCE sent on along its ring and along the
dimensions that follow. -/
def State.takeCopy (s : State) (p seq : Nat) (k : Packet) : State :=
  s.withColl p seq (fun x c st =>
    let n := k.payload.length
    let w := if c.cOp = 3 then elemWidth c.cTo else 1
    let dst := st.copyAt p c k.addr
    if !st.within p dst n then st.failColl p seq stDENIED
    else
      let o := st.writeDev p dst k.payload
      if o.status ≠ 0 then o.st.collFault p seq o.status o.bad o.cause
      else
        let i := (x.moves.findIdx? (fun m => m.dst == st.fabric.position && m.src == k.src && decide (m.toAddr ≤ k.addr) && decide (k.addr + n ≤ m.toAddr + m.bytes))).getD x.moves.length
        let s1 := o.st.modColl p seq (fun y => { y with
          copied := y.copied + n / w
          moved := if c.cOp = 5 then bump y.moved i n else y.moved })
        let s2 := if c.cOp ≠ 3 then s1
          else
            let d := (findFrom (fun d => along d (s1.coords k.src) != along d s1.here) 0 3).getD 0
            forEach ((List.range (d + 1)).reverse) s1 (fun e t => t.spreadAlong p seq e k.addr w k.payload)
        s2.settleColl p seq)

/-- Starts ALL_GATHER: this member's chunk goes to its place and to every other member; with REUSE a kept copy of the step moves
nothing (R283). -/
def State.startGather (s : State) (p seq : Nat) : State :=
  s.withColl p seq (fun _ c st =>
    let here := st.fabric.position
    let t := (st.part p).train
    let slot := c.cKey % max 1 t.keepSlots
    if c.cKeepEn && c.cReuse && Tbl.get none t.keeps slot == some (c.cKey, t.step) then
      (st.modColl p seq (fun y => { y with kept := true })).finishColl p seq
    else
      let s0 := if c.cKeepEn then st.modTrain p (fun y => { y with keeps := Tbl.set none y.keeps slot none }) else st
      let (a, b) := c.cSpan st.fabricN here
      s0.collServed p seq [(c.cSrc, b - a)] [(s0.gatherBase p c + a, b - a)] .write (fun t0 =>
        let g := t0.readDev p c.cSrc (b - a) true
        if g.status ≠ 0 then g.st.collFault p seq g.status g.bad g.cause
        else
          let o := g.st.writeDev p (t0.gatherBase p c + a) g.bytes
          if o.status ≠ 0 then o.st.collFault p seq o.status o.bad o.cause
          else
            let s1 := o.st.modColl p seq (fun y => { y with begun := true })
            (forEach ((List.range s1.fabricN).filter (fun i => i != here)) s1 (fun i t1 => t1.sendRuns p seq pkCOPY i a 2048 1 g.bytes)).settleColl p seq))

/-- Starts BROADCAST: the root's bytes go to its own DST and to every other member. -/
def State.startBroadcast (s : State) (p seq : Nat) : State :=
  s.withColl p seq (fun _ c st =>
    let here := st.fabric.position
    if here ≠ c.cRoot then st.modColl p seq (fun y => { y with begun := true })
    else
      st.collServed p seq [(c.cSrc, c.cElems)] [(c.cDst, c.cElems)] .write (fun t0 =>
        let g := t0.readDev p c.cSrc c.cElems true
        if g.status ≠ 0 then g.st.collFault p seq g.status g.bad g.cause
        else
          let o := g.st.writeDev p c.cDst g.bytes
          if o.status ≠ 0 then o.st.collFault p seq o.status o.bad o.cause
          else
            let s1 := o.st.modColl p seq (fun y => { y with begun := true })
            (forEach ((List.range s1.fabricN).filter (fun i => i != here)) s1 (fun i t1 => t1.sendRuns p seq pkCOPY i 0 2048 1 g.bytes)).settleColl p seq))

/-! ## Beginning (R304, R308) -/

/-- Begins, or tries again to begin, the work that this member starts by itself. -/
def State.beginWork (s : State) (p seq : Nat) : State :=
  s.withColl p seq (fun _ c st =>
    if c.cReduces then st.startPhase p seq
    else if c.cOp = 2 then st.startGather p seq
    else if c.cOp = 4 then st.startBroadcast p seq
    else (st.startPermute p seq).settleColl p seq)

/-- Data begin to move: the members' fields agree. -/
def State.runColl (s : State) (p seq : Nat) : State :=
  let s1 := s.modColl p seq (fun y => { y with stage := .run })
  s1.withColl p seq (fun x c st =>
    if c.cReduces && x.broken then st.onBreak p seq
    else if c.cReduces && c.cForce then st.findBreak p seq
    else st.beginWork p seq)

/-- Looks at the WAIT_GATE of a collective that waits on it. -/
def State.pollColl (s : State) (p seq : Nat) : State :=
  match s.coll p seq with
  | none => s
  | some x =>
    if x.stage != .gate then s
    else
      let c := s.collCmd x
      if c.cWaitGate = 0 then s.modColl p seq (fun y => { y with stage := .compare })
      else
        let g := s.seeGate p c.cWaitGate (.collective p seq) false 0 []
        if g.status ≠ 0 then g.st.failColl p seq g.status
        else match g.value with
          | some v => if c.cWaitValue ≤ v then g.st.modColl p seq (fun y => { y with stage := .compare }) else g.st
          | none => g.st

/-- A collective that waits for room goes on when fewer than eight of its domain are in flight here (R304). -/
def State.roomColl (s : State) (p seq : Nat) : State :=
  match s.coll p seq with
  | none => s
  | some x =>
    if x.stage != .room || decide (8 ≤ ((s.part p).colls.filter (fun y => y.stage != .room)).length) then s
    else (s.modColl p seq (fun y => { y with stage := .gate })).pollColl p seq

/-- COLLECTIVE_PHASE: the next thing a member does by itself: room found, the comparison of the members' fields (`agree` says what
it finds), work that waited for its memory, and each next phase once every result it owns of the previous one is written. -/
def execCollectivePhase (pt seq : Nat) (agree : Bool) (s : State) : Out :=
  .next (match s.coll pt seq with
  | none => s
  | some x =>
    if x.stage == .room then s.roomColl pt seq
    else if x.stage == .gate then s
    else if x.stage == .compare then
      if !s.domainActive pt then s
      else if agree then s.runColl pt seq
      else s.failColl pt seq stBAD_PARAM
    else
      s.withColl pt seq (fun y c st =>
        if !y.begun then st.beginWork pt seq
        else if y.owes then (st.payPartials pt seq).settleColl pt seq
        else if c.cReduces && !y.broken && decide (y.phase < 2) && st.phaseDone y c y.phase then
          (st.modColl pt seq (fun z => { z with phase := z.phase + 1, begun := false })).startPhase pt seq
        else (st.unpark pt seq).settleColl pt seq))

/-! ## The commands -/

/-- Whether the fields that an OP does not use are zero and the others are in range (R305). -/
def State.collFormed (s : State) (c : Cmd) : Bool :=
  let f := c.param 2 1
  let red := c.cReduces
  let plain := c.cKey == 0 && c.cStaging == 0 && c.cMapCrc == 0
  c.zeros [(84, 12)] && f < 16 && (c.cHop == 0 || (10 ≤ c.cHop && c.cHop ≤ 10000000)) && c.cWaitGate % 8 == 0 && c.cDoneGate % 8 == 0 &&
  (if red then
     collFmt c.cFrom && collFmt c.cTo && !c.cKeepEn && !c.cReuse && (!c.cLandAdd || c.cTo != 8) && c.cRoot == 0 && 1 ≤ c.cElems &&
       c.cElems ≤ 2 ^ 36 && c.cScratch % 2048 == 0 && plain && (!c.cLandAdd || c.cDst % elemWidth c.cTo == 0)
   else
     c.param 1 1 == 0 && c.cScratch == 0 && c.cHop == 0 && !c.cLandAdd && !c.cForce &&
     (if c.cOp = 2 then c.cRoot == 0 && 1 ≤ c.cElems && (c.cKeepEn || (!c.cReuse && c.cKey == 0)) && (!c.cKeepEn || c.cDst == 0) &&
        c.cStaging == 0 && c.cMapCrc == 0
      else if c.cOp = 4 then f == 0 && c.cRoot < s.fabricN && 1 ≤ c.cElems && plain
      else c.cOp == 5 && f == 0 && c.cRoot == 0 && 1 ≤ c.cElems && c.cElems ≤ 65536 && c.cDst == 0 && c.cKey == 0))

/-- The ranges a collective names, as device addresses. -/
def State.collRanges (s : State) (p : Nat) (c : Cmd) : List (Nat × Nat) :=
  let n := s.fabricN
  let here := s.fabric.position
  let gates := [c.cWaitGate, c.cDoneGate].filterMap (fun w => if w = 0 then none else some (w, 8))
  gates ++
  (if c.cReduces then
     [(c.cSrc, c.cElems * elemWidth c.cFrom), (c.cScratch, n * c.cChunk n * 8),
      (c.cDst, (if c.cOp = 1 then c.cSize n here else c.cElems) * elemWidth c.cTo)]
   else if c.cOp = 2 then [(c.cSrc, c.cSize n here), (s.gatherBase p c, c.cElems)]
   else if c.cOp = 4 then (if here = c.cRoot then [(c.cSrc, c.cElems)] else []) ++ [(c.cDst, c.cElems)]
   else [(c.cSrc, 32 * c.cElems)])

/-- Check 6 of COLLECTIVE. -/
def State.collCheck (s : State) (p : Nat) (c : Cmd) : Nat :=
  let t := (s.part p).train
  if !s.domainActive p ∨ !s.collFormed c ∨ (s.coll p c.cSeq).isSome ∨ (c.cKeepEn ∧ (t.keepSlots = 0 ∨ t.keepBytes < c.cElems)) then stBAD_PARAM
  else if (s.collRanges p c).any (fun r => r.2 != 0 && !s.within p r.1 r.2) then stDENIED
  else if c.cOp = 5 ∧ s.applyPending p then stBUSY
  else 0

/-- A COLLECTIVE of one OP; an OP that is reserved is refused by the first of the rows. -/
def State.collective (s : State) (f n op : Nat) : Out :=
  .next (if s.canTake f n opCOLLECTIVE && ((s.cmd f n).cOp == op || (op == 1 && ((s.cmd f n).cOp == 0 || decide (5 < (s.cmd f n).cOp)))) then
    let s1 := s.take f n
    let c := s1.cmd f n
    let st := s1.collCheck f c
    if st ≠ 0 then s1.finishCmd f n st
    else
      ((s1.beginCmd f n).modPart f (fun y => { y with colls := y.colls ++ [({ pt := f, seq := c.cSeq, fn := f, slot := n } : Coll)] })).roomColl f c.cSeq
  else s)

/-- REDUCE_SCATTER. -/
def execReduceScatter (fn slot : Nat) (s : State) : Out := s.collective fn slot 1

/-- ALL_GATHER. -/
def execAllGather (fn slot : Nat) (s : State) : Out := s.collective fn slot 2

/-- ALL_REDUCE. -/
def execAllReduce (fn slot : Nat) (s : State) : Out := s.collective fn slot 3

/-- BROADCAST. -/
def execBroadcast (fn slot : Nat) (s : State) : Out := s.collective fn slot 4

/-- PERMUTE. -/
def execPermute (fn slot : Nat) (s : State) : Out := s.collective fn slot 5

end Sys2Proof.Machine
end

