-- ==== Sys2Proof/Machine/Packets.lean ====
section
/-! DEFINITION. Packets that arrive (R296 to R303): transit, age, end-to-end order, duplicates and acknowledgements, what each type
does at its target, the timeouts of a sender, and GATE_POLL. -/

namespace Sys2Proof.Machine

open Sys2Proof

/-! ## Arrival -/

/-- The partition of this module that carries a domain; 0 when none. -/
def State.partOfDomain (s : State) (dom : Nat) : Nat :=
  if dom = 0 then 0 else (allParts.find? (fun p => (s.part p).domain == dom)).getD 0

/-- A packet of a domain shows that its sender's member is present (R295). -/
def State.meet (s : State) (k : Packet) : State :=
  if (s.domainMembers k.domain).contains k.src then s
  else { s with fabric := { s.fabric with members := Tbl.set [] s.fabric.members k.domain (s.domainMembers k.domain ++ [k.src]) } }

/-- The key of a sender and class, and of one of its packets. -/
def streamOf (k : Packet) : Nat := k.src * 4 + k.cls
def verdictKey (k : Packet) : Nat := streamOf k * 2 ^ 32 + k.seq

/-- An acknowledgement of a packet: an ACK with its class and sequence number, or STALE (R298, R303). -/
def State.ack (s : State) (k : Packet) (stale : Bool) : State :=
  let v := Tbl.get (0, 0) s.fabric.verdicts (verdictKey k)
  let (a, s1) := s.packet pkACK k.cls k.domain k.src k.addr []
  s1.dispatch { a with stale := stale, seq := k.seq, tag := k.tag, status := if stale then 0 else v.1, flags := if stale then 0 else v.2 }

/-- Keeps what the acknowledgement of a packet says. -/
def State.verdict (s : State) (k : Packet) (status : Nat) (flags : BitVec 6) : State :=
  { s with fabric := { s.fabric with verdicts := Tbl.set (0, 0) s.fabric.verdicts (verdictKey k) (status, flags) } }

/-- An arrival by a port: a packet for another position goes on by its route, one that is too old is handled by `stale`, and the
others by `body`. -/
def State.receive (s : State) (port : Nat) (k : Packet) (type : Nat) (stale body : State → State) : Out :=
  .next (if 8 ≤ port || !s.portUp port || k.type ≠ type || !s.fabricOn || s.fabricN ≤ k.src || s.fabricN ≤ k.dst then s
  else if k.dst ≠ s.fabric.position then s.dispatch k
  else if s.isStale k then stale s.countStale
  else body (s.meet k))

/-! ## Serving requests -/

/-- What the tier answered to a packet's request when it refused it: 0 when it has not. -/
def State.refusal (s : State) (k : Packet) : Nat := ((s.fabric.refused.find? (fun e => e.1 == verdictKey k)).map (·.2)).getD 0

/-- A packet's access is over: its pages and the refusal it may have met are dropped. -/
def State.endPacket (s : State) (k : Packet) : State :=
  { (s.endGrants (.remote (verdictKey k))) with fabric := { s.fabric with refused := s.fabric.refused.filter (fun e => e.1 != verdictKey k) } }

/-- What a READ finds at this target (R298): the bytes, whether their block checks match, and the status it fails with. The access
check is that of the target's partition (R29). -/
def State.serveRead (s : State) (k : Packet) : State :=
  let p := s.partOfDomain k.domain
  let ok := p ≠ 0 && s.within p k.addr k.want
  let g : Got := if s.refusal k ≠ 0 then { status := s.refusal k, st := s } else if ok then s.readDev p k.addr k.want false else { status := stDENIED, st := s }
  let checks := match s.place p k.addr with
    | .mem b => (s.block b).sense != .checkBad
    | .flash _ => true
  let (a, s1) := g.st.packet pkREAD_DATA k.cls k.domain k.src k.addr (if g.status = 0 then g.bytes else [])
  s1.dispatch { a with seq := k.seq, tag := k.tag, status := g.status, bchk := g.status == 0, bchkOk := checks }

/-- The place of a PARTIAL's sums in SCRATCH: its sender's slot (R314). -/
def State.partialAt (s : State) (c : Cmd) (k : Packet) : Nat :=
  c.cScratch + k.src * c.cChunk s.fabricN * 8 + (k.addr - (c.cSpan s.fabricN s.fabric.position).1) * 8

/-- Whether this target can act on a packet now: its memory and the tiered pages it needs serve (R238, R239), and a collective's data find
it moving. A packet that must wait is not acknowledged; its sender re-sends it. A PERMUTE writes nothing here
before it has read what leaves (R318). -/
def State.canDeliver (s : State) (k : Packet) : Bool × State :=
  let p := s.partOfDomain k.domain
  let n := if k.type = pkREAD then k.want else k.payload.length
  if p = 0 then (true, s)
  else if k.type = pkCOPY ∨ k.type = pkPARTIAL then
    match (s.part p).colls.find? (fun x => x.seq % 65536 == k.tag.toNat) with
    | none => (true, s)
    | some x =>
      let c := s.collCmd x
      let a := if k.type = pkCOPY then s.copyAt p c k.addr else s.partialAt c k
      if x.stage != .run || (k.type == pkPARTIAL && !x.broken) || (c.cOp == 5 && !x.begun) then (false, s)
      else if s.within p a n then s.ready p [] [(a, n)] .write (.remote (verdictKey k)) else (true, s)
  else if !s.within p k.addr n || s.refusal k ≠ 0 then (true, s)
  else if k.acc && s.rowsHeld (k.addr / 2 ^ 37) then (false, s)
  else
    let o : Owner := .remote (verdictKey k)
    if k.type = pkREAD then s.ready p [(k.addr, n)] [] .read o
    else s.ready p [] [(k.addr, n)] (if k.type = pkADD then .add else .write) o

/-- A PARTIAL at its owner: kept in the sender's slot of SCRATCH (R314). -/
def State.takePartial (s : State) (p seq : Nat) (k : Packet) : State :=
  s.withColl p seq (fun x c st =>
    let first := (c.cSpan st.fabricN st.fabric.position).1
    let n := k.payload.length
    if x.finalDone ∨ k.addr < first ∨ (c.cSpan st.fabricN st.fabric.position).2 < k.addr + n / 8 then st
    else
      let o := st.writeDev p (st.partialAt c k) k.payload
      if o.status ≠ 0 then o.st.collFault p seq o.status o.bad o.cause
      else o.st.modColl p seq (fun y => { y with partials := bump y.partials k.src n }))

/-- The effect of a packet at its target and its acknowledgement. -/
def State.deliverPacket (s : State) (k : Packet) : State :=
  let p := s.partOfDomain k.domain
  let n := k.payload.length
  if k.type = pkREAD then s.serveRead k
  else if k.type = pkCOPY ∨ k.type = pkPARTIAL then
    match (s.part p).colls.find? (fun x => x.seq % 65536 == k.tag.toNat) with
    | none => s.ack k false
    | some x =>
      (if s.refusal k ≠ 0 then s.collFault p x.seq (s.refusal k) (if k.type = pkCOPY then s.copyAt p (s.collCmd x) k.addr else s.partialAt (s.collCmd x) k) 0
       else if k.type = pkCOPY then s.takeCopy p x.seq k else s.takePartial p x.seq k).ack k false
  else if s.refusal k ≠ 0 then (s.verdict k (s.refusal k) 0).ack k false
  else if p = 0 || !s.within p k.addr n then (s.verdict k stDENIED 0).ack k false
  else if k.type = pkWRITE then
    let g := match k.nibble with
      | some sh => s.writeNibble p k.addr sh ((k.payload.getD 0 0).toNat / 2 ^ sh)
      | none => s.writeDev p k.addr k.payload
    (g.st.verdict k g.status 0).ack k false
  else
    let g := s.addDev p k.addr k.addfmt (s.policyZ p) k.payload (if k.acc then 3 else 5)
    (g.st.verdict k g.status g.flags).ack k false

/-- Delivers packets of a stream that arrived ahead of their turn, while the next one is there. -/
def State.drain (s : State) (stream : Nat) : Nat → State
  | 0 => s
  | fuel + 1 =>
    let n := Tbl.get 0 s.fabric.rxSeq stream
    match s.fabric.ahead.find? (fun e => streamOf e.2 == stream && e.2.seq == n) with
    | none => s
    | some e =>
      let s0 := { s with fabric := { s.fabric with ahead := s.fabric.ahead.filter (fun x => x != e) } }
      let (ok, s1) := s0.canDeliver e.2
      if !ok then s1
      else
        let s2 := { s1 with fabric := { s1.fabric with rxSeq := Tbl.set 0 s1.fabric.rxSeq stream ((n + 1) % 2 ^ 32) } }
        ((s2.deliverPacket e.2).endPacket e.2).drain stream fuel

/-- Delivery in E2E_SEQ order: a duplicate is recorded and acknowledged again (R299), a packet ahead of its
turn waits (R298). -/
def State.inOrder (s : State) (port : Nat) (k : Packet) : State :=
  let n := Tbl.get 0 s.fabric.rxSeq (streamOf k)
  if k.seq ≠ n ∧ (n + 2 ^ 32 - k.seq) % 2 ^ 32 < 2 ^ 31 then
    let s0 := s.lateDiscard pFAB 9 port (s.partOfDomain k.domain)
    if k.type = pkREAD then (let (ok, s1) := s0.canDeliver k; if ok then (s1.serveRead k).endPacket k else s1) else s0.ack k false
  else
    let s1 := if s.fabric.ahead.contains (port, k) then s
      else { s with fabric := { s.fabric with ahead := s.fabric.ahead ++ [(port, k)] } }
    s1.drain (streamOf k) (s1.fabric.ahead.length + 1)

/-- READ at its target. -/
def execFabRead (port : Nat) (packet : Packet) (s : State) : Out :=
  s.receive port packet pkREAD (fun st => st.ack packet true) (fun st => st.inOrder port packet)

/-- WRITE at its target. -/
def execFabWrite (port : Nat) (packet : Packet) (s : State) : Out :=
  s.receive port packet pkWRITE (fun st => st.ack packet true) (fun st => st.inOrder port packet)

/-- ADD at its target. -/
def execFabAdd (port : Nat) (packet : Packet) (s : State) : Out :=
  s.receive port packet pkADD (fun st => st.ack packet true) (fun st => st.inOrder port packet)

/-- COPY at its target. -/
def execCopy (port : Nat) (packet : Packet) (s : State) : Out :=
  s.receive port packet pkCOPY (fun st => st.ack packet true) (fun st => st.inOrder port packet)

/-- PARTIAL at its target. -/
def execPartialSum (port : Nat) (packet : Packet) (s : State) : Out :=
  s.receive port packet pkPARTIAL (fun st => st.ack packet true) (fun st => st.inOrder port packet)

/-! ## Answers -/

/-- The request that an answer acknowledges. -/
def State.answered (s : State) (k : Packet) (read : Bool) : Option Unacked :=
  s.fabric.unacked.find? (fun u => u.packet.dst == k.src && u.packet.cls == k.cls && u.packet.seq == k.seq && (u.packet.type == pkREAD) == read)

/-- Takes a request off the unacknowledged. When it is the last of its domain's that were sent again by a new route, the pause of
the deadlines ends (R410). -/
def State.dropUnacked (s : State) (id : Nat) : State :=
  let s1 := { s with fabric := { s.fabric with unacked := s.fabric.unacked.filter (fun u => u.id != id) } }
  match s.fabric.unacked.find? (fun u => u.id == id) with
  | none => s1
  | some u =>
    match u.reroute with
    | none => s1
    | some t => if s1.reroutes u.packet.domain || s1.partOfDomain u.packet.domain == 0 then s1 else s1.pauseDeadlines (s1.partOfDomain u.packet.domain) (s1.now - t)

/-- The engine address a request names. -/
def Unacked.engineAddr (u : Unacked) : Nat := 2 ^ 62 + u.packet.dst * 2 ^ 48 + u.packet.addr

/-- Ends a remote request of an owner with a status. -/
def State.failRequest (s : State) (u : Unacked) (status : Nat) : State :=
  let s1 := s.dropUnacked u.id
  let s2 := if u.packet.type = pkREAD then s1.ownReads u.owner (· - 1) else s1.ownWrites u.owner (· - 1)
  s2.failOwner u.owner status u.engineAddr

/-- READ_DATA: the bytes go to their owner; a verified block whose check does not match is read once more (R185, R186). An answer
that comes after its request has ended is discarded and recorded (R299, R411). -/
def execFabReadData (port : Nat) (packet : Packet) (s : State) : Out :=
  s.receive port packet pkREAD_DATA (fun st => st) (fun st =>
    match st.answered packet true with
    | none => st.lateDiscard pFAB 9 port 0
    | some u =>
      if packet.status ≠ 0 then st.failRequest u packet.status
      else if u.verify && !packet.bchkOk then
        if u.again then st.failRequest u stDATA_ERROR
        else
          let s1 := ((st.dropUnacked u.id).packet pkREAD 1 u.packet.domain u.packet.dst u.packet.addr [])
          let s2 := s1.2.request { s1.1 with want := u.packet.want } u.owner true
          { s2 with fabric := { s2.fabric with unacked := s2.fabric.unacked.map (fun (v : Unacked) => if v.id = s2.fabric.nextId - 1 then { v with again := true, first := u.first } else v) } }
      else if packet.payload.length ≠ u.packet.want then st
      else (st.dropUnacked u.id).arrive u.owner u.engineAddr packet.payload)

/-- Flags raised at a remote adder reach the tile or ATP that issued the add (R193). -/
def State.raiseOwner (s : State) (o : Owner) (f : BitVec 6) : State :=
  match o with
  | .tile t _ _ => s.modTile t (fun x => x.raise f)
  | .atp n _ => s.modAtp n (fun x => x.raise f)
  | _ => s

/-- ACK: the request is acknowledged, or with STALE re-sent. -/
def execFabAck (port : Nat) (packet : Packet) (s : State) : Out :=
  s.receive port packet pkACK (fun st => st) (fun st =>
    match (if packet.stale then (st.answered packet false).orElse (fun _ => st.answered packet true) else st.answered packet false) with
    | none => st.lateDiscard pFAB 9 port 0
    | some u =>
      if packet.stale then st.resend u.id
      else if packet.status ≠ 0 then st.failRequest u packet.status
      else
        let s1 := ((st.dropUnacked u.id).ownWrites u.owner (· - 1)).raiseOwner u.owner packet.flags
        match u.owner with
        | .collective p seq => s1.settleColl p seq
        | _ => s1)

/-- CHAIN: added and sent on, or landed by its owner; a stale one breaks the chain (R303, R309, R312). -/
def execChain (port : Nat) (packet : Packet) (s : State) : Out :=
  let find := fun (st : State) => (st.part (st.partOfDomain packet.domain)).colls.find? (fun x => x.seq % 65536 == packet.tag.toNat)
  s.receive port packet pkCHAIN
    (fun st => match find st with
      | none => st
      | some x => if x.stage == .run && !x.broken then st.findBreak x.pt x.seq else st)
    (fun st => match find st with
      | none => st
      | some x => (st.takeChain x.pt x.seq port packet).settleColl x.pt x.seq)

/-- NOTICE: a break of a chain (R313). -/
def execNotice (port : Nat) (packet : Packet) (s : State) : Out :=
  s.receive port packet pkNOTICE (fun st => st) (fun st =>
    match (st.part (st.partOfDomain packet.domain)).colls.find? (fun x => x.seq % 65536 == packet.tag.toNat) with
    | none => st
    | some x => st.noteBreak x.pt x.seq (st.sendStamp packet) packet.src)

/-! ## A sender's timers (R298) -/

/-- The contribution of a PARTIAL, formed again once it can be read. -/
def State.reformPartial (s : State) (u : Unacked) : State :=
  match u.owner with
  | .collective p seq =>
    if u.packet.type ≠ pkPARTIAL then s
    else s.withColl p seq (fun _ c st =>
      let n := u.packet.payload.length / 8
      st.collServed p seq [c.contribAt 0 u.packet.addr n] [] .read (fun st =>
      let g := st.partialOf p c u.packet.addr n
      if g.1.status ≠ 0 then g.1.st.collFault p seq g.1.status g.1.bad g.1.cause
      else
        let st1 := g.1.st
        { st1 with fabric := { st1.fabric with unacked := st1.fabric.unacked.map (fun (v : Unacked) =>
            if v.id = u.id then { v with packet := { v.packet with payload := g.2 } } else v) } }))
  | _ => s

/-- RESEND_TIMEOUT: 10 ms since the last sending. -/
def execResendTimeout (request : Nat) (s : State) : Out :=
  .next (match s.fabric.unacked.find? (fun u => u.id == request) with
  | none => s
  | some u => if s.fabricOn && decide (u.last + 10000000 ≤ s.now) then (s.reformPartial u).resend request else s)

/-- REMOTE_REQUEST_TIMEOUT: 1 s without an acknowledgement. -/
def execRemoteRequestTimeout (request : Nat) (s : State) : Out :=
  .next (match s.fabric.unacked.find? (fun u => u.id == request) with
  | none => s
  | some u => if decide (u.first + 1000000000 ≤ s.now) then s.failRequest u stABORTED else s)

/-! ## GATE_POLL (R160, R308, R372) -/

/-- GATE_POLL: a waiting ATP, CHISEL_RUN or COLLECTIVE reads its gate word again. -/
def execGatePoll (waiter : Waiter) (s : State) : Out :=
  .next (match waiter with
  | .atp n =>
    let a := s.atp n
    if n < 16 && a.running && !a.ended && a.stopping.isNone && a.gateFrom.isSome && a.hasRoom then s.pollAtp n else s
  | .command f n =>
    let c := s.cmd f n
    if s.inRun f n opCHISEL_RUN && (c.stage == 1 || c.stage == 2) then s.pollChisel f n
    else if s.inRun f n opCOLLECTIVE then
      (match (s.part f).colls.find? (fun x => x.fn == f && x.slot == n) with
      | some x => s.pollColl f x.seq
      | none => s)
    else s)

end Sys2Proof.Machine
end

