-- ==== Sys2Proof/Machine/Maquette.lean ====
section
/-! DEFINITION. Maquettes (R322, R375, R414 to R424): the store and its slots, the image of a member, stripe rows, TAKE, ROLLBACK
and ROLLFORWARD. What other members hold is not seen by this module: what depends on it is a free value. -/

namespace Sys2Proof.Machine

open Sys2Proof

/-! ## The store (R415, R418) -/

def Part.storeExtents (x : Part) : Nat := x.maqCtl.toNat % 512
def Part.storeBase (x : Part) : Nat := tierBase + extentSize * (x.extents.length - x.storeExtents)
def Part.slotBytes (x : Part) : Nat := unitSize * (extentSize / 131072 * x.storeExtents - pageSize / 131072)
def Part.slotBase (x : Part) (k : Nat) : Nat := pageSize + (k * x.slotBytes + x.storeBase)

/-- GRANT_CRC: SECTIONS, STACKS, TIER_GIB and STORE_EXTENTS, in the widths that PART_SET gives them. -/
def Part.grantCrc (x : Part) : Nat :=
  crc32c (natLe x.sections.toNat 2 ++ natLe x.hbm.toNat 4 ++ (List.range 20).flatMap (fun k => natLe (x.gib k) 1) ++ natLe x.storeExtents 2)

/-- States of a slot. -/
def slotWRITING : Nat := 1
def slotWRITTEN : Nat := 2
def slotCOMMITTED : Nat := 3

/-- A slot descriptor. -/
structure SlotDesc where
  state    : Nat := 0
  m        : Nat := 0
  n        : Nat := 0
  position : Nat := 0
  step     : Nat := 0
  stamp    : Nat := 0
  units    : Nat := 0
  rows     : Nat := 0
  grants   : Nat := 0
  image    : Nat := 0
  jseq     : Nat := 0
  ok       : Bool := false           -- its CRC matches
  deriving DecidableEq, Repr, Inhabited

/-- The 64 bytes of a slot descriptor. -/
def descBytes (d : SlotDesc) : List Byte :=
  let body := BMap.readBytes (fieldBytes [(0, 1, d.state), (1, 1, d.m), (2, 1, d.n), (3, 1, d.position), (8, 8, d.step), (16, 8, d.stamp),
    (24, 8, d.units), (32, 8, d.rows), (40, 4, d.grants), (44, 4, d.image), (48, 8, d.jseq)]) 0 60
  body ++ natLe (crc32c body) 4

/-- A slot descriptor from its bytes. -/
def descOf (b : List Byte) : SlotDesc :=
  let m := BMap.writeBytes [] 0 b
  let u := fun (o n : Nat) => BMap.readLe m o n
  { state := u 0 1, m := u 1 1, n := u 2 1, position := u 3 1, step := u 8 8, stamp := u 16 8, units := u 24 8, rows := u 32 8
    grants := u 40 4, image := u 44 4, jseq := u 48 8, ok := u 60 4 == crc32c (b.take 60) }

/-- The descriptor of slot `k`; one that cannot be read is not valid. -/
def State.slotDesc (s : State) (p k : Nat) : SlotDesc :=
  let g := s.readDev p (64 * k + (s.part p).storeBase) 64 true
  if g.status = 0 then descOf g.bytes else {}

/-- Writes the descriptor of slot `k`. -/
def State.putDesc (s : State) (p k : Nat) (d : SlotDesc) : Got := s.writeDev p (64 * k + (s.part p).storeBase) (descBytes d)

/-- The newest COMMITTED slot. -/
def State.newestSlot (s : State) (p : Nat) : Option Nat :=
  let good := [0, 1].filter (fun k => (s.slotDesc p k).state == slotCOMMITTED && (s.slotDesc p k).ok)
  match good with
  | [0, 1] => some (if (s.slotDesc p 0).step < (s.slotDesc p 1).step then 1 else 0)
  | k :: _ => some k
  | [] => none

/-- The slot that every member of the domain has COMMITTED: this member's newest, or, where both of its slots are COMMITTED and
other members may not have the newer one, a free choice. -/
def State.agreedSlot (s : State) (p : Nat) (domain : Bool) : Option Nat × State :=
  match s.newestSlot p with
  | none => (none, s)
  | some k =>
    if domain && (s.slotDesc p (1 - k)).state == slotCOMMITTED && (s.slotDesc p (1 - k)).ok then
      (some (if s.fresh.1 % 2 = 0 then k else 1 - k), s.fresh.2)
    else (some k, s)

/-! ## Stripe rows (R322, R420) -/

/-- Parity shares of a fabric (R321). -/
def parityShares (n : Nat) : Nat :=
  if n = 16 then 1 else if n = 24 then 2 else if n = 32 then 3 else if n = 36 then 4 else if n = 48 then 6 else if n = 64 then 8 else 0

/-- Whether member `i` holds a data unit in a row. -/
def dataRow (n m i r : Nat) : Bool := n == 0 || decide (m ≤ (i + n - r % n) % n)

/-- Data units of member `i` in the first `r` rows. -/
def dataRows (n m i r : Nat) : Nat :=
  if n = 0 then r else r / n * (n - m) + ((List.range (r % n)).filter (dataRow n m i)).length

/-- ROWS: the smallest count with which every member holds at least `u` data units. -/
def rowsFor (n m u : Nat) : Nat :=
  if n = 0 then u else (findFrom (fun r => (List.range n).all (fun i => decide (u ≤ dataRows n m i r))) u (u * n + n + 1)).getD 0

/-- The row of each data unit of member `i`, in order. -/
def rowList (n m i rows : Nat) : List Nat := (List.range rows).filter (dataRow n m i)

/-! ### Parity (R322): Cauchy Reed-Solomon over GF(2^8) with the field polynomial 0x11D -/

/-- A byte of parity unit P_j from the same byte of the row's data units, in ascending position. -/
def parityByte (m j : Nat) (ds : List Byte) : Byte :=
  BitVec.ofNat 8 ((List.range ds.length).foldl (fun acc i => acc ^^^ gfMulBy 0x11D (ds.getD i 0).toNat (gfInvBy 0x11D (j ^^^ (m + i)))) 0)

/-- The parity unit of member `i` in row `r`. The other members' data units reach it over the fabric, so their bytes are free values,
drawn from `free` on. -/
def parityUnit (n m i r free : Nat) : List Byte :=
  (List.range unitSize).map (fun b =>
    parityByte m ((i + n - r % n) % n) ((List.range (n - m)).map (fun k => BitVec.ofNat 8 (Config.freeNat (free + b * (n - m) + k)))))

/-! ## The image (R419) -/

/-- Fills up to whole units. -/
def padUnits (b : List Byte) : List Byte := b ++ List.replicate ((unitSize - b.length % unitSize) % unitSize) 0

/-- The buffers of an image as (address, bytes): the shard table, each shard's buffers, the tensor scale records. -/
def State.imageBuffers (s : State) (p : Nat) : List (Nat × Nat) :=
  let t := (s.part p).train
  if !t.isSetUp then []
  else
    ([(t.table, 512 * t.shards)] ++ (s.shardNums p).flatMap (fun i =>
      let r := s.shard p i
      (if r.replica then [] else
        [(r.master r.active, 4 * r.n), (r.stateA r.active, r.aBytes), (r.stateB r.active, r.bBytes),
         (r.root r.rootActive, if r.rule = 4 then r.rootBytes else 0)]) ++
      (List.range r.buffers).flatMap (fun k => if r.wtag k = -2 then [] else [(r.work k, r.workBytes), (r.wscale k, r.planeBytes)])) ++
    (s.scaleRecs p).map (fun a => (a, 128))).filter (fun b => b.2 != 0)

/-- The address that stands for the step counter and the TRAIN_SETUP parameters, which lie at no engine address. -/
def paramsAddr : Nat := 2 ^ 64 - 1

/-- The step counter and the TRAIN_SETUP parameters as 64 bytes. -/
def trainBytes (t : Train) : List Byte :=
  BMap.readBytes (fieldBytes [(0, 8, t.step), (8, 8, t.table), (16, 8, t.keepAddr), (24, 4, t.shards), (28, 4, t.keepSlots), (32, 4, t.keepBytes),
    (36, 1, t.isSetUp.toNat)]) 0 64

/-- The image of this member: directory, then the buffers, each on a unit boundary; or the status of a read that failed. -/
def State.image (s : State) (p : Nat) : Got :=
  let bufs := s.imageBuffers p
  let dir := padUnits (([(paramsAddr, 64)] ++ bufs).flatMap (fun (b : Nat × Nat) => natLe b.1 8 ++ natLe b.2 8 ++ List.replicate 16 0) ++ List.replicate 32 0)
  bufs.foldl (fun (g : Got) b =>
    if g.status ≠ 0 then g
    else
      let r := g.st.readDev p b.1 b.2 true
      { r with bytes := g.bytes ++ padUnits r.bytes }) { bytes := dir ++ padUnits (trainBytes (s.part p).train), st := s }

/-- The directory at the head of an image. -/
def dirOf : Nat → List Byte → List (Nat × Nat)
  | 0, _ => []
  | fuel + 1, b =>
    let a := leNat (b.take 8)
    let n := leNat ((b.drop 8).take 8)
    if b.length < 32 ∨ (a = 0 ∧ n = 0) then [] else (a, n) :: dirOf fuel (b.drop 32)

def imageDir (b : List Byte) : List (Nat × Nat) := dirOf (b.length / 32 + 1) b

/-- Bytes of a directory and its buffers. -/
def wholeUnits (n : Nat) : Nat := ceilDiv n unitSize * unitSize
def imageLen (dir : List (Nat × Nat)) : Nat := wholeUnits (32 * dir.length + 32) + (dir.map (fun e => wholeUnits e.2)).foldl (· + ·) 0

/-- The entries of an image with their bytes. -/
def imageParts (b : List Byte) : List (Nat × List Byte) :=
  let dir := imageDir b
  (dir.foldl (fun (acc : Nat × List (Nat × List Byte)) e => (acc.1 + wholeUnits e.2, acc.2 ++ [(e.1, (b.drop acc.1).take e.2)]))
    (wholeUnits (32 * dir.length + 32), [])).2

/-- Writes a slot: image units in this member's data rows, zero in the rows beyond, and the parity units. -/
def State.putImage (s : State) (p k : Nat) (d : SlotDesc) (img : List Byte) : Got :=
  let base := (s.part p).slotBase k
  let mine := rowList d.n d.m d.position d.rows
  (List.range d.rows).foldl (fun (g : Got) r =>
    if g.status ≠ 0 then g
    else match mine.findIdx? (fun x => x == r) with
      | some i => g.st.writeDev p (unitSize * r + base) ((img.drop (i * unitSize)).take unitSize ++ List.replicate (unitSize - min unitSize (img.length - i * unitSize)) 0)
      | none =>
        let st := g.st
        ({ st with free := st.free + unitSize * (d.n - d.m) }).writeDev p (unitSize * r + base) (parityUnit d.n d.m d.position r st.free)) { st := s }

/-- Reads a unit after those read so far, while none has failed. -/
def Got.readOn (g : Got) (p a : Nat) : Got :=
  if g.status ≠ 0 then g
  else { (g.st.readDev p a unitSize true) with bytes := g.bytes ++ (g.st.readDev p a unitSize true).bytes }

/-- Reads the image units of a slot. -/
def State.getImage (s : State) (p k : Nat) (d : SlotDesc) : Got :=
  ((rowList d.n d.m d.position d.rows).take d.units).foldl (fun g r => g.readOn p (unitSize * r + (s.part p).slotBase k)) { st := s }

/-- Writes every dirty unit of the store back (R242). -/
def State.flushStore (s : State) (p : Nat) : State :=
  let x := s.part p
  let first := pageOf x.storeBase
  let pages := (x.pages.map (·.1)).filter (fun g => decide (first ≤ g) && decide (g < first + x.storeExtents * 32768))
  forEach pages s (fun g st => (st.writeBackPage p g).2)

/-! ## The command (R375) -/

/-- A command other than this one runs on the partition. -/
def State.othersRun (s : State) (f n : Nat) : Bool := (s.cmdsOf f (fun c => c.phase == .running)).any (fun m => m != n)

/-- An apply that a HALT has not stopped. -/
def State.applyRunning (s : State) (p : Nat) : Bool := (s.part p).train.applies.any (fun a => !a.halted)

/-- Whether the parameters of MAQUETTE have their form. -/
def Cmd.maqFormed (c : Cmd) : Bool := c.param 0 1 < 3 && c.zeros [(1, 7)]

/-- The header of the store, and the units of a slot that are in use, as runs. -/
def State.headerRun (s : State) (p : Nat) : Nat × Nat := ((s.part p).storeBase, 128)
def State.slotRun (s : State) (p k : Nat) (d : SlotDesc) : Nat × Nat := ((s.part p).slotBase k, min (d.rows * unitSize) (s.part p).slotBytes)

/-- Makes a MAQUETTE command's accesses, which read and write `runs`, once they can be made; `lost` is what a tier request that failed
leads to. -/
def State.maqServed (s : State) (f n : Nat) (runs : List (Nat × Nat) × List (Nat × Nat)) (lost body : State → State) : State :=
  if (s.cmd f n).failed ≠ 0 then lost s
  else s.whenServed f (runs.1.filter (fun r => r.2 != 0)) (runs.2.filter (fun r => r.2 != 0)) .write (.command f n) body

/-- The command ends with the status of its failed tier request. -/
def State.maqLost (s : State) (f n : Nat) : State := s.finishCmd f n (s.cmd f n).failed

/-- A MAQUETTE command of one ACTION, begun or, while it waits for its memory, tried again; a malformed one is refused by TAKE. -/
def State.maquette (s : State) (f n action : Nat) (check : State → Cmd → Nat) (body : State → State) : Option State :=
  if s.canTake f n opMAQUETTE && ((s.cmd f n).param 0 1 == action || (action == 0 && 3 ≤ (s.cmd f n).param 0 1)) then
    let s1 := s.take f n
    let c := s1.cmd f n
    let st := if !c.maqFormed then stBAD_PARAM else check s1 c
    some (if st ≠ 0 then s1.finishCmd f n st else body ((s1.beginCmd f n).modCmd f n (fun x => { x with stage := 3 })))
  else if s.inRun f n opMAQUETTE && (s.cmd f n).param 0 1 == action && (s.cmd f n).stage == 3 then some (body s)
  else none

/-- Whether a partition's Maquettes span a domain. -/
def State.inDomain (s : State) (p : Nat) : Bool := s.domainActive p

/-! ## TAKE (R421) -/

/-- The check of TAKE that needs no image. -/
def State.takeCheck (s : State) (f n : Nat) (c : Cmd) : Nat :=
  if s.othersRun f n ∨ s.applyPending f ∨ (s.shardNums f).any (fun i => (s.shard f i).faulted) then stBUSY
  else if (s.part f).storeExtents = 0 then stNO_RESOURCE
  else if s.inDomain f ∧ !bit c.cmdFlags 1 then stBAD_PARAM
  else 0

/-- Writes a slot: WRITING, the image and its parity, WRITTEN. -/
def State.writeSlotImage (s : State) (f k : Nat) (d : SlotDesc) (bytes : List Byte) : Got :=
  ((s.putDesc f k d).andThen (fun st => st.putImage f k d bytes)).andThen (fun st => st.putDesc f k { d with state := slotWRITTEN })

/-- Step 4: the slot is written back; a member of a domain reports to the issuing member. -/
def State.slotWritten (s : State) (f n k : Nat) : State :=
  let s1 := (s.flushStore f).modCmd f n (fun c => { c with stage := 1, note := k })
  match (s1.cmd f n).relayed with
  | some issuer =>
    let c := s1.cmd f n
    let (q, s2) := s1.packet 0 1 (s1.part f).domain issuer 0 (natLe c.tag 4 ++ natLe stOK 2 ++ List.replicate 26 0)
    (s2.dispatch { q with tag := BitVec.ofNat 16 c.tag }).event pHIF f 0x000F 0 issuer stOK c.tag 0
  | none => s1

/-- The units U of a domain's image beyond this member's own: the manual gives the members no message for them, so they are a free
value. -/
def State.extraUnits (s : State) (dom : Bool) : Nat × State := if dom then s.fresh else (0, s)

/-- What TAKE reads and writes: the header, the buffers of the image, and its slot. -/
def State.takeRuns (s : State) (f : Nat) : List (Nat × Nat) × List (Nat × Nat) :=
  let dom := s.inDomain f
  let bufs := s.imageBuffers f
  let nn := if dom then s.fabricN else 0
  let rows := rowsFor nn (parityShares nn) (imageLen ((paramsAddr, 64) :: bufs) / unitSize + (s.extraUnits dom).1)
  let k := match ((s.extraUnits dom).2.agreedSlot f dom).1 with
    | some j => 1 - j
    | none => 0
  (s.headerRun f :: bufs, [s.headerRun f, ((s.part f).slotBase k, min (rows * unitSize) (s.part f).slotBytes)])

/-- Writes an image to the slot that is not the newest. -/
def State.fillOther (s : State) (f n : Nat) (dom : Bool) (bytes : List Byte) : State :=
  let (r, s1) := s.extraUnits dom
  let u := bytes.length / unitSize + r
  let nn := if dom then s1.fabricN else 0
  let m := parityShares nn
  let rows := rowsFor nn m u
  let x := s1.part f
  if x.slotBytes < rows * unitSize then s1.finishCmd f n stNO_RESOURCE
  else
    let (a, s2) := s1.agreedSlot f dom
    let k := match a with
      | some j => 1 - j
      | none => 0
    let w := s2.writeSlotImage f k
      { state := slotWRITING, m := m, n := nn, position := if dom then s1.fabric.position else 0, step := x.train.step, units := u, rows := rows
        grants := x.grantCrc, image := crc32c bytes, jseq := x.jseq } bytes
    if w.status ≠ 0 then w.st.finishCmd f n w.status else w.st.slotWritten f n k

/-- Steps 1 to 4: the other slot goes to WRITING, takes image and parity, is written back and goes to WRITTEN. -/
def State.fillSlot (s : State) (f n : Nat) : State :=
  let g := s.image f
  if g.status ≠ 0 then g.st.finishCmd f n g.status else g.st.fillOther f n (s.inDomain f) g.bytes

/-- Steps 5 and 6: COMMITTED with STAMP, the TAKE entry, the reply. -/
def State.commitSlot (s : State) (f n : Nat) : State :=
  let c := s.cmd f n
  let d := s.slotDesc f c.note
  let (t, s1) := s.stamp .hub
  let w := s1.putDesc f c.note { d with state := slotCOMMITTED, stamp := t }
  if w.status ≠ 0 then w.st.finishCmd f n w.status
  else
    let s2 := (w.st.flushStore f).journalAdd f 5 0 0xFF 0xFFFFFFFF d.step 0 0
    if c.relayed.isSome then s2.setSlot f n {} else s2.replyOk f n [d.step, 0]

/-- Whether every other member has reported. -/
def State.reported (s : State) (f n : Nat) : Bool := (s.owed f (s.cmd f n)).isEmpty

/-- TAKE. In a domain the commit waits for every member's report; on a relayed command the second run of this row is the issuing
member's word that all have reported. -/
def execMaquetteTake (fn slot : Nat) (s : State) : Out :=
  .next (match s.maquette fn slot 0 (fun st c => st.takeCheck fn slot c) (fun s0 =>
      s0.maqServed fn slot (s0.takeRuns fn) (fun st => st.maqLost fn slot) (fun st =>
        let s1 := st.fillSlot fn slot
        if s1.inRun fn slot opMAQUETTE && !s1.inDomain fn then s1.commitSlot fn slot else s1)) with
  | some st => st
  | none =>
    let c := s.cmd fn slot
    let commit := fun (st : State) => st.maqServed fn slot ([], [st.headerRun fn]) (fun t => t.maqLost fn slot) (fun t => t.commitSlot fn slot)
    if !s.inRun fn slot opMAQUETTE ∨ c.param 0 1 ≠ 0 ∨ c.stage ≠ 1 then s
    else if c.relayed.isSome then commit s
    else if !s.reported fn slot then s
    else if s.domainStatus { c with status := stOK } ≠ stOK then s.finishCmd fn slot (s.domainStatus { c with status := stOK })
    else commit s)

/-! ## Host writes that stand (R424) -/

/-- Marks replies of commands that wrote host memory after a stamp; a command whose slot has been released is named in the log. -/
def State.writesStand (s : State) (p since : Nat) : State :=
  forEach ((s.part p).wrote.filter (fun w => decide (since < w.2.2))) s (fun w st =>
    let x := st.slot p w.1
    let same := x.state == .done && x.cmd.tag == w.2.1 && x.cmd.stop == w.2.2
    let s1 := if same then
        st.setSlot p w.1 { x with stands := true, reply := BMap.write x.reply 2 (BMap.read x.reply 2 ||| 4#8) }
      else st
    s1.event pHIF p 0x0010 p (if same then w.1 else 0xFF) w.2.1 w.2.2 0)

/-! ## ROLLBACK (R422) -/

/-- The slot a rebuild gives (R322): this member's units come from the others' over the fabric, so the image is free. -/
def State.rebuilt (s : State) (p : Nat) : SlotDesc × List Byte × State :=
  let (r, s1) := s.fresh
  let (t, s2) := s1.fresh
  let n := s.fabricN
  let m := parityShares n
  let u := r % (wholeUnits (s.part p).slotBytes / unitSize + 1)
  let len := u * unitSize
  ({ state := slotCOMMITTED, m := m, n := n, position := s.fabric.position, step := t, stamp := s.now, units := u, rows := rowsFor n m u
     grants := (s.part p).grantCrc, ok := true },
   (List.range len).map (fun i => BitVec.ofNat 8 (Config.freeNat (s2.free + i))), { s2 with free := s2.free + len })

/-- An image as read: DATA_ERROR when a read failed or its CRC is not the descriptor's. -/
def judgeImage (d : SlotDesc) (g : Got) : Nat × SlotDesc × List Byte × State :=
  (if g.status ≠ 0 ∨ crc32c (g.bytes.take (imageLen (imageDir g.bytes))) ≠ d.image then stDATA_ERROR else 0,
   d, if g.status ≠ 0 then [] else g.bytes.take (imageLen (imageDir g.bytes)), g.st)

/-- What ROLLBACK finds of this member's slot: its descriptor and image when both pass, or a status. -/
def State.soundSlot (s : State) (p k : Nat) : Nat × SlotDesc × List Byte × State :=
  if !(s.slotDesc p k).ok then (stDATA_ERROR, s.slotDesc p k, [], s)
  else if (s.slotDesc p k).grants ≠ (s.part p).grantCrc then (stBAD_PARAM, s.slotDesc p k, [], s)
  else judgeImage (s.slotDesc p k) (s.getImage p k (s.slotDesc p k))

/-- Whether every entry of an image lies within the partition table. -/
def State.imageWithin (s : State) (p : Nat) (img : List Byte) : Bool :=
  (imageDir img).all (fun e => e.1 == paramsAddr || s.within p e.1 e.2)

/-- Writes an image back: its buffers, the step counter and the TRAIN_SETUP parameters. -/
def State.restore (s : State) (p : Nat) (d : SlotDesc) (img : List Byte) : Got :=
  let g := (imageParts img).foldl (fun (g : Got) e =>
    if e.1 = paramsAddr then
      let m := BMap.writeBytes [] 0 e.2
      { g with st := g.st.modTrain p (fun t => { t with
          isSetUp := BMap.readLe m 36 1 == 1, table := BMap.readLe m 8 8, keepAddr := BMap.readLe m 16 8, shards := BMap.readLe m 24 4
          keepSlots := BMap.readLe m 28 4, keepBytes := BMap.readLe m 32 4 }) }
    else g.andThen (fun st => st.writeDev p e.1 e.2)) { st := s }
  { g with st := g.st.modTrain p (fun t => { t with step := d.step, closed := d.step, applies := [], faults := [], keeps := [], fetched := [], lsDone := [] }) }

/-- The end of a ROLLBACK: the restore, its journal entry, HOST_WRITES_STAND, the reply. -/
def State.rollTo (s : State) (f n : Nat) (d : SlotDesc) (img : List Byte) : State :=
  if !s.imageWithin f img then s.finishCmd f n stBAD_PARAM
  else
    let g := s.restore f d img
    if g.status ≠ 0 then g.st.finishCmd f n g.status
    else ((g.st.journalAdd f 6 0 0xFF 0xFFFFFFFF d.step 0 0).writesStand f d.stamp).replyOk f n [d.step, 0]

/-- The check of ROLLBACK that needs no slot. -/
def State.rollbackCheck (s : State) (f n : Nat) (c : Cmd) : Nat :=
  if s.othersRun f n ∨ s.applyRunning f then stBUSY
  else if (s.part f).storeExtents = 0 then stNO_RESOURCE
  else if s.inDomain f ∧ !bit c.cmdFlags 1 then stBAD_PARAM
  else 0

/-- A slot that only got as far as WRITTEN here, of a step newer than the newest COMMITTED one. -/
def State.writtenSlot (s : State) (f : Nat) : Option Nat :=
  [0, 1].find? (fun k => (s.slotDesc f k).ok && (s.slotDesc f k).state == slotWRITTEN && (match s.newestSlot f with
    | some j => decide ((s.slotDesc f j).step < (s.slotDesc f k).step)
    | none => true))

/-- A slot WRITTEN here is rebuilt when the other members chose its step, which the manual gives this member no message for: a free
choice. -/
def State.toRebuild (s : State) (f : Nat) : Option Nat :=
  if s.inDomain f && s.fresh.1 % 2 == 1 then s.fresh.2.writtenSlot f else none

/-- The agreed slot and what is found of it: DATA_ERROR when there is none, or it is to be rebuilt. -/
def State.findSlot (s : State) (f : Nat) : Nat × Nat × SlotDesc × List Byte × State :=
  if let some k := s.toRebuild f then (k, stDATA_ERROR, s.slotDesc f k, [], s.fresh.2)
  else match (s.agreedSlot f (s.inDomain f)).1 with
  | some k => (k, (s.agreedSlot f (s.inDomain f)).2.soundSlot f k)
  | none => (0, stDATA_ERROR, {}, [], (s.agreedSlot f (s.inDomain f)).2)

/-- Writes a rebuilt image to a slot. -/
def State.putRebuilt (s : State) (f k : Nat) (d : SlotDesc) (img : List Byte) : Got :=
  (s.putImage f k d img).andThen (fun t => t.putDesc f k { d with image := crc32c img })

/-- Rolls back to an image that has been written, unless the writing failed. -/
def Got.rollOn (g : Got) (f n : Nat) (d : SlotDesc) (img : List Byte) : State :=
  if g.status ≠ 0 then g.st.finishCmd f n g.status else (g.st.flushStore f).rollTo f n d img

/-- A member of a domain whose slot is unsound: the other members rebuild it, or too many are unsound, which the manual gives this
member no way to see: a free choice. -/
def State.rollRebuilt (s : State) (f n k : Nat) : State :=
  let (r, s1) := s.fresh
  if r % 2 = 0 then s1.finishCmd f n stDATA_ERROR
  else
    let (d, img, s2) := s1.rebuilt f
    if !s2.imageWithin f img then s2.finishCmd f n stBAD_PARAM else (s2.putRebuilt f k d img).rollOn f n d img

/-- ROLLBACK's work once its checks have passed. -/
def State.rollBack (s : State) (f n : Nat) : State :=
  let (k, e, d, img, s1) := s.findSlot f
  if e = 0 then s1.rollTo f n d img
  else if e = stDATA_ERROR ∧ s.inDomain f then s1.rollRebuilt f n k
  else s1.finishCmd f n e

/-- What ROLLBACK reads and writes: the header, the slot, and every directory entry of its image; a slot that is rebuilt is written. -/
def State.rollRuns (s : State) (f : Nat) : List (Nat × Nat) × List (Nat × Nat) :=
  let (k, e, d, img, _) := s.findSlot f
  ([s.headerRun f, s.slotRun f k d], (if e = 0 then [] else [s.headerRun f, s.slotRun f k d]) ++ (imageDir img).filter (fun x => x.1 != paramsAddr))

/-- A member whose slot a tier read fails for is rebuilt, in a domain (R422). -/
def State.rollLost (s : State) (f n : Nat) : State :=
  if s.inDomain f then s.rollRebuilt f n (s.findSlot f).1 else s.finishCmd f n stDATA_ERROR

/-- ROLLBACK. -/
def execRollback (fn slot : Nat) (s : State) : Out :=
  .next ((s.maquette fn slot 1 (fun st c => st.rollbackCheck fn slot c) (fun s0 =>
    s0.maqServed fn slot (s0.rollRuns fn) (fun st => st.rollLost fn slot) (fun st => st.rollBack fn slot))).getD s)

/-! ## ROLLFORWARD (R423) -/

/-- A journal entry as read. -/
structure JournalEntry where
  kind    : Nat
  sst     : Nat
  wbuf    : Nat
  shard   : Nat
  step    : Nat
  version : Nat
  stamp   : Nat
  boot    : Nat
  aux     : Nat
  seq     : Nat
  ok      : Bool
  deriving DecidableEq, Repr

def journalEntry (b : List Byte) : JournalEntry :=
  let m := BMap.writeBytes [] 0 b
  let u := fun (o n : Nat) => BMap.readLe m o n
  { kind := u 0 1, sst := u 1 1, wbuf := u 2 1, shard := u 4 4, step := u 8 8, version := u 16 8, stamp := u 24 8, boot := u 32 4
    aux := u 36 4, seq := u 40 8, ok := u 60 4 == crc32c (b.take 60) }

/-- The entries whose SEQ follows a Maquette's JSEQ, in SEQ order; none when the ring has wrapped, an entry is damaged or of
another start, or there is no journal. -/
def State.journalAfter (s : State) (p jseq : Nat) : Option (List JournalEntry) × State :=
  let x := s.part p
  if x.journalAddr = 0 ∨ jseq + x.journalSize < x.jseq then (none, s)
  else
    let r := (List.range (x.jseq - (jseq + 1))).foldl (fun (acc : Bool × List JournalEntry × State) i =>
      let q := jseq + 1 + i
      let g := acc.2.2.readStack (x.journalAddr + 64 * (q % x.journalSize)) 64 true
      let e := journalEntry g.bytes
      (acc.1 && g.status == 0 && e.ok && e.boot == s.startCount % 2 ^ 32 && e.seq == q, acc.2.1 ++ [e], g.st)) (true, [], s)
    (if r.1 then some r.2.1 else none, r.2.2)

/-- Status bytes of every shard (bytes 256 to 511 of its record) and the step counter. -/
structure Replayed where
  status : Tbl (List Byte)
  step   : Nat
  fence  : Nat                       -- stamp of the last FENCE entry

/-- Changes fields of a shard's status bytes, at offsets within its record. -/
def Replayed.put (r : Replayed) (i : Nat) (fs : List (Nat × Nat × Nat)) : Replayed :=
  let m := fs.foldl (fun (m : BMap) f => BMap.writeLe m (f.1 - 256) f.2.1 f.2.2) (BMap.writeBytes [] 0 (Tbl.get [] r.status i))
  { r with status := Tbl.set [] r.status i (BMap.readBytes m 0 256) }

/-- Replays one entry: COMMIT, SKIP and FENCE change the state; a ROLLBACK entry brings the Maquette's bytes back. -/
def Replayed.apply (base : Replayed) (r : Replayed) (e : JournalEntry) : Replayed :=
  let old := BMap.writeBytes [] 0 (Tbl.get [] r.status e.shard)
  if e.kind = 1 then
    r.put e.shard ([(272, 1, e.sst % 4), (256, 8, e.version), (264, 8, e.step), (320, 8, e.stamp)] ++
      (if e.wbuf < 5 then [(280 + 8 * e.wbuf, 8, e.step)] else []))
  else if e.kind = 2 then r.put e.shard [(272, 1, e.sst % 4 + 16), (264, 8, e.step), (328, 4, BMap.readLe old 72 4 + 1)]
  else if e.kind = 4 then { r with step := e.aux, fence := e.stamp }
  else if e.kind = 6 then base
  else r

/-- The buffers of an owner shard that its status bytes make active. -/
def Shard.activeBufs (r : Shard) : List (Nat × Nat) :=
  ([(r.master r.active, 4 * r.n), (r.stateA r.active, r.aBytes), (r.stateB r.active, r.bBytes), (r.root r.rootActive, if r.rule = 4 then r.rootBytes else 0)]).filter
    (fun b => b.2 != 0)

/-- The status bytes, step and stamp of a Maquette, from which the replay starts: its image's shard table. -/
def State.replayBase (s : State) (f : Nat) (d : SlotDesc) (table : List Byte) : Replayed :=
  { status := (s.shardNums f).foldl (fun (acc : Tbl (List Byte)) i => Tbl.set [] acc i ((table.drop (512 * i + 256)).take 256)) []
    step := d.step, fence := d.stamp }

/-- The replayed status bytes; RING_L is not in the journal, so the record keeps its own. -/
def State.replayed (s : State) (f : Nat) (base : Replayed) (es : List JournalEntry) : Replayed :=
  (s.shardNums f).foldl (fun (q : Replayed) i =>
    q.put i ((List.range 5).map (fun k => (273 + k, 1, (s.shard f i).u (273 + k) 1)))) (es.foldl (fun r e => Replayed.apply base r e) base)

/-- The record of a shard with replayed status bytes. -/
def State.replayShard (s : State) (f : Nat) (r : Replayed) (i : Nat) : Shard :=
  ⟨BMap.writeBytes (BMap.writeBytes [] 0 (BMap.readBytes s.mem (s.shardAddr f i) 256)) 256 (Tbl.get [] r.status i)⟩

/-- Reads the active buffers that the replayed status bytes name, verifying them. -/
def State.checkActive (s : State) (f : Nat) (r : Replayed) : Got :=
  ((s.owners f).flatMap (fun i => (s.replayShard f r i).activeBufs)).foldl
    (fun (g : Got) b => g.andThen (fun st => st.readDev f b.1 b.2 true)) { st := s }

/-- Writes the replayed status bytes. -/
def State.writeReplayed (s : State) (f : Nat) (r : Replayed) : Got :=
  (s.shardNums f).foldl (fun (g : Got) i => g.andThen (fun st => st.writeStack (st.shardAddr f i + 256) (Tbl.get [] r.status i))) { st := s }

/-- Applies due again: every step after a shard's last one. -/
def State.appliesDue (s : State) (f : Nat) (step : Nat) : List Apply :=
  (s.owners f).flatMap (fun i =>
    (List.range (step - ((s.shard f i).lastStep + 1).toNat)).map (fun j => ({ shard := i, step := ((s.shard f i).lastStep + 1).toNat + j } : Apply)))

/-- The end of a ROLLFORWARD: the step counter, the applies due, the journal entry, the reply. -/
def State.replayDone (s : State) (f n : Nat) (d : SlotDesc) (r : Replayed) (k : Nat) : State :=
  let s1 := s.modTrain f (fun x => { x with step := r.step, closed := r.step, applies := s.appliesDue f r.step, faults := [], keeps := [], fetched := [], lsDone := [] })
  ((s1.journalAdd f 7 0 0xFF 0xFFFFFFFF r.step 0 0).writesStand f r.fence).replyOk f n [d.step, k]

/-- Whether members of a domain disagree in the steps they reach: the manual gives no message for it, so it is a free value. -/
def State.stepsDiffer (s : State) (f : Nat) : Bool × State := (s.inDomain f && s.fresh.1 % 2 == 1, s.fresh.2)

/-- Takes up what a replay has found: the buffers checked, the members' steps compared, the status bytes written. -/
def State.takeReplay (s : State) (f n : Nat) (d : SlotDesc) (r : Replayed) (k : Nat) : State :=
  let q := s.stepsDiffer f
  let v := q.2.checkActive f r
  if v.status ≠ 0 then v.st.finishCmd f n stDATA_ERROR
  else if q.1 then v.st.finishCmd f n stBAD_PARAM
  else
    let w := v.st.writeReplayed f r
    if w.status ≠ 0 then w.st.finishCmd f n w.status else w.st.replayDone f n d r k

/-- ROLLFORWARD from a Maquette's status bytes. -/
def State.rollForward (s : State) (f n : Nat) (d : SlotDesc) (img : List Byte) : State :=
  let table := ((imageParts img).find? (fun e => e.1 == (s.part f).train.table)).map (·.2) |>.getD []
  match s.journalAfter f d.jseq with
  | (none, s1) => s1.finishCmd f n stBAD_PARAM
  | (some es, s1) =>
    if table.length ≠ 512 * (s.part f).train.shards then s1.finishCmd f n stBAD_PARAM
    else s1.takeReplay f n d (s1.replayed f (s1.replayBase f d table) es) es.length

/-- The check of ROLLFORWARD that needs no slot. -/
def State.rollforwardCheck (s : State) (f n : Nat) (c : Cmd) : Nat :=
  if s.othersRun f n ∨ s.applyRunning f then stBUSY
  else if (s.part f).journalAddr = 0 ∨ (s.part f).storeExtents = 0 ∨ (s.inDomain f ∧ !bit c.cmdFlags 1) then stBAD_PARAM
  else 0

/-- ROLLFORWARD's work once its checks have passed. -/
def State.replayFrom (s : State) (f n : Nat) : State :=
  match s.newestSlot f with
  | none => s.finishCmd f n stBAD_PARAM
  | some k =>
    let (e, d, img, s1) := s.soundSlot f k
    if e ≠ 0 then s1.finishCmd f n e else s1.rollForward f n d img

/-- What ROLLFORWARD reads: the header, the newest slot, and the buffers that its status bytes may make active. -/
def State.replayRuns (s : State) (f : Nat) : List (Nat × Nat) × List (Nat × Nat) :=
  let slot := match s.newestSlot f with
    | some k => [s.slotRun f k (s.slotDesc f k)]
    | none => []
  (s.headerRun f :: slot ++ (s.owners f).flatMap (fun i => ((s.shard f i).anyBufs).filter (fun b => s.within f b.1 b.2)), [])

/-- ROLLFORWARD. -/
def execRollforward (fn slot : Nat) (s : State) : Out :=
  .next ((s.maquette fn slot 2 (fun st c => st.rollforwardCheck fn slot c) (fun s0 =>
    s0.maqServed fn slot (s0.replayRuns fn) (fun st => st.maqLost fn slot) (fun st => st.replayFrom fn slot))).getD s)

end Sys2Proof.Machine
end

