-- ==== Sys2Proof/Machine/Boot.lean ====
section
/-! DEFINITION. Start-up, reset and the inlet (R364, R441 to R443, R454, R460, R482, R489), the MODULE class (R404), the
partition-table checkers (R477) and the service latch (R481, R484). -/

namespace Sys2Proof.Machine

open Sys2Proof

/-! ## The MODULE class (R404) -/

/-- Ends every command of a function but the one in slot `n`, if any, with ABORTED (R361 step 2). -/
def State.abortAll (s : State) (f : Nat) (n : Option Nat) : State := (s.endCommands f stABORTED (fun m _ => n != some m)).2

/-- Enters the state of R404: every partition stops as for a HALT through PF0, its HALTs end too, FATAL is set and DEV_READY
deasserted. The module stays there until RESET_MODULE or a power cycle. -/
def State.enterFatal (s : State) (src unit unitId : Nat) : State :=
  if s.power.fatal then s
  else
    let s1 := forEach allParts (s.haltWork allParts).2 (fun p st => st.abortAll p none)
    let s2 := s1.error src { cls := cMODULE, unit := unit, unitId := unitId }
    ({ s2 with power := { s2.power with fatal := true, devReady := false } }).alert

/-- Whether the hub runs. -/
def State.hubOn (s : State) : Bool := s.power.state == .ms0 || s.power.state == .ms3

/-- MODULE_FATAL: an uncorrectable fault of the hub, whose unit the records have no code for and is a free value, or a
processor in restart whose image SEC cannot verify. -/
def execModuleFatal (processor : Option Nat) (s : State) : Out :=
  .next (if !s.hubOn then s
  else match processor with
  | none =>
    let (r, s1) := s.fresh
    s1.enterFatal pSEC (r % 15) 0
  | some c => if (s.proc c).restart.isSome then s.enterFatal pSEC 12 c else s)

/-- CHECKER_COMPARE (R477): SEC rewrites and counts a corrected mismatch; an uncorrectable one is fatal. -/
def execCheckerCompare (_checker : Nat) (corrected uncorrectable : Bool) (s : State) : Out :=
  .next (if !s.hubOn || !s.procUp pSEC then s
  else
    let s1 := if corrected then { s with sec := { s.sec with checkFixed := s.sec.checkFixed + 1 } } else s
    if uncorrectable then s1.enterFatal pSEC 12 pSEC else s1)

/-! ## Zeroisation (R481, R482, R484) -/

/-- Step 2 of R481: the storage root key and every wrapped key, the hibernation key and with it the image, CDI_SEC with the keys derived
from it. -/
def State.zeroise (s : State) : State :=
  { s with
    sec := { s.sec with hasSrk := false, hibKey := false, nonce := none, cdi := none }
    flash := { s.flash with extents := Tbl.mapV {} (fun (x : Extent) => { x with keyed := false, key := 0 }) s.flash.extents }
    power := { s.power with image := none } }

/-- Ends every FW_STAGE with ABORTED (R434, R481). -/
def State.endStages (s : State) : State := forEach s.staging s (fun x st => st.stopCommand x.2.1 x.2.2 stABORTED)

/-- Steps 2 to 4 of R481 with the hub running: keys and sessions end, partitions stop, stacks and sections are zeroed, the
module enters the state of R404. The restart in progress of an activation completes; the rest stay staged, no longer armed
(R484). -/
def State.tripLatch (s : State) : State :=
  let s1 := forEach (List.range 9) s.zeroise.endStages (fun f st => st.endSpdm f)
  let s2 := forEach s1.fwSeqs s1 (fun q st => if q.mode = 2 then st else
    (st.modCmd q.fn q.slot (fun c => { c with result := [BitVec.ofNat 64 q.done] })).finishCmd q.fn q.slot stABORTED)
  let s3 := { s2 with
    fwSeqs := [], procs := Tbl.mapV {} (fun (x : Proc) => { x with armed := false }) s2.procs
    sec := { s2.sec with openSince := true, zeroised := true, unlocked := none } }
  let s4 := s3.enterFatal pSEC 12 pSEC
  let s5 := s4.clearSections 0xFFFF
  { s5 with mem := [], blocks := s5.blocks.filter (fun _ => false) }

/-- SERVICE_LATCH_TRIP. In MS3 the trip wakes the module first; in MS4 and during start-up what needs the hub follows once
start-up has ended; unpowered it waits for the next power-up (R481, R484). -/
def execServiceLatchTrip (s : State) : Out :=
  let s1 := { s with sec := { s.sec with coverOpen := true } }
  .next (match s1.power.state with
  | .unpowered => s1
  | .ms0 => s1.tripLatch
  | .ms3 => ({ s1 with power := { s1.power with regs := { s1.power.regs with phase := 0 } } }).wakeModule.tripLatch
  | _ =>
    let s2 := s1.zeroise.dark .starting false
    { s2 with sec := { s2.sec with tripped := true } })

/-- COVER_CLOSE: locks an unlocked service port; the state of R404 stays (R483, R484). -/
def execCoverClose (s : State) : Out :=
  .next { s with sec := { s.sec with coverOpen := false, unlocked := none } }

/-! ## Reset and the inlet -/

/-- RESET_MODULE (R364): refused while a partition is in use unless FORCE is set; otherwise every other command ends and this
one replies; once its reply, flag and interrupt are written, the row takes the link down and start-up begins. -/
def execResetModule (fn slot : Nat) (s : State) : Out :=
  .next (if s.canTake fn slot opRESET_MODULE then
      let s1 := s.take fn slot
      let c := s1.cmd fn slot
      if 2 ≤ c.param 0 8 then s1.finishCmd fn slot stBAD_PARAM
      else if c.param 0 8 = 0 ∧ allParts.any (fun p => (s1.part p).host == .attached || (List.range 128).any (fun n => (s1.slot p n).state == .running)) then s1.finishCmd fn slot stBUSY
      else
        let s2 := forEach (List.range 9) (s1.beginCmd fn slot) (fun g st => st.abortAll g (if g = fn then some slot else none))
        ({ s2 with power := { s2.power with resetting := some slot } }).finishCmd fn slot stOK
    else if fn = 0 && s.power.resetting == some slot && (s.cmd 0 slot).phase != .finished && (s.cmd 0 slot).phase != .flushing then
      ({ s with power := { s.power with image := none } }).dark .starting true
    else s)

/-- Whether a reading forces a power-fail stop (R460, R500). -/
def State.powerFails (s : State) : PowerFail → Bool
  | .inletVoltage mV => mV < 38000 || 62000 < mV
  | .dieDiode d r => d < 4 && s.powered && (s.die d).clamped && 115 * 16 ≤ r

/-- Power is lost: every domain is off and the next start unclean, unless a complete hibernation image waits (R441, R454). -/
def State.powerLost (s : State) : State := s.dark .unpowered s.power.image.isSome

/-- POWER_FAIL_STOP. -/
def execPowerFailStop (cause : PowerFail) (s : State) : Out :=
  .next (if s.power.state != .unpowered && s.powerFails cause then s.powerLost else s)

/-- INLET_WITHDRAWAL. -/
def execInletWithdrawal (s : State) : Out :=
  .next (if s.power.state != .unpowered then s.powerLost else s)

/-- INLET_CONNECT (R489): at 40 V or more, up to the 60 V of R441, step 1 of start-up begins. -/
def execInletConnect (mV : Nat) (s : State) : Out :=
  .next (if s.power.state == .unpowered then
    { s with power := { s.power with inletMv := mV, state := if 40000 ≤ mV ∧ mV ≤ 60000 then .starting else .unpowered } }
  else s)

/-! ## Start-up (R441, R442) -/

/-- Whether an image runs: its bank holds one that verifies with an SVN not below ROLLBACK (R470). -/
def State.imageRuns (s : State) (bad : List Nat) (c : Nat) (i : Option Image) : Bool :=
  match i with
  | some g => !bad.any (fun k => bankOf k == c) && decide (s.sec.rollback ≤ g.svn)
  | none => false

/-- Which bank a processor starts from: CURRENT, PREVIOUS, or neither. -/
def State.bootBank (s : State) (f : StartUpFindings) (c : Nat) : Option Bool :=
  if s.imageRuns f.currentBad c (s.proc c).current then some true
  else if s.imageRuns f.previousBad c (s.proc c).previous then some false
  else none

/-- PREVIOUS becomes CURRENT and the failed image is discarded, with its FW_ACTIVATE event (R439, R442). -/
def State.fallBack (s : State) (c : Nat) : State :=
  let x := s.proc c
  let s1 := s.setProc c { x with current := x.previous, previous := none, probation := none }
  s1.eventAll pSEC s1.partsPresent 0x0008 c ((x.previous.map (·.version)).getD 0) 3 ((x.current.map (·.version)).getD 0) 0

/-- Steps 2, 3 and 5 for one image. -/
def State.bootImage (s : State) (f : StartUpFindings) (c : Nat) : State :=
  match s.bootBank f c with
  | some true => s
  | some false => (s.error pSEC { cls := cPROCESSOR, unit := 12, unitId := c }).fallBack c
  | none => s.error pSEC { cls := cPROCESSOR, unit := 12, unitId := c }

/-- The DeviceID public key (R467, R468): its private key is the KDF of the unique device secret. -/
def deviceIdKey : List Byte := publicKey (privateKey (natBe 48 Config.uds.toNat) (ascii "DEVICEID") 256 0)

/-- CDI_SEC of a start: from the unique device secret, the digest of the SEC image that runs, and ROLLBACK (R467). -/
def State.cdiSec (s : State) : BitVec 384 :=
  BitVec.ofNat 384 (beNat (hmac384 (natBe 48 Config.uds.toNat)
    (natBe 48 ((s.proc pSEC).current.getD {}).body.toNat ++ [BitVec.ofNat 8 s.sec.rollback])))

/-- The key that unwraps the storage root key, from CDI_ROOT (R467, R479). -/
def srkUnwrapKey : List Byte := kdf384 (kdf384 (natBe 48 Config.uds.toNat) (ascii "STORE")) (ascii "SRK")

/-- MODULE_ID, bytes 0 to 7 of the digest of the DeviceID public key (R468). -/
def deviceModuleId : BitVec 64 := BitVec.ofNat 64 (leNat ((sha384Bytes deviceIdKey).take 8))

/-- Replica offsets, each within 2 ns of the master (R387). -/
def State.freeReplicas (s : State) : State :=
  forEach (List.range 18) s (fun i st =>
    let (r, st1) := st.fresh
    { st1 with time := { st1.time with replicas := Tbl.set 0 st1.time.replicas i ((r % 5 : Nat) - 2 : Int) } })

/-- Step 1 of R441, with the keys of step 2: a new storage root key when there is none, which returns every extent free
(R482), and straps, start count and CLEAN_START. -/
def State.bootBegin (s : State) (f : StartUpFindings) : State :=
  let tripped := f.latchTripped || s.sec.tripped
  let s0 := if f.latchTripped then s.zeroise else s
  let s1 := if s0.power.image.isSome == s.power.image.isSome then s0 else s0.dark .starting false
  let s2 := if s0.sec.hasSrk then s1
    else
      let blocks := Tbl.mapV {} (fun (b : EraseBlock) => { b with units := [] }) s1.flash.blocks
      { s1 with flash := { s1.flash with data := [], map := [], extents := [], blocks := blocks } }
  let clean := s0.sec.hasSrk && (s.power.cleanNext || s0.power.image.isSome)
  ({ s2 with
    power := { s2.power with startCount := s.power.startCount + 1, cleanNext := false, wakeAgent := s.power.wakeAgent, cleanStart := clean }
    sec := { s2.sec with
      hasSrk := true, srkGen := if s0.sec.hasSrk then s2.sec.srkGen else s2.sec.srkGen + 1, tripped := s.sec.tripped
      openSince := s.sec.coverOpen || tripped, zeroised := tripped, coverOpen := s.sec.coverOpen || f.latchTripped, moduleId := deviceModuleId }
    side := { s2.side with slotId := f.straps } }).freeReplicas

/-- MARK BOOT and the PRIOR entries, after which the persistent ring is empty (R428, R432). -/
def State.bootMarks (s : State) : State :=
  let s1 := s.append pMGT 0 (.mark 1 s.power.startCount s.power.cleanStart.toNat)
  let s2 := forEach s.log.persistent s1 (fun r st => st.append pMGT r.pt (.prior r))
  { s2 with log := { s2.log with persistent := [] } }

/-- Step 8: failed spares are out of use, a failed tile's name passes to a spare or is absent, a die whose UPU or DCTL fails
has its sections out of service (R5, R413, R442). Which engine of a tile a record names, and which of UPU and DCTL, is free. -/
def State.bootDies (s : State) (f : StartUpFindings) : State :=
  let bad := f.failedTiles.filter (fun e => e.1 < 4 && e.2 < 66)
  let s1 := forEach (bad.filter (fun e => 64 ≤ e.2)) s (fun e st => st.modDie e.1 (fun x => { x with badSpares := x.badSpares ++ [e.2] }))
  let s2 := forEach (bad.filter (fun e => e.2 < 64)) s1 (fun e st => (st.substitute e.1 e.2).2)
  let s3 := forEach bad s2 (fun e st =>
    let (r, st1) := st.fresh
    st1.error (pDCTL e.1) { cls := cUNIT, unit := r % 4, unitId := 64 * e.1 + e.2 % 64 })
  forEach (f.failedDies.filter (· < 4)) s3 (fun d st =>
    let (r, st1) := st.fresh
    ({ st1 with secOut := st1.secOut ||| (0xF#16 <<< (4 * d)) }).error pSEC
      (if r % 2 = 0 then { cls := cUNIT, unit := 5, unitId := d } else { cls := cUNIT, unit := 12, unitId := 7 + d }))

/-- Step 7 with the restore of R454: stacks in parallel; those of a restored partition stay in SELF_REFRESH, for every
partition returns in MS2. -/
def State.bootStacks (s : State) (f : StartUpFindings) (restored : Bool) : State :=
  let s1 := forEach (List.range 20) s (fun k st =>
    if (st.stack k).mode == .training || (st.stack k).mode == .selfRefresh then
      st.startStack k (((f.stackOutcomes.find? (fun e => e.1 == k)).map (·.2)).getD { remaps := 0, retries := 0, testPass := true }) restored
    else st)
  if restored then
    forEach (List.range 20) s1 (fun k st =>
      if st.stackOwner k ≠ 0 ∧ (st.stack k).mode == .service then st.setMode k .selfRefresh else st)
  else s1

/-- Start-up as a whole. -/
def State.bootAll (s : State) (f : StartUpFindings) : State :=
  let s1 := s.bootBegin f
  let restored := s1.power.image.isSome
  let dead := (List.range 8).any (fun c => (s1.bootBank f c).isNone)
  let s2 := forEach (List.range 8) s1.bootMarks (fun c st => st.bootImage f c)
  let s3 := (s2.bootStacks f restored).bootDies f
  let s4 := forEach (List.range 11) s3 (fun c st => st.modProc c (fun x => { x with ready := true }))
  let s5 := { s4 with
    flash := { s4.flash with
      rebuilt := !s4.power.cleanStart
      map := if s4.power.cleanStart then s4.flash.map else s4.flash.remapped }
    sec := { s4.sec with hibKey := false, tripped := false, cdi := some s2.cdiSec }
    power := { s4.power with state := .ms0, devReady := true, image := none, wakeAgent := 0 } }
  let s6 := if restored then s5.powerEvent 0 0 4 s4.power.wakeAgent 0 0 1 else s5
  let s7 := forEach s6.partsPresent (forEach (List.range 4) s6 (fun d st => st.settleCore d)) (fun p st => st.modFn p (fun x => { x with lastBeat := st.now }))
  if dead || s4.sec.tripped then s7.enterFatal pSEC 12 pSEC else s7

/-- START_UP. -/
def execStartUp (found : StartUpFindings) (s : State) : Out :=
  .next (if s.power.state == .starting then s.bootAll found else s)

end Sys2Proof.Machine
end

