-- ==== Sys2Proof/Machine/Firmware.lean ====
section
/-! DEFINITION. Armature firmware (R382, R383, R426 to R440, R470, R471): staging, restarts, activation, probation, watchdogs
and the persistent error ring. -/

namespace Sys2Proof.Machine

open Sys2Proof

/-! ## Images -/

/-- The interface levels of a set of images have one in common (R438). -/
def levelsMeet (is : List Image) : Bool :=
  decide (is.foldl (fun m i => max m i.ifMin) 0 ≤ is.foldl (fun m i => min m i.ifMax) 65535)

/-- The images that would run after the banks in `banks` are activated. -/
def State.imagesAfter (s : State) (banks : List Nat) : List Image :=
  (List.range 8).filterMap (fun b => if banks.contains b then (s.proc b).staged else (s.proc b).current)

/-- Banks a processor mask names. -/
def banksOf (mask : Nat) : List Nat := (List.range 8).filter (fun b => if b = 7 then mask / 128 % 16 != 0 else bit mask b)

/-- The processors to restart, in ascending order with HIF last (R383): DCTL0 to DCTL3 follow from bank 7 (R438). -/
def restartCodes (mask : Nat) : List Nat := (List.range 11).filter (fun c => c != 0 && bit mask c) ++ (if bit mask 0 then [0] else [])
def activateCodes (banks : List Nat) : List Nat :=
  ((List.range 11).filter (fun c => c != 0 && banks.contains (bankOf c))) ++ (if banks.contains 0 then [0] else [])

/-! ## Emergency flags (R383) -/

def State.flagSet (s : State) : Bool := s.power.thermal || s.power.overPower

/-- No flag is set, and none has been for 1 s. -/
def State.calm (s : State) : Bool := !s.flagSet && (s.power.clearAt == 0 || decide (s.power.clearAt + 1000000000 ≤ s.now))

/-! ## A restart (R434, R410) -/

/-- Steps 1 and 2: an FW_STAGE ends when SEC restarts. -/
def State.beginRestart (s : State) (c cause start : Nat) : State :=
  let s1 := if c = pSEC then s.endStages else s
  (s1.modProc c (fun x => { x with ready := false, restart := some (cause, start) })).trace c 0 cause 0 0

/-- Adds a pause to the deadlines of commands whose opcode waits for a processor. -/
def State.pauseCmds (s : State) (q : Nat → Bool) (d : Nat) : State :=
  { s with slots := s.slots.map (fun e => if e.2.cmd.live && q e.2.cmd.opcode then (e.1, { e.2 with cmd := { e.2.cmd with paused := e.2.cmd.paused + d } }) else e) }

/-- The pauses of R410 for what waited on a processor: everything with host contact for HIF, the partitions of its die for a
DCTL, those in a domain for FAB, the commands of MGT and SEC. -/
def State.pauseFor (s : State) (c d : Nat) : State :=
  if c = pHIF then
    forEach allParts (s.pausePart 0 d) (fun p st => (st.pausePart p d).modFn p (fun x => { x with lastBeat := x.lastBeat + d }))
  else if c = pMGT then s.pauseCmds (fun op => op == opGET_SURVEY || op == opLOG_READ || op == opTRACE_SET) d
  else if c = pSEC then s.pauseCmds (fun op => op == opFW_STAGE) d
  else if c = pFAB then forEach s.partsInDomain s (fun p st => st.pausePart p d)
  else if 7 ≤ c then forEach (s.partsOfDie (c - 7)) s (fun p st => st.pausePart p d)
  else s

/-- BAR0 writes queued while HIF restarted, in order. -/
def State.drainBar (s : State) : State :=
  let held := s.link.heldBar
  forEach held { s with link := { s.link with heldBar := [] } } (fun w st => if st.barOpen w.1 then (st.access w.1).barWrite w.1 w.2.1 w.2.2 else st)

/-! ## Sequences (R383, R438, R440) -/

/-- Ends the sequence under way; a command's reply carries the processors done. -/
def State.endSeq (s : State) (q : FwSequence) (status : Nat) : State :=
  let s1 := { s with fwSeqs := s.fwSeqs.drop 1 }
  if q.mode = 2 then s1
  else (s1.modCmd q.fn q.slot (fun c => { c with result := [BitVec.ofNat 64 q.done] })).finishCmd q.fn q.slot status

/-- CURRENT becomes PREVIOUS, STAGED becomes CURRENT and is on probation, with its event. -/
def State.swapIn (s : State) (b mode : Nat) : State :=
  let x := s.proc b
  let s1 := s.setProc b { x with previous := x.current, current := x.staged, staged := none, armed := false, probation := some s.now }
  s1.eventAll pSEC s1.partsPresent 0x0008 b ((x.staged.map (·.version)).getD 0) mode ((x.current.map (·.version)).getD 0) 0

/-- Starts the next restart of the sequence under way, or ends it. It waits while any processor restarts. A set emergency flag
ends an activation before its next bank, whose image and the rest stay staged and armed, and forbids a restart of PWR. -/
def State.pump (s : State) : State :=
  match s.fwSeqs with
  | [] => s
  | q :: _ =>
    if (List.range 11).any (fun c => !s.procUp c) then s
    else match q.codes with
      | [] => s.endSeq q stOK
      | c :: _ =>
        let fresh := q.mode ≠ 0 && c ≤ 7
        if fresh && s.flagSet then
          (forEach (q.codes.map bankOf) s (fun b st => st.modProc b (fun x => { x with armed := x.staged.isSome }))).endSeq q stEMERGENCY_ACTIVE
        else if q.mode = 0 ∧ c = pPWR ∧ s.flagSet then s.endSeq q stEMERGENCY_ACTIVE
        else
          let s1 := if fresh then s.swapIn c q.mode else s
          ({ s1 with fwSeqs := { q with began := true } :: s1.fwSeqs.drop 1 }).beginRestart c (if q.mode = 0 then 1 else 3) s.now

/-- Notes in the sequence under way that a processor has restarted. -/
def State.seqDone (s : State) (c : Nat) : State :=
  match s.fwSeqs with
  | q :: qs =>
    if q.began && q.codes.head? == some c then
      { s with fwSeqs := { q with codes := q.codes.drop 1, done := q.done ||| 2 ^ c, began := false } :: qs }
    else s
  | [] => s

/-- Steps 3 and 4 of a restart: READY. -/
def State.readyNow (s : State) (c cause start : Nat) : State :=
  let d := s.now - start
  let (r, s0) := s.fresh
  let v := (((s.proc (bankOf c)).current).map (·.version)).getD 0
  let s1 := (s0.trace pSEC 8 c v (r % 60000001)).modProc c (fun x => { x with ready := true, restart := none, lastReady := s.now })
  let s2 := (s1.trace c 1 d 0 0).eventAll c s1.partsPresent 0x0009 c cause d 0 0
  let s3 := s2.pauseFor c d
  let s4 := if c = pHIF then s3.drainBar else s3
  (s4.seqDone c).pump

/-- Whether PREVIOUS of a bank may run (R439). -/
def State.mayFallBack (s : State) (b : Nat) : Bool :=
  match (s.proc b).previous with
  | some g => decide (s.sec.rollback ≤ g.svn)
  | none => false

/-- A swap back (R439): PREVIOUS runs again, every processor of the bank restarts, and an activation under way stops with
DATA_ERROR. -/
def State.swapBackNow (s : State) (b : Nat) : State :=
  let s1 := s.fallBack b
  let s2 := match s1.fwSeqs with
    | q :: _ =>
      if q.mode = 0 then s1
      else s1.endSeq { q with done := ((List.range 11).filter (fun c => bit q.done c && bankOf c != b)).foldl (fun m c => m + 2 ^ c) 0 } stDATA_ERROR
    | [] => s1
  forEach ((List.range 11).filter (fun c => bankOf c == b)) s2 (fun c st => st.beginRestart c 3 st.now)

/-- PROCESSOR_RESTART: the image of a processor in restart verifies and it reaches READY; one that does not verify is replaced
by PREVIOUS, and with none to fall back on the module is FATAL (R404, R439, R442). -/
def execProcessorRestart (code : Nat) (verified : Bool) (s : State) : Out :=
  .next (match (s.proc code).restart with
  | none => s
  | some (cause, start) =>
    if !s.hubOn || s.now < start || (code != pSEC && !s.procUp pSEC) then s
    else if verified then s.readyNow code cause start
    else if s.mayFallBack (bankOf code) then
      (s.error pSEC { cls := cPROCESSOR, unit := 12, unitId := code }).swapBackNow (bankOf code)
    else s.enterFatal pSEC 12 code)

/-- Longest duration of a restart in ns (R434). -/
def restartNs (c : Nat) : Nat :=
  (if c = pHIF then 50 else if c = pSEC then 150 else if c = pPWR then 20 else if c = pFAB then 80 else if c = pFTL0 ∨ c = pFTL1 then 400
   else if c = pMGT then 30 else 40) * 1000000

/-- SWAP_BACK: an image on probation restarted by watchdog, or not READY within twice its restart time. -/
def execSwapBack (code : Nat) (s : State) : Out :=
  .next (match (s.proc code).restart with
  | none => s
  | some (cause, start) =>
    if s.hubOn && (s.proc (bankOf code)).probation.isSome && s.mayFallBack (bankOf code) && (cause == 2 || decide (start + 2 * restartNs code ≤ s.now)) then
      s.swapBackNow (bankOf code)
    else s)

/-- PROCESSOR_WATCHDOG (R436): an error record and a restart, which begins 10 s after the previous one ended once the processor
is marked FW_UNSTABLE. -/
def execProcessorWatchdog (code : Nat) (s : State) : Out :=
  .next (if code < 11 && s.hubOn && s.procUp code then
    let x := s.proc code
    let recent := s.now :: x.resets.filter (fun t => decide (s.now < t + 600000000000))
    let s1 := (s.error code { cls := cPROCESSOR, unit := 12, unitId := code }).setProc code
      { x with resets := recent, watchdogs := x.watchdogs + 1, unstable := x.unstable || decide (3 ≤ recent.length) }
    s1.beginRestart code 2 (if x.unstable then max s.now (x.lastReady + 10000000000) else s.now)
  else s)

/-- FW_UNSTABLE_CLEAR. -/
def execFwUnstableClear (code : Nat) (s : State) : Out :=
  let x := s.proc code
  .next (if x.unstable && decide (x.resets.headD 0 + 600000000000 ≤ s.now) then s.setProc code { x with unstable := false } else s)

/-! ## Staging (R382, R469, R470) -/

/-- Bytes as a natural number and whether a range is zero. -/
def allZero (m : BMap) (o n : Nat) : Bool := (BMap.readBytes m o n).all (· == 0)

/-- The checks of R470 in order on an image with its trailer: 0 when all pass. -/
def State.imageStatus (s : State) (code total : Nat) (m : BMap) : Nat :=
  let n := BMap.readLe m 12 4
  let key := BMap.readLe m (n + 4) 1
  let pub := BMap.readBytes m (n + 16) 96
  if BMap.readLe m 0 4 ≠ 0x4D524157 ∨ BMap.readLe m 4 1 ≠ bankOf code ∨ n + 256 ≠ total ∨ n < 64 ∨ 64 ≤ BMap.readLe m 5 1 ∨
      !allZero m 6 2 ∨ !allZero m 20 44 then stBAD_PARAM
  else if BMap.readLe m n 4 ≠ 0x52544753 ∨ 4 ≤ key ∨ !allZero m (n + 5) 11 ∨ !allZero m (n + 208) 48 ∨ s.sec.revoked.getLsbD key ∨
      sha384 pub ≠ Tbl.get 0 s.sec.vendorHash key then stBAD_PARAM
  else if !ecdsaOk pub (BMap.readBytes m (n + 112) 96) (BMap.readBytes m 0 n) then stBAD_PARAM
  else if BMap.readLe m 5 1 < s.sec.rollback then stDENIED
  else 0

/-- The image as its bank records it. -/
def imageOf (total : Nat) (m : BMap) : Image :=
  { svn := BMap.readLe m 5 1, version := BMap.readLe m 8 4, ifMin := BMap.readLe m 16 2, ifMax := BMap.readLe m 18 2
    digest := sha384 (BMap.readBytes m 0 total), body := sha384 (BMap.readBytes m 0 (BMap.readLe m 12 4)) }

/-- What an FW_STAGE ends with before it reads: 0 to go on. -/
def State.stageCheck (s : State) (f : Nat) (c : Cmd) : Nat :=
  if 10 < c.param 0 8 ∨ c.param 8 8 % 8 ≠ 0 ∨ 2 ^ 63 ≤ c.param 8 8 ∨ 8388608 < c.param 16 4 ∨ c.param 16 4 < 320 ∨ c.param 20 4 ≠ 0 then stBAD_PARAM
  else if s.staging.any (fun x => x.1 == bankOf (c.param 0 1)) then stBUSY
  else s.hostStatus f

/-- Verifies an image read whole and puts it in its STAGED bank; an armed processor stays armed (R440). -/
def State.stageOn (s : State) (f n : Nat) : State :=
  let c := s.cmd f n
  let code := c.param 0 1
  let total := c.param 16 4
  if c.reads ≠ 0 ∨ !s.procUp pSEC then s
  else
    let s1 := { s with staging := s.staging.filter (fun x => x.2 != (f, n)) }
    let st := if c.failed ≠ 0 then c.failed else s1.imageStatus code total c.buf
    if st ≠ 0 then s1.finishCmd f n st
    else
      let i := imageOf total c.buf
      let (r, s2) := (s1.modProc (bankOf code) (fun x => { x with staged := some i })).fresh
      (s2.trace pSEC 8 code i.version (r % 60000001)).replyOk f n [i.version]

/-- FW_STAGE: waits while an activation that names the processor has not passed it, then reads, verifies and stages. -/
def execFwStage (fn slot : Nat) (s : State) : Out :=
  let go := fun (st : State) =>
    let c := st.cmd fn slot
    let b := bankOf (c.param 0 1)
    let e := st.stageCheck fn c
    if e ≠ 0 then st.finishCmd fn slot e
    else
      let s1 := if c.phase = .running then st else st.beginCmd fn slot
      if s1.fwSeqs.any (fun q => q.mode != 0 && q.codes.any (fun k => bankOf k == b)) then s1
      else (({ s1 with staging := s1.staging ++ [(b, fn, slot)] }).modCmd fn slot (fun x => { x with stage := 2 })).hostRead fn
        (c.param 8 8) (c.param 16 4) (.command fn slot)
  .next (if s.canTake fn slot opFW_STAGE then go (s.take fn slot)
    else if s.inRun fn slot opFW_STAGE then (if (s.cmd fn slot).stage = 2 then s.stageOn fn slot else go s)
    else s)

/-! ## Activation and restart commands -/

/-- FW_ACTIVATE: a second one waits for the first. -/
def execFwActivate (fn slot : Nat) (s : State) : Out :=
  takeWaiting s fn slot opFW_ACTIVATE (fun st => if 2048 ≤ (st.cmd fn slot).param 0 8 then stBAD_PARAM else 0) (fun st => !st.fwSeqs.isEmpty)
    (fun st =>
      let banks := banksOf ((st.cmd fn slot).param 0 2)
      if banks.any (fun b => (st.proc b).staged.isNone) || !levelsMeet (st.imagesAfter banks) then st.finishCmd fn slot stBAD_PARAM
      else if !st.calm then
        (forEach banks st (fun b s1 => s1.modProc b (fun x => { x with armed := true }))).finishCmd fn slot stEMERGENCY_ACTIVE
      else ({ st with fwSeqs := [{ codes := activateCodes banks, mode := 1, fn := fn, slot := slot }] }).pump)

/-- FW_RESTART: one sequence runs at a time. -/
def execFwRestart (fn slot : Nat) (s : State) : Out :=
  takeWaiting s fn slot opFW_RESTART (fun st => if 2048 ≤ (st.cmd fn slot).param 0 8 then stBAD_PARAM else 0) (fun st => !st.fwSeqs.isEmpty)
    (fun st =>
      let mask := (st.cmd fn slot).param 0 2
      if bit mask pPWR && st.flagSet then st.finishCmd fn slot stEMERGENCY_ACTIVE
      else ({ st with fwSeqs := [{ codes := restartCodes mask, mode := 0, fn := fn, slot := slot }] }).pump)

/-- ARMED_ACTIVATION: runs as an FW_ACTIVATE of the armed processors, without a reply. -/
def execArmedActivation (s : State) : Out :=
  let banks := (List.range 8).filter (fun b => (s.proc b).armed)
  .next (if s.hubOn && s.calm && s.fwSeqs.isEmpty && !banks.isEmpty && banks.all (fun b => (s.proc b).staged.isSome) && levelsMeet (s.imagesAfter banks) then
    ({ s with fwSeqs := [{ codes := activateCodes banks, mode := 2 }] }).pump
  else s)

/-! ## Probation (R439, R471) -/

/-- The smallest SVN among the CURRENT images of the eight kinds. -/
def State.leastSvn (s : State) : Nat :=
  (List.range 8).foldl (fun m b => min m ((((s.proc b).current).map (·.svn)).getD 0)) 64

/-- PROBATION_END: 60 s after activation SEC raises ROLLBACK to the smallest SVN; a bit that does not burn stops the advance
with the bits already blown, how many being free. -/
def execProbationEnd (code : Nat) (burnFails : Bool) (s : State) : Out :=
  let b := bankOf code
  .next (match (s.proc b).probation with
  | none => s
  | some t =>
    if !s.hubOn || !s.procUp pSEC || s.now < t + 60000000000 || (List.range 11).any (fun c => bankOf c == b && !s.procUp c) then s
    else
      let s1 := s.modProc b (fun x => { x with probation := none })
      let m := s1.leastSvn
      if m ≤ s1.sec.rollback then s1
      else if burnFails then
        let (r, s2) := s1.fresh
        ({ s2 with sec := { s2.sec with rollback := s2.sec.rollback + r % (m - s2.sec.rollback) } }).error pSEC { cls := cPROCESSOR, unit := 12, unitId := pSEC }
      else { s1 with sec := { s1.sec with rollback := m } })

/-! ## The persistent ring (R432) -/

/-- PERSISTENT_COPY: MGT copies an error entry that is due; the ring holds 4,096 records. -/
def execPersistentCopy (seq : Nat) (s : State) : Out :=
  .next (if s.hubOn && s.procUp pMGT && s.log.toPersist.contains seq then
    let due := s.log.entries.filterMap (fun e => if e.seq = seq then (match e.body with | .error r => some r | _ => none) else none)
    let all := s.log.persistent ++ due.take 1
    { s with log := { s.log with persistent := all.drop (all.length - 4096), toPersist := s.log.toPersist.erase seq } }
  else s)

end Sys2Proof.Machine
end

