-- ==== Sys2Proof/Machine/Spdm.lean ====
section
/-! DEFINITION. SPDM over each function's DOE mailbox (R472 to R476) and the service port (R483). Request, response and error
codes, and the order of a connection, are those of DMTF SPDM, which R472 names (PRESUMED). -/

namespace Sys2Proof.Machine

open Sys2Proof

/-! ## Requests and responses -/

/-- Whether a function's DOE mailbox is served: the link is up, no FLR of it is under way, SEC is READY (R434, R476). -/
def State.doeOpen (s : State) (f : Nat) : Bool := f < 9 && s.link.up && (s.fn f).flrStart.isNone && s.hubOn && s.procUp pSEC

def State.modSpdm (s : State) (f : Nat) (g : Spdm → Spdm) : State := s.modFn f (fun x => { x with spdm := g x.spdm })

/-- A response: its code and what it names. -/
def State.respond (s : State) (f : Nat) (r : List Nat) : State := s.modSpdm f (fun x => { x with reply := r })

/-- ErrorCodes of an ERROR response. -/
def eInvalid : Nat := 0x01
def eUnexpected : Nat := 0x04
def eUnspecified : Nat := 0x05
def eDecrypt : Nat := 0x06
def eSessions : Nat := 0x0A
def State.respondError (s : State) (f code : Nat) : State := s.respond f [0x7F, code]

/-- A response that carries a value the module does not fix: a signature, a key share, a certificate chain. -/
def State.respondFresh (s : State) (f : Nat) (r : List Nat) : State :=
  ({ s with free := s.free + 1 }).modSpdm f (fun x => { x with reply := r, digest := Config.spdmBytes s.free })

/-- The label under which a function's key is derived from CDI_SEC: the alias key's for PF0, the partition key's for PFn (R467, R473). -/
def State.keyLabel (s : State) (f : Nat) : List Byte :=
  if f = 0 then ascii "ALIAS" else ascii "PART" ++ natLe f 1 ++ natLe (Tbl.get 0 s.sec.ptGen f).toNat 4

/-- A function's private key; none once zeroised. -/
def State.signingKey (s : State) (f : Nat) : Option Nat :=
  s.sec.cdi.map (fun c => privateKey (natBe 48 c.toNat) (s.keyLabel f) 256 0)

/-- A response signed with the function's own key (R473). With the keys zeroised (R481) it is an ERROR whose code is a free value. -/
def State.respondSigned (s : State) (f : Nat) (r : List Nat) : State :=
  if s.sec.cdi.isSome then (s.respondFresh f r).modSpdm f (fun x => { x with signer := s.keyLabel f })
  else s.fresh.2.respondError f (s.fresh.1 % 256)

/-- A request of a function: SEC passes its trace point and answers it. -/
def doeOp (s : State) (f code : Nat) (body : State → State) : Out :=
  .next (if s.doeOpen f then body (s.trace pSEC 9 f code 0) else s)

/-- Whether a function has a chain to answer with: PF0, and PFn while its partition exists (R473). -/
def State.hasChain (s : State) (f : Nat) : Bool := f == 0 || (s.part f).isPresent

/-- A request that follows a negotiated connection. -/
def connectedOp (s : State) (f code : Nat) (body : State → State) : Out :=
  doeOp s f code (fun st => if (st.fn f).spdm.algs then body st else st.respondError f eUnexpected)

/-! ## The connection -/

/-- GET_VERSION: 1.3 only; it begins a connection. Sessions stay, for R476 lists all that ends them. -/
def execGetVersion (fn : Nat) (s : State) : Out :=
  doeOp s fn 0x84 (fun st => st.modSpdm fn (fun x => { x with version := true, caps := false, algs := false, reply := [0x04, 0x13] }))

/-- GET_CAPABILITIES: CTExponent 17, messages of at most 4,096 bytes. -/
def execGetCapabilities (fn : Nat) (s : State) : Out :=
  doeOp s fn 0xE1 (fun st =>
    if (st.fn fn).spdm.version && !(st.fn fn).spdm.caps then st.modSpdm fn (fun x => { x with caps := true, reply := [0x61, 17, 4096] })
    else st.respondError fn eUnexpected)

/-- NEGOTIATE_ALGORITHMS: the one choice of each kind of R472. -/
def execNegotiateAlgorithms (fn : Nat) (s : State) : Out :=
  doeOp s fn 0xE3 (fun st =>
    if (st.fn fn).spdm.caps && !(st.fn fn).spdm.algs then st.modSpdm fn (fun x => { x with algs := true, reply := [0x63] })
    else st.respondError fn eUnexpected)

/-! ## Certificates and measurements -/

/-- GET_DIGESTS: slot 0, or no populated slot while the partition does not exist (R473). -/
def execGetDigests (fn : Nat) (s : State) : Out :=
  connectedOp s fn 0x81 (fun st => if st.hasChain fn then st.respondFresh fn [0x01, 1] else st.respond fn [0x01, 0])

/-- GET_CERTIFICATE: the chain of slot 0 (R468). While the partition does not exist the error is a free value. -/
def execGetCertificate (fn : Nat) (s : State) : Out :=
  connectedOp s fn 0x82 (fun st =>
    if st.hasChain fn then st.respondFresh fn [0x02, 0]
    else
      let (r, s1) := st.fresh
      s1.respondError fn (r % 256))

/-- CHALLENGE: signed with the function's key (R473). -/
def execChallenge (fn : Nat) (s : State) : Out :=
  connectedOp s fn 0x83 (fun st => if st.hasChain fn then st.respondSigned fn [0x03, 0] else st.respondError fn eUnspecified)

/-- The bytes of a SHA-384 digest, first byte first. -/
def digestBytes (d : BitVec 384) : List Nat := (List.range 48).map (fun i => d.toNat / 2 ^ (376 - 8 * i) % 256)

/-- Little-endian bytes as numbers. -/
def leBytes (v n : Nat) : List Nat := (natLe v n).map BitVec.toNat

/-- A measurement block (R474): its bytes, none for an index the function does not report. -/
def State.measurement (s : State) (f i : Nat) : Option (List Nat) :=
  if i = 1 then some (leBytes s.sec.romVersion.toNat 4)
  else if 2 ≤ i ∧ i ≤ 9 then some (digestBytes (((s.proc (i - 2)).current.map (·.digest)).getD 0))
  else if i = 10 then some ([s.sec.rollback % 256, s.sec.revoked.toNat] ++ List.replicate 6 0)
  else if i = 11 ∧ f ≠ 0 then
    let x := s.part f
    some ([f, (s.policyZ f).toNat] ++ leBytes x.domain 2 ++ [x.fabIndex % 256, 0, 0, 0] ++ leBytes (Tbl.get 0 s.sec.ptGen f).toNat 4 ++
      leBytes x.sections.toNat 2 ++ leBytes x.extents.length 2 ++ leBytes x.hbm.toNat 4 ++ List.replicate 12 0)
  else if i = 12 then
    some [s.sec.openSince.toNat + 2 * s.sec.unlocked.isSome.toNat + 4 * s.sec.zeroised.toNat, 0, 0, 0]
  else none

/-- GET_MEASUREMENTS: index 0 asks for the number of blocks, 0xFF for all of them; every block as of one instant. -/
def execGetMeasurements (fn index : Nat) (s : State) : Out :=
  connectedOp s fn 0xE0 (fun st =>
    let all := (List.range 13).filterMap (fun i => (st.measurement fn i).map (fun b => i :: b))
    if !st.hasChain fn then st.respondError fn eUnspecified
    else if index = 0 then st.respondFresh fn [0x60, all.length]
    else if index = 0xFF then st.respondFresh fn (0x60 :: all.length :: all.flatMap id)
    else match st.measurement fn index with
      | some b => st.respondFresh fn (0x60 :: 1 :: index :: b)
      | none => st.respondError fn eInvalid)

/-! ## Sessions -/

/-- KEY_EXCHANGE: opens a session, up to two of a function (R472); sessions are numbered 0 and 1. -/
def execKeyExchange (fn : Nat) (s : State) : Out :=
  connectedOp s fn 0xE4 (fun st =>
    if !st.hasChain fn || st.sec.cdi.isNone then
      let (r, s1) := st.fresh
      s1.respondError fn (r % 256)
    else match [0, 1].find? (fun k => Tbl.get 0 (st.fn fn).spdm.sessions k == 0) with
      | none => st.respondError fn eSessions
      | some k =>
        (st.modSpdm fn (fun x => { x with sessions := Tbl.set 0 x.sessions k 1, keyGen := Tbl.set 0 x.keyGen k 0 })).respondSigned fn [0x64, k])

/-- A request inside an established session. -/
def sessionOp (s : State) (f session code : Nat) (body : State → State) : Out :=
  doeOp s f code (fun st => if Tbl.get 0 (st.fn f).spdm.sessions session = 2 then body st else st.respondError f eUnexpected)

/-- FINISH: a handshake whose MAC agrees is established; one whose MAC does not ends. -/
def execFinish (fn session : Nat) (macOk : Bool) (s : State) : Out :=
  doeOp s fn 0xE5 (fun st =>
    if Tbl.get 0 (st.fn fn).spdm.sessions session ≠ 1 then st.respondError fn eUnexpected
    else if macOk then st.modSpdm fn (fun x => { x with sessions := Tbl.set 0 x.sessions session 2, reply := [0x65, session] })
    else (st.modSpdm fn (fun x => { x with sessions := Tbl.set 0 x.sessions session 0 })).respondError fn eDecrypt)

/-- HEARTBEAT. -/
def execHeartbeat (fn session : Nat) (s : State) : Out :=
  sessionOp s fn session 0xE8 (fun st => st.respond fn [0x68, session])

/-- KEY_UPDATE: the session's next keys. -/
def execKeyUpdate (fn session : Nat) (s : State) : Out :=
  sessionOp s fn session 0xE9 (fun st => st.modSpdm fn (fun x =>
    { x with keyGen := Tbl.set 0 x.keyGen session (Tbl.get 0 x.keyGen session + 1), reply := [0x69, session] }))

/-- END_SESSION. -/
def execEndSession (fn session : Nat) (s : State) : Out :=
  sessionOp s fn session 0xEC (fun st => st.modSpdm fn (fun x =>
    { x with sessions := Tbl.set 0 x.sessions session 0, keyGen := Tbl.set 0 x.keyGen session 0, reply := [0x6C, session] }))

/-! ## The service port (R483) -/

/-- SVC_CHALLENGE: a nonce from the generator, valid for 60 s and one use. -/
def execSvcChallenge (s : State) : Out :=
  doeOp s 0 0xFE (fun st =>
    let n := Config.random384 st.free
    let s1 : State := { st with free := st.free + 1, sec := { st.sec with nonce := some (n, st.now) } }
    s1.modSpdm 0 (fun x => { x with reply := [0x7E], digest := n }))

/-- Whether step 4 of R481 has completed with the cover still open. -/
def State.serviceReady (s : State) : Bool := s.power.fatal && s.sec.coverOpen && s.sec.openSince

/-- Whether an unlock is good: the nonce stands, the key is a service key, the signature covers nonce, MODULE_ID and SCOPE; the
bits of SCOPE that no row of R483 gives are reserved. -/
def State.unlockGood (s : State) (scope : BitVec 8) (key sig : List Byte) : Bool :=
  match s.sec.nonce with
  | none => false
  | some (n, t) =>
    decide (s.now ≤ t + 60000000000) && decide (scope.toNat < 16) &&
    [0, 1].any (fun i => sha384 key == Tbl.get 0 s.sec.serviceHash i) &&
    ecdsaOk key sig ((digestBytes n).map (BitVec.ofNat 8) ++ natLe s.sec.moduleId.toNat 8 ++ [scope])

/-- SVC_UNLOCK: grants SCOPE, or returns ERROR; three failures in a row begin 60 s in which unlocks are refused. -/
def execSvcUnlock (scope : BitVec 8) (publicKey signature : List Byte) (s : State) : Out :=
  doeOp s 0 0xFE (fun st =>
    if st.sec.lockout.isSome then st.respondError 0 eUnspecified
    else
      let good := st.serviceReady && st.unlockGood scope publicKey signature
      let k := st.sec.failures + 1
      let s1 : State := { st with sec := { st.sec with nonce := none } }
      if good then ({ s1 with sec := { s1.sec with unlocked := some scope, failures := 0 } }).respond 0 [0x7E]
      else ({ s1 with sec := { s1.sec with failures := k, lockout := if 3 ≤ k then some s1.now else none } }).respondError 0 eUnspecified)

/-- Whether a contact of the service port is connected (R497): ground always, the others by the scope granted. -/
def State.serviceContact (s : State) (n : Nat) : Bool :=
  let has := fun i => (s.sec.unlocked.map (fun sc => sc.getLsbD i)).getD false
  if n = 1 ∨ n = 4 ∨ n = 9 then s.sec.unlocked.isSome
  else if n = 2 ∨ n = 3 then has 0 || has 1
  else (n = 10 || decide (5 ≤ n) && decide (n ≤ 8)) && has 2

/-- UNLOCK_LOCKOUT_END. -/
def execUnlockLockoutEnd (s : State) : Out :=
  .next (match s.sec.lockout with
  | none => s
  | some t => if t + 60000000000 ≤ s.now then { s with sec := { s.sec with lockout := none, failures := 0 } } else s)

end Sys2Proof.Machine
end

