-- ==== Sys2Proof/Machine/Sideband.lean ====
section
/-! DEFINITION. The sideband: the SMBus target and its management registers, the alert response, and the address matcher
(R455, R456, R490 to R495). -/

namespace Sys2Proof.Machine

open Sys2Proof

/-- The 7-bit management address (R493). -/
def State.smbAddress (s : State) : Nat := 0x58 + s.side.slotId.toNat

/-- Whether the target serves transactions: the MGMT clock runs, in MS0 and again once a wake from MS3 is under way (R455,
R492). -/
def State.smbServes (s : State) : Bool := s.power.state == .ms0 || (s.power.state == .ms3 && s.power.regs.phase == 2)

/-! ### Output contacts (R492) -/

/-- ALERT_N low, THERM_N low, and DEV_READY, which is not driven without power. -/
def State.alertPin (s : State) : Bool := (s.power.state == .ms0 || s.power.state == .ms3) && s.side.alertLow
def State.thermPin (s : State) : Bool := s.power.state != .unpowered && s.power.state != .ms4 && s.side.thermLow
def State.readyPin (s : State) : Option Bool := if s.power.state == .unpowered then none else some s.power.devReady

/-- Highest stack temperature, as the field holds it. -/
def State.hottest (s : State) : Nat := s.hbm.foldl (fun m e => max m e.2.temperature) 0

/-- The fields of R494 at a command code, 16 bits wide; an undefined code reads 0. The coolant sensors are free values of the
moment. -/
def State.smbReg (s : State) (code : Nat) : Nat :=
  if code = 0x00 then stepping
  else if code = 0x01 then stateCode s.power.state + 8 * s.power.devReady.toNat + 16 * s.power.fatal.toNat
  else if code = 0x02 then
    s.power.thermal.toNat + 2 * s.power.overPower.toNat + 4 * s.flash.wearWarn.toNat +
      8 * (s.hbm.any (fun e => e.2.mode == .failed) || s.secOut != 0).toNat
  else if code = 0x03 then s.side.slotId.toNat
  else if code = 0x04 then s.power.mW100 / 1000 % 65536
  else if code = 0x06 then s.power.inletMv / 10 % 65536
  else if code = 0x08 then s.hottest % 65536
  else if code = 0x0A ∨ code = 0x0C then Config.freeNat s.free % 65536
  else 0

/-- A read transaction: the value is taken when the command byte is received. -/
def State.smbRead (s : State) (v : Nat) : State :=
  { s with free := s.free + 1, side := { s.side with answer := BitVec.ofNat 16 v, nacked := false, busy := false } }

/-- READ_BYTE: of a 16-bit field the low byte. -/
def execReadByte (code : BitVec 8) (s : State) : Out :=
  .next (if s.smbServes then s.smbRead (s.smbReg code.toNat % 256) else s)

/-- READ_WORD. -/
def execReadWord (code : BitVec 8) (s : State) : Out :=
  .next (if s.smbServes then s.smbRead (s.smbReg code.toNat) else s)

/-- SMBUS_WRITE: every write and every other protocol is NACKed at its command byte. -/
def execSmbusWrite (_command : BitVec 8) (s : State) : Out :=
  .next (if s.smbServes then { s with side := { s.side with nacked := true, busy := false } } else s)

/-- SMBUS_ADDRESS_MATCH: in MS0 a transaction begins; in MS3 and MS4 it is NACKed and wakes the module, but in the 60 ns after
the matcher is armed it is lost (R456); in start-up it is NACKed. -/
def execSmbusAddressMatch (address : BitVec 7) (s : State) : Out :=
  let nack : State := { s with side := { s.side with nacked := true } }
  .next (if address.toNat ≠ s.smbAddress then s
  else match s.power.state with
  | .unpowered => s
  | .starting => nack
  | .ms0 => { s with side := { s.side with busy := true, nacked := false } }
  | .ms3 =>
    if s.power.regs.phase = 2 then { s with side := { s.side with busy := true, nacked := false } }
    else if (s.power.winFrom.map (fun t => decide (s.now < t + 60))).getD false then s
    else nack.wakeSource 0x62
  | .ms4 => nack.wakeSource 0x62)

/-- Whether THERMAL, POWER or FATAL is set. -/
def State.alertStands (s : State) : Bool := s.power.thermal || s.power.overPower || s.power.fatal

/-- ALERT_RESPONSE_ADDRESS: a module that drives ALERT_N returns its address and releases it. -/
def execAlertResponseAddress (s : State) : Out :=
  .next (if s.smbServes && s.side.alertLow then
    { s with side := { s.side with answer := BitVec.ofNat 16 s.smbAddress, alertLow := false, alertAt := some s.now, nacked := false, busy := false } }
  else s)

/-- ALERT_REASSERT: 1 ms later, while a flag or FATAL is still set. -/
def execAlertReassert (s : State) : Out :=
  .next (match s.side.alertAt with
  | none => s
  | some t =>
    if s.now < t + 1000000 then s
    else if s.alertStands then s.alert
    else { s with side := { s.side with alertAt := none } })

/-- CLOCK_LOW_TIMEOUT: a clock held low for 35 ms ends the transaction in progress, one held for less than 25 ms does not;
between the two, whether it does is a free value. -/
def execClockLowTimeout (heldUs : Nat) (s : State) : Out :=
  let (r, s1) := s.fresh
  .next (if s.side.busy && (35000 ≤ heldUs || (25000 ≤ heldUs && r % 2 == 1)) then { s1 with side := { s1.side with busy := false } } else s1)

end Sys2Proof.Machine
end

