-- ==== Sys2Proof/Machine/Dispatch.lean ====
section
/-! DEFINITION. One arm for each command: its meaning, called by its full name. -/

namespace Sys2Proof.Machine

open Sys2Proof

def exec (i : Instr) (s : State) : Host.Outcome State Fault Refusal :=
  match i with
  | .slotSubmit fn slot wide value => Sys2Proof.Machine.execSlotSubmit fn slot wide value s
  | .slotRelease fn slot => Sys2Proof.Machine.execSlotRelease fn slot s
  | .registerWrite fn offset data => Sys2Proof.Machine.execRegisterWrite fn offset data s
  | .lowHalfRead fn offset => Sys2Proof.Machine.execLowHalfRead fn offset s
  | .hostAlive fn value => Sys2Proof.Machine.execHostAlive fn value s
  | .logCursor fn value => Sys2Proof.Machine.execLogCursor fn value s
  | .snap fn => Sys2Proof.Machine.execSnap fn s
  | .powerWake fn => Sys2Proof.Machine.execPowerWake fn s
  | .enterMs2 fn event => Sys2Proof.Machine.execEnterMs2 fn event s
  | .enterMs3 event => Sys2Proof.Machine.execEnterMs3 event s
  | .enterMs4 event => Sys2Proof.Machine.execEnterMs4 event s
  | .nop fn slot => Sys2Proof.Machine.execNop fn slot s
  | .halt fn slot => Sys2Proof.Machine.execHalt fn slot s
  | .attach fn slot => Sys2Proof.Machine.execAttach fn slot s
  | .attachResume fn slot => Sys2Proof.Machine.execAttachResume fn slot s
  | .attachLockoutEnd fn => Sys2Proof.Machine.execAttachLockoutEnd fn s
  | .resetPartition fn slot => Sys2Proof.Machine.execResetPartition fn slot s
  | .resetModule fn slot => Sys2Proof.Machine.execResetModule fn slot s
  | .partSet fn slot => Sys2Proof.Machine.execPartSet fn slot s
  | .fabConfig fn slot => Sys2Proof.Machine.execFabConfig fn slot s
  | .tileDisable fn slot => Sys2Proof.Machine.execTileDisable fn slot s
  | .sectionDisable fn slot => Sys2Proof.Machine.execSectionDisable fn slot s
  | .drainExpire fn slot => Sys2Proof.Machine.execDrainExpire fn slot s
  | .loadProgram fn slot => Sys2Proof.Machine.execLoadProgram fn slot s
  | .run fn slot => Sys2Proof.Machine.execRun fn slot s
  | .runComplete fn slot => Sys2Proof.Machine.execRunComplete fn slot s
  | .chiselRun fn slot => Sys2Proof.Machine.execChiselRun fn slot s
  | .trainSetup fn slot => Sys2Proof.Machine.execTrainSetup fn slot s
  | .stepFence fn slot => Sys2Proof.Machine.execStepFence fn slot s
  | .stepFenceComplete fn slot => Sys2Proof.Machine.execStepFenceComplete fn slot s
  | .maquetteTake fn slot => Sys2Proof.Machine.execMaquetteTake fn slot s
  | .rollback fn slot => Sys2Proof.Machine.execRollback fn slot s
  | .rollforward fn slot => Sys2Proof.Machine.execRollforward fn slot s
  | .ctxPool fn slot => Sys2Proof.Machine.execCtxPool fn slot s
  | .ctxOpen fn slot => Sys2Proof.Machine.execCtxOpen fn slot s
  | .ctxFork fn slot => Sys2Proof.Machine.execCtxFork fn slot s
  | .ctxTruncate fn slot => Sys2Proof.Machine.execCtxTruncate fn slot s
  | .ctxFree fn slot => Sys2Proof.Machine.execCtxFree fn slot s
  | .ctxQuery fn slot => Sys2Proof.Machine.execCtxQuery fn slot s
  | .tierHint fn slot => Sys2Proof.Machine.execTierHint fn slot s
  | .tierStatus fn slot => Sys2Proof.Machine.execTierStatus fn slot s
  | .reduceScatter fn slot => Sys2Proof.Machine.execReduceScatter fn slot s
  | .allReduce fn slot => Sys2Proof.Machine.execAllReduce fn slot s
  | .allGather fn slot => Sys2Proof.Machine.execAllGather fn slot s
  | .broadcast fn slot => Sys2Proof.Machine.execBroadcast fn slot s
  | .permute fn slot => Sys2Proof.Machine.execPermute fn slot s
  | .getSurvey fn slot => Sys2Proof.Machine.execGetSurvey fn slot s
  | .logRead fn slot => Sys2Proof.Machine.execLogRead fn slot s
  | .traceSet fn slot => Sys2Proof.Machine.execTraceSet fn slot s
  | .fwStage fn slot => Sys2Proof.Machine.execFwStage fn slot s
  | .fwActivate fn slot => Sys2Proof.Machine.execFwActivate fn slot s
  | .fwRestart fn slot => Sys2Proof.Machine.execFwRestart fn slot s
  | .domainRelay fn issuer packet => Sys2Proof.Machine.execDomainRelay fn issuer packet s
  | .domainReport fn slot position status => Sys2Proof.Machine.execDomainReport fn slot position status s
  | .commandComplete fn slot => Sys2Proof.Machine.execCommandComplete fn slot s
  | .flushReadComplete fn slot => Sys2Proof.Machine.execFlushReadComplete fn slot s
  | .deadlineExpire fn slot => Sys2Proof.Machine.execDeadlineExpire fn slot s
  | .heartbeatTimeout fn => Sys2Proof.Machine.execHeartbeatTimeout fn s
  | .hostLinkLost cause => Sys2Proof.Machine.execHostLinkLost cause s
  | .hostLinkUp => Sys2Proof.Machine.execHostLinkUp s
  | .linkRecovery => Sys2Proof.Machine.execLinkRecovery s
  | .linkRecoveryEnd gts width => Sys2Proof.Machine.execLinkRecoveryEnd gts width s
  | .flr fn => Sys2Proof.Machine.execFlr fn s
  | .flrComplete fn => Sys2Proof.Machine.execFlrComplete fn s
  | .busMasterDisable fn => Sys2Proof.Machine.execBusMasterDisable fn s
  | .hostReadCompletion tag result => Sys2Proof.Machine.execHostReadCompletion tag result s
  | .hostReadTimeout tag => Sys2Proof.Machine.execHostReadTimeout tag s
  | .hostWriteAck id => Sys2Proof.Machine.execHostWriteAck id s
  | .nopInstruction tile eng => Sys2Proof.Machine.execNopInstruction tile eng s
  | .seg tile eng => Sys2Proof.Machine.execSeg tile eng s
  | .stepBoundary tile => Sys2Proof.Machine.execStepBoundary tile s
  | .loop tile eng => Sys2Proof.Machine.execLoop tile eng s
  | .replay tile eng => Sys2Proof.Machine.execReplay tile eng s
  | .endStream tile eng => Sys2Proof.Machine.execEndStream tile eng s
  | .fload tile soft => Sys2Proof.Machine.execFload tile soft s
  | .fmcast tile => Sys2Proof.Machine.execFmcast tile s
  | .multicastDeliver tile => Sys2Proof.Machine.execMulticastDeliver tile s
  | .frecv tile => Sys2Proof.Machine.execFrecv tile s
  | .fhint tile => Sys2Proof.Machine.execFhint tile s
  | .mopen tile => Sys2Proof.Machine.execMopen tile s
  | .mmask tile => Sys2Proof.Machine.execMmask tile s
  | .macc tile soft => Sys2Proof.Machine.execMacc tile soft s
  | .mclose tile => Sys2Proof.Machine.execMclose tile s
  | .vmode tile => Sys2Proof.Machine.execVmode tile s
  | .vop tile soft => Sys2Proof.Machine.execVop tile soft s
  | .vlut tile => Sys2Proof.Machine.execVlut tile s
  | .vld tile => Sys2Proof.Machine.execVld tile s
  | .vst tile => Sys2Proof.Machine.execVst tile s
  | .vstream tile => Sys2Proof.Machine.execVstream tile s
  | .vtload tile => Sys2Proof.Machine.execVtload tile s
  | .vredOpen tile => Sys2Proof.Machine.execVredOpen tile s
  | .vredPut tile => Sys2Proof.Machine.execVredPut tile s
  | .vredClose tile => Sys2Proof.Machine.execVredClose tile s
  | .vpsum tile => Sys2Proof.Machine.execVpsum tile s
  | .vseed tile => Sys2Proof.Machine.execVseed tile s
  | .sstore tile => Sys2Proof.Machine.execSstore tile s
  | .sadd tile => Sys2Proof.Machine.execSadd tile s
  | .saccw tile => Sys2Proof.Machine.execSaccw tile s
  | .scfence tile => Sys2Proof.Machine.execScfence tile s
  | .instructionComplete tile eng => Sys2Proof.Machine.execInstructionComplete tile eng s
  | .remoteSignal tile token => Sys2Proof.Machine.execRemoteSignal tile token s
  | .watchdog tile => Sys2Proof.Machine.execWatchdog tile s
  | .tileGate unit => Sys2Proof.Machine.execTileGate unit s
  | .attend atp => Sys2Proof.Machine.execAttend atp s
  | .append atp => Sys2Proof.Machine.execAppend atp s
  | .combine atp => Sys2Proof.Machine.execCombine atp s
  | .atpLoop atp => Sys2Proof.Machine.execAtpLoop atp s
  | .atpEnd atp => Sys2Proof.Machine.execAtpEnd atp s
  | .keyBlock atp job => Sys2Proof.Machine.execKeyBlock atp job s
  | .jobComplete atp => Sys2Proof.Machine.execJobComplete atp s
  | .gatePoll waiter => Sys2Proof.Machine.execGatePoll waiter s
  | .gateWatchdog atp => Sys2Proof.Machine.execGateWatchdog atp s
  | .pin atp => Sys2Proof.Machine.execPin atp s
  | .unpin atp job => Sys2Proof.Machine.execUnpin atp job s
  | .resolve atp job => Sys2Proof.Machine.execResolve atp job s
  | .switch pt ctx page => Sys2Proof.Machine.execSwitch pt ctx page s
  | .advance atp job => Sys2Proof.Machine.execAdvance atp job s
  | .memoryRead req span sensed => Sys2Proof.Machine.execMemoryRead req span sensed s
  | .blockReread addr sensed => Sys2Proof.Machine.execBlockReread addr sensed s
  | .memoryWrite req data => Sys2Proof.Machine.execMemoryWrite req data s
  | .partialWriteMerge req data first second => Sys2Proof.Machine.execPartialWriteMerge req data first second s
  | .memorySideAdd req addfmt data first second => Sys2Proof.Machine.execMemorySideAdd req addfmt data first second s
  | .regulatorAdmit stack pt => Sys2Proof.Machine.execRegulatorAdmit stack pt s
  | .refresh stack pc bank => Sys2Proof.Machine.execRefresh stack pc bank s
  | .rfm stack pc bank => Sys2Proof.Machine.execRfm stack pc bank s
  | .patrol stack first second => Sys2Proof.Machine.execPatrol stack first second s
  | .stackStartup stack outcome => Sys2Proof.Machine.execStackStartup stack outcome s
  | .temperatureReading stack point reading => Sys2Proof.Machine.execTemperatureReading stack point reading s
  | .throttleLevelExit stack => Sys2Proof.Machine.execThrottleLevelExit stack s
  | .stackRecovery stack cause => Sys2Proof.Machine.execStackRecovery stack cause s
  | .stackRecoveryEnd stack retrained => Sys2Proof.Machine.execStackRecoveryEnd stack retrained s
  | .chset stack pc setup => Sys2Proof.Machine.execChset stack pc setup s
  | .chrow stack pc row => Sys2Proof.Machine.execChrow stack pc row s
  | .chacc stack pc row col bank enable data => Sys2Proof.Machine.execChacc stack pc row col bank enable data s
  | .chfnc stack pc => Sys2Proof.Machine.execChfnc stack pc s
  | .fence list => Sys2Proof.Machine.execFence list s
  | .readThrough pt page bad => Sys2Proof.Machine.execReadThrough pt page bad s
  | .fill pt page bad => Sys2Proof.Machine.execFill pt page bad s
  | .fillComplete pt found => Sys2Proof.Machine.execFillComplete pt found s
  | .directWrite pt page bad => Sys2Proof.Machine.execDirectWrite pt page bad s
  | .eviction pt page => Sys2Proof.Machine.execEviction pt page s
  | .writeBack pt page unit => Sys2Proof.Machine.execWriteBack pt page unit s
  | .cleaning pt => Sys2Proof.Machine.execCleaning pt s
  | .age pt => Sys2Proof.Machine.execAge pt s
  | .tierTimeout request => Sys2Proof.Machine.execTierTimeout request s
  | .prefetch pt => Sys2Proof.Machine.execPrefetch pt s
  | .pinHint pt => Sys2Proof.Machine.execPinHint pt s
  | .demote pt => Sys2Proof.Machine.execDemote pt s
  | .wearLevelling channel => Sys2Proof.Machine.execWearLevelling channel s
  | .readRelocation channel block => Sys2Proof.Machine.execReadRelocation channel block s
  | .blockRetire channel block => Sys2Proof.Machine.execBlockRetire channel block s
  | .garbageCollection channel block => Sys2Proof.Machine.execGarbageCollection channel block s
  | .prepare pt shard => Sys2Proof.Machine.execPrepare pt shard s
  | .lossScaleUpdate pt record => Sys2Proof.Machine.execLossScaleUpdate pt record s
  | .applyState pt shard => Sys2Proof.Machine.execApplyState pt shard s
  | .applyRule pt shard => Sys2Proof.Machine.execApplyRule pt shard s
  | .regenerate pt shard => Sys2Proof.Machine.execRegenerate pt shard s
  | .commit pt shard => Sys2Proof.Machine.execCommit pt shard s
  | .replicaFetch pt shard step => Sys2Proof.Machine.execReplicaFetch pt shard step s
  | .portPresence port found => Sys2Proof.Machine.execPortPresence port found s
  | .portRetry port found => Sys2Proof.Machine.execPortRetry port found s
  | .laneFail port lane => Sys2Proof.Machine.execLaneFail port lane s
  | .linkReplay port replays => Sys2Proof.Machine.execLinkReplay port replays s
  | .fabRead port packet => Sys2Proof.Machine.execFabRead port packet s
  | .fabReadData port packet => Sys2Proof.Machine.execFabReadData port packet s
  | .fabWrite port packet => Sys2Proof.Machine.execFabWrite port packet s
  | .fabAck port packet => Sys2Proof.Machine.execFabAck port packet s
  | .fabAdd port packet => Sys2Proof.Machine.execFabAdd port packet s
  | .chain port packet => Sys2Proof.Machine.execChain port packet s
  | .partialSum port packet => Sys2Proof.Machine.execPartialSum port packet s
  | .copy port packet => Sys2Proof.Machine.execCopy port packet s
  | .notice port packet => Sys2Proof.Machine.execNotice port packet s
  | .sync port packet => Sys2Proof.Machine.execSync port packet s
  | .caps port packet capability => Sys2Proof.Machine.execCaps port packet capability s
  | .resendTimeout request => Sys2Proof.Machine.execResendTimeout request s
  | .remoteRequestTimeout request => Sys2Proof.Machine.execRemoteRequestTimeout request s
  | .syncExchange => Sys2Proof.Machine.execSyncExchange s
  | .parentLost => Sys2Proof.Machine.execParentLost s
  | .miswiredRetry port capability => Sys2Proof.Machine.execMiswiredRetry port capability s
  | .chainBreak pt seq => Sys2Proof.Machine.execChainBreak pt seq s
  | .fallbackSum pt seq => Sys2Proof.Machine.execFallbackSum pt seq s
  | .partialTimeout pt seq position => Sys2Proof.Machine.execPartialTimeout pt seq position s
  | .memberLost pt position => Sys2Proof.Machine.execMemberLost pt position s
  | .collectivePhase pt seq agree => Sys2Proof.Machine.execCollectivePhase pt seq agree s
  | .caliperRealign => Sys2Proof.Machine.execCaliperRealign s
  | .emergencyClamp trigger => Sys2Proof.Machine.execEmergencyClamp trigger s
  | .clampRelease flag => Sys2Proof.Machine.execClampRelease flag s
  | .powerLimitStep mW100 => Sys2Proof.Machine.execPowerLimitStep mW100 s
  | .ceilingRaise mW100 => Sys2Proof.Machine.execCeilingRaise mW100 s
  | .powerFailStop cause => Sys2Proof.Machine.execPowerFailStop cause s
  | .inletConnect mV => Sys2Proof.Machine.execInletConnect mV s
  | .inletWithdrawal => Sys2Proof.Machine.execInletWithdrawal s
  | .startUp found => Sys2Proof.Machine.execStartUp found s
  | .wakeFromStandby => Sys2Proof.Machine.execWakeFromStandby s
  | .smbusAddressMatch address => Sys2Proof.Machine.execSmbusAddressMatch address s
  | .wakeN low => Sys2Proof.Machine.execWakeN low s
  | .l1Exit => Sys2Proof.Machine.execL1Exit s
  | .readByte code => Sys2Proof.Machine.execReadByte code s
  | .readWord code => Sys2Proof.Machine.execReadWord code s
  | .smbusWrite command => Sys2Proof.Machine.execSmbusWrite command s
  | .alertResponseAddress => Sys2Proof.Machine.execAlertResponseAddress s
  | .alertReassert => Sys2Proof.Machine.execAlertReassert s
  | .processorRestart code verified => Sys2Proof.Machine.execProcessorRestart code verified s
  | .processorWatchdog code => Sys2Proof.Machine.execProcessorWatchdog code s
  | .persistentCopy seq => Sys2Proof.Machine.execPersistentCopy seq s
  | .fwUnstableClear code => Sys2Proof.Machine.execFwUnstableClear code s
  | .probationEnd code burnFails => Sys2Proof.Machine.execProbationEnd code burnFails s
  | .swapBack code => Sys2Proof.Machine.execSwapBack code s
  | .armedActivation => Sys2Proof.Machine.execArmedActivation s
  | .getVersion fn => Sys2Proof.Machine.execGetVersion fn s
  | .getCapabilities fn => Sys2Proof.Machine.execGetCapabilities fn s
  | .negotiateAlgorithms fn => Sys2Proof.Machine.execNegotiateAlgorithms fn s
  | .getDigests fn => Sys2Proof.Machine.execGetDigests fn s
  | .getCertificate fn => Sys2Proof.Machine.execGetCertificate fn s
  | .challenge fn => Sys2Proof.Machine.execChallenge fn s
  | .getMeasurements fn index => Sys2Proof.Machine.execGetMeasurements fn index s
  | .keyExchange fn => Sys2Proof.Machine.execKeyExchange fn s
  | .finish fn session macOk => Sys2Proof.Machine.execFinish fn session macOk s
  | .heartbeat fn session => Sys2Proof.Machine.execHeartbeat fn session s
  | .keyUpdate fn session => Sys2Proof.Machine.execKeyUpdate fn session s
  | .endSession fn session => Sys2Proof.Machine.execEndSession fn session s
  | .svcChallenge => Sys2Proof.Machine.execSvcChallenge s
  | .svcUnlock scope publicKey signature => Sys2Proof.Machine.execSvcUnlock scope publicKey signature s
  | .unlockLockoutEnd => Sys2Proof.Machine.execUnlockLockoutEnd s
  | .serviceLatchTrip => Sys2Proof.Machine.execServiceLatchTrip s
  | .checkerCompare checker corrected uncorrectable => Sys2Proof.Machine.execCheckerCompare checker corrected uncorrectable s
  | .moduleFatal processor => Sys2Proof.Machine.execModuleFatal processor s
  | .busMasterEnable fn => Sys2Proof.Machine.execBusMasterEnable fn s
  | .coverClose => Sys2Proof.Machine.execCoverClose s
  | .clearingEnd resource => Sys2Proof.Machine.execClearingEnd resource s
  | .clockLowTimeout heldUs => Sys2Proof.Machine.execClockLowTimeout heldUs s

end Sys2Proof.Machine
end

