-- ==== Sys2Proof/Safety.lean ====
section
/-! DEFINITION. What a safe run of the module is: no command stops the machine, and memory keeps its canonical form; and
which components of the state a change leaves alone; and the conditions and changes that the statements name. -/

namespace Sys2Proof

open Machine

/-- A step that goes on. -/
def Goes (s : State) : Prop := ∃ t, step s = .next t

/-- The sparse tables that hold bytes are in their canonical form. -/
def MemoryOk (s : State) : Prop := BMap.wf s.mem = true ∧ BMap.wf s.flash.data = true

namespace Machine

/-- The components of the state, one for each of its fields. -/
inductive Component where
  | pending | free | time | log | link | fns | slots | parts
  | tiles | atps | signals | ctxs | copies | loose | hbm | mem | blocks
  | chisel | nextList | flash | tierReqs | nextReq | mgrQueue | grants | fabric | dies | secClear
  | secOut | drains | procs | fwSeqs | staging | power | sec | side
  deriving DecidableEq, Repr

/-- A component has the same value in two states. -/
def Component.agree (c : Component) (s t : State) : Prop :=
  match c with
  | .pending => t.pending = s.pending
  | .free => t.free = s.free
  | .time => t.time = s.time
  | .log => t.log = s.log
  | .link => t.link = s.link
  | .fns => t.fns = s.fns
  | .slots => t.slots = s.slots
  | .parts => t.parts = s.parts
  | .tiles => t.tiles = s.tiles
  | .atps => t.atps = s.atps
  | .signals => t.signals = s.signals
  | .ctxs => t.ctxs = s.ctxs
  | .copies => t.copies = s.copies
  | .loose => t.loose = s.loose
  | .hbm => t.hbm = s.hbm
  | .mem => t.mem = s.mem
  | .blocks => t.blocks = s.blocks
  | .chisel => t.chisel = s.chisel
  | .nextList => t.nextList = s.nextList
  | .flash => t.flash = s.flash
  | .tierReqs => t.tierReqs = s.tierReqs
  | .nextReq => t.nextReq = s.nextReq
  | .mgrQueue => t.mgrQueue = s.mgrQueue
  | .grants => t.grants = s.grants
  | .fabric => t.fabric = s.fabric
  | .dies => t.dies = s.dies
  | .secClear => t.secClear = s.secClear
  | .secOut => t.secOut = s.secOut
  | .drains => t.drains = s.drains
  | .procs => t.procs = s.procs
  | .fwSeqs => t.fwSeqs = s.fwSeqs
  | .staging => t.staging = s.staging
  | .power => t.power = s.power
  | .sec => t.sec = s.sec
  | .side => t.side = s.side

/-- Two states agree in every component but those named. -/
structure Same (changed : List Component) (s t : State) : Prop where
  /-- A component that is not named has the same value. -/
  agrees : ∀ c, c ∉ changed → c.agree s t

/-- A command's work is over with a status and result words: its reply goes out once its host writes are acknowledged (R333, R344). -/
def Finished (t : State) (fn slot status : Nat) (result : List Nat) : Prop :=
  (t.cmd fn slot).phase = .finished ∧ (t.cmd fn slot).status = status ∧
  (t.cmd fn slot).result = result.map (BitVec.ofNat 64)

/-- A packet arrives for this module from a present member of its domain, by a port that is up. -/
abbrev Arrives (s : State) (q : Nat) (k : Packet) : Prop :=
  q < 8 ∧ s.portUp q = true ∧ s.fabricOn = true ∧ k.src < s.fabricN ∧ s.fabric.position < s.fabricN ∧ k.dst = s.fabric.position ∧
  (s.domainMembers k.domain).contains k.src = true

/-- A packet whose turn in its stream it is, with none ahead of it. -/
abbrev InTurn (s : State) (k : Packet) : Prop := k.seq = Tbl.get 0 s.fabric.rxSeq (streamOf k) ∧ s.fabric.ahead = []

/-- A run of bytes of a stack window of the partition: every block it touches is of a stack in SERVICE, neither poisoned nor
damaged. -/
abbrev Sound (s : State) (p a n : Nat) : Prop :=
  a + n ≤ tierBase ∧ s.within p a n = true ∧ ∀ i, i < n / 2048 + 2 → a / 2048 * 2048 + 2048 * i < a + n →
    (s.stack ((a / 2048 * 2048 + 2048 * i) / 2 ^ 37)).mode = .service ∧
    (s.block (a / 2048 * 2048 + 2048 * i)).poison = false ∧ (s.block (a / 2048 * 2048 + 2048 * i)).sense = .good

/-- A sound run within one block. -/
abbrev OneBlock (s : State) (p a n : Nat) : Prop := Sound s p a n ∧ a % 2048 + n ≤ 2048

/-- Engine addresses of this module's memory that a read finds sound. -/
abbrev Reads (s : State) (p : Nat) (rs : List (Nat × Nat)) : Prop :=
  ∀ r ∈ rs, engineAddr r.1 = .dev r.1 ∧ 1 ≤ r.2 ∧ Sound s p r.1 r.2 ∧ s.answers p r.1 r.2 = true

/-- What reading runs gives, by engine address. -/
def State.bytesAt (s : State) (rs : List (Nat × Nat)) : BMap :=
  rs.foldl (fun m r => BMap.writeBytes m r.1 (BMap.readBytes s.mem r.1 r.2)) []

/-- The function, slot and OP of a COLLECTIVE command. -/
def collectiveRow : Instr → Option (Nat × Nat × Nat)
  | .reduceScatter f n => some (f, n, 1)
  | .allGather f n => some (f, n, 2)
  | .allReduce f n => some (f, n, 3)
  | .broadcast f n => some (f, n, 4)
  | .permute f n => some (f, n, 5)
  | _ => none

/-- An engine of a running tile stands, outside loops and replays, at a word that neither waits, acquires nor releases, with
room for one more instruction in flight. -/
abbrev AtWord (s : State) (k : Nat) (e : Engine) (w : BitVec 128) : Prop :=
  s.atOpcode k e (wOpc w) = true ∧ ((s.tile k).eng e).word = w ∧ wWaitEn w = false ∧ wAcqEn w = false ∧ wRelEn w = false ∧
  ((s.tile k).eng e).flights.length < flightLimit e ∧ (∀ f ∈ ((s.tile k).eng e).flights, f.id ≠ ((s.tile k).eng e).nextId) ∧
  ((s.tile k).eng e).loops = [] ∧ ((s.tile k).eng e).replay = none

/-- Number, word and effect-made of each instruction an engine has in flight, oldest first. -/
def State.inFlight (s : State) (k : Nat) (e : Engine) : List (Nat × BitVec 128 × Bool) :=
  ((s.tile k).eng e).flights.map (fun f => (f.id, f.word, f.ran))

/-- An engine has issued a word: it stands one position on and has that word in flight, its effect made or still to come; no
other tile has changed. -/
def Issued (s t : State) (k : Nat) (e : Engine) (w : BitVec 128) (ran : Bool) : Prop :=
  (t.tile k).running = true ∧ ((t.tile k).eng e).pc = ((s.tile k).eng e).pc + 1 ∧
  t.inFlight k e = s.inFlight k e ++ [(((s.tile k).eng e).nextId, w, ran)] ∧ ∀ j, j ≠ k → t.tile j = s.tile j

/-- The components of a tile beside its engines, one for each of its fields; how long it has stood still and whether it is gated
(R130, R446) follow from the others at every issue and are not among them. -/
inductive TilePart where
  | program | running | stopping | store | tokens | rings | groups | masks | vregs | stream | tables | reds | lfsr | flags | maxima
  | receipts | steps | corrected | fixedAt | lostAt | failing
  deriving DecidableEq, Repr

/-- A component of a tile has the same value in two states of the tile. -/
def TilePart.agree (c : TilePart) (x y : Tile) : Prop :=
  match c with
  | .program => y.program = x.program
  | .running => y.running = x.running
  | .stopping => y.stopping = x.stopping
  | .store => y.store = x.store
  | .tokens => y.tokens = x.tokens
  | .rings => y.rings = x.rings
  | .groups => y.groups = x.groups
  | .masks => y.masks = x.masks
  | .vregs => y.vregs = x.vregs
  | .stream => y.stream = x.stream
  | .tables => y.tables = x.tables
  | .reds => y.reds = x.reds
  | .lfsr => y.lfsr = x.lfsr
  | .flags => y.flags = x.flags
  | .maxima => y.maxima = x.maxima
  | .receipts => y.receipts = x.receipts
  | .steps => y.steps = x.steps
  | .corrected => y.corrected = x.corrected
  | .fixedAt => y.fixedAt = x.fixedAt
  | .lostAt => y.lostAt = x.lostAt
  | .failing => y.failing = x.failing

/-- Two states of a tile agree in every component but those named. -/
structure TileSame (changed : List TilePart) (x y : Tile) : Prop where
  /-- A component that is not named has the same value. -/
  agrees : ∀ c, c ∉ changed → c.agree x y

/-- Of the whole state only an engine of a tile, and the tile's components named, have changed: no other engine of the tile and
no other tile. -/
def Alone (s t : State) (k : Nat) (e : Engine) (changed : List TilePart) : Prop :=
  Same [.tiles] s t ∧ TileSame changed (s.tile k) (t.tile k) ∧ (∀ d, d ≠ e → (t.tile k).eng d = (s.tile k).eng d) ∧
  ∀ j, j ≠ k → t.tile j = s.tile j

/-- An engine has issued a word, and beside that only components of its tile that are named have changed. -/
def IssuedAlone (s t : State) (k : Nat) (e : Engine) (w : BitVec 128) (ran : Bool) (changed : List TilePart) : Prop :=
  Issued s t k e w ran ∧ Alone s t k e changed

/-- An attention pipeline stands, free to start a job, at a well-formed record of a kind, with no gate to wait for. -/
abbrev AtJob (s : State) (n kind : Nat) (r : JobRec) : Prop :=
  n < 16 ∧ (s.atp n).running = true ∧ (s.atp n).ended = false ∧ (s.atp n).stopping = none ∧ (s.atp n).pc < 1024 ∧
  (s.atp n).jobRec (s.atp n).pc = r ∧ r.kind = kind ∧ r.formed = true ∧ r.gate = 0 ∧ (s.atp n).hasRoom = true ∧
  ∀ j ∈ (s.atp n).active, j.id ≠ (s.atp n).nextJob

/-- The job that an attention pipeline starts at its position. -/
def State.newJob (s : State) (n : Nat) (r : JobRec) : Job :=
  { id := (s.atp n).nextJob, record := (s.atp n).pc, indices := (s.atp n).loops.map (·.index), stage := .starting, ctxNum := r.ctx }

/-- The only job of an attention pipeline with its number. -/
abbrev OnlyJob (s : State) (n id : Nat) (j : Job) : Prop := j.id = id ∧ (s.atp n).active.filter (fun x => x.id == id) = [j]

/-- A block request that its stack takes now: well formed, within a granted stack in SERVICE, and of class 0 or 1, or with none of
its partition's waiting before it and its bytes in the regulator's bucket (R192). -/
abbrev Takes (s : State) (p cls : Nat) (o : MemOp) : Prop :=
  o.addr / 2 ^ 37 < 20 ∧ o.addr % 2 ^ 37 < windowBytes ∧ s.stackOwner (o.addr / 2 ^ 37) = p ∧ p ≠ 0 ∧ o.formed = true ∧ cls ≤ 3 ∧
  (s.stack (o.addr / 2 ^ 37)).mode = .service ∧
  (cls < 2 ∨ ((∀ h ∈ (s.stack (o.addr / 2 ^ 37)).held, h.pt = p → cls < h.cls) ∧ (o.bytes : Int) ≤ s.bucketNow (o.addr / 2 ^ 37) p))

/-- A CHROW runs step `r` of record `i` of a list now: the list whose turn it is, no clamp and no L5, and no ordinary request waits at
the pseudo-channel that BATCH does not let wait; the command of the list names no done gate. -/
abbrev RowTurn (s : State) (k pc : Nat) (row : ChiselRow) (l : ChiselList) (i r : Nat) : Prop :=
  s.stackUp k = true ∧ s.rowsHeld k = false ∧ s.turnAt k pc = some l ∧ s.serves k pc row l = some (i, r) ∧
  s.chisel.find? (fun y => y.id == l.id) = some l ∧ (s.cmd l.fn l.slot).param 32 8 = 0 ∧
  (s.waitersAt k pc = (0, 0) ∨ (bit (l.rec' i).ctl 1 = true ∧ (s.waitersAt k pc).1 = 0 ∧ Tbl.get 0 (s.stack k).batch pc < 8))

/-- A phase of a shard's oldest apply can do its work: the record is sound and in the partition table, no tier request of it has failed,
and the runs of the phase are the partition's and serve. -/
abbrev PhaseServes (s : State) (p i : Nat) (a : Apply) (r : Shard) (phase : Nat) : Prop :=
  s.applyOf p i = some a ∧ r = s.shard p i ∧ Sound s p (s.shardAddr p i) 512 ∧ (s.part p).inWindow (s.shardAddr p i) 512 = true ∧
  a.failed = 0 ∧ (∀ x ∈ (r.phaseRuns a.step phase).1 ++ (r.phaseRuns a.step phase).2, s.within p x.1 x.2 = true) ∧
  ((s.readStack (s.shardAddr p i) 512 true).st.ready p (r.phaseRuns a.step phase).1 (r.phaseRuns a.step phase).2 .write (.apply p i)).1 = true

/-- The state in which a phase does its work: the record read, its runs asked for, and the unit at work for the partition. -/
def State.atWork (s : State) (p i : Nat) (a : Apply) (r : Shard) (phase : Nat) : State :=
  ((((s.readStack (s.shardAddr p i) 512 true).st.ready p (r.phaseRuns a.step phase).1 (r.phaseRuns a.step phase).2 .write
    (.apply p i)).2).upuBegin r.upu p).trace (pDCTL r.upu) 11 i phase a.step

/-- The READs of a remote run that an owner has outstanding: target, address, length, owner and whether verified. -/
def State.readsOut (s : State) : List (Nat × Nat × Nat × Owner × Bool) :=
  s.fabric.unacked.map (fun u => (u.packet.dst, u.packet.addr, u.packet.want, u.owner, u.verify))

/-- Every byte outside a run reads as before. -/
def OnlyWrites (s t : State) (a n : Nat) : Prop := ∀ c, c < a ∨ a + n ≤ c → BMap.read t.mem c = BMap.read s.mem c

/-- No section and no stack is granted to two partitions (R28). -/
def GrantsDisjoint (s : State) : Prop :=
  ∀ p ∈ allParts, ∀ q ∈ allParts, p ≠ q → (s.part p).sections &&& (s.part q).sections = 0 ∧ (s.part p).hbm &&& (s.part q).hbm = 0

/-- The function whose window an access goes through, POWER_CTL apart. -/
def windowRow : Instr → Option Nat
  | .slotSubmit f _ _ _ => some f
  | .slotRelease f _ => some f
  | .registerWrite f o _ => if o = 0x0180 then none else some f
  | .lowHalfRead f _ => some f
  | .hostAlive f _ => some f
  | .logCursor f _ => some f
  | .snap f => some f
  | _ => none

end Machine

/-- Every component but those named. -/
def allBut (l : List Component) : List Component :=
  [.pending, .free, .time, .log, .link, .fns, .slots, .parts, .tiles, .atps, .signals, .ctxs, .copies, .loose, .hbm, .mem,
    .blocks, .chisel, .nextList, .flash, .tierReqs, .nextReq, .mgrQueue, .grants, .fabric, .dies, .secClear, .secOut,
    .drains, .procs, .fwSeqs, .staging, .power, .sec, .side].filter (fun c => !l.contains c)

/-- The components of the state that a command can change, on any path of its meaning. -/
def Instr.touches : Instr → List Component
  | .slotSubmit .. =>
    [.free, .time, .log, .link, .fns, .slots, .power]
  | .slotRelease .. | .linkRecoveryEnd .. =>
    [.link, .fns, .slots]
  | .registerWrite .. | .enterMs2 .. | .enterMs3 .. | .enterMs4 .. | .startUp .. | .processorRestart .. | .serviceLatchTrip .. =>
    allBut [.pending]
  | .lowHalfRead .. =>
    [.free, .time, .fns]
  | .hostAlive .. | .logCursor .. | .hostLinkUp .. =>
    [.link, .fns]
  | .snap .. =>
    [.free, .time, .log, .link, .fns]
  | .powerWake .. =>
    [.free, .time, .log, .link, .fns, .parts, .hbm, .power]
  | .nop .. | .attach .. | .attachResume .. | .tierHint .. =>
    [.free, .time, .log, .fns, .slots, .parts, .hbm, .fabric]
  | .halt .. =>
    [.free, .time, .log, .link, .fns, .slots, .parts, .tiles, .atps, .ctxs, .loose, .hbm, .chisel, .tierReqs, .mgrQueue,
      .grants, .fabric, .drains, .fwSeqs, .staging]
  | .attachLockoutEnd .. | .busMasterEnable .. =>
    [.fns]
  | .resetPartition .. =>
    allBut [.pending, .signals, .nextList, .nextReq, .dies, .secOut, .procs, .power]
  | .resetModule .. =>
    allBut [.pending, .flash]
  | .partSet .. =>
    [.free, .time, .log, .fns, .slots, .parts, .tiles, .atps, .ctxs, .copies, .hbm, .mem, .blocks, .flash, .tierReqs,
      .grants, .fabric, .secClear, .sec, .side]
  | .fabConfig .. =>
    [.free, .time, .log, .fns, .slots, .parts, .tiles, .atps, .hbm, .fabric, .side]
  | .tileDisable .. | .sectionDisable .. =>
    [.free, .time, .log, .link, .fns, .slots, .parts, .tiles, .atps, .hbm, .tierReqs, .mgrQueue, .grants, .fabric, .dies,
      .secOut, .drains]
  | .drainExpire .. =>
    [.free, .time, .log, .link, .slots, .parts, .tiles, .atps, .ctxs, .loose, .chisel, .tierReqs, .mgrQueue, .grants,
      .fabric, .dies, .secOut, .drains, .fwSeqs, .staging]
  | .loadProgram .. =>
    [.free, .time, .log, .link, .fns, .slots, .parts, .tiles, .atps, .hbm, .mem, .blocks, .flash, .tierReqs, .nextReq,
      .grants, .fabric]
  | .run .. =>
    [.free, .time, .log, .fns, .slots, .parts, .tiles, .atps, .hbm, .fabric]
  | .runComplete .. =>
    [.free, .time, .slots, .parts, .tiles, .atps]
  | .chiselRun .. =>
    [.free, .time, .log, .fns, .slots, .parts, .tiles, .atps, .hbm, .mem, .blocks, .chisel, .nextList, .flash, .tierReqs,
      .nextReq, .grants, .fabric, .side]
  | .trainSetup .. | .rollforward .. =>
    [.free, .time, .log, .fns, .slots, .parts, .tiles, .atps, .hbm, .mem, .blocks, .flash, .tierReqs, .nextReq, .grants,
      .fabric]
  | .stepFence .. =>
    [.free, .time, .log, .fns, .slots, .parts, .tiles, .hbm, .mem, .blocks, .fabric]
  | .stepFenceComplete .. =>
    [.free, .time, .log, .link, .slots, .parts, .hbm, .mem, .blocks, .tierReqs, .mgrQueue, .grants, .fabric]
  | .maquetteTake .. | .rollback .. =>
    [.free, .time, .log, .fns, .slots, .parts, .tiles, .atps, .hbm, .mem, .blocks, .flash, .tierReqs, .nextReq, .grants,
      .fabric, .side]
  | .ctxPool .. =>
    [.free, .time, .log, .fns, .slots, .parts, .hbm, .mem, .blocks, .mgrQueue, .fabric, .side]
  | .ctxOpen .. | .ctxFork .. | .ctxTruncate .. =>
    [.free, .time, .log, .fns, .slots, .parts, .ctxs, .hbm, .mem, .blocks, .mgrQueue, .fabric, .side]
  | .ctxFree .. =>
    [.free, .time, .log, .link, .fns, .slots, .parts, .tiles, .atps, .ctxs, .hbm, .mem, .blocks, .tierReqs, .mgrQueue,
      .grants, .fabric, .side]
  | .ctxQuery .. =>
    [.free, .time, .log, .link, .fns, .slots, .parts, .tiles, .atps, .hbm, .fabric, .side]
  | .tierStatus .. | .getSurvey .. | .logRead .. =>
    [.free, .time, .log, .link, .fns, .slots, .parts, .tiles, .atps, .hbm, .fabric]
  | .reduceScatter .. | .allReduce .. | .allGather .. | .broadcast .. | .permute .. =>
    [.free, .time, .log, .link, .fns, .slots, .parts, .tiles, .atps, .hbm, .mem, .blocks, .flash, .tierReqs, .nextReq,
      .mgrQueue, .grants, .fabric]
  | .traceSet .. =>
    [.free, .time, .log, .fns, .slots, .parts, .hbm, .fabric, .procs]
  | .fwStage .. =>
    [.free, .time, .log, .link, .fns, .slots, .parts, .tiles, .atps, .hbm, .fabric, .procs, .staging]
  | .fwActivate .. | .fwRestart .. =>
    allBut [.pending, .signals, .copies, .mem, .blocks, .nextList, .flash, .nextReq, .dies, .secClear, .secOut, .power, .sec, .side]
  | .domainRelay .. =>
    [.free, .time, .slots]
  | .domainReport .. =>
    [.free, .time, .log, .slots, .side]
  | .commandComplete .. =>
    [.free, .time, .log, .link, .fns, .slots, .parts, .tiles, .atps, .fabric]
  | .flushReadComplete .. =>
    [.free, .time, .log, .link, .fns, .slots, .parts, .tiles, .atps]
  | .deadlineExpire .. | .heartbeatTimeout .. | .hostLinkLost .. | .flrComplete .. | .busMasterDisable .. =>
    [.free, .time, .log, .link, .fns, .slots, .parts, .tiles, .atps, .ctxs, .loose, .chisel, .tierReqs, .mgrQueue, .grants,
      .fabric, .drains, .fwSeqs, .staging]
  | .linkRecovery .. =>
    [.link]
  | .flr .. =>
    [.free, .time, .log, .link, .fns, .slots, .parts, .tiles, .atps, .ctxs, .loose, .chisel, .tierReqs, .mgrQueue, .grants,
      .fabric, .drains, .fwSeqs, .staging, .side]
  | .hostReadCompletion .. | .hostReadTimeout .. =>
    [.free, .time, .log, .link, .fns, .slots, .parts, .tiles, .atps, .ctxs, .loose, .tierReqs, .mgrQueue, .grants, .fabric,
      .side]
  | .hostWriteAck .. =>
    [.link, .slots, .tiles, .atps]
  | .nopInstruction .. | .seg .. | .stepBoundary .. | .loop .. | .replay .. | .endStream .. | .frecv .. | .mopen .. |
    .mmask .. | .macc .. | .mclose .. | .vmode .. | .vop .. | .vlut .. | .vld .. | .vst .. | .vtload .. | .vredOpen .. |
    .vredPut .. | .vredClose .. | .vpsum .. | .vseed .. | .scfence .. | .watchdog .. | .tierTimeout .. | .fabReadData .. |
    .remoteRequestTimeout .. =>
    [.free, .time, .log, .link, .slots, .parts, .tiles, .atps, .ctxs, .loose, .tierReqs, .mgrQueue, .grants, .fabric, .side]
  | .fload .. | .fmcast .. | .multicastDeliver .. | .fhint .. | .sstore .. | .sadd .. | .saccw .. | .readThrough .. |
    .fill .. | .fillComplete .. | .directWrite .. | .fabAck .. =>
    [.free, .time, .log, .link, .slots, .parts, .tiles, .atps, .ctxs, .loose, .hbm, .mem, .blocks, .flash, .tierReqs,
      .nextReq, .mgrQueue, .grants, .fabric, .side]
  | .vstream .. =>
    [.free, .time, .log, .link, .slots, .parts, .tiles, .atps, .ctxs, .loose, .hbm, .mem, .blocks, .tierReqs, .mgrQueue,
      .grants, .fabric, .side]
  | .instructionComplete .. =>
    allBut [.pending, .fns, .copies, .chisel, .nextList, .dies, .secClear, .secOut, .drains, .procs, .fwSeqs, .staging, .power, .sec]
  | .remoteSignal .. =>
    [.free, .time, .log, .link, .slots, .parts, .tiles, .atps, .signals, .ctxs, .loose, .tierReqs, .mgrQueue, .grants,
      .fabric, .side]
  | .tileGate .. =>
    [.tiles, .atps]
  | .attend .. | .append .. | .combine .. | .keyBlock .. =>
    [.free, .time, .log, .link, .slots, .parts, .tiles, .atps, .ctxs, .hbm, .mem, .blocks, .flash, .tierReqs, .nextReq,
      .mgrQueue, .grants, .fabric, .side]
  | .atpLoop .. | .atpEnd .. | .gateWatchdog .. =>
    [.free, .time, .log, .link, .parts, .tiles, .atps, .ctxs, .tierReqs, .mgrQueue, .grants, .fabric, .side]
  | .jobComplete .. =>
    [.free, .time, .log, .link, .slots, .parts, .tiles, .atps, .signals, .ctxs, .hbm, .mem, .blocks, .tierReqs, .nextReq,
      .mgrQueue, .grants, .fabric, .side]
  | .gatePoll .. =>
    allBut [.pending, .fns, .signals, .copies, .loose, .dies, .secClear, .secOut, .drains, .procs, .fwSeqs, .staging, .power, .sec]
  | .pin .. =>
    [.free, .time, .log, .link, .parts, .tiles, .atps, .ctxs, .hbm, .mem, .blocks, .tierReqs, .mgrQueue, .grants, .fabric,
      .side]
  | .unpin .. =>
    [.free, .time, .log, .parts, .atps, .ctxs, .hbm, .mem, .blocks, .side]
  | .resolve .. | .switch .. =>
    [.free, .time, .log, .link, .parts, .tiles, .atps, .ctxs, .copies, .hbm, .mem, .blocks, .tierReqs, .mgrQueue, .grants,
      .fabric, .side]
  | .advance .. =>
    [.free, .time, .atps, .ctxs]
  | .memoryRead .. | .blockReread .. | .memoryWrite .. | .partialWriteMerge .. | .memorySideAdd .. | .patrol .. |
    .stackStartup .. | .chacc .. =>
    [.free, .time, .log, .hbm, .mem, .blocks, .side]
  | .regulatorAdmit .. =>
    [.free, .time, .log, .link, .slots, .parts, .tiles, .atps, .loose, .hbm, .mem, .blocks, .flash, .fabric, .side]
  | .refresh .. =>
    [.free, .hbm]
  | .rfm .. | .chset .. =>
    [.hbm]
  | .temperatureReading .. | .emergencyClamp .. =>
    [.free, .time, .log, .hbm, .dies, .power, .side]
  | .throttleLevelExit .. =>
    [.free, .time, .log, .hbm, .dies]
  | .stackRecovery .. =>
    [.free, .time, .log, .hbm]
  | .stackRecoveryEnd .. =>
    [.free, .time, .log, .link, .slots, .parts, .tiles, .atps, .ctxs, .loose, .hbm, .mem, .blocks, .flash, .fabric, .side]
  | .chrow .. =>
    [.free, .time, .log, .slots, .parts, .tiles, .atps, .hbm, .mem, .blocks, .chisel, .tierReqs, .nextReq, .grants, .fabric,
      .side]
  | .chfnc .. =>
    [.tiles]
  | .fence .. =>
    [.free, .time, .slots, .parts, .tiles, .atps, .hbm, .mem, .blocks, .chisel, .tierReqs, .nextReq, .grants, .fabric]
  | .eviction .. | .writeBack .. | .cleaning .. | .prefetch .. =>
    [.free, .time, .log, .parts, .hbm, .mem, .blocks, .flash, .side]
  | .age .. | .pinHint .. | .demote .. =>
    [.parts]
  | .wearLevelling .. | .readRelocation .. | .garbageCollection .. =>
    [.free, .time, .log, .flash]
  | .blockRetire .. =>
    [.free, .time, .log, .flash, .side]
  | .prepare .. | .applyState .. | .applyRule .. | .regenerate .. =>
    [.free, .time, .log, .link, .slots, .parts, .tiles, .atps, .hbm, .mem, .blocks, .flash, .tierReqs, .nextReq, .mgrQueue,
      .grants, .fabric, .dies, .side]
  | .lossScaleUpdate .. =>
    [.free, .time, .log, .link, .parts, .hbm, .mem, .blocks, .tierReqs, .mgrQueue, .grants, .fabric, .side]
  | .commit .. =>
    [.free, .time, .log, .link, .slots, .parts, .tiles, .atps, .hbm, .mem, .blocks, .tierReqs, .nextReq, .mgrQueue, .grants,
      .fabric, .dies, .side]
  | .replicaFetch .. =>
    [.free, .time, .log, .link, .slots, .parts, .tiles, .atps, .ctxs, .loose, .hbm, .mem, .blocks, .flash, .tierReqs,
      .mgrQueue, .grants, .fabric, .side]
  | .portPresence .. | .portRetry .. | .laneFail .. | .linkReplay .. | .caps .. | .miswiredRetry .. =>
    [.free, .time, .log, .slots, .parts, .tiles, .atps, .fabric, .side]
  | .fabRead .. | .fabWrite .. | .fabAdd .. | .chain .. | .partialSum .. | .copy .. | .notice .. | .resendTimeout .. |
    .chainBreak .. | .fallbackSum .. | .collectivePhase .. =>
    [.free, .time, .log, .link, .slots, .parts, .tiles, .atps, .hbm, .mem, .blocks, .flash, .tierReqs, .nextReq, .mgrQueue,
      .grants, .fabric, .side]
  | .sync .. | .parentLost .. =>
    [.free, .time, .log, .fabric]
  | .syncExchange .. =>
    [.free, .time, .fabric]
  | .partialTimeout .. | .memberLost .. =>
    [.free, .time, .log, .link, .slots, .parts, .tierReqs, .mgrQueue, .grants, .fabric, .side]
  | .caliperRealign .. =>
    [.time]
  | .clampRelease .. =>
    [.free, .time, .log, .dies, .power, .side]
  | .powerLimitStep .. | .ceilingRaise .. =>
    [.free, .time, .log, .dies, .power]
  | .powerFailStop .. | .inletWithdrawal .. | .smbusAddressMatch .. | .wakeN .. =>
    allBut [.pending, .free, .flash]
  | .inletConnect .. | .l1Exit .. =>
    [.power]
  | .wakeFromStandby .. =>
    [.free, .time, .log, .fns, .parts, .hbm, .power]
  | .readByte .. | .readWord .. | .clockLowTimeout .. =>
    [.free, .side]
  | .smbusWrite .. | .alertResponseAddress .. | .alertReassert .. =>
    [.side]
  | .processorWatchdog .. =>
    [.free, .time, .log, .link, .slots, .parts, .tiles, .atps, .ctxs, .loose, .chisel, .tierReqs, .mgrQueue, .grants,
      .fabric, .drains, .procs, .fwSeqs, .staging, .side]
  | .persistentCopy .. =>
    [.log]
  | .fwUnstableClear .. =>
    [.procs]
  | .probationEnd .. =>
    [.free, .time, .log, .procs, .sec, .side]
  | .swapBack .. | .armedActivation .. =>
    [.free, .time, .log, .link, .slots, .parts, .tiles, .atps, .ctxs, .loose, .chisel, .tierReqs, .mgrQueue, .grants,
      .fabric, .drains, .procs, .fwSeqs, .staging]
  | .getVersion .. | .getCapabilities .. | .negotiateAlgorithms .. | .getDigests .. | .getCertificate .. | .challenge .. |
    .getMeasurements .. | .keyExchange .. | .finish .. | .heartbeat .. | .keyUpdate .. | .endSession .. =>
    [.free, .time, .log, .fns]
  | .svcChallenge .. | .svcUnlock .. =>
    [.free, .time, .log, .fns, .sec]
  | .unlockLockoutEnd .. | .coverClose .. =>
    [.sec]
  | .checkerCompare .. =>
    allBut [.pending, .signals, .copies, .hbm, .mem, .blocks, .nextList, .flash, .nextReq, .dies, .secClear, .secOut, .procs]
  | .moduleFatal .. =>
    allBut [.pending, .signals, .copies, .hbm, .mem, .blocks, .nextList, .flash, .nextReq, .dies, .secClear, .secOut, .procs, .sec]
  | .clearingEnd .. =>
    [.free, .time, .log, .link, .tiles, .atps, .hbm, .mem, .blocks, .flash, .tierReqs, .mgrQueue, .grants, .fabric, .secClear]

end Sys2Proof
end

