-- ==== Sys2Proof/Certificates/Slice0/Obligations.lean ====
section
/-! DEFINITION. The statements for the provers. A statement made of several parts is their conjunction, in the order of its
docstring. -/

open Sys2Proof Sys2Proof.Machine

/-- A step runs the command at the front of the queue with the queue's rest; on an empty queue, while the module has power, one
CALIPER cycle passes, in which each link sends a packet, and an unpowered module stays as it is, which is the model's choice
(DESIGN CHOICE, assumption 1). -/
def Obligations.stepRunsTheFrontCommand : Prop :=
  (∀ (s : State) (c : Instr) (rest : List Instr), step { s with pending := c :: rest } = exec c { s with pending := rest }) ∧
  (∀ s : State, s.pending = [] → ∃ t, step s = .next t ∧ (s.power.state = .unpowered → t = s) ∧
    (s.power.state ≠ .unpowered → t.time.counter = s.time.counter + s.time.increment) ∧ Same [.free, .time, .log, .fabric] s t)

/-- The values the spec gives for reset (R49, R52, R349, R350, R427, R447, R461, R509, R513): every partition DETACHED with token 0
and absent, HEARTBEAT 8 s, slots FREE, POWER_LIMIT 2,400 W, no power request, the log empty, every tile's LFSR 1, no fault flag,
every stack in TRAINING and every port DOWN, and the queue empty. -/
def Obligations.resetValuesStand : Prop :=
  (∀ p, (State.reset.part p).isPresent = false ∧ (State.reset.part p).host = .detached ∧ (State.reset.part p).token = 0) ∧
  (∀ f, (State.reset.fn f).heartbeat = 8 ∧ (State.reset.fn f).hostAlive = 0 ∧ (State.reset.fn f).flushAddr = 0 ∧
    (State.reset.fn f).logCursor = 0 ∧ ∀ n, (State.reset.slot f n).state = .free ∧ (State.reset.slot f n).discard = false) ∧
  (∀ k, (State.reset.tile k).lfsr = 1 ∧ (State.reset.tile k).running = false ∧ (State.reset.stack k).mode = .training ∧
    (State.reset.port k).state = .down) ∧
  State.reset.power.limitW = 2400 ∧ State.reset.power.regs = {} ∧ State.reset.power.devReady = false ∧ State.reset.power.fatal = false ∧
  State.reset.log.entries = [] ∧ State.reset.log.faults = 0 ∧ State.reset.pending = []

/-- Memory and flash have their canonical form at reset. -/
def Obligations.resetMemoryHasItsForm : Prop := MemoryOk State.reset

/-- Every step keeps the canonical form of device memory and of the flash: addresses strictly rising, and no byte listed that
an unlisted address reads as. -/
def Obligations.stepsKeepMemoryForm : Prop := ∀ s t : State, MemoryOk s → step s = .next t → MemoryOk t

/-- Every command completes in every state, and leaves alone every component of the state that the table of `Instr.touches` does
not name for it, on every path, the refused ones included; no command changes the queue. -/
def Obligations.commandsStayWithinTheirFootprint : Prop := ∀ (c : Instr) (s : State), ∃ t, exec c s = .next t ∧ Same c.touches s t

/-- Fuses (R466, R471): no step changes a key hash or a revocation bit, and ROLLBACK never decreases. -/
def Obligations.fusesOnlyEverBlow : Prop :=
  ∀ s t : State, step s = .next t → t.sec.vendorHash = s.sec.vendorHash ∧ t.sec.serviceHash = s.sec.serviceHash ∧
    t.sec.revoked = s.sec.revoked ∧ s.sec.rollback ≤ t.sec.rollback

/-- Grants stay disjoint (R28, R365, R366): if no section and no stack is granted to two partitions, the same holds after any
step. -/
def Obligations.grantsStayDisjoint : Prop :=
  ∀ s t : State, GrantsDisjoint s → step s = .next t → GrantsDisjoint t

/-- Functions are kept apart (R14): an access of a partition function's window, POWER_CTL apart, changes no other function's
registers or slots, no other partition and no byte of device memory. -/
def Obligations.functionsAreIsolated : Prop :=
  ∀ (s t : State) (i : Instr) (fn : Nat), windowRow i = some fn → fn ≠ 0 → exec i s = .next t →
    (∀ g, g ≠ fn → t.fn g = s.fn g ∧ t.part g = s.part g ∧ ∀ n, n < 128 → t.slot g n = s.slot g n) ∧
    Same [.free, .time, .log, .link, .fns, .slots, .parts, .power] s t

/-- A write to any byte of a slot that is not FREE is discarded and sets DISCARD, and the command already there is unaffected,
whatever the size and place of the write within the slot. Completes: `registerWrite`, `slotSubmit`. -/
def Obligations.busySlotsDiscardWrites : Prop :=
  ∀ (s : State) (fn slot o : Nat) (data : List Byte), s.barOpen fn = true → s.hifTakes = true → slot < 32 → data ≠ [] → o + data.length ≤ 256 →
    ((s.slot fn slot).state = .queued ∨ (s.slot fn slot).state = .running ∨ (s.slot fn slot).state = .done) →
    (∃ t, exec (.registerWrite fn (0x2000 + 256 * slot + o) data) s = .next t ∧ t.slot fn slot = { s.slot fn slot with discard := true } ∧
      (∀ g n, slotKey g n ≠ slotKey fn slot → t.slot g n = s.slot g n)) ∧
    (∀ wide value, ∃ t, exec (.slotSubmit fn slot wide value) s = .next t ∧ t.slot fn slot = { s.slot fn slot with discard := true } ∧
      (∀ g n, slotKey g n ≠ slotKey fn slot → t.slot g n = s.slot g n))

/-- A block-scaled conversion writes no -128 and no -8 (R52), and +0 for every zero it is given (R53), whichever way it rounds
and takes its scale. -/
def Obligations.blockConversionsWriteNoNegativeZero : Prop :=
  ∀ (fmt : Nat) (mode : Rnd) (hist : Option Nat) (xs : List Val) (lfsr : BitVec 32), fmtScaled fmt = true →
    (∀ h, hist = some h → 1 ≤ h ∧ h ≤ 254) →
    (convertBlock fmt mode hist xs lfsr).q.length = xs.length ∧
    ((fmt = 0 ∨ fmt = 0xA) → 0x80 ∉ (convertBlock fmt mode hist xs lfsr).q) ∧
    ((fmt = 2 ∨ fmt = 0xB) → 8 ∉ (convertBlock fmt mode hist xs lfsr).q) ∧
    (∀ (i q : Nat) (neg : Bool) (d : Int), xs[i]? = some (.fin neg 0 d) → (convertBlock fmt mode hist xs lfsr).q[i]? = some q →
      (convertBlock fmt mode hist xs lfsr).e8 ≠ 0xFF → q = 0 ∧ ∃ e, elemVal fmt q (convertBlock fmt mode hist xs lfsr).e8 = .fin false 0 e)

/-- The value of an element of a block (R42). -/
def Obligations.blockScalesGiveValues : Prop :=
  ∀ fmt w e8 : Nat, fmtScaled fmt = true →
    elemVal fmt w 0 = .fin false 0 0 ∧ elemVal fmt w 0xFF = .nan ∧
    (1 ≤ e8 → e8 ≤ 0xFE → elemVal fmt w e8 = .fin (decide (elemInt fmt w < 0)) (elemInt fmt w).natAbs ((e8 : Int) - 127))

/-- A packet's 24-bit stamp is extended to the value nearest this module's time that has those bits (R391). -/
def Obligations.stampsExtendToTheNearest : Prop :=
  ∀ (s : State) (k : Packet), 2 ^ 23 ≤ s.now →
    s.sendStamp k % 2 ^ 24 = k.low.toNat + 65536 * k.epoch.toNat ∧
    ∀ v : Nat, v % 2 ^ 24 = k.low.toNat + 65536 * k.epoch.toNat →
      ((s.sendStamp k : Int) - s.now).natAbs ≤ ((v : Int) - s.now).natAbs

/-- Chunks of a reduction (R307): C is a multiple of 1,024, the chunks of the N members are disjoint and cover every element,
and no smaller multiple of 1,024 would. -/
def Obligations.chunksDivideTheElements : Prop :=
  ∀ (c : Cmd) (n : Nat), 1 ≤ n → c.cReduces = true →
    1024 ∣ c.cChunk n ∧ c.cElems ≤ n * c.cChunk n ∧ (∀ m, 1024 ∣ m → c.cElems ≤ n * m → c.cChunk n ≤ m) ∧
    (∀ e, e < c.cElems → ∃ k, k < n ∧ (c.cSpan n k).1 ≤ e ∧ e < (c.cSpan n k).2 ∧
      ∀ j, (c.cSpan n j).1 ≤ e → e < (c.cSpan n j).2 → j = k) ∧
    (∀ k, c.cSize n k ≤ c.cChunk n)

/-- Writes to the command window (R327, R328, R329, R331). Completes: `slotSubmit`, `slotRelease`. A 4- or 8-byte write at bytes
0-3 of a FREE slot stores its bytes, freezes the packet, counts SEQ and queues the slot, its command accepted as the last of
its function's arrivals, or finished with the status of the first check it fails; at any other slot it only sets DISCARD; a
release returns a DONE slot to FREE. No other slot changes.

Register writes (R350, R461, R344, R327). Completes: `registerWrite`. HEARTBEAT takes 2 to 60 s, POWER_LIMIT of PF0 1,000 to 2,400 W,
FLUSH_ADDR bits [62:2]; a write within bytes 4-255 of a FREE slot stores its bytes and touches no other slot.

Reads and windows (R504, R513, R514). Completes: `lowHalfRead`, `logCursor`, `snap`. A read of the low half of a 64-bit register captures the register, of
CALIPER_NOW a stamp; LOG_CURSOR and SNAP fill their windows. -/
def Obligations.windowsComplete : Prop :=
  (∀ (s : State) (fn slot : Nat) (wide : Bool) (value : BitVec 64),
      s.barOpen fn = true → s.hifTakes = true → slot < 32 →
      ((s.slot fn slot).state = .free → ∃ t, exec (.slotSubmit fn slot wide value) s = .next t ∧
        (t.slot fn slot).bytes = BMap.writeBytes (s.slot fn slot).bytes 0 (natLe value.toNat (if wide then 8 else 4)) ∧
        (t.cmd fn slot).packet = (t.slot fn slot).bytes ∧
        (t.slot fn slot).seq = (s.slot fn slot).seq + 1 ∧ (t.slot fn slot).state = .queued ∧
        (s.power.fatal = false →
          (s.acceptance fn slot { packet := (t.slot fn slot).bytes } = 0 →
            (t.cmd fn slot).phase = .accepted ∧ (t.fn fn).arrivals = (s.fn fn).arrivals ++ [slot]) ∧
          (s.acceptance fn slot { packet := (t.slot fn slot).bytes } ≠ 0 →
            Finished t fn slot (s.acceptance fn slot { packet := (t.slot fn slot).bytes }) [] ∧ (t.fn fn).arrivals = (s.fn fn).arrivals)) ∧
        (∀ g n, slotKey g n ≠ slotKey fn slot → t.slot g n = s.slot g n)) ∧
      ((s.slot fn slot).state ≠ .free → ∃ t, exec (.slotSubmit fn slot wide value) s = .next t ∧
        t.slot fn slot = { s.slot fn slot with discard := true } ∧
        (∀ g n, slotKey g n ≠ slotKey fn slot → t.slot g n = s.slot g n)) ∧
      ((s.slot fn slot).state = .done → ∃ t, exec (.slotRelease fn slot) s = .next t ∧
        t.slot fn slot = { s.slot fn slot with state := .free, status := 0 } ∧
        (∀ g n, slotKey g n ≠ slotKey fn slot → t.slot g n = s.slot g n))) ∧
  (∀ (s : State) (fn : Nat), s.barOpen fn = true → s.hifTakes = true →
      (∀ v : Nat, fn ≠ 0 → 2 ≤ v → v ≤ 60 → ∃ t, exec (.registerWrite fn 0x0104 (natLe v 4)) s = .next t ∧
        t.fn fn = { s.fn fn with heartbeat := BitVec.ofNat 32 v, capture := none } ∧ Same [.fns] s t) ∧
      (∀ v : Nat, fn = 0 → 1000 ≤ v → v ≤ 2400 → ∃ t, exec (.registerWrite fn 0x01A0 (natLe v 4)) s = .next t ∧
        t.power = { s.power with limitW := BitVec.ofNat 12 v } ∧ Same [.fns, .power] s t) ∧
      (∀ v : BitVec 64, fn ≠ 0 → ∃ t, exec (.registerWrite fn 0x0110 (natLe v.toNat 8)) s = .next t ∧
        (t.fn fn).flushAddr = v &&& 0x7FFFFFFFFFFFFFFC ∧ Same [.fns] s t) ∧
      (∀ (slot o : Nat) (data : List Byte), slot < 32 → 4 ≤ o → o + data.length ≤ 256 → (s.slot fn slot).state = .free →
        ∃ t, exec (.registerWrite fn (0x2000 + 256 * slot + o) data) s = .next t ∧
          (t.slot fn slot) = { s.slot fn slot with bytes := BMap.writeBytes (s.slot fn slot).bytes o data } ∧
          (∀ g n, slotKey g n ≠ slotKey fn slot → t.slot g n = s.slot g n) ∧ Same [.fns, .slots, .power] s t)) ∧
  (∀ (s : State) (fn : Nat), s.barOpen fn = true →
      (∀ off : Nat, off ∈ reg64Offsets fn → off ≠ 0x20 → ∃ t, exec (.lowHalfRead fn off) s = .next t ∧
        t.fn fn = { s.fn fn with capture := some (off, BitVec.ofNat 64 (s.reg64 fn off)) } ∧ Same [.fns] s t) ∧
      (∃ t, exec (.lowHalfRead fn 0x20) s = .next t ∧
        t.fn fn = { s.fn fn with capture := some (0x20, BitVec.ofNat 64 (s.stamp .hub).1) } ∧ Same [.free, .time, .fns] s t) ∧
      (∀ v : BitVec 64, s.hifTakes = true → ∃ t, exec (.logCursor fn v) s = .next t ∧
        (t.fn fn).logCursor.toNat = v.toNat % 2 ^ 48 ∧
        (t.fn fn).logWindow =
          ((s.visible fn).filter (fun e => decide (max (v.toNat % 2 ^ 48) s.logOldest ≤ e.seq))).take 64) ∧
      (s.hifTakes = true → ∃ t, exec (.snap fn) s = .next t ∧
        (t.fn fn).surveyStamp = (s.stamp .hub).1 ∧
        (t.fn fn).survey = fieldBytes ((s.stamp .hub).2.surveyFields fn (s.stamp .hub).1)))

/-- A finished command completes (R333, R334). Completes: `commandComplete`, `flushReadComplete`. Without FLUSH_PATHS the slot goes to DONE with the reply of R333, its status the command's own, for a domain command that of
its lowest failing member (R345); its completion flag, when it has one, is the last host write issued; with FLUSH_PATHS a
zero-length read of FLUSH_ADDR goes out first, and its completion writes the reply, with PATHS_FLUSHED unless another member's
path was lost (R344); a relayed command reports to its issuer and leaves its place empty.

A deadline that has passed (R337). Completes: `deadlineExpire`. A command that has not started ends with TIMEOUT and no effect of its own; a running
one is stopped, ends with TIMEOUT and sets DEADLINE_PASSED. -/
def Obligations.completionsComplete : Prop :=
  (∀ (s : State) (fn slot : Nat), fn ≤ 8 →
      (s.mayComplete fn slot = true → (s.cmd fn slot).relayed = none →
        (bit (s.cmd fn slot).cmdFlags 0 = false → ∃ t, exec (.commandComplete fn slot) s = .next t ∧
          (t.slot fn slot).state = .done ∧ (t.slot fn slot).status = s.domainStatus (s.cmd fn slot) ∧ (t.cmd fn slot).phase = .none ∧
          (bit (s.cmd fn slot).cmdFlags 1 = false → (s.cmd fn slot).pathLost = false → (t.slot fn slot).status = (s.cmd fn slot).status) ∧
          BMap.readBytes (t.slot fn slot).reply 0 2 = natLe (s.domainStatus (s.cmd fn slot)) 2 ∧
          BMap.readBytes (t.slot fn slot).reply 3 5 = natLe slot 1 ++ natLe (s.cmd fn slot).tag 4 ∧
          BMap.readBytes (t.slot fn slot).reply 8 24 =
            natLe (s.cmd fn slot).arrival 8 ++ natLe (s.cmd fn slot).start 8 ++ natLe (s.cmd fn slot).stop 8 ∧
          (∀ i, i < 4 → BMap.readLe (t.slot fn slot).reply (32 + 8 * i) 8 = ((s.cmd fn slot).result.getD i 0).toNat) ∧
          (bit (s.cmd fn slot).cmdFlags 2 = false → (s.cmd fn slot).flagAddr = 0 → t.link = s.link) ∧
          (bit (s.cmd fn slot).cmdFlags 2 = false → (s.cmd fn slot).flagAddr ≠ 0 → (s.cmd fn slot).flagAddr % 8 = 0 →
            (s.cmd fn slot).noFlag = false → s.hostOpen fn = true → (s.part fn).host ≠ .orphaned → 8 ≤ s.link.mps →
            t.link.writes.map (·.tlps) = s.link.writes.map (·.tlps) ++ [[((s.cmd fn slot).flagAddr,
              natLe (s.cmd fn slot).tag 4 ++ natLe (s.domainStatus (s.cmd fn slot)) 2 ++ natLe slot 1 ++ natLe 1 1)]])) ∧
        (bit (s.cmd fn slot).cmdFlags 0 = true → s.hostOpen fn = true → (s.cmd fn slot).noFlag = false →
          (s.part fn).host ≠ .orphaned → ∃ t, exec (.commandComplete fn slot) s = .next t ∧
          (t.cmd fn slot).phase = .flushing ∧ t.link.reads.length = s.link.reads.length + 1 ∧
          t.link.reads.getLast?.map (fun r => (r.addr, r.len)) = some ((s.fn fn).flushAddr.toNat, 0))) ∧
      (s.link.recovery = none → (s.cmd fn slot).phase = .flushing → ∃ t, exec (.flushReadComplete fn slot) s = .next t ∧
        (t.slot fn slot).state = .done ∧ (t.cmd fn slot).flushed = !(s.cmd fn slot).pathLost ∧ (t.slot fn slot).status = (s.cmd fn slot).status) ∧
      (∀ issuer, s.mayComplete fn slot = true → (s.cmd fn slot).relayed = some issuer →
        ∃ t, exec (.commandComplete fn slot) s = .next t ∧ (t.cmd fn slot).phase = .none ∧ (t.slot fn slot).state = .free)) ∧
  (∀ (s : State) (fn slot : Nat), s.deadlinePassed fn (s.cmd fn slot) = true →
      ∃ t, exec (.deadlineExpire fn slot) s = .next t ∧
        (t.cmd fn slot).phase = .finished ∧ (t.cmd fn slot).status = stTIMEOUT ∧
        (t.cmd fn slot).late = ((s.cmd fn slot).late || (s.cmd fn slot).phase == .running) ∧
        ((s.cmd fn slot).phase = .accepted → Same [.free, .time, .fns, .slots] s t))

/-- The host link (R347). Completes: `hostLinkLost`, `hostLinkUp`, `linkRecovery`, `linkRecoveryEnd`. Its loss drops every posted write and outstanding read and orphans every partition with its token
kept; it comes back with each function's registers at their reset values; Recovery holds, and its end sets speed and width.

Function-level reset and bus mastering (R355, R356). Completes: `flr`, `flrComplete`, `busMasterDisable`, `busMasterEnable`. An FLR drops the function's host traffic at once; 100 ms later its
slots are FREE and its partition is ORPHANED with CAUSE FLR and its token kept; clearing Bus Master Enable drops the traffic
and leaves the partition as it stands; setting it only sets it.

Heartbeats (R350). Completes: `hostAlive`, `heartbeatTimeout`. A write to HOST_ALIVE while ATTACHED restarts the heartbeat timer; in any other state it changes
nothing but the end of a capture; a partition still ATTACHED when its heartbeat time has passed becomes ORPHANED, CAUSE 1. -/
def Obligations.hostLinksComplete : Prop :=
  (∀ (s : State),
      (∀ cause, s.link.up = true → s.power.state ≠ .ms4 → ∃ t, exec (.hostLinkLost cause) s = .next t ∧
        t.link.up = false ∧ t.link.writes = [] ∧ t.link.reads = [] ∧ t.link.perst = (cause == .perst) ∧
        (∀ p, 1 ≤ p → p ≤ 8 → (s.part p).isPresent = true → (t.part p).host = .orphaned ∧ (t.part p).token = (s.part p).token ∧
          ((s.part p).host ≠ .orphaned → (t.part p).cause = 2))) ∧
      (s.link.up = false → s.power.state = .ms0 → ∃ t, exec .hostLinkUp s = .next t ∧ t.link.up = true ∧ t.link.perst = false ∧
        (∀ f, f < 9 → (t.fn f).bme = false ∧ (t.fn f).heartbeat = 8 ∧ (t.fn f).flushAddr = 0 ∧ (t.fn f).arrivals = (s.fn f).arrivals) ∧
        Same [.link, .fns] s t) ∧
      (s.link.up = true → s.link.recovery = none → ∃ t, exec .linkRecovery s = .next t ∧ t.link = { s.link with recovery := some s.now } ∧
        Same [.link] s t) ∧
      (∀ gts width since, s.link.recovery = some since → ∃ t, exec (.linkRecoveryEnd gts width) s = .next t ∧
        t.link.recovery = none ∧ t.link.gts = gts ∧ t.link.width = width ∧ t.link.writes = s.link.writes ∧
        t.link.reads = s.link.reads.map (fun r => { r with issued := r.issued + (s.now - since) }) ∧ Same [.link, .slots, .fns] s t)) ∧
  (∀ (s : State) (fn : Nat), fn < 9 →
      (s.link.up = true → (s.fn fn).flrStart = none → ∃ t, exec (.flr fn) s = .next t ∧
        (t.fn fn).flrStart = some s.now ∧ (∀ w ∈ t.link.writes, w.fn ≠ fn) ∧ (∀ r ∈ t.link.reads, r.fn ≠ fn) ∧
        (∀ n, n < 128 → (s.cmd fn n).live = true → (t.cmd fn n).live = false ∧ (t.cmd fn n).noFlag = true)) ∧
      (∀ since, (s.fn fn).flrStart = some since → since + 100000000 ≤ s.now → ∃ t, exec (.flrComplete fn) s = .next t ∧
        (t.fn fn).flrStart = none ∧ (t.fn fn).bme = false ∧ (∀ n, n < 128 → (t.slot fn n).state = .free ∧ (t.slot fn n).bytes = []) ∧
        (fn ≠ 0 → (s.part fn).isPresent = true →
          (t.part fn).host = .orphaned ∧ (t.part fn).cause = 3 ∧ (t.part fn).token = (s.part fn).token)) ∧
      ((s.fn fn).bme = true → ∃ t, exec (.busMasterDisable fn) s = .next t ∧ (t.fn fn).bme = false ∧
        (∀ w ∈ t.link.writes, w.fn ≠ fn) ∧ (∀ r ∈ t.link.reads, r.fn ≠ fn) ∧ (t.part fn).host = (s.part fn).host) ∧
      (s.link.up = true → ∃ t, exec (.busMasterEnable fn) s = .next t ∧ t.fn fn = { s.fn fn with bme := true } ∧ Same [.fns] s t)) ∧
  (∀ (s : State) (fn : Nat) (value : BitVec 32),
      (s.barOpen fn = true → s.hifTakes = true → 1 ≤ fn → ∃ t, exec (.hostAlive fn value) s = .next t ∧
        t.fn fn = (if (s.part fn).host = .attached then { s.fn fn with hostAlive := value, lastBeat := s.now, capture := none }
          else { s.fn fn with capture := none }) ∧
        (∀ g, g ≠ fn → t.fn g = s.fn g) ∧ Same [.fns] s t) ∧
      ((s.part fn).host = .attached → s.power.state = .ms0 → s.link.recovery = none → s.hifTakes = true →
        (s.fn fn).lastBeat + (s.fn fn).heartbeat.toNat * 1000000000 ≤ s.now → ∃ t, exec (.heartbeatTimeout fn) s = .next t ∧
        (t.part fn).host = .orphaned ∧ (t.part fn).cause = 1 ∧ (t.part fn).token = (s.part fn).token))

/-- Completions of host requests (R339, R340, R411). Completes: `hostReadCompletion`, `hostReadTimeout`, `hostWriteAck`. Data reach the command's buffer; Unsupported Request and Completer Abort
end a request with DENIED, poison and a 50 ms silence with DATA_ERROR; a completion of no outstanding read is recorded; the
acknowledgement of a function's oldest write takes it off.

Relayed commands (R345). Completes: `domainRelay`, `domainReport`. A member of an active domain takes a relayed command as an accepted one; the issuing member keeps
the first report of a position, and a lost host link as a lost path. -/
def Obligations.hostRequestsComplete : Prop :=
  (∀ (s : State), s.link.up = true → s.link.recovery = none →
      (∀ (r : HostRead) (f n : Nat), s.link.reads.find? (fun x => x.tag == r.tag) = some r → r.owner = .command f n →
        (∀ bytes : List Byte, bytes.length = r.len → ∃ t, exec (.hostReadCompletion r.tag (.data bytes)) s = .next t ∧
          (t.cmd f n).buf = BMap.writeBytes (s.cmd f n).buf r.off bytes ∧ (t.cmd f n).reads = (s.cmd f n).reads - 1 ∧
          t.link.reads = s.link.reads.filter (fun x => x.tag != r.tag) ∧ Same [.link, .slots] s t) ∧
        ((s.cmd f n).failed = 0 →
          (∃ t, exec (.hostReadCompletion r.tag .unsupportedRequest) s = .next t ∧ (t.cmd f n).failed = stDENIED ∧ Same [.link, .slots] s t) ∧
          (∃ t, exec (.hostReadCompletion r.tag .completerAbort) s = .next t ∧ (t.cmd f n).failed = stDENIED ∧ Same [.link, .slots] s t) ∧
          (∃ t, exec (.hostReadCompletion r.tag .poisoned) s = .next t ∧ (t.cmd f n).failed = stDATA_ERROR ∧ Same [.link, .slots] s t) ∧
          (r.issued + 50000000 ≤ s.now → ∃ t, exec (.hostReadTimeout r.tag) s = .next t ∧ (t.cmd f n).failed = stDATA_ERROR ∧
            t.link.reads = s.link.reads.filter (fun x => x.tag != r.tag) ∧ Same [.link, .slots] s t))) ∧
      (∀ (tag : Nat) (result : HostReadResult), s.link.reads.find? (fun x => x.tag == tag) = none → tag < s.link.nextTag →
        ∃ t, exec (.hostReadCompletion tag result) s = .next t ∧ t.log.faults = s.log.faults + 1 ∧ t.link = s.link) ∧
      (∀ (w : HostWrite), s.link.writes.find? (fun x => x.id == w.id) = some w → s.link.writes.find? (fun x => x.fn == w.fn) = some w →
        ∃ t, exec (.hostWriteAck w.id) s = .next t ∧ t.link.writes = s.link.writes.filter (fun x => x.id != w.id) ∧
          (∀ f n, w.owner = .command f n → (t.cmd f n).writes = (s.cmd f n).writes - 1))) ∧
  (∀ (s : State) (fn : Nat), 1 ≤ fn →
      (∀ (issuer : Nat) (packet : List Byte) (n : Nat), s.domainActive fn = true → issuer ≠ s.fabric.position →
        findFrom (fun m => (s.cmd fn m).phase == .none) 64 64 = some n → (s.part fn).host ≠ .orphaned →
        ∃ t, exec (.domainRelay fn issuer packet) s = .next t ∧ (t.cmd fn n).phase = .accepted ∧
          (t.cmd fn n).packet = BMap.writeBytes [] 0 packet ∧ (t.cmd fn n).relayed = some issuer ∧
          (∀ g m, slotKey g m ≠ slotKey fn n → t.slot g m = s.slot g m) ∧ Same [.free, .time, .slots] s t) ∧
      (∀ (slot position status : Nat), (s.cmd fn slot).phase ≠ .none → bit (s.cmd fn slot).cmdFlags 1 = true → (s.cmd fn slot).relayed = none →
        position ≠ s.fabric.position → Tbl.get 0 (s.cmd fn slot).reports position = 0 →
        ∃ t, exec (.domainReport fn slot position status) s = .next t ∧ Tbl.get 0 (t.cmd fn slot).reports position = status + 1 ∧
          (∀ q, q ≠ position → Tbl.get 0 (t.cmd fn slot).reports q = Tbl.get 0 (s.cmd fn slot).reports q) ∧
          (t.cmd fn slot).pathLost = ((s.cmd fn slot).pathLost || status == stHOST_LINK_LOST) ∧
          (status ≠ stHOST_LINK_LOST → Same [.slots] s t) ∧ Same [.free, .time, .log, .slots, .side] s t))

/-- Entries into MS2, MS3 and MS4 and a partition's wake (R447, R449, R450, R451, R453). Completes: `enterMs2`, `powerWake`, `enterMs3`,
`enterMs4`. With no refusal condition and WAKE_N not held low, MS2 unloads
the partition's programs and puts its stacks in SELF_REFRESH, host state and token kept; MS3 puts every partition to sleep;
MS4 leaves a complete image with the log ring empty.

Power requests that a condition of R448 meets are refused: they start nothing, count once in the counter of their scope
and name the first condition's reason and agent (R457). -/
def Obligations.powerEntriesComplete : Prop :=
  (∀ (s : State) (fn : Nat),
      (s.barOpen fn = true → s.hifTakes = true → 1 ≤ fn → fn ≤ 8 → (s.part fn).isPresent = true → s.power.state = .ms0 →
        (s.powerRegs fn).phase = 0 →
        ((s.part fn).asleep = false → s.refusalsMs2 fn = [] → ∃ t, exec (.enterMs2 fn none) s = .next t ∧
          (t.part fn).asleep = true ∧ (t.part fn).programs = [] ∧ (t.part fn).power.phase = 0 ∧ (t.part fn).power.result = 1 ∧
          (∀ k, k < 20 → (s.part fn).hbm.getLsbD k = true → (s.stack k).mode ≠ .failed → (t.stack k).mode = .selfRefresh) ∧
          (t.part fn).token = (s.part fn).token ∧ (t.part fn).host = (s.part fn).host) ∧
        ((s.part fn).asleep = true → ∃ t, exec (.powerWake fn) s = .next t ∧
          (t.part fn).asleep = false ∧ (t.part fn).power.phase = 0 ∧ (t.part fn).power.request = 0 ∧
          (∀ k, k < 20 → (s.part fn).hbm.getLsbD k = true → (s.stack k).mode = .selfRefresh → (t.stack k).mode = .service))) ∧
      (s.barOpen 0 = true → s.hifTakes = true → s.power.state = .ms0 → s.power.devReady = true → s.refusalsModule = [] → s.power.regs.phase = 0 →
        s.side.wakeLow = false →
        (∃ t, exec (.enterMs3 none) s = .next t ∧ t.power.state = .ms3 ∧ t.power.regs.phase = 0 ∧ t.power.regs.result = 1 ∧
          t.tiles = [] ∧ t.atps = [] ∧
          (∀ p, 1 ≤ p → p ≤ 8 → (s.part p).isPresent = true → (t.part p).asleep = true ∧ (t.part p).programs = []) ∧
          (∀ k, k < 20 → (s.stack k).mode ≠ .failed → (t.stack k).mode = .selfRefresh)) ∧
        (∃ t, exec (.enterMs4 none) s = .next t ∧ t.power.state = .ms4 ∧ t.power.image = some s.grantedBytes ∧ t.sec.hibKey = true ∧
          t.link.up = false ∧ t.log.entries = []))) ∧
  (∀ (s : State) (reason agent : Nat) (rest : List (Nat × Nat)),
      s.barOpen 0 = true → s.hifTakes = true → s.power.state = .ms0 → s.power.devReady = true → s.power.regs.phase = 0 →
      s.refusalsModule = (reason, agent) :: rest →
      (∀ event, ∃ t, exec (.enterMs3 event) s = .next t ∧ t.power.state = .ms0 ∧ t.power.regs.result = 2 ∧
        t.power.regs.reason = BitVec.ofNat 8 reason ∧ t.power.regs.agent = BitVec.ofNat 8 agent ∧ t.power.regs.requested = 3 ∧
        t.power.regs.aRefused = satInc s.power.regs.aRefused ∧ t.power.regs.bRefused = s.power.regs.bRefused ∧
        Same [.free, .time, .log, .fns, .power] s t) ∧
      (∀ event, ∃ t, exec (.enterMs4 event) s = .next t ∧ t.power.state = .ms0 ∧ t.power.regs.result = 2 ∧
        t.power.regs.reason = BitVec.ofNat 8 reason ∧ t.power.regs.agent = BitVec.ofNat 8 agent ∧ t.power.regs.requested = 4 ∧
        t.power.regs.bRefused = satInc s.power.regs.bRefused ∧ t.power.regs.aRefused = s.power.regs.aRefused ∧
        Same [.free, .time, .log, .fns, .power] s t))

/-- Reports (R360, R380, R381, R382). Completes: `nop`, `traceSet`, `getSurvey`, `logRead`. NOP replies OK with no result word and
changes no other slot; TRACE_SET writes the trace points of the processor it names and of no other and replies with the old
ones; GET_SURVEY writes as many bytes of the report as asked and replies with its length; LOG_READ writes the visible entries
from START on and replies with how many and with the number after the last.

A command that one of its conditions refuses changes nothing but its own slot, its function's arrivals and the stamps
(R359): TRACE_SET of no processor, a FAB_CONFIG in a domain, a PART_SET that R366 refuses. -/
def Obligations.reportCommandsComplete : Prop :=
  (∀ (s : State) (fn slot : Nat),
      (s.canTake fn slot opNOP = true → ∃ t, exec (.nop fn slot) s = .next t ∧ Finished t fn slot stOK [] ∧
        (∀ g n, slotKey g n ≠ slotKey fn slot → t.slot g n = s.slot g n)) ∧
      (s.canTake fn slot opTRACE_SET = true → (s.cmd fn slot).param 0 8 ≤ 10 → ∃ t, exec (.traceSet fn slot) s = .next t ∧
        Finished t fn slot stOK [(s.proc ((s.cmd fn slot).param 0 8)).enable.toNat] ∧
        t.proc ((s.cmd fn slot).param 0 8) =
          { s.proc ((s.cmd fn slot).param 0 8) with enable := BitVec.ofNat 64 ((s.cmd fn slot).param 8 8) } ∧
        (∀ c, c ≠ (s.cmd fn slot).param 0 8 → t.proc c = s.proc c)) ∧
      (s.canTake fn slot opGET_SURVEY = true → (s.cmd fn slot).param 8 4 % 64 = 0 → (s.cmd fn slot).param 12 4 = 0 →
        s.outCheck fn ((s.cmd fn slot).param 0 8) 64 = 0 → ∃ t, exec (.getSurvey fn slot) s = .next t ∧
        Finished t fn slot stOK [4224, min 4224 ((s.cmd fn slot).param 8 4)] ∧ t.mem = s.mem ∧
        ((s.cmd fn slot).param 8 4 ≠ 0 → (t.cmd fn slot).writes = (s.cmd fn slot).writes + 1)) ∧
      (s.canTake fn slot opLOG_READ = true → 1 ≤ (s.cmd fn slot).param 8 4 → (s.cmd fn slot).param 8 4 ≤ 65536 →
        (s.cmd fn slot).param 12 4 = 0 → s.outCheck fn ((s.cmd fn slot).param 16 8) 64 = 0 →
        ∃ t es, exec (.logRead fn slot) s = .next t ∧
          es = ((s.take fn slot).visible fn |>.filter (fun e => decide ((s.cmd fn slot).param 0 8 ≤ e.seq))).take ((s.cmd fn slot).param 8 4) ∧
          (t.cmd fn slot).phase = .finished ∧ (t.cmd fn slot).status = stOK ∧
          (t.cmd fn slot).result[0]? = some (BitVec.ofNat 64 es.length) ∧
          (∀ e, es.getLast? = some e → (t.cmd fn slot).result[1]? = some (BitVec.ofNat 64 (e.seq + 1))) ∧
          (es ≠ [] → (t.link.writes.getLast?.map (fun w => (w.tlps.map (·.2)).flatten)) = some (es.flatMap entryBytes)))) ∧
  (∀ (s : State) (slot : Nat),
      (s.canTake 0 slot opTRACE_SET = true → 10 < (s.cmd 0 slot).param 0 8 → ∃ t, exec (.traceSet 0 slot) s = .next t ∧
        (t.cmd 0 slot).status = stBAD_PARAM ∧ (t.cmd 0 slot).phase = .finished ∧ Same [.free, .time, .fns, .slots] s t) ∧
      (s.canTake 0 slot opFAB_CONFIG = true → (s.cmd 0 slot).param 0 8 = 0xFF → (∃ p ∈ allParts, (s.part p).domain ≠ 0) →
        ∃ t, exec (.fabConfig 0 slot) s = .next t ∧
        (t.cmd 0 slot).status = stBUSY ∧ (t.cmd 0 slot).phase = .finished ∧ Same [.free, .time, .fns, .slots] s t) ∧
      (s.canTake 0 slot opPART_SET = true → (s.cmd 0 slot).param 0 1 = 9 → ∃ t, exec (.partSet 0 slot) s = .next t ∧
        (t.cmd 0 slot).status = stBAD_PARAM ∧ (t.cmd 0 slot).phase = .finished ∧ Same [.free, .time, .fns, .slots] s t))

/-- ATTACH (R352, R353, R362). Completes: `attach`, `attachResume`, `attachLockoutEnd`. With the token the partition holds, a DETACHED or ATTACHED partition becomes ATTACHED with a new
token, never 0 and never the old one, and the reply holds it; a wrong token gives DENIED and changes no partition; an ORPHANED
partition attaches once every other command has ended; a lockout ends after 1 s. -/
def Obligations.attachCommandsComplete : Prop :=
  ∀ (s : State) (fn slot : Nat),
    (s.canTake fn slot opATTACH = true → (s.fn fn).lockout = none →
      ((s.part fn).isPresent = true → (s.cmd fn slot).attachToken = (s.part fn).token.toNat → (s.part fn).host ≠ .orphaned → ∃ t, exec (.attach fn slot) s = .next t ∧
        (t.part fn).host = .attached ∧ (t.part fn).token ≠ 0 ∧ (t.part fn).token ≠ (s.part fn).token ∧
        Finished t fn slot stOK [(t.part fn).token.toNat, hostCode (s.part fn).host] ∧ (t.fn fn).lastBeat = s.now ∧ (t.fn fn).refusals = 0 ∧
        (∀ p, p ≠ fn → t.part p = s.part p)) ∧
      ((s.cmd fn slot).attachToken ≠ (s.part fn).token.toNat → ∃ t, exec (.attach fn slot) s = .next t ∧
        (t.cmd fn slot).phase = .finished ∧ (t.cmd fn slot).status = stDENIED ∧ (t.fn fn).refusals = (s.fn fn).refusals + 1 ∧
        (16 ≤ (s.fn fn).refusals + 1 → (t.fn fn).lockout = some s.now) ∧
        (t.part fn).host = (s.part fn).host ∧ (t.part fn).token = (s.part fn).token)) ∧
    (s.inRun fn slot opATTACH = true → (s.cmd fn slot).stage = 1 → s.workLeft fn = false → (s.part fn).host = .orphaned →
      ∃ t, exec (.attachResume fn slot) s = .next t ∧ (t.part fn).host = .attached ∧ (t.part fn).token ≠ 0 ∧
        (t.part fn).token ≠ (s.part fn).token ∧ Finished t fn slot stOK [(t.part fn).token.toNat, 2]) ∧
    (∀ since, (s.fn fn).lockout = some since → since + 1000000000 ≤ s.now → ∃ t, exec (.attachLockoutEnd fn) s = .next t ∧
      t.fn fn = { s.fn fn with lockout := none, refusals := 0 } ∧ Same [.fns] s t)

/-- HALT through a partition's function (R361). Completes: `halt`. Every other command of the function that is queued or running, HALTs apart,
ends with ABORTED, its applies start again from PREPARE, and once no host write and no packet of its domain is left the HALT
replies OK.

Resets (R354, R363, R364). Completes: `resetPartition`, `resetModule`. A partition's reset frees its pools and programs and begins to clear its
stacks and sections, and ends it DETACHED with token 0 once they are cleared; a module reset, its reply out, begins start-up
with partition tables, contexts and stack contents lost and the flash and the fuses kept. -/
def Obligations.haltsAndResetsComplete : Prop :=
  (∀ (s : State) (fn slot : Nat), 1 ≤ fn → s.canTake fn slot opHALT = true →
      ∃ t, exec (.halt fn slot) s = .next t ∧
        (∀ n, n < 128 → n ≠ slot → (s.cmd fn n).live = true → (s.cmd fn n).opcode ≠ opHALT →
          (t.cmd fn n).phase = .finished ∧ (t.cmd fn n).status = stABORTED) ∧
        (∀ a ∈ (t.part fn).train.applies, a.halted = true ∧ a.phase = 1) ∧
        ((∀ w ∈ s.link.writes, w.fn ≠ fn) → (s.part fn).domain = 0 → (t.cmd fn slot).phase = .finished ∧ (t.cmd fn slot).status = stOK) ∧
        (t.part fn).host = (s.part fn).host ∧ (t.part fn).token = (s.part fn).token) ∧
  (∀ (s : State) (fn slot : Nat),
      (1 ≤ fn → fn ≤ 8 → s.canTake fn slot opRESET_PARTITION = true → ∃ t, exec (.resetPartition fn slot) s = .next t ∧
        (t.part fn).programs = [] ∧ (t.part fn).pools = [] ∧ (t.part fn).train = {} ∧
        (t.part fn).hbm = (s.part fn).hbm ∧ (t.part fn).sections = (s.part fn).sections ∧
        (∀ k, k < 20 → (s.part fn).hbm.getLsbD k = true → (s.stack k).mode = .service → (t.stack k).mode = .scrubbing) ∧
        t.secClear &&& (s.part fn).sections = (s.part fn).sections ∧
        (∀ n, n < 128 → n ≠ slot → (s.cmd fn n).live = true → (t.cmd fn n).phase = .finished ∧ (t.cmd fn n).status = stABORTED)) ∧
      (1 ≤ fn → s.inRun fn slot opRESET_PARTITION = true → s.clearingLeft fn = false → ∃ t, exec (.resetPartition fn slot) s = .next t ∧
        (t.part fn).host = .detached ∧ (t.part fn).token = 0 ∧ (t.cmd fn slot).phase = .finished ∧ (t.cmd fn slot).status = stOK ∧
        (t.cmd fn slot).result = (s.cmd fn slot).result ∧ (∀ p, p ≠ fn → t.part p = s.part p)) ∧
      (s.canTake 0 slot opRESET_MODULE = true → (s.cmd 0 slot).param 0 8 = 1 → ∃ t, exec (.resetModule 0 slot) s = .next t ∧
        t.power.resetting = some slot ∧ (t.cmd 0 slot).phase = .finished ∧ (t.cmd 0 slot).status = stOK) ∧
      (s.power.resetting = some slot → (s.cmd 0 slot).phase = .none → ∃ t, exec (.resetModule 0 slot) s = .next t ∧
        t.power.state = .starting ∧ t.link.up = false ∧ t.parts = [] ∧ t.ctxs = [] ∧ t.mem = [] ∧ t.tiles = [] ∧ t.flash = s.flash ∧
        t.sec.rollback = s.sec.rollback ∧ t.sec.revoked = s.sec.revoked))

/-- PART_SET that passes R366 writes the groups that UPDATE selects (R365). Completes: `partSet`. The partition holds the sections, stacks and quota
of its parameters, released sections and stacks begin to be cleared, and no other partition's grant changes; a partition begins
DETACHED with token 0. -/
def Obligations.partSetWritesTheTable : Prop :=
  ∀ (s : State) (slot p : Nat), s.canTake 0 slot opPART_SET = true → (s.cmd 0 slot).param 0 1 = p →
    s.grantCheck (s.cmd 0 slot) = 0 → ((s.grantParams (s.cmd 0 slot)).sections ≠ 0 ∨ (s.grantParams (s.cmd 0 slot)).hbm ≠ 0) →
    ∃ t, exec (.partSet 0 slot) s = .next t ∧ (t.cmd 0 slot).phase = .finished ∧ (t.cmd 0 slot).status = stOK ∧
      (t.part p).isPresent = true ∧
      (bit ((s.cmd 0 slot).param 1 1) 0 = true → (t.part p).sections = BitVec.ofNat 16 ((s.cmd 0 slot).param 6 2) ∧
        (t.part p).hbm = BitVec.ofNat 20 ((s.cmd 0 slot).param 8 4) ∧ (t.part p).ctxQuota = (s.cmd 0 slot).param 14 2) ∧
      (bit ((s.cmd 0 slot).param 1 1) 0 = false → (t.part p).sections = (s.part p).sections ∧ (t.part p).hbm = (s.part p).hbm ∧
        (t.part p).ctxQuota = (s.part p).ctxQuota) ∧
      (bit ((s.cmd 0 slot).param 1 1) 2 = true → (t.part p).policy = bit ((s.cmd 0 slot).param 2 1) 0) ∧
      (bit ((s.cmd 0 slot).param 1 1) 3 = true → (t.part p).domain = (s.cmd 0 slot).param 4 2) ∧
      (∀ k, k < 20 → (s.part p).hbm.getLsbD k = true → (t.part p).hbm.getLsbD k = false → (s.stack k).mode ≠ .failed →
        (t.stack k).mode = .scrubbing) ∧
      ((s.part p).isPresent = false → (t.part p).host = .detached ∧ (t.part p).token = 0) ∧
      (∀ q, q ≠ p → (t.part q).sections = (s.part q).sections ∧ (t.part q).hbm = (s.part q).hbm ∧ (t.part q).host = (s.part q).host ∧
        (t.part q).token = (s.part q).token)

/-- Units taken out of service (R32, R368, R413). Completes: `tileDisable`, `sectionDisable`. With no running program on it, a disabled tile is
cleared and its name passes to the physical tile the reply names; a disabled section is out of service with its tiles and ATP
cleared.

The end of a drain and of a clearing (R32, R413). Completes: `drainExpire`, `clearingEnd`. At the end of the drain the programs
still running end with ABORTED; the end of a clearing makes a section, a stack or an extent free, its contents zero. -/
def Obligations.disablesAndClearingsComplete : Prop :=
  (∀ (s : State) (fn slot u : Nat), (∀ d ∈ s.drains, ¬(d.fn = fn ∧ d.slot = slot)) →
      (s.canTake fn slot opTILE_DISABLE = true → (s.cmd fn slot).param 0 1 = u → u < 256 → (s.cmd fn slot).param 1 3 = 0 →
        (s.cmd fn slot).param 4 4 ≤ 1000000 → (s.cmd fn slot).note = 0 → s.programsOn [u] [] = [] →
        ∃ t k, exec (.tileDisable fn slot) s = .next t ∧ t.tile u = {} ∧ (t.die (u / 64)).physicalOf (u % 64) = k ∧
          Finished t fn slot stOK [0, k] ∧ (∀ v, v ≠ u → (t.tile v).store = (s.tile v).store)) ∧
      (s.canTake fn slot opSECTION_DISABLE = true → (s.cmd fn slot).param 0 1 = u → u < 16 → (s.cmd fn slot).param 1 3 = 0 →
        (s.cmd fn slot).param 4 4 ≤ 1000000 → (s.cmd fn slot).note = 0 →
        s.programsOn ((List.range 16).map (fun k => 16 * u + k)) [u] = [] →
        ∃ t, exec (.sectionDisable fn slot) s = .next t ∧ t.secOut.getLsbD u = true ∧ (t.atp u).program = none ∧
          (∀ k, k < 16 → (t.tile (16 * u + k)).program = none ∧ (t.tile (16 * u + k)).running = false ∧ (t.tile (16 * u + k)).store = []) ∧
          Finished t fn slot stOK [0, 0])) ∧
  (∀ (s : State),
      (∀ (d : Drain) (p g f n : Nat), s.drains.find? (fun e => e.fn == d.fn && e.slot == d.slot) = some d → d.expiry ≤ s.now →
        (p, g) ∈ s.programsOn d.tiles d.atps → (s.program p g).cmd = some (f, n) → (s.cmd f n).live = true →
        ∃ t, exec (.drainExpire d.fn d.slot) s = .next t ∧ (t.cmd f n).phase = .finished ∧ (t.cmd f n).status = stABORTED) ∧
      (∀ i, i < 16 → s.secClear.getLsbD i = true → ∃ t, exec (.clearingEnd (.tileSection i)) s = .next t ∧
        t.secClear = s.secClear &&& ~~~(1#16 <<< i) ∧ (∀ k, k < 16 → (t.tile (16 * i + k)).store = [] ∧ (t.tile (16 * i + k)).groups = [])) ∧
      (∀ k, k < 20 → (s.stack k).mode = .scrubbing → (s.stack k).level < 2 → ∃ t, exec (.clearingEnd (.stack k)) s = .next t ∧ (t.stack k).mode = .service ∧
        (∀ a, a < windowBytes → BMap.read t.mem (k * 2 ^ 37 + a) = 0) ∧ OnlyWrites s t (k * 2 ^ 37) windowBytes) ∧
      (∀ e, (s.extent e).trimming ≠ 0 → ∃ t, exec (.clearingEnd (.extent e)) s = .next t ∧
        t.extent e = { s.extent e with trimming := 0 } ∧ (∀ x, x ≠ e → t.extent x = s.extent x) ∧ t.flash.data = s.flash.data))

/-- CTX_POOL, CTX_OPEN and CTX_QUERY (R168, R169, R176, R376). Completes: `ctxPool`, `ctxOpen`, `ctxQuery`. Once the operation may
begin and its turn has come, the pool holds its parameters, its pages linked into a free list from page 0 on and its table
area zero; the lowest-numbered FREE entry becomes an OPEN context of the partition with L = 0 and no page mapped, and no other
entry changes; a query changes no entry and answers the entry's bytes 0-31.

CTX_TRUNCATE, CTX_FORK and CTX_FREE (R176, R177). Completes: `ctxTruncate`, `ctxFree`, `ctxFork`. With no APPEND on the context,
their turn come and page tables that pass the manager's checks, they have their effects; while an APPEND runs they wait, the
commands running and no context changed. -/
def Obligations.contextCommandsComplete : Prop :=
  (∀ (s b : State) (fn slot : Nat), b = (s.take fn slot).beginCmd fn slot →
      (b.cmdMayBegin fn (b.cmd fn slot) = true → b.mgrTurn (.command fn slot) = true →
        (∀ q, s.canTake fn slot opCTX_POOL = true → s.poolCheck fn (s.cmd fn slot) = 0 → q = (s.cmd fn slot).poolParams →
          (q.pages = 0 ∨ Sound b fn q.metaAddr (8 * q.pages)) → ∃ t, exec (.ctxPool fn slot) s = .next t ∧
          (t.cmd fn slot).phase = .finished ∧ (t.cmd fn slot).status = stOK ∧ t.ctxs = s.ctxs ∧
          t.poolOf fn ((s.cmd fn slot).param 0 1) = (if q.pages = 0 then {} else { q with freeHead := some 0 }) ∧
          (∀ i, i < q.pages → BMap.readLe t.mem (q.metaAddr + 8 * i) 8 = pageRecord 0 0 (if i + 1 = q.pages then noPage else i + 1)) ∧
          (q.pages ≠ 0 → ∀ i, i < 4096 * q.tableFrames → BMap.read t.mem (q.tableAddr + i) = 0)) ∧
        (∀ e q, s.canTake fn slot opCTX_OPEN = true → s.openCheck fn (s.cmd fn slot) = 0 → s.ctxCount fn < (s.part fn).ctxQuota * 1024 →
          s.freeEntry = some e → q = s.poolOf fn ((s.cmd fn slot).param 3 1) → (∃ i, i < q.tableFrames ∧ Tbl.get false q.framesUsed i = false) →
          ∃ t, exec (.ctxOpen fn slot) s = .next t ∧
          Finished t fn slot stOK [e] ∧ (s.ctx e).state = 0 ∧ (∀ i, i < e → (s.ctx i).state ≠ 0) ∧
          (t.ctx e).state = 1 ∧ (t.ctx e).owner = fn ∧ (t.ctx e).pos = 0 ∧ (t.ctx e).mapped = 0 ∧ (t.ctx e).seg = (s.cmd fn slot).param 4 2 ∧
          (∃ i, i < q.tableFrames ∧ Tbl.get false q.framesUsed i = false ∧ (t.ctx e).root = q.tableAddr + 4096 * i ∧
            Tbl.get false (t.poolOf fn ((s.cmd fn slot).param 3 1)).framesUsed i = true) ∧
          (t.ctx e).openStamp = (t.ctx e).lastStamp ∧ (∀ c, c ≠ e → t.ctx c = s.ctx c))) ∧
      (s.canTake fn slot opCTX_QUERY = true → (s.cmd fn slot).param 4 4 = 0 → (s.cmd fn slot).param 8 8 = 0 →
        s.ctxCheck fn ((s.cmd fn slot).param 0 4) true = 0 → ∃ t, exec (.ctxQuery fn slot) s = .next t ∧
        Finished t fn slot stOK ((List.range 4).map (fun i => leNat ((ctxBytes (s.ctx ((s.cmd fn slot).param 0 4))).drop (8 * i) |>.take 8))) ∧
        t.ctxs = s.ctxs ∧ t.mem = s.mem)) ∧
  (∀ (s b : State) (fn slot c : Nat), b = (s.take fn slot).beginCmd fn slot → c = (s.cmd fn slot).param 0 4 → (s.ctx c).state ≠ 0 →
      (∀ op check i, (op, check, i) ∈ [(opCTX_TRUNCATE, decide ((s.cmd fn slot).param 4 4 ≤ (s.ctx c).pos), Instr.ctxTruncate fn slot),
          (opCTX_FREE, decide ((s.cmd fn slot).param 4 4 = 0), Instr.ctxFree fn slot)] →
        s.canTake fn slot op = true → s.ctxCheck fn c false = 0 → check = true → (s.ctx c).appending = true →
        ∃ t, exec i s = .next t ∧ (t.cmd fn slot).phase = .running ∧ t.ctxs = s.ctxs ∧ t.mem = s.mem ∧ .command fn slot ∈ t.mgrQueue) ∧
      (b.cmdMayBegin fn (b.cmd fn slot) = true → b.mgrTurn (.command fn slot) = true →
        (s.canTake fn slot opCTX_TRUNCATE = true → s.ctxCheck fn c false = 0 → (s.cmd fn slot).param 4 4 ≤ (s.ctx c).pos →
          ((b.mgrBegin (.command fn slot)).truncateCtx c ((s.cmd fn slot).param 4 4)).1 = 0 →
          ∃ t, exec (.ctxTruncate fn slot) s = .next t ∧ (t.ctx c).pos = (s.cmd fn slot).param 4 4 ∧ (t.ctx c).state = 1 ∧
            Finished t fn slot stOK [(t.ctx c).mapped]) ∧
        (s.canTake fn slot opCTX_FREE = true → s.ctxCheck fn c true = 0 → (s.cmd fn slot).param 4 4 = 0 →
          ((b.mgrBegin (.command fn slot)).freeCtx c).1 = 0 →
          ∃ t, exec (.ctxFree fn slot) s = .next t ∧ t.ctx c = {} ∧ (t.cmd fn slot).phase = .finished ∧ (t.cmd fn slot).status = stOK) ∧
        (s.canTake fn slot opCTX_FORK = true → s.ctxCheck fn c false = 0 → (s.cmd fn slot).param 8 2 ≠ 0xFFFF →
          (s.cmd fn slot).param 4 4 ≤ (s.ctx c).pos → (s.cmd fn slot).zeros [(10, 6)] = true →
          (∀ e q, (s.cmd fn slot).param 4 4 = 0 → s.ctxCount fn < (s.part fn).ctxQuota * 1024 → s.freeEntry = some e →
            q = s.poolOf fn (s.ctx c).pool → (∃ i, i < q.tableFrames ∧ Tbl.get false q.framesUsed i = false) → ∃ t, exec (.ctxFork fn slot) s = .next t ∧
            (t.ctx e).state = 1 ∧ (t.ctx e).owner = fn ∧ (t.ctx e).pos = 0 ∧ (t.ctx e).mapped = 0 ∧ (t.ctx e).seg = (s.cmd fn slot).param 8 2 ∧
            (t.ctx e).fmt = (s.ctx c).fmt ∧ (t.ctx e).pool = (s.ctx c).pool ∧ Finished t fn slot stOK [e] ∧
            (∀ d, d ≠ c → d ≠ e → t.ctx d = s.ctx d)) ∧
          (∃ t, exec (.ctxFork fn slot) s = .next t ∧ ∀ e,
            ((b.mgrBegin (.command fn slot)).forkCtx fn c ((s.cmd fn slot).param 4 4) ((s.cmd fn slot).param 8 2)).map (·.1) = some e → e < dirEntries →
            (t.ctx e).state = 1 ∧ (t.ctx e).owner = fn ∧ (t.ctx e).pos = (s.cmd fn slot).param 4 4 ∧
            (t.ctx e).seg = (s.cmd fn slot).param 8 2 ∧ (t.ctx e).fmt = (s.ctx c).fmt ∧ (t.ctx e).pool = (s.ctx c).pool ∧
            Finished t fn slot stOK [e]))))

/-- LOAD_PROGRAM from device memory (R124, R370). Completes: `loadProgram`. An image that lies in one block and passes the loader's checks replaces the
programs in its way; each tile it names belongs to the new program and holds its instruction memories; the reply counts tiles
and ATPs. From host memory the image is read first, and nothing is loaded meanwhile.

RUN and its end (R267, R371). Completes: `run`, `runComplete`. RUN of a loaded program starts every tile and ATP of it with cleared flags and writes the BASE
of a binding into the named descriptor of each tile it selects; when all have ended or stopped the command replies with the
status of the first stop, or OK, and the program runs no more. -/
def Obligations.programsLoadAndRun : Prop :=
  (∀ (s b : State) (fn slot g a n : Nat) (m : Image2), s.canTake fn slot opLOAD_PROGRAM = true → b = (s.take fn slot).beginCmd fn slot →
      (s.cmd fn slot).param 0 1 = g → g ≠ 0 → (s.cmd fn slot).param 1 7 = 0 →
      (s.cmd fn slot).param 8 8 = a → (s.cmd fn slot).param 16 8 = n → headerBytes ≤ n →
      (a % 2048 = 0 → OneBlock b fn a n → b.answers fn a n = true →
        (b.imageCheck fn g n (BMap.writeBytes [] 0 (BMap.readBytes s.mem a n))).1 = 0 →
        m = (b.imageCheck fn g n (BMap.writeBytes [] 0 (BMap.readBytes s.mem a n))).2 →
        ∃ t, exec (.loadProgram fn slot) s = .next t ∧ Finished t fn slot stOK [m.tiles.length, m.atpNames.length] ∧
          (t.program fn g).loaded = true ∧ (t.program fn g).tiles = m.tileNames ∧ (t.program fn g).cmd = none ∧
          (∀ x ∈ m.tiles, (t.tile x.tile).program = some (fn, g) ∧ (∀ e i w, e < 4 → i < 4096 → x.words.filter (fun v => v.1 == 4096 * e + i) = [(4096 * e + i, some w)] →
            Tbl.get 0 ((t.tile x.tile).eng (if e = 0 then .F else if e = 1 then .M else if e = 2 then .V else .S)).imem i = w))) ∧
      (2 ^ 63 ≤ a → a % 8 = 0 → s.hostStatus fn = 0 → ∃ t, exec (.loadProgram fn slot) s = .next t ∧ (t.cmd fn slot).phase = .running ∧
        (t.cmd fn slot).stage = 1 ∧ (∀ k, t.tile k = s.tile k) ∧ t.parts = b.parts)) ∧
  (∀ (s b' : State) (fn slot g : Nat), (s.cmd fn slot).param 0 1 = g → b' = (s.take fn slot).beginCmd fn slot →
      (s.canTake fn slot opRUN = true → s.runCheck fn (s.cmd fn slot) = 0 → b'.hbmReady fn = true → s.remotePeers fn (s.cmd fn slot).bindings = [] →
        (s.cmd fn slot).failed = 0 → (s.cmd fn slot).reads = 0 → ∃ t, exec (.run fn slot) s = .next t ∧ (t.cmd fn slot).phase = .running ∧
          (t.program fn g).cmd = some (fn, slot) ∧ (t.program fn g).tiles = (s.program fn g).tiles ∧
          (∀ k ∈ (s.program fn g).tiles, (t.tile k).running = true ∧ (t.tile k).flags = 0 ∧ (t.tile k).f.pc = 0 ∧ (t.tile k).f.imem = (s.tile k).f.imem) ∧
          (∀ k ∈ (s.program fn g).atps, (t.atp k).running = true ∧ (t.atp k).pc = 0 ∧ (t.atp k).ended = false) ∧
          (∀ b k, (s.cmd fn slot).bindings = [b] → k ∈ s.boundTiles fn g b → bits b 15 8 < (s.tile k).descCount →
            (s.tile k).descBase + 64 * (s.tile k).descCount ≤ cfgBase →
            BMap.readLe (t.tile k).store ((s.tile k).descBase + 64 * bits b 15 8) 8 = (s.bound fn b (s.cmd fn slot).buf).1 % 2 ^ 64)) ∧
      (s.inRun fn slot opRUN = true → (s.cmd fn slot).stage = 2 → (s.program fn g).cmd = some (fn, slot) →
        (∀ k ∈ (s.program fn g).tiles, (s.tile k).over' = true) → (∀ k ∈ (s.program fn g).atps, (s.atp k).over' = true) →
        ∃ t, exec (.runComplete fn slot) s = .next t ∧ (t.cmd fn slot).phase = .finished ∧
          (t.cmd fn slot).status = ((s.program fn g).stop.map (·.status)).getD stOK ∧ (t.program fn g).cmd = none ∧
          (t.program fn g).tiles = (s.program fn g).tiles ∧ (∀ k ∈ (s.program fn g).tiles, (t.tile k).running = false) ∧ t.mem = s.mem))

/-- TRAIN_SETUP, STEP_FENCE and its end (R262, R265, R279, R374). Completes: `trainSetup`, `stepFence`, `stepFenceComplete`. The set-up stands in the partition, MODE 1 with the step kept
and MODE 0 with step 0; a fence closes the current step and waits; once its conditions hold it ends with OK, the step counter one
higher and the counts of the reply started again. -/
def Obligations.stepsComplete : Prop :=
  ∀ (s b : State) (fn slot : Nat), b = ((s.take fn slot).beginCmd fn slot).modCmd fn slot (fun c => { c with stage := 1 }) →
    (s.canTake fn slot opTRAIN_SETUP = true → (s.take fn slot).setupCheck fn slot (s.cmd fn slot) = 0 → (s.cmd fn slot).failed = 0 →
      (b.ready fn (b.setupRuns (b.cmd fn slot)).1 (b.setupRuns (b.cmd fn slot)).2 .write (.command fn slot)).1 = true → ∃ t, exec (.trainSetup fn slot) s = .next t ∧
      (t.cmd fn slot).phase = .finished ∧ (t.part fn).train.isSetUp = true ∧ (t.part fn).train.table = (s.cmd fn slot).param 8 8 ∧
      (t.part fn).train.shards = (s.cmd fn slot).param 4 4 ∧ (t.part fn).train.keepSlots = (s.cmd fn slot).param 24 4 ∧
      ((s.cmd fn slot).param 0 1 = 1 → (t.cmd fn slot).status = stOK ∧ (t.part fn).train.step = (s.part fn).train.step) ∧
      ((s.cmd fn slot).param 0 1 = 0 → (t.part fn).train.step = 0 ∧ (t.part fn).train.closed = 0)) ∧
    (s.canTake fn slot opSTEP_FENCE = true → (s.part fn).train.fence = none →
      (∀ n, n < 128 → ¬((s.cmd fn n).phase = .running ∧ (s.cmd fn n).opcode = opRUN)) → b.hbmReady fn = true →
      ∃ t, exec (.stepFence fn slot) s = .next t ∧ (t.cmd fn slot).phase = .running ∧
        (t.part fn).train.fence.map (fun w => (w.fn, w.slot, w.step)) = some (fn, slot, (s.part fn).train.step) ∧
        (t.part fn).train.closed = max (s.part fn).train.closed ((s.part fn).train.step + 1) ∧ (t.part fn).train.step = (s.part fn).train.step) ∧
    (∀ w, (s.part fn).train.fence = some w → w.fn = fn → w.slot = slot → s.inRun fn slot opSTEP_FENCE = true → s.hbmReady fn = true →
      w.error = 0 → s.fenceFault fn w.step = none → s.fenceMet fn w.step = true → ∃ t, exec (.stepFenceComplete fn slot) s = .next t ∧
        Finished t fn slot stOK (fenceWords (s.part fn).train w ((w.met.getD s.now) - w.since) ((s.part fn).train.step + 1)) ∧
        (t.part fn).train.step = (s.part fn).train.step + 1 ∧ (t.part fn).train.fence = none ∧ (t.part fn).train.finished = 0 ∧
        (t.part fn).train.skipped = 0 ∧ (t.part fn).train.faulted = 0)

/-- MAQUETTE (R375, R421, R422, R423), outside a domain, once its pages and stacks serve, where reads and writes succeed.
Completes: `maquetteTake`, `rollback`, `rollforward`. TAKE fills the slot that is not the newest and, where that
succeeds, commits it; ROLLBACK brings
the newest committed slot back, its step with it, and no apply is left; ROLLFORWARD replays the journal entries after it and
brings the step they reach. -/
def Obligations.maquettesComplete : Prop :=
  ∀ (s b st : State) (fn slot : Nat) (runs : List (Nat × Nat) × List (Nat × Nat)), s.canTake fn slot opMAQUETTE = true →
    (s.cmd fn slot).maqFormed = true → (s.cmd fn slot).failed = 0 → (s.cmd fn slot).relayed = none → s.inDomain fn = false →
    b = ((s.take fn slot).beginCmd fn slot).modCmd fn slot (fun c => { c with stage := 3 }) →
    b.ready fn (runs.1.filter (fun r => r.2 != 0)) (runs.2.filter (fun r => r.2 != 0)) .write (.command fn slot) = (true, st) →
    ((s.cmd fn slot).param 0 1 = 0 → (s.take fn slot).takeCheck fn slot (s.cmd fn slot) = 0 → runs = b.takeRuns fn →
      ∃ t, exec (.maquetteTake fn slot) s = .next t ∧
        t = (if (st.fillSlot fn slot).inRun fn slot opMAQUETTE && !(st.fillSlot fn slot).inDomain fn then
          (st.fillSlot fn slot).commitSlot fn slot else st.fillSlot fn slot).endGrants (.command fn slot) ∧
        ((st.fillSlot fn slot).inRun fn slot opMAQUETTE = true →
          (((st.fillSlot fn slot).stamp .hub).2.putDesc fn ((st.fillSlot fn slot).cmd fn slot).note
            { (st.fillSlot fn slot).slotDesc fn ((st.fillSlot fn slot).cmd fn slot).note with
              state := slotCOMMITTED, stamp := ((st.fillSlot fn slot).stamp .hub).1 }).status = 0 →
          t = ((st.fillSlot fn slot).commitSlot fn slot).endGrants (.command fn slot) ∧
          Finished t fn slot stOK [((st.fillSlot fn slot).slotDesc fn ((st.fillSlot fn slot).cmd fn slot).note).step, 0] ∧
          (t.part fn).train.step = (s.part fn).train.step)) ∧
    (∀ k d img s1, (s.cmd fn slot).param 0 1 = 1 → (s.take fn slot).rollbackCheck fn slot (s.cmd fn slot) = 0 → runs = b.rollRuns fn →
      st.findSlot fn = (k, 0, d, img, s1) → s1.imageWithin fn img = true → (s1.restore fn d img).status = 0 →
      ∃ t, exec (.rollback fn slot) s = .next t ∧ Finished t fn slot stOK [d.step, 0] ∧ (t.part fn).train.step = d.step ∧
        (t.part fn).train.applies = [] ∧ (t.part fn).train.faults = []) ∧
    (∀ k d img s1 s2 es r, (s.cmd fn slot).param 0 1 = 2 → (s.take fn slot).rollforwardCheck fn slot (s.cmd fn slot) = 0 →
      runs = b.replayRuns fn → st.newestSlot fn = some k → st.soundSlot fn k = (0, d, img, s1) → s1.journalAfter fn d.jseq = (some es, s2) →
      (((imageParts img).find? (fun e => e.1 == (s1.part fn).train.table)).map (·.2) |>.getD []).length = 512 * (s2.part fn).train.shards →
      r = s2.replayed fn (s2.replayBase fn d (((imageParts img).find? (fun e => e.1 == (s1.part fn).train.table)).map (·.2) |>.getD [])) es →
      (s2.stepsDiffer fn).1 = false → ((s2.stepsDiffer fn).2.checkActive fn r).status = 0 →
      (((s2.stepsDiffer fn).2.checkActive fn r).st.writeReplayed fn r).status = 0 →
      ∃ t, exec (.rollforward fn slot) s = .next t ∧ Finished t fn slot stOK [d.step, es.length] ∧ (t.part fn).train.step = r.step ∧
        (t.part fn).train.faults = [])

/-- TIER_HINT and TIER_STATUS (R235, R244, R378). Completes: `tierHint`, `tierStatus`. Hints that find room are queued in page order and the command ends with OK;
TIER_STATUS writes the record of every page of its range to host memory and changes no page. -/
def Obligations.tierCommandsComplete : Prop :=
  ∀ (s : State) (fn slot first n : Nat),
    (s.cmd fn slot).param 0 4 = first → (s.cmd fn slot).param 4 4 = n →
    (∀ kind, s.canTake fn slot opTIER_HINT = true → hintOf ((s.cmd fn slot).param 8 1) = some kind → (s.cmd fn slot).zeros [(9, 7)] = true →
      s.rangeCheck fn first n (2 ^ 24) = 0 → (s.cmd fn slot).note = 0 → (s.part fn).hints.length + n ≤ 1024 → (s.part fn).pinRefused < 2 ^ 32 → (s.part fn).dropped < 2 ^ 32 →
      ∃ t, exec (.tierHint fn slot) s = .next t ∧ Finished t fn slot stOK [n, 0] ∧
        (t.part fn).hints = (s.part fn).hints ++ (List.range n).map (fun i => (kind, first + i)) ∧ t.mem = s.mem ∧
        (∀ p, p ≠ fn → t.part p = s.part p)) ∧
    (s.canTake fn slot opTIER_STATUS = true → (s.cmd fn slot).param 8 8 % 16 = 0 → (s.cmd fn slot).param 8 8 < 2 ^ 63 →
      s.rangeCheck fn first n 65536 = 0 → s.hostStatus fn = 0 → ∃ t, exec (.tierStatus fn slot) s = .next t ∧ Finished t fn slot stOK [n] ∧
        ((t.link.writes.getLast?.map (fun w => (w.tlps.map (·.2)).flatten)) =
          some ((List.range n).flatMap (fun i => (s.page fn (first + i)).record))) ∧ (t.part fn).pages = (s.part fn).pages ∧ t.mem = s.mem)

/-- Control instructions (R113, R131, R133): NOP only passes; a SEG without STEP sets the segment and takes V back to register
mode; a SEG with STEP is waited at; LOOP opens a loop body; REPLAY goes to its segment and will return; END ends the stream. Completes: `nopInstruction`,
`seg`, `loop`, `replay`, `endStream`. -/
def Obligations.controlInstructionsIssue : Prop :=
  ∀ (s : State) (k : Nat) (e : Engine) (w : BitVec 128), AtWord s k e w →
    (wOpc w = 0x00 → ∃ t, exec (.nopInstruction k e) s = .next t ∧ IssuedAlone s t k e w true []) ∧
    (wOpc w = 0x01 → w.getLsbD 16 = false → (e = .V → (s.tile k).v.flights = [] ∨ (s.tile k).v.streamNext = true) →
      ∃ t, exec (.seg k e) s = .next t ∧ IssuedAlone s t k e w true [.stream] ∧ ((t.tile k).eng e).segment = fld w 15 0 ∧
        (t.tile k).stream = (if e = .V then false else (s.tile k).stream)) ∧
    (wOpc w = 0x01 → w.getLsbD 16 = true → ∃ t, exec (.seg k e) s = .next t ∧
      (t.tile k).eng e = { (s.tile k).eng e with atStep := true } ∧ Alone s t k e []) ∧
    (wOpc w = 0x02 → ∃ t, exec (.loop k e) s = .next t ∧ IssuedAlone s t k e w true [] ∧ ((t.tile k).eng e).loops =
      [{ first := ((s.tile k).eng e).pc + 1, last := ((s.tile k).eng e).pc + fld w 27 16, index := 0, count := fld w 15 0 + 1 }]) ∧
    (wOpc w = 0x03 → ((s.tile k).eng e).marker (fld w 15 0) + 1 < 4096 →
      wOpc (((s.tile k).eng e).wordAt (((s.tile k).eng e).marker (fld w 15 0) + 1)) ≠ opSEG →
      wOpc (((s.tile k).eng e).wordAt (((s.tile k).eng e).marker (fld w 15 0) + 1)) ≠ opEND →
      ∃ t, exec (.replay k e) s = .next t ∧ ((t.tile k).eng e).pc = ((s.tile k).eng e).marker (fld w 15 0) + 1 ∧
        ((t.tile k).eng e).replay = some { resume := ((s.tile k).eng e).pc, rebase := fld w 19 16 } ∧
        t.inFlight k e = s.inFlight k e ++ [(((s.tile k).eng e).nextId, w, true)] ∧ Alone s t k e []) ∧
    (wOpc w = 0x04 → ∃ t, exec (.endStream k e) s = .next t ∧ ((t.tile k).eng e).ended = true ∧
      ((t.tile k).eng e).pc = ((s.tile k).eng e).pc ∧ t.inFlight k e = s.inFlight k e ++ [(((s.tile k).eng e).nextId, w, true)] ∧
      Alone s t k e [])

/-- Waits, rings and signals (R112, R125, R128): an instruction that waits takes one from its token counter, and stays where it
is while the counter is 0; one that acquires takes a credit and the slot at the pointer; the oldest instruction of an engine
whose effect is made and whose writes are acknowledged completes, gives its ring a credit and raises the token it names.
Completes: `nopInstruction`.

Completion of instructions in issue order (R108, R109, R127, R128). Completes: `instructionComplete`. -/
def Obligations.instructionsComplete : Prop :=
  (∀ (s : State) (k : Nat) (e : Engine) (w : BitVec 128), wOpc w = 0x00 → s.atOpcode k e 0x00 = true → ((s.tile k).eng e).word = w →
      ((s.tile k).eng e).waited = false → ((s.tile k).eng e).taken = false → ((s.tile k).eng e).loops = [] → ((s.tile k).eng e).replay = none →
      ((s.tile k).eng e).flights.length < flightLimit e → wRelEn w = false →
      (wWaitEn w = true → (s.tile k).token (wWaitToken w) = 0 → ∃ t, exec (.nopInstruction k e) s = .next t ∧
        (t.tile k).eng e = (s.tile k).eng e ∧ Alone s t k e []) ∧
      (wWaitEn w = true → wAcqEn w = false → (s.tile k).token (wWaitToken w) ≠ 0 → ∃ t, exec (.nopInstruction k e) s = .next t ∧
        ((t.tile k).eng e).pc = ((s.tile k).eng e).pc + 1 ∧ (t.tile k).token (wWaitToken w) = (s.tile k).token (wWaitToken w) - 1 ∧
        (∀ j, j ≠ wWaitToken w → (t.tile k).token j = (s.tile k).token j) ∧ Alone s t k e [.tokens]) ∧
      (wWaitEn w = false → wAcqEn w = true → (s.tile k).held e (wAcqRing w) = none → (s.tile k).credits e (wAcqRing w) ≠ 0 →
        ∃ t, exec (.nopInstruction k e) s = .next t ∧ ((t.tile k).eng e).pc = ((s.tile k).eng e).pc + 1 ∧
          (t.tile k).credits e (wAcqRing w) = (s.tile k).credits e (wAcqRing w) - 1 ∧
          (t.tile k).held e (wAcqRing w) = some (if (s.tile k).produces e (wAcqRing w) then ((s.tile k).ring (wAcqRing w)).prodPtr
            else ((s.tile k).ring (wAcqRing w)).consPtr) ∧
          (∀ j, j ≠ wAcqRing w → (t.tile k).ring j = (s.tile k).ring j) ∧ Alone s t k e [.rings])) ∧
  (∀ (s : State) (k : Nat) (e : Engine) (f : Flight) (rest : List Flight), k < 256 → (s.tile k).running = true →
      ((s.tile k).eng e).flights = f :: rest → (∀ g ∈ f :: rest, g.ran = true) → f.acks = 0 → f.waits = 0 → f.marks = [] →
      (s.tile k).token (wSignalToken f.word) < 65535 → ∃ t, exec (.instructionComplete k e) s = .next t ∧
        ((t.tile k).eng e).flights = rest ∧ ((t.tile k).eng e).pc = ((s.tile k).eng e).pc ∧
        (t.tile k).token (wSignalToken f.word) = (s.tile k).token (wSignalToken f.word) + (if wSignalEn f.word then 1 else 0) ∧
        (wRelEn f.word = true → (t.tile k).ring (wRelRing f.word) =
          (if (s.tile k).produces e (wRelRing f.word) then
            { (s.tile k).ring (wRelRing f.word) with full := ((s.tile k).ring (wRelRing f.word)).full + 1 }
           else { (s.tile k).ring (wRelRing f.word) with free := ((s.tile k).ring (wRelRing f.word)).free + 1 })) ∧
        t.signals = (if sendsRemote e f.word then s.signals ++ [(fld f.word 27 20, fld f.word 32 28, s.tilePart k)] else s.signals) ∧
        Same [.tiles, .signals] s t ∧ TileSame [.tokens, .rings] (s.tile k) (t.tile k) ∧
        (∀ d, d ≠ e → (t.tile k).eng d = (s.tile k).eng d) ∧ (∀ j, j ≠ k → t.tile j = s.tile j))

/-- Step boundaries, the watchdog, remote signals and clock gating (R127, R130, R132, R446): four engines at their STEP markers
with nothing in flight pass them together and count a step; a tile that has stood still for WATCHDOG ns stops; an arriving
signal raises its token by one; a unit that stands still is gated. Completes: `stepBoundary`,
`watchdog`, `remoteSignal`, `tileGate`. -/
def Obligations.tileEventsComplete : Prop :=
  ∀ (s : State) (k : Nat), k < 256 → (s.tile k).running = true →
    ((∀ e, ((s.tile k).eng e).atStep = true ∧ ((s.tile k).eng e).flights = [] ∧ ((s.tile k).eng e).loops = [] ∧ ((s.tile k).eng e).replay = none ∧
        wRelEn ((s.tile k).eng e).word = false) → (s.tile k).boundaryOk = true → (s.tile k).stopping = none →
      ∃ t, exec (.stepBoundary k) s = .next t ∧ (t.tile k).steps = (s.tile k).steps + 1 ∧ (t.tile k).stream = false ∧
        (∀ e, ((t.tile k).eng e).atStep = false ∧ ((t.tile k).eng e).pc = ((s.tile k).eng e).pc + 1 ∧
          ((t.tile k).eng e).segment = fld ((s.tile k).eng e).word 15 0) ∧ (t.tile k).store = (s.tile k).store) ∧
    (∀ since p g, (s.tile k).blockedAt = some since → (s.tile k).stuck = true → (s.tile k).drained = true → (s.tile k).finished = false →
      since + (s.tile k).watchdogNs ≤ s.now → s.timersHeld p = false → (s.tile k).program = some (p, g) →
      ∃ t, exec (.watchdog k) s = .next t ∧ (t.tile k).running = false ∧ t.log.faults = s.log.faults + 1 ∧ (t.tile k).store = (s.tile k).store) ∧
    (∀ token p, s.signals.find? (fun x => x.1 == k && x.2.1 == token) = some (k, token, p) → (s.tile k).token token < 65535 →
      ∃ t, exec (.remoteSignal k token) s = .next t ∧ t.signals = s.signals.erase (k, token, p) ∧
        (s.tilePart k = p → (t.tile k).token token = (s.tile k).token token + 1) ∧ (s.tilePart k ≠ p → t.tile k = s.tile k) ∧
        (∀ j, j ≠ k → t.tile j = s.tile j)) ∧
    (∀ since, (s.tile k).stuck = true → (s.tile k).drained = true → (s.tile k).blockedAt = some since → since + 1000 ≤ s.now →
      ∃ t, exec (.tileGate (.tile k)) s = .next t ∧ t.tile k = { s.tile k with gated := true } ∧ Same [.tiles] s t) ∧
    (∀ a, a < 16 → (s.atp a).running = true → (s.atp a).ended = true → ∃ t, exec (.tileGate (.atp a)) s = .next t ∧
      t.atp a = { s.atp a with gated := true } ∧ Same [.atps] s t)

/-- Matrix instructions (R74, R75, R81, R114): MMASK keeps its values for the next MOPEN of its group; MOPEN opens a group with
empty ladders; MACC enters its products into the open group; MCLOSE writes 256 results of 8 bytes at the result area and closes
the group. Completes: `mmask`, `mopen`, `macc`, `mclose`. -/
def Obligations.matrixInstructionsIssue : Prop :=
  ∀ (s : State) (k : Nat) (w : BitVec 128), AtWord s k .M w →
    (wOpc w = 0x21 → ∃ t, exec (.mmask k) s = .next t ∧ IssuedAlone s t k .M w true [.masks] ∧ Tbl.get none (t.tile k).masks (fld w 2 0) =
      some { maskAddr := fld w 21 3 * 8, maskCols := fld w 33 22 + 1, m0 := fld w 49 34 * 16, n0 := fld w 65 50 * 16 }) ∧
    (∀ g, wOpc w = 0x20 → g = openGroup w (if fld w 42 41 = 0 then none else Tbl.get none (s.tile k).masks (fld w 2 0)) →
      (fld w 42 41 = 0 ∨ (Tbl.get none (s.tile k).masks (fld w 2 0)).isSome = true) → (s.tile k).openFault (fld w 2 0) g = none →
      ∃ t, exec (.mopen k) s = .next t ∧ IssuedAlone s t k .M w true [.groups, .masks] ∧ (∀ j, j ≠ fld w 2 0 → (t.tile k).group j = (s.tile k).group j) ∧
        (t.tile k).group (fld w 2 0) = { g with frozen := g.frozenNow (s.tile k).store } ∧ Tbl.get none (t.tile k).masks (fld w 2 0) = none) ∧
    (∀ (va vb : View) (a b : Operand), wOpc w = 0x22 → (s.tile k).view .M (fld w 7 0) = some va → (s.tile k).view .M (fld w 15 8) = some vb →
      a = { view := va, trans := w.getLsbD 19, store := (s.tile k).store } → b = { view := vb, trans := w.getLsbD 20, store := (s.tile k).store } →
      a.ok = true → b.ok = true → ((s.tile k).group (fld w 18 16)).isOpen = true → a.k = b.k → fld w 27 21 % productBlock a b = 0 →
      ((s.tile k).group (fld w 18 16)).frozen ≠ BitVec.allOnes 256 → ((s.tile k).group (fld w 18 16)).entries + entryCount a b ≤ 2 ^ 48 →
      ∃ t, exec (.macc k .clean) s = .next t ∧ IssuedAlone s t k .M w true [.groups, .store, .flags] ∧
        (∀ j, j ≠ fld w 18 16 → (t.tile k).group j = (s.tile k).group j) ∧
        ((t.tile k).group (fld w 18 16), (t.tile k).store, (t.tile k).flags) =
          ((maccGroup ((s.tile k).group (fld w 18 16)) a b (s.tile k).store).1, (maccGroup ((s.tile k).group (fld w 18 16)) a b (s.tile k).store).2.1,
            (s.tile k).flags ||| (maccGroup ((s.tile k).group (fld w 18 16)) a b (s.tile k).store).2.2)) ∧
    (∀ g, wOpc w = 0x23 → g = (s.tile k).group (fld w 2 0) → g.isOpen = true → ∃ t, exec (.mclose k) s = .next t ∧ IssuedAlone s t k .M w true [.groups, .store, .flags] ∧
      (∀ j, j ≠ fld w 2 0 → (t.tile k).group j = (s.tile k).group j) ∧
      (∀ c, c < g.resultAddr ∨ g.resultAddr + 2048 ≤ c → BMap.read (t.tile k).store c = BMap.read (s.tile k).store c) ∧
      (t.tile k).group (fld w 2 0) = { g with isOpen := false, ladders := [] } ∧
      BMap.readBytes (t.tile k).store g.resultAddr 2048 = (List.range 256).flatMap (fun o => natLe (g.result (s.tile k).store o).val 8))

/-- Register-mode vector instructions (R49, R89, R90, R99, R102): VMODE sets the mode, VSEED the LFSR, VOP and VLUT compute over
their registers, VTLOAD fills a table slot, VLD and VST move a chunk of a view between the tile store and registers; a
view with stride zero throughout gives VLD's every lane its one element, where the padding of R115 would give the others +0 (the model's
choice, log 180). Completes: `vmode`, `vseed`, `vop`, `vlut`, `vtload`, `vld`, `vst`.

Reductions, VPSUM and stream operations (R92, R101, R102, R103): VRED.OPEN opens a slot of its operation, VRED.PUT enters one
group, VRED.CLOSE broadcasts the result and frees the slot; VPSUM writes the sum of its partials at each element; VSTREAM runs
its stages over its operands. Completes: `vredOpen`, `vredPut`, `vredClose`, `vpsum`, `vstream`. -/
def Obligations.vectorInstructionsIssue : Prop :=
  (∀ (s : State) (k : Nat) (w : BitVec 128) (x : Tile), AtWord s k .V w → x = s.tile k →
      (wOpc w = 0x40 → x.v.flights = [] → x.reds = [] → ∃ t, exec (.vmode k) s = .next t ∧ IssuedAlone s t k .V w true [.stream] ∧
        (t.tile k).stream = w.getLsbD 0) ∧
      (wOpc w = 0x48 → ∃ t, exec (.vseed k) s = .next t ∧ IssuedAlone s t k .V w true [.lfsr] ∧
        (t.tile k).lfsr = (if fld w 31 0 = 0 then 1 else BitVec.ofNat 32 (fld w 31 0))) ∧
      (wOpc w = 0x41 → fld w 3 0 ≠ 0xE → (readVop w).formed = true → ∃ t, exec (.vop k .clean) s = .next t ∧ IssuedAlone s t k .V w true [.vregs, .lfsr, .flags] ∧
        (t.tile k).vregs = (x.vop (readVop w)).vregs ∧ (t.tile k).lfsr = (x.vop (readVop w)).lfsr ∧ (t.tile k).flags = (x.vop (readVop w)).flags ∧
        (t.tile k).store = x.store) ∧
      (wOpc w = 0x41 → fld w 3 0 = 0xE → (readVop w).formed = true → (Tbl.get none x.tables (readVop w).slot).isSome = true →
        ∃ t, exec (.vlut k) s = .next t ∧ IssuedAlone s t k .V w true [.vregs, .flags] ∧ (t.tile k).vregs = (x.vop (readVop w)).vregs ∧
          (t.tile k).flags = (x.vop (readVop w)).flags ∧ (t.tile k).tables = x.tables) ∧
      (∀ a n, wOpc w = 0x45 → a = fld w 21 3 * 8 → BMap.readLe x.store a 4 = n → 2 ≤ n → n ≤ 1024 → BMap.readLe x.store (a + 12) 4 = 0 →
        x.vMay a 16 = true → x.vMay a (16 + 4 * n) = true → ∃ t v, exec (.vtload k) s = .next t ∧ IssuedAlone s t k .V w true [.tables] ∧
          Tbl.get none (t.tile k).tables (fld w 2 0) = some v ∧ v.n = n ∧ v.x0.toNat = BMap.readLe x.store (a + 4) 4 ∧
          v.invH.toNat = BMap.readLe x.store (a + 8) 4 ∧
          (∀ i, i < n → (Tbl.get 0 v.values i).toNat = BMap.readLe x.store (a + 16 + 4 * i) 4)) ∧
      (∀ (v : View) f xs, wOpc w = 0x42 → x.vView (fld w 7 0) (some (64, fld w 27 16)) = .ok v → w.getLsbD 13 = false →
        vldOk v.fmt (fld w 12 8) false (fld w 15 14) = true → v.fmt = 6 ∨ v.fmt = 7 →
        f = (fun i => if v.fmt = 7 then v.getElem x.store i else (finish 6 .rne 1 (v.value x.store i, 0)).val) →
        xs = (if v.isScalar then List.replicate 64 (f [0, 0, 0, 0, 0]) else padTo 64 0 ((v.chunk 64 (fld w 27 16)).map f)) →
        ∃ t, exec (.vld k) s = .next t ∧ IssuedAlone s t k .V w true [.vregs, .flags] ∧
          (t.tile k).vregs = (x.setLanes false (fld w 12 8) xs).vregs ∧ (t.tile k).store = x.store) ∧
      (∀ (v : View), wOpc w = 0x43 → x.vView (fld w 7 0) (some (if w.getLsbD 13 then 128 else 64, fld w 27 16)) = .ok v →
        vstOk v.fmt (fld w 12 8) (w.getLsbD 13) (w.getLsbD 28) (fld w 15 14) = true →
        w.getLsbD 28 = false → ∃ t, exec (.vst k) s = .next t ∧ IssuedAlone s t k .V w true [.store, .flags, .lfsr] ∧ (t.tile k).vregs = x.vregs ∧
          (w.getLsbD 13 = true → (t.tile k).store =
            ((v.chunk 128 (fld w 27 16)).zip (x.lanes true (fld w 12 8))).foldl (fun m p => v.putElem m p.1 p.2) x.store) ∧
          (w.getLsbD 13 = false → (t.tile k).store = ((v.chunk 64 (fld w 27 16)).zip (storeLanes v.fmt ((rndOf (fld w 15 14)).getD .rne)
            ((x.lanes false (fld w 12 8)).take (v.chunk 64 (fld w 27 16)).length) x.lfsr).1).foldl (fun m p => v.putElem m p.1 p.2) x.store))) ∧
  (∀ (s : State) (k : Nat) (w : BitVec 128) (x : Tile), AtWord s k .V w → x = s.tile k →
      (wOpc w = 0x46 → fld w 1 0 = 0 → Tbl.get none x.reds (fld w 3 2) = none → 1 ≤ fld w 6 4 → fld w 6 4 ≤ 5 →
        ∃ t, exec (.vredOpen k) s = .next t ∧ IssuedAlone s t k .V w true [.reds] ∧ Tbl.get none (t.tile k).reds (fld w 3 2) = some { op := fld w 6 4 }) ∧
      (∀ r, wOpc w = 0x46 → fld w 1 0 = 1 → Tbl.get none x.reds (fld w 3 2) = some r → ∃ t, exec (.vredPut k) s = .next t ∧ IssuedAlone s t k .V w true [.reds, .flags] ∧
        Tbl.get none (t.tile k).reds (fld w 3 2) = some (r.put ((x.lanes false (fld w 11 7)).take (fld w 17 12 + 1))).1 ∧
        (t.tile k).flags = x.flags ||| (r.put ((x.lanes false (fld w 11 7)).take (fld w 17 12 + 1))).2) ∧
      (∀ r, wOpc w = 0x46 → fld w 1 0 = 2 → Tbl.get none x.reds (fld w 3 2) = some r → (r.op = 1 ∨ r.op = 2 ∨ r.best.isSome = true) →
        (r.op = 2 → fld w 11 7 % 2 = 0) → (r.op = 5 → fld w 11 7 ≠ 31) → ∃ t, exec (.vredClose k) s = .next t ∧ Issued s t k .V w true ∧
          Same [.tiles, .free] s t ∧ TileSame [.reds, .vregs, .flags] x (t.tile k) ∧ Tbl.get none (t.tile k).reds (fld w 3 2) = none ∧
          (t.tile k).vregs = (if r.op = 2 then
              (x.setLanes false (fld w 11 7) (List.replicate 64 ((r.close 0).1 % 2 ^ 32))).setLanes false (fld w 11 7 + 1)
                (List.replicate 64 ((r.close 0).1 / 2 ^ 32 % 2 ^ 32))
            else if r.op = 5 then
              (x.setLanes false (fld w 11 7) (List.replicate 64 ((r.close 0).1 % 2 ^ 32))).setLanes false (fld w 11 7 + 1)
                (List.replicate 64 ((r.close 0).2.1 % 2 ^ 32))
            else x.setLanes false (fld w 11 7) (List.replicate 64 ((r.close 0).1 % 2 ^ 32))).vregs ∧
          (t.tile k).flags = x.flags ||| (r.close 0).2.2) ∧
      (∀ (a d : View) p e, wOpc w = 0x47 → x.vView (fld w 7 0) = .ok a → x.vView (fld w 15 8) = .ok d → a.fmt = 9 → d.fmt = 9 →
        a.ext = [e, p, 1, 1, 1] → 2 ≤ p → p ≤ 4096 → e ≤ 65536 → d.count = e → s.policyZ (s.tilePart k) = false →
        ∃ t, exec (.vpsum k) s = .next t ∧ IssuedAlone s t k .V w true [.store, .flags] ∧
          (t.tile k).store = ((List.range e).zip d.indices).foldl (fun m q => d.putElem m q.2
            (partialSum ((List.range p).map (fun j => a.getElem x.store [q.1, j, 0, 0, 0]))).1) x.store) ∧
      (∀ (r : StreamRec) (j : StreamJob) (v : View), wOpc w = 0x44 → r = readStream x.store (fld w 50 32 * 8) → r.outctl / 4 = 0 →
        x.vMay (fld w 50 32 * 8) 32 = true → r.formed = true → x.vMay r.plan (8 * r.stages) = true → x.vView (fld w 7 0) = .ok v → fld w 7 0 ≠ 255 →
        fld w 15 8 = 255 → fld w 23 16 = 255 → (fld w 31 24 = 255 ∨ (x.vView (fld w 31 24)).toOption.isSome = true) →
        j = { ins := fun c => if c = 1 then some v else none, out := if fld w 31 24 = 255 then none else (x.vView (fld w 31 24)).toOption
              rec' := r, stages := readPlan x.store r, hist := none } →
        j.fault x = none → ∃ t, exec (.vstream k) s = .next t ∧ IssuedAlone s t k .V w true [.store, .lfsr, .flags, .maxima] ∧ (t.tile k).store = (j.run x).store ∧
          (t.tile k).lfsr = (j.run x).lfsr ∧ (t.tile k).flags = (j.run x).flags))

/-- Loads and multicasts (R113, R134, R135): FLOAD from device memory lays the bytes out in the tile store, and from host memory
asks for them first; FRECV posts a receipt; FHINT queues a hint for every tiered page of its view; FMCAST keeps its source until
every other tile of its set has posted a receipt, and then writes the bytes into each receiver's view. Completes: `fload`,
`frecv`, `fhint`, `fmcast`, `multicastDeliver`. -/
def Obligations.loadsAndMulticastsIssue : Prop :=
  ∀ (s : State) (k p : Nat) (w : BitVec 128) (x : Tile), x = s.tile k → s.tilePart k = p →
    (AtWord s k .F w →
      (∀ (src dst : View) a n, wOpc w = 0x10 → x.view .F (fld w 7 0) = some src → x.view .F (fld w 15 8) = some dst → src.sameShape dst = true →
        src.ts = false → dst.ts = true → src.spans = [(a, n)] → 1 ≤ n →
        (engineAddr a = .dev a → OneBlock s p a n → s.answers p a n = true → ∃ t, exec (.fload k .clean) s = .next t ∧ Issued s t k .F w true ∧
          Same [.tiles, .hbm] s t ∧ TileSame [.store] x (t.tile k) ∧
          (t.tile k).store = copyView src dst (BMap.writeBytes [] a (BMap.readBytes s.mem a n)) x.store) ∧
        (∀ h, engineAddr a = .host h → h + n ≤ 2 ^ 63 → s.hostStatus p = 0 → s.hostOpen p = true → ∃ t, exec (.fload k .clean) s = .next t ∧
          Issued s t k .F w false ∧ TileSame [] x (t.tile k) ∧ Same [.tiles, .link, .free, .time] s t ∧ s.link.reads.length < t.link.reads.length)) ∧
      (∀ (dst : View), wOpc w = opFRECV → x.view .F (fld w 15 8) = some dst → dst.ts = true → x.receipts.length < 8 →
        ∃ t, exec (.frecv k) s = .next t ∧ IssuedAlone s t k .F w false [.receipts] ∧
          (t.tile k).receipts = x.receipts ++ [{ set := fld w 19 16, tag := fld w 35 20, flight := x.f.nextId }]) ∧
      (∀ (v : View) kind, wOpc w = 0x13 → x.view .F (fld w 7 0) = some v → hintOf (fld w 9 8) = some kind → v.ts = false → s.firstDenied p v.spans = none →
        (s.part p).hints.length + ((tierNeeds (s.localRuns v.spans)).map (·.1)).length ≤ 1024 → ∃ t, exec (.fhint k) s = .next t ∧
          Issued s t k .F w true ∧ TileSame [] x (t.tile k) ∧ Same [.tiles, .parts] s t ∧ (t.part p).hints = (s.part p).hints ++ ((tierNeeds (s.localRuns v.spans)).map (·.1)).map (fun g => (kind, g))) ∧
      (∀ (src : View), wOpc w = opFMCAST → x.view .F (fld w 7 0) = some src → src.ts = true →
        ((Tbl.get 0 (s.part p).sets (fld w 19 16)).getLsbD k = false ∧ fld w 15 8 = 255) ∨
          (x.view .F (fld w 15 8)).map (fun d => d.ts && src.sameShape d) = some true →
        ∃ t, exec (.fmcast k) s = .next t ∧ IssuedAlone s t k .F w false [] ∧ ((t.tile k).f.flights.getLast?.map (fun f => (f.src, f.dst))) =
          some (some src, if (Tbl.get 0 (s.part p).sets (fld w 19 16)).getLsbD k then x.view .F (fld w 15 8) else none))) ∧
    (∀ (f g : Flight) (src d : View) (r : Receipt) j, x.running = true → x.f.flights.find? Flight.multicastPending = some f → f.src = some src → f.dst = none →
      f.waits = 0 → src.ts = true → ((s.part p).setTiles (fld f.word 19 16)).filter (fun y => y != k) = [j] →
      s.receiptOf p j (fld f.word 19 16) (fld f.word 35 20) = some r → s.tileOf p j = true →
      (s.tile j).f.flights.find? (fun y => y.id == r.flight) = some g → g.dst = some d → src.sameShape d = true →
      ∃ t, exec (.multicastDeliver k) s = .next t ∧ (t.tile j).store = copyView src d x.store (s.tile j).store ∧
        (t.tile j).receipts = (s.tile j).receipts.erase r ∧ (t.tile k).store = x.store ∧
        (∀ y ∈ (t.tile k).f.flights, y.id = f.id → y.ran = true) ∧ (∀ i, i ≠ k → i ≠ j → t.tile i = s.tile i))

/-- Stores, adds and fences of S (R113, R116, R193, R221, R223): SSTORE writes its elements to memory, SADD and SACCW add theirs
there, all in one step when the memory answers, and the bytes outside are unchanged; an SCFENCE marks the accepted row operations
of its rows, and waits for none when there are none. Completes: `sstore`, `sadd`, `saccw`, `scfence`. -/
def Obligations.storesAndFencesIssue : Prop :=
  ∀ (s : State) (k p : Nat) (w : BitVec 128) (x : Tile), AtWord s k .S w → x = s.tile k → s.tilePart k = p → s.signalDenied p w = false →
    (∀ (src dst : View) idx a b, wOpc w = 0x60 → x.view .S (fld w 7 0) = some src → x.view .S (fld w 15 8) = some dst → src.sameShape dst = true →
      src.ts = true → dst.ts = false → x.stored w src = some idx → storeRuns src dst x.store (s.policyZ p) idx = ([(a, b)], []) → 1 ≤ b.length →
      engineAddr a = .dev a → OneBlock s p a b.length → s.answers p a b.length = true → ∃ t, exec (.sstore k) s = .next t ∧
        Issued s t k .S w true ∧ BMap.readBytes t.mem a b.length = b ∧
        OnlyWrites s t a b.length ∧ Same [.tiles, .mem, .hbm, .blocks] s t ∧
        (∀ c, c / 2048 ≠ a / 2048 → t.block c = s.block c) ∧ TileSame [] x (t.tile k)) ∧
    (∀ (src dst : View) a b i f, x.view .S (fld w 7 0) = some src → x.view .S (fld w 15 8) = some dst →
      (wOpc w = 0x61 ∧ i = .sadd k ∧ f = fld w 18 16) ∨ (wOpc w = 0x62 ∧ i = .saccw k ∧
        f = (if dst.fmt = 6 then 0 else if dst.fmt = 4 then 1 else if dst.fmt = 7 then 3 else 7)) →
      addViewsOk f src dst = true → (storeRuns src dst x.store false src.indices).1 = [(a, b)] → 1 ≤ b.length →
      engineAddr a = .dev a → OneBlock s p a b.length → s.answers p a b.length = true → (wOpc w = 0x62 → s.rowsHeld (a / 2 ^ 37) = false) →
      ∃ t, exec i s = .next t ∧ Issued s t k .S w true ∧
        BMap.readBytes t.mem a b.length = (addRun f (addBytes f) (s.policyZ p) b.length (BMap.readBytes s.mem a b.length) b).1 ∧
        OnlyWrites s t a b.length ∧ Same [.tiles, .mem, .hbm, .blocks] s t ∧
        (∀ c, c / 2048 ≠ a / 2048 → t.block c = s.block c) ∧ TileSame [.flags] x (t.tile k)) ∧
    (∀ (v : View), wOpc w = 0x63 → x.view .S (fld w 7 0) = some v → v.ts = false → (∀ r ∈ v.spans, engineAddr r.1 = .dev r.1) →
      (∀ r ∈ v.spans, (s.part p).inWindow r.1 r.2 = true) → ∃ t, exec (.scfence k) s = .next t ∧
        IssuedAlone s t k .S w (s.fenceMarks p v.blocks).isEmpty [] ∧
        ((t.tile k).s.flights.getLast?.map (·.marks)) = some (s.fenceMarks p v.blocks))

/-- Job records (R140, R142, R143, R161): an ATTEND starts with its descriptors, queries and metadata read, and goes on to its
keys or, on a context, waits for its pages; an APPEND starts with its rows read; a COMBINE writes its merged rows; LOOP opens a
body; END ends the list. Completes: `attend`, `append`, `combine`, `atpLoop`, `atpEnd`. -/
def Obligations.jobsStart : Prop :=
  ∀ (s : State) (n p : Nat) (r : JobRec), s.atpPart n = p →
    (∀ dr m q o rs, AtJob s n 0 r → (r.dense = true ∨ s.jobCtx p r = 0) →
      dr = ([r.qDesc, r.oDesc] ++ (if r.dense then [r.kDesc, r.vDesc] else [])).map (fun w => (w, 64)) → m = s.bytesAt dr →
      atpView m r.qDesc ((s.atp n).loops.map (·.index)) = some q → atpView m r.oDesc ((s.atp n).loops.map (·.index)) = some o →
      ((q.fmt = 0 ∧ q.bs = 32 ∧ q.sd = 0 ∧ r.rope = 0) ∨ q.fmt = 4 ∨ q.fmt = 6) → q.shaped [r.dh, r.rows] = true →
      (o.fmt = 4 ∨ o.fmt = 6) → o.shaped [r.dh, r.rows] = true →
      (r.dense = true → ∀ w ∈ [r.kDesc, r.vDesc], (atpView m w ((s.atp n).loops.map (·.index))).any (fun x =>
        (x.fmt == 0xA || x.fmt == 0xB) && x.ext.getD 0 0 == r.dh && decide (r.kFirst + r.kCount ≤ x.ext.getD 1 0) &&
        (x.ext.drop 2).all (· == 1)) = true) →
      rs = dr ++ q.spans ++ [(r.rowMeta, 8 * r.rows)] ++ (if r.rope = 0 then [] else [(r.freq, 2 * r.ropeDims)]) → Reads s p rs →
      ∃ t, exec (.attend n) s = .next t ∧ (t.atp n).pc = (stepLoops (s.atp n).pc (s.atp n).loops.reverse).2 ∧
        (t.atp n).active = (s.atp n).active ++
          [{ s.newJob n r with stage := if r.dense then .keys else .waiting, inputs := s.bytesAt rs }] ∧ t.mem = s.mem) ∧
    (∀ dr m k v rs, AtJob s n 1 r → s.jobCtx p r = 0 → dr = [(r.kDesc, 64), (r.vDesc, 64)] → m = s.bytesAt dr →
      atpView m r.kDesc ((s.atp n).loops.map (·.index)) = some k → atpView m r.vDesc ((s.atp n).loops.map (·.index)) = some v →
      (∀ x ∈ [k, v], (x.fmt = 4 ∨ x.fmt = 6) ∧ x.shaped [r.dh, r.rows] = true) →
      rs = dr ++ k.spans ++ v.spans ++ (if r.rope = 0 then [] else [(r.freq, 2 * r.ropeDims)]) → Reads s p rs →
      ∃ t, exec (.append n) s = .next t ∧ (t.atp n).pc = (stepLoops (s.atp n).pc (s.atp n).loops.reverse).2 ∧
        (t.atp n).active = (s.atp n).active ++ [{ s.newJob n r with stage := .waiting, inputs := s.bytesAt rs, behind := (s.ctx r.ctx).appending }] ∧ t.mem = s.mem) ∧
    (∀ dr m q o rs out a b, AtJob s n 2 r → (∀ j ∈ (s.atp n).active, j.stage = .finalised) → dr = [(r.qDesc, 64), (r.oDesc, 64)] → m = s.bytesAt dr →
      atpView m r.qDesc ((s.atp n).loops.map (·.index)) = some q → atpView m r.oDesc ((s.atp n).loops.map (·.index)) = some o →
      q.fmt = 6 → q.shaped [r.dh, r.rows, r.kCount] = true → (o.fmt = 4 ∨ o.fmt = 6) → o.shaped [r.dh, r.rows] = true →
      rs = dr ++ q.spans ++ [(r.lse, 4 * r.rows * r.kCount)] → Reads s p rs →
      out = joinRuns (r.combined (s.bytesAt rs) q o (s.policyZ p)).1 → out.map (fun x => (x.1, x.2.length)) = [(a, b)] → Reads s p [(a, b)] →
      ∃ t, exec (.combine n) s = .next t ∧ (t.atp n).pc = (stepLoops (s.atp n).pc (s.atp n).loops.reverse).2 ∧
        BMap.readBytes t.mem a b = out.flatMap (·.2) ∧ OnlyWrites s t a b ∧
        ((t.atp n).active.getLast?.map (fun j => (j.id, j.record, j.stage))) = some ((s.atp n).nextJob, (s.atp n).pc, .finalised)) ∧
    (AtJob s n 3 r → (s.atp n).loops.length < 4 → (s.atp n).pc + r.ropeDims < 1024 →
      (∀ f ∈ (s.atp n).loops.getLast?.toList, (s.atp n).pc + r.ropeDims ≤ f.last) → ∃ t, exec (.atpLoop n) s = .next t ∧
        t.atp n = { s.atp n with
          loops := (s.atp n).loops ++ [{ first := (s.atp n).pc + 1, last := (s.atp n).pc + r.ropeDims, index := 0, count := r.rows + 1 }]
          pc := (s.atp n).pc + 1 } ∧ Same [.atps] s t) ∧
    (AtJob s n 4 r → ∃ t, exec (.atpEnd n) s = .next t ∧ t.atp n = { s.atp n with ended := true } ∧ Same [.atps] s t)

/-- Key blocks (R145, R146, R150 to R154, R156): a block with a key that some row may attend to is taken into the rows, one with
none is skipped; after the last the outputs are written, in the same step or, when they had
to wait, in a later one. Completes: `keyBlock`. -/
def Obligations.keyBlocksComplete : Prop :=
  ∀ (s : State) (n id p : Nat) (j : Job) (r : JobRec) (q o : View), OnlyJob s n id j → s.atpPart n = p → (s.atp n).jobRec j.record = r → r.kind = 0 →
    j.stage = .keys → j.nextBlk ≠ 0 ∨ (s.atp n).beyond.length < 3 → j.waits = 0 → j.asked = [] → j.counted = [] → atpView j.inputs r.qDesc j.indices = some q → atpView j.inputs r.oDesc j.indices = some o →
    (∀ ms ks rs accs (k v : View), r.dense = true → j.nextBlk < r.blocks j → atpView j.inputs r.kDesc j.indices = some k →
      atpView j.inputs r.vDesc j.indices = some v → ms = [(r.kMeta + 8 * (r.kFirst + 256 * j.nextBlk), 8 * min 256 (r.kCount - 256 * j.nextBlk))] →
      Reads s p ms → ks = r.denseKeys j.nextBlk (s.bytesAt ms) →
      rs = (if r.anyAllowed j.inputs ks then ms ++ k.keyRuns ks ++ v.keyRuns ks else ms) → Reads s p rs →
      accs = (if r.anyAllowed j.inputs ks then (r.block (r.queries j.inputs q).1 j.inputs ks k v (s.bytesAt rs) j.rows).1 else j.rows) →
      (j.nextBlk + 1 < r.blocks j → ∃ t, exec (.keyBlock n id) s = .next t ∧
        OnlyJob t n id { j with nextBlk := j.nextBlk + 1, buf := [], rows := accs } ∧ t.mem = s.mem) ∧
      (∀ out a b, j.nextBlk + 1 = r.blocks j → (s.atp n).isOldest id = true → out = joinRuns (r.outputs o (s.policyZ p) accs).1 → out.map (fun x => (x.1, x.2.length)) = [(a, b)] →
        Reads s p [(a, b)] → ∃ t, exec (.keyBlock n id) s = .next t ∧ BMap.readBytes t.mem a b = out.flatMap (·.2) ∧
          OnlyWrites s t a b ∧ ((t.atp n).active.filter (fun x => x.id == id)).map (·.stage) = [.finalised])) ∧
    (∀ g i ks base rs (k v : View) accs, r.dense = false → j.pages[j.nextBlk]? = some (g, i) → ks = r.pageKeys j.ctx.seg j.length g →
      base = headAddr j.source j.ctx i r.kvHead → k = pageView j.ctx base → v = pageView j.ctx (base + headBytes j.ctx.fmt j.ctx.dh / 2) →
      rs = (if r.anyAllowed j.inputs ks then k.keyRuns ks ++ v.keyRuns ks else []) → Reads s p rs →
      accs = (if r.anyAllowed j.inputs ks then (r.block (r.queries j.inputs q).1 j.inputs ks k v (s.bytesAt rs) j.rows).1 else j.rows) →
      (j.nextBlk + 1 < r.blocks j → ∃ t, exec (.keyBlock n id) s = .next t ∧
        OnlyJob t n id { j with nextBlk := j.nextBlk + 1, buf := [], rows := accs } ∧ t.mem = s.mem) ∧
      (∀ out a b, j.nextBlk + 1 = r.blocks j → (s.atp n).isOldest id = true → out = joinRuns (r.outputs o (s.policyZ p) accs).1 → out.map (fun x => (x.1, x.2.length)) = [(a, b)] →
        Reads s p [(a, b)] → ∃ t, exec (.keyBlock n id) s = .next t ∧ BMap.readBytes t.mem a b = out.flatMap (·.2) ∧
          OnlyWrites s t a b ∧ ((t.atp n).active.filter (fun x => x.id == id)).map (·.stage) = [.finalised])) ∧
    (∀ out a b, r.blocks j ≤ j.nextBlk → (s.atp n).isOldest id = true → out = joinRuns (r.outputs o (s.policyZ p) j.rows).1 → out.map (fun x => (x.1, x.2.length)) = [(a, b)] →
      Reads s p [(a, b)] → ∃ t, exec (.keyBlock n id) s = .next t ∧ BMap.readBytes t.mem a b = out.flatMap (·.2) ∧
        OnlyWrites s t a b ∧ ((t.atp n).active.filter (fun x => x.id == id)).map (·.stage) = [.finalised])

/-- Completion and gates (R160, R163): the oldest job leaves the pipeline once it has finalised, after one added to its done gate
and its done token signalled; a gate that has reached its value lets a job go on, one that has not keeps it waiting; a pipeline
that has waited longer than WATCHDOG stops. Completes: `jobComplete`, `gatePoll`, `gateWatchdog`. -/
def Obligations.jobsEnd : Prop :=
  ∀ (s : State) (n p : Nat), s.atpPart n = p → n < 16 → (s.atp n).running = true →
    (∀ j rest r, (s.atp n).active = j :: rest → (∀ x ∈ rest, x.id ≠ j.id) → (s.atp n).jobRec j.record = r → j.stage = .finalised → j.acks = 0 →
      j.pinned = false → r.kind ≠ 1 → (s.atp n).stopping = none →
      (r.doneSignal = true → s.tileOf p r.doneTile = true) →
      (r.doneAdd = true → engineAddr r.doneGate = .dev r.doneGate ∧ s.gateStatus p r.doneGate = 0 ∧ OneBlock s p r.doneGate 8 ∧
        s.answers p r.doneGate 8 = true) →
      ∃ t, exec (.jobComplete n) s = .next t ∧ (t.atp n).active = rest ∧
        t.signals = (if r.doneSignal then s.signals ++ [(r.doneTile, r.doneToken, p)] else s.signals) ∧
        (r.doneAdd = false → t.mem = s.mem) ∧
        (r.doneAdd = true → BMap.readLe t.mem r.doneGate 8 = (BMap.readLe s.mem r.doneGate 8 + 1) % 2 ^ 64)) ∧
    (∀ r since, (s.atp n).ended = false → (s.atp n).stopping = none → (s.atp n).hasRoom = true → (s.atp n).gateFrom = some since →
      (s.atp n).jobRec (s.atp n).pc = r → engineAddr r.gate = .dev r.gate → s.gateStatus p r.gate = 0 → OneBlock s p r.gate 8 → s.answers p r.gate 8 = true →
      (BMap.readLe s.mem r.gate 8 < (s.atp n).gateTarget r → ∃ t, exec (.gatePoll (.atp n)) s = .next t ∧
        t.atp n = { s.atp n with gateAsked := false } ∧ t.mem = s.mem) ∧
      ((s.atp n).gateTarget r ≤ BMap.readLe s.mem r.gate 8 → (∀ j ∈ (s.atp n).active, j.id ≠ (s.atp n).nextJob) → r.kind = 1 → s.jobCtx p r = 0 →
        Reads s p [(r.kDesc, 64), (r.vDesc, 64)] → ∃ t, exec (.gatePoll (.atp n)) s = .next t ∧ (t.atp n).gateFrom = none)) ∧
    (∀ f slot x w, s.inRun f slot opCOLLECTIVE = true → (s.part f).colls.find? (fun y => y.fn == f && y.slot == slot) = some x → s.coll f x.seq = some x →
      x.stage = .gate → (s.collCmd x).cWaitGate = w → w ≠ 0 → engineAddr w = .dev w → OneBlock s f w 8 → s.answers f w 8 = true →
      (s.collCmd x).cWaitValue ≤ BMap.readLe s.mem w 8 →
      ∃ t, exec (.gatePoll (.command f slot)) s = .next t ∧ t.coll f x.seq = some { x with stage := .compare } ∧ t.mem = s.mem) ∧
    (∀ since g, (s.atp n).gateFrom = some since → since + (s.tile (s.firstTile n)).watchdogNs < s.now → s.timersHeld p = false →
      (s.atp n).program = some (p, g) → ∃ t, exec (.gateWatchdog n) s = .next t ∧ (t.atp n).running = false ∧
        t.log.faults = s.log.faults + 1 ∧ t.mem = s.mem)

/-- Manager operations of running jobs (R165, R172 to R175): PIN fixes the length and the pages an ATTEND reads and counts a pin;
UNPIN gives them back and counts the ATTEND; RESOLVE gives an APPEND its pages; the APPEND then writes its positions; SWITCH
ends a copy on write; ADVANCE makes the new positions part of the context. Completes: `pin`, `unpin`, `resolve`, `append`,
`switch`, `advance`. -/
def Obligations.managerOperationsComplete : Prop :=
  ∀ (s : State) (n p : Nat) (j : Job) (r : JobRec), s.atpPart n = p → (s.atp n).jobRec j.record = r → OnlyJob s n j.id j →
    (∀ m b, (s.atp n).first 0 = some j → j.stage = .waiting → s.jobMayBegin n j.id = true → s.mgrTurn (.atp n j.id) = true → s.jobCtx p r = 0 →
      b = s.mgrBegin (.atp n j.id) →
      m = (if r.kFirst < min r.kCount (s.ctx r.ctx).pos then b.pinPages r.ctx r.kFirst (min r.kCount (s.ctx r.ctx).pos - 1) else { st := b }) → m.status = 0 →
      ∃ t, exec (.pin n) s = .next t ∧ (t.ctx r.ctx).activePins = (s.ctx r.ctx).activePins + 1 ∧ (t.ctx r.ctx).pos = (s.ctx r.ctx).pos ∧
        OnlyJob t n j.id { j with
          pinned := true, pages := m.pages, length := (s.ctx r.ctx).pos, ctx := s.ctx r.ctx
          source := (s.poolOf (s.ctx r.ctx).owner (s.ctx r.ctx).pool).shape, stage := .keys } ∧
        (∀ c, c ≠ r.ctx → t.ctx c = s.ctx c)) ∧
    (j.pinned = true → j.stage = .finalised → j.acks = 0 → s.mgrOpen j = true → (s.ctx j.ctxNum).state ≠ 0 → (s.ctx j.ctxNum).openStamp = j.ctx.openStamp →
      ∃ t, exec (.unpin n j.id) s = .next t ∧ (t.ctx j.ctxNum).activePins = (s.ctx j.ctxNum).activePins - 1 ∧
        (t.ctx j.ctxNum).attends = (s.ctx j.ctxNum).attends + 1 ∧ OnlyJob t n j.id { j with pinned := false, closed := true }) ∧
    (∀ m, (s.atp n).first 1 = some j → j.stage = .waiting → s.jobMayBegin n j.id = true → s.mgrTurn (.atp n j.id) = true → s.jobCtx p r = 0 → (s.ctx r.ctx).pos + r.rows ≤ 8388608 →
      m = (s.mgrBegin (.atp n j.id)).resolvePages r.ctx r.rows n j.id → m.status = 0 → ∃ t, exec (.resolve n j.id) s = .next t ∧ (t.ctx r.ctx).appending = true ∧
        (t.ctx r.ctx).pos = (s.ctx r.ctx).pos ∧ ((t.atp n).active.find? (fun x => x.id == j.id)).map (fun x => (x.appends, x.pages, x.copies, x.length, x.stage)) =
          some (true, m.pages, m.copies, (s.ctx r.ctx).pos, .keys)) ∧
    (∀ (k v : View), (s.atp n).first 1 = some j → j.stage = .keys → j.copies = 0 → r.rows = 1 → atpView j.inputs r.kDesc j.indices = some k →
      atpView j.inputs r.vDesc j.indices = some v →
      Reads s p [(headAddr j.source j.ctx (((j.pages.find? (fun e => e.1 == j.length / 256)).map (·.2)).getD 0) r.kvHead, headBytes j.ctx.fmt j.ctx.dh)] →
      j.ctx.fmt = 0xA → j.ctx.dhCode < 8 → k.ext.getD 0 0 = j.ctx.dh → v.ext.getD 0 0 = j.ctx.dh → ∃ t base, exec (.append n) s = .next t ∧
        base = headAddr j.source j.ctx (((j.pages.find? (fun e => e.1 == j.length / 256)).map (·.2)).getD 0) r.kvHead ∧
        BMap.readBytes t.mem (base + j.ctx.dh * (j.length % 256)) j.ctx.dh =
          ((toBlocks 0xA (rotate r.rope r.ropeDims j.length (r.freqs j.inputs) (k.rowF j.inputs 0)).1).1.map (BitVec.ofNat 8)).take j.ctx.dh ∧
        BMap.readBytes t.mem (base + 256 * j.ctx.dh + j.ctx.dh / 32 * (j.length % 256)) (j.ctx.dh / 32) =
          ((toBlocks 0xA (rotate r.rope r.ropeDims j.length (r.freqs j.inputs) (k.rowF j.inputs 0)).1).2.1.map (BitVec.ofNat 8)).take (j.ctx.dh / 32) ∧
        BMap.readBytes t.mem (base + headBytes 0xA j.ctx.dh / 2 + j.ctx.dh * (j.length % 256)) j.ctx.dh =
          ((toBlocks 0xA (v.rowF j.inputs 0)).1.map (BitVec.ofNat 8)).take j.ctx.dh ∧
        BMap.readBytes t.mem (base + headBytes 0xA j.ctx.dh / 2 + 256 * j.ctx.dh + j.ctx.dh / 32 * (j.length % 256)) (j.ctx.dh / 32) =
          ((toBlocks 0xA (v.rowF j.inputs 0)).2.1.map (BitVec.ofNat 8)).take (j.ctx.dh / 32) ∧
        OnlyWrites s t base (headBytes j.ctx.fmt j.ctx.dh) ∧
        OnlyJob t n j.id { j with stage := .finalised, inputs := [] }) ∧
    (∀ cp q, s.copies.find? (fun e => e.pt == cp.pt && e.ctx == cp.ctx && e.page == cp.page) = some cp → q = s.poolOf cp.pt cp.pool →
      s.answers cp.pt (q.pageAddr + cp.source * q.pageBytes) q.pageBytes = true → s.mgrTurn .none = true → cp.atp = n → cp.job = j.id → ((s.switchPage cp).ctx cp.ctx).state = 1 →
      OnlyJob (s.switchPage cp) n j.id j → ∃ t, exec (.switch cp.pt cp.ctx cp.page) s = .next t ∧ t.copies = (s.switchPage cp).copies ∧
        OnlyJob t n j.id { j with copies := j.copies - 1 }) ∧
    (j.appends = true → j.stage = .finalised → j.acks = 0 → r.advances = true → j.closed = false → s.mgrTurn .none = true → ∃ t, exec (.advance n j.id) s = .next t ∧
      (t.ctx j.ctxNum).pos = (s.ctx j.ctxNum).pos + r.rows ∧ (t.ctx j.ctxNum).appends = (s.ctx j.ctxNum).appends + 1 ∧
      (t.ctx j.ctxNum).appending = false ∧ OnlyJob t n j.id { j with closed := true, appends := false } ∧ (∀ c, c ≠ j.ctxNum → t.ctx c = s.ctx c))

/-- Block requests (R184, R186, R187, R190, R192, R195): a request that its stack takes now is charged to its partition's bucket; a
read leaves memory as it is and keeps what was sensed, a bad one waiting for its re-read; a write stores its block with fresh
codes; a merge stores its bytes and an add its sums; a parity error is counted and the request carried out all the same; what cannot
be taken now is held and changes no memory. Completes: `memoryRead`, `memoryWrite`, `partialWriteMerge`, `memorySideAdd`,
`regulatorAdmit`, `blockReread`. -/
def Obligations.blockRequestsComplete : Prop :=
  ∀ (s : State) (a p k cls : Nat), k = a / 2 ^ 37 →
    (∀ n verify sensed, Takes s p cls (.read a n verify sensed) → (s.block a).poison = false → ∃ t, exec (.memoryRead ⟨a, cls, false⟩ ⟨n, verify⟩ sensed) s = .next t ∧
      t.mem = s.mem ∧ (t.block a).sense = sensed ∧ t.bucketNow k p = s.bucketNow k p - fetchBytes a n verify ∧
      (t.stack k).rereads = (s.stack k).rereads ++ (if senseBad sensed verify then [(a / 2048 * 2048, verify)] else [])) ∧
    (∀ d, Takes s p cls (.write a d) → (∃ t, exec (.memoryWrite ⟨a, cls, false⟩ d) s = .next t ∧ BMap.readBytes t.mem a 2048 = d ∧ OnlyWrites s t a 2048 ∧
        t.block a = {} ∧ t.bucketNow k p = s.bucketNow k p - 2048) ∧
      (∃ t, exec (.memoryWrite ⟨a, cls, true⟩ d) s = .next t ∧ BMap.readBytes t.mem a 2048 = d ∧ OnlyWrites s t a 2048 ∧
        (t.stack k).parity = (s.stack k).parity + 1)) ∧
    (∀ d first second, Takes s p cls (.merge a d first second) → (s.block a).poison = false →
      ((senseBad first true = false ∨ senseBad second true = false) → ∃ t, exec (.partialWriteMerge ⟨a, cls, false⟩ d first second) s = .next t ∧
        BMap.readBytes t.mem a d.length = d ∧ OnlyWrites s t a d.length ∧ t.block a = {}) ∧
      (senseBad first true = true → senseBad second true = true → ∃ t, exec (.partialWriteMerge ⟨a, cls, false⟩ d first second) s = .next t ∧
        (t.block a).poison = true ∧ (t.block a).cause = 4 ∧ BMap.readBytes t.mem (a / 2048 * 2048) 2048 = List.replicate 2048 0xFF ∧
        OnlyWrites s t (a / 2048 * 2048) 2048 ∧ t.log.faults = s.log.faults + 1)) ∧
    (∀ f d first second, Takes s p cls (.add a f d first second) → (s.block a).poison = false → (senseBad first true = false ∨ senseBad second true = false) →
      ∃ t, exec (.memorySideAdd ⟨a, cls, false⟩ f d first second) s = .next t ∧
        BMap.readBytes t.mem a d.length = (addRun f (addBytes f) (s.policyZ p) d.length (BMap.readBytes s.mem a d.length) d).1 ∧ OnlyWrites s t a d.length) ∧
    (∀ d h, k < 20 → a % 2 ^ 37 < windowBytes → s.stackOwner k = p → p ≠ 0 → (MemOp.write a d).formed = true → cls ≤ 3 →
      ((s.stack k).mode = .recovery ∨ ((s.stack k).mode = .service ∧ 2 ≤ cls ∧ s.bucketNow k p < 2048)) → h = { pt := p, cls := cls, bytes := 2048, op := .write a d } →
      ∃ t, exec (.memoryWrite ⟨a, cls, false⟩ d) s = .next t ∧ t.mem = s.mem ∧ (t.stack k).held = (s.stack k).held ++ [h]) ∧
    (∀ h d, (s.stack k).nextHeld p = some h → h.op = .write a d → d.length = 2048 → k < 20 → (s.stack k).mode = .service → h.cls < 2 ∨ (h.bytes : Int) ≤ s.bucketNow k p →
      ∃ t, exec (.regulatorAdmit k p) s = .next t ∧ (t.stack k).held = (s.stack k).held.erase h ∧
        (s.stackOwner k = p → BMap.readBytes t.mem a 2048 = d ∧ OnlyWrites s t a 2048 ∧ t.bucketNow k p = s.bucketNow k p - h.bytes) ∧
        (s.stackOwner k ≠ p → t.mem = s.mem)) ∧
    (∀ verify sensed, (s.stack k).rereads.find? (fun r => r.1 == a / 2048 * 2048) = some (a / 2048 * 2048, verify) → (s.stack k).mode = .service →
      (s.block (a / 2048 * 2048)).poison = false → ∃ t, exec (.blockReread a sensed) s = .next t ∧
        (t.stack k).rereads = (s.stack k).rereads.erase (a / 2048 * 2048, verify) ∧
        (senseBad sensed verify = false → t.mem = s.mem ∧ (t.stack k).retryOk = (s.stack k).retryOk + 1) ∧
        (senseBad sensed verify = true → (t.block (a / 2048 * 2048)).poison = true ∧ (t.block (a / 2048 * 2048)).cause = senseCause sensed ∧
          BMap.readBytes t.mem (a / 2048 * 2048) 2048 = List.replicate 2048 0xFF ∧ OnlyWrites s t (a / 2048 * 2048) 2048))

/-- Refresh, patrol and the life of a stack (R189, R190, R197, R199, R408, R409): a refresh clears its bank's activations; the
patrol goes on by a block, rewrites a corrected one and poisons one that is bad twice; start-up ends in SERVICE with the window
zero, or in FAILED; recovery holds requests, and ends in SERVICE, at the second failure in FAILED. Completes: `refresh`, `rfm`,
`patrol`, `stackStartup`, `stackRecovery`, `stackRecoveryEnd`. -/
def Obligations.stackEventsComplete : Prop :=
  ∀ (s : State) (k : Nat), k < 20 →
    (∀ pc bank, pc < 64 → bank < 64 → (s.stack k).mode = .service →
      (∃ t, exec (.refresh k pc bank) s = .next t ∧ t.stack k = { s.stack k with
        activations := Tbl.set 0 (s.stack k).activations (pc * 64 + bank) 0, onDie := (s.stack k).onDie + s.fresh.1 % 2 ^ 16 } ∧ Same [.hbm, .free] s t) ∧
      (96 ≤ Tbl.get 0 (s.stack k).activations (pc * 64 + bank) → ∃ t, exec (.rfm k pc bank) s = .next t ∧
        Tbl.get 0 (t.stack k).activations (pc * 64 + bank) = 0 ∧ Same [.hbm] s t)) ∧
    (∀ a first second, s.stackOwner k ≠ 0 → (s.stack k).mode = .service → a = k * 2 ^ 37 + (s.stack k).patrolAt → (s.stack k).patrolAt < windowBytes →
      a % 2048 = 0 → (s.block a).poison = false → ∃ t, exec (.patrol k first second) s = .next t ∧ (t.stack k).patrolAt = ((s.stack k).patrolAt + 2048) % windowBytes ∧
        (first = .corrected → t.block a = {} ∧ t.mem = s.mem) ∧ (senseBad first true = false → t.mem = s.mem) ∧
        (senseBad first true = true → senseBad second true = false → t.block a = {} ∧ t.mem = s.mem) ∧
        (senseBad first true = true → senseBad second true = true → (t.block a).poison = true ∧ OnlyWrites s t a 2048)) ∧
    (∀ o : StackBringUp, ((s.stack k).mode = .training ∨ (s.stack k).mode = .selfRefresh) → s.power.state = .starting →
      (o.remaps ≤ 2 → o.retries ≤ 4 → o.testPass = true → ∃ t, exec (.stackStartup k o) s = .next t ∧ (t.stack k).mode = .service ∧
        (s.power.image = none → (∀ i, i < windowBytes → BMap.read t.mem (k * 2 ^ 37 + i) = 0) ∧ OnlyWrites s t (k * 2 ^ 37) windowBytes) ∧
        (∀ x, s.power.image = some x → t.mem = s.mem)) ∧
      ((2 < o.remaps ∨ 4 < o.retries ∨ o.testPass = false) → ∃ t, exec (.stackStartup k o) s = .next t ∧ (t.stack k).mode = .failed ∧ t.mem = s.mem)) ∧
    (∀ cause, (s.stack k).mode = .service → ∃ t, exec (.stackRecovery k cause) s = .next t ∧ (t.stack k).mode = .recovery ∧
      (t.stack k).recoveryAt = some s.now ∧ (t.stack k).retrainFails = 0 ∧ t.mem = s.mem) ∧
    ((s.stack k).mode = .recovery →
      ((∀ e ∈ s.loose, e.1 ≠ s.stackOwner k) → ∃ t, exec (.stackRecoveryEnd k true) s = .next t ∧ (t.stack k).mode = .service ∧ (t.stack k).held = (s.stack k).held ∧ t.mem = s.mem) ∧
      ((s.stack k).retrainFails = 0 → ∃ t, exec (.stackRecoveryEnd k false) s = .next t ∧ t.stack k = { s.stack k with retrainFails := 1 } ∧ Same [.hbm] s t) ∧
      ((s.stack k).retrainFails ≠ 0 → ∃ t, exec (.stackRecoveryEnd k false) s = .next t ∧ (t.stack k).mode = .failed ∧ (t.stack k).held = [] ∧
        (t.stack k).rereads = []))

/-- CHISEL_RUN with no gate (R209, R211, R372). Completes: `chiselRun`. A list whose records pass the checks is started, as the newest list.

Commands on the bond (R213, R214, R221 to R224): CHSET loads the latch; CHROW runs one row operation in every bank it
selects, for the list whose turn it is (log 192); CHACC adds the enabled elements of one column of a good block and touches nothing else; CHFNC takes off each waiting
fence what has ended there; a FENCE ends when every record before it has. Completes: `chset`, `chrow`,
`chacc`, `chfnc`.

FENCE of a CHISEL_RUN list (R222, R372): reached, with every earlier record ended, it ends; when nothing else of the list is
left, the command replies. Completes: `fence`. -/
def Obligations.chiselsComplete : Prop :=
  (∀ (s b : State) (fn slot : Nat), s.canTake fn slot opCHISEL_RUN = true → b = (s.take fn slot).beginCmd fn slot →
      s.chiselCheck fn (s.cmd fn slot) = 0 → (s.cmd fn slot).param 16 8 = 0 →
      OneBlock b fn ((s.cmd fn slot).param 0 8) (64 * (s.cmd fn slot).param 8 4) →
      b.answers fn ((s.cmd fn slot).param 0 8) (64 * (s.cmd fn slot).param 8 4) = true → (∀ l ∈ s.chisel, l.id < s.nextList) →
      (∀ i, i < (s.cmd fn slot).param 8 4 → s.recordCheck fn (readOpRec (BMap.readBytes s.mem ((s.cmd fn slot).param 0 8 + 64 * i) 64)) = 0) →
      (∃ b, b < 4096 ∧ ((readOpRec (BMap.readBytes s.mem ((s.cmd fn slot).param 0 8) 64)).nextRow b 0).isSome = true) →
      (readOpRec (BMap.readBytes s.mem ((s.cmd fn slot).param 0 8) 64)).isFence = false →
      ∃ t l, exec (.chiselRun fn slot) s = .next t ∧ t.nextList = s.nextList + 1 ∧ t.chisel.find? (fun x => x.id == s.nextList) = some l ∧
        l.pt = fn ∧ l.fn = fn ∧ l.slot = slot ∧ l.records.length = (s.cmd fn slot).param 8 4 ∧
        (∀ i, i < (s.cmd fn slot).param 8 4 → l.records[i]? = some (BMap.readBytes s.mem ((s.cmd fn slot).param 0 8 + 64 * i) 64)) ∧
        (t.cmd fn slot).phase = .running ∧ t.mem = s.mem) ∧
  (∀ (s : State) (k pc : Nat), k < 20 → pc < 64 →
      (∀ setup, (s.stack k).mode = .service → ∃ t, exec (.chset k pc setup) s = .next t ∧
        t.stack k = { s.stack k with latch := Tbl.set default (s.stack k).latch pc setup } ∧ Same [.hbm] s t) ∧
      (∀ (row : ChiselRow) l i r, RowTurn s k pc row l i r → ∃ t, exec (.chrow k pc row) s = .next t ∧
        t.mem = (forEach (rowSlots row pc) s (fun b st => st.runRow k pc l.id i r b)).mem ∧
        (∀ y ∈ t.chisel, y.id = l.id → ∀ b ∈ rowSlots row pc, y.progress i b = r + 1)) ∧
      (∀ (row : ChiselRow) l i r b x d, RowTurn s k pc row l i r → rowSlots row pc = [b] → (l.rec' i).rowOp r b = some x →
        d = (s.activate x.dest).doRow (l.rec' i) (s.policyZ l.pt) x → d.failed = false → ∃ t, exec (.chrow k pc row) s = .next t ∧ t.mem = d.st.mem ∧
          (∀ y ∈ t.chisel, y.id = l.id → y.flags = l.flags ||| d.flags ∧ y.failed = l.failed)) ∧
      (∀ row col bank enable data f a w, (s.stack k).mode = .service → s.rowsHeld k = false → accFormat ((Tbl.get default (s.stack k).latch pc).fmts.toNat % 16) = some f →
        bank < 64 → row < 9216 → col < 64 → data.length = 32 → w = addBytes f →
        a = k * 2 ^ 37 + row * rowSpan + (bank / 16 * 1024 + bank % 16 * 64 + pc) * 2048 + 32 * col →
        (s.block a).poison = false → (s.block a).sense = .good → ∃ t, exec (.chacc k pc row col bank enable data) s = .next t ∧ OnlyWrites s t a 32 ∧
          ∀ i, i < 32 → (enable.getLsbD (i / w) = false → BMap.read t.mem (a + i) = BMap.read s.mem (a + i)) ∧
            (enable.getLsbD (i / w) = true → BMap.read t.mem (a + i) = (addRun f w (s.policyZ (s.stackOwner k)) 32 (BMap.readBytes s.mem a 32)
              ((List.range 32).map (fun j => if enable.getLsbD (j / w) then data.getD j 0 else 0))).1.getD i 0)) ∧
      (∃ t, exec (.chfnc k pc) s = .next t ∧ (∀ y, (t.tile y).s.flights = (s.tile y).s.flights.map (s.dropMarks k pc)) ∧ Same [.tiles] s t)) ∧
  (∀ (s : State) (l : ChiselList) (b : Nat × List (Nat × Nat)), s.chisel.find? (fun y => y.id == l.id) = some l →
      l.before.find? (fun y => y.1 == l.accepted) = some b → (∀ e ∈ b.2, s.recordEnded e.1 e.2 = true) → (s.cmd l.fn l.slot).param 32 8 = 0 → (s.cmd l.fn l.slot).failed = 0 →
      s.inRun l.fn l.slot opCHISEL_RUN = true → ∃ t, exec (.fence l.id) s = .next t ∧ t.mem = s.mem ∧
        ((List.range l.records.length).all ({ l with fenced := l.fenced ++ [l.accepted] } : ChiselList).ended = false →
          (t.chisel.find? (fun y => y.id == l.id)).map (·.fenced) = some (l.fenced ++ [l.accepted]) ∧ (t.cmd l.fn l.slot).phase = .running) ∧
        ((List.range l.records.length).all ({ l with fenced := l.fenced ++ [l.accepted] } : ChiselList).ended = true →
          t.chisel.find? (fun y => y.id == l.id) = none ∧ (t.cmd l.fn l.slot).phase = .finished ∧
          (t.cmd l.fn l.slot).status = (if l.failed ≠ 0 then stDATA_ERROR else stOK)))

/-- Requests on tiered pages (R238, R239, R241, R242, R249): a cold read and a write that finds no frame are served from flash,
their pages granted without a frame; a request that needs a frame starts a fill into a free one; a filled page is RESIDENT; a victim
goes to EVICTING and, with nothing dirty, leaves its frame to the page that waits for it; a dirty unit is programmed as its frame
holds it; a request older than TIER_LIMIT ends. Completes: `readThrough`, `directWrite`, `fill`, `fillComplete`, `eviction`,
`writeBack`, `tierTimeout`.

Cleaning, ageing, hints and the moves of the flash translation layer (R237, R243, R244, R255 to R258): cleaning goes on to
its lower share; ageing halves every count; a PREFETCH and a PIN fill a HOME page, a DEMOTE takes a RESIDENT one to
EVICTING; relocations and collections change no logical content; a retired block serves no more. Completes: `cleaning`, `age`,
`prefetch`, `pinHint`, `demote`, `garbageCollection`, `readRelocation`, `blockRetire`, `wearLevelling`. -/
def Obligations.tiersComplete : Prop :=
  (∀ (s : State) (p g : Nat),
      (∀ r, s.tierReqs.find? (fun x => x.id == r.id) = some r → r.since + (s.part r.pt).limitNs < s.now → r.pt = p → r.page = g → r.owner ≠ .none →
        ∃ t, exec (.tierTimeout r.id) s = .next t ∧ (t.page p g).late = min 255 ((s.page p g).late + 1) ∧ (t.part p).lateTotal = (s.part p).lateTotal + 1 ∧
          (∀ fn slot, r.owner = .command fn slot → (s.cmd fn slot).failed = 0 → (t.cmd fn slot).failed = stTIER_TIMEOUT ∧
            t.tierReqs = s.tierReqs.filter (fun x => x.id != r.id))) ∧
      (s.tierWorks p = true →
      (∀ r rest f n i bad b, s.reqsOn p g = r :: rest → s.unitsWork g r.units = true → (s.page p g).state = .home → r.owner = .command f n →
        (r.kind = .read ∧ s.wantsFrame r = false ∧ i = .readThrough p g bad ∧ b = s.probe p g r.units bad ∧ (b.page p g).failed &&& r.units = 0) ∨
          (r.kind = .write ∧ s.frameFor p g = false ∧ s.flash.readOnly = false ∧ i = .directWrite p g bad ∧ b = s.probe p g r.reads bad ∧
            (b.page p g).failed &&& r.reads = 0) →
        ∃ t, exec i s = .next t ∧ t.tierReqs = s.tierReqs.filter (fun x => x.id != r.id) ∧ t.grants = s.grants ++ [(.command f n, g, true)] ∧
          t.mem = s.mem ∧ t.flash.data = s.flash.data) ∧
      (∀ r f bad, (s.reqsOn p g).find? s.wantsFrame = some r → (s.page p g).state = .home → s.freeTierFrame p = some f →
        ∃ t, exec (.fill p g bad) s = .next t ∧ (t.page p g).state = .filling ∧ (t.page p g).frame = some f) ∧
      (∀ f a bad, (s.page p g).state = .filling → s.unitsUp g = BitVec.allOnes 32 → (s.page p g).frame = some f → (s.part p).frameAddr f = some a →
        ∃ t, exec (.fillComplete p ⟨g, bad⟩) s = .next t ∧ (t.page p g).state = .resident ∧ (t.page p g).frame = some f ∧ (t.part p).fills = (s.part p).fills + 1) ∧
      (∀ h, (s.page p g).state = .resident → s.freeTierFrame p = none → s.victim p (fun _ => true) = some g → s.nextHeir p = some h →
        ∃ t, exec (.eviction p g) s = .next t ∧ t.page p g = { s.page p g with state := .evicting, heir := some h } ∧ Same [.parts] s t) ∧
      ((s.page p g).state = .evicting → (s.page p g).dirty = 0 →
        ((s.page p g).heir = none → ∃ t, exec (.eviction p g) s = .next t ∧ t.page p g = (s.page p g).home ∧ Same [.parts] s t) ∧
        (∀ h f, (s.page p g).heir = some h → (s.page p g).frame = some f → h ≠ g → (s.page p h).state = .home → ∃ t, exec (.eviction p g) s = .next t ∧
          t.page p g = (s.page p g).home ∧ (t.page p h).state = .filling ∧ (t.page p h).frame = some f ∧ Same [.parts] s t)) ∧
      (∀ u f a, u < 32 → s.unitsWork g (1#32 <<< u) = true → s.flash.readOnly = false →
        (s.page p g).state = .evicting ∨ ((s.part p).cleaning = true ∧ s.coldestDirty p = some g) →
        (s.page p g).dirty.getLsbD u = true → (s.page p g).frame = some f →
        (s.part p).frameAddr f = some a →
        (∀ i, i < 32 → (s.stack ((a + u * unitSize + 2048 * i) / 2 ^ 37)).mode ≠ .failed ∧ (s.block (a + u * unitSize + 2048 * i)).poison = false ∧
          (s.block (a + u * unitSize + 2048 * i)).sense = .good) → a % 2048 = 0 → ∃ t, exec (.writeBack p g u) s = .next t ∧
          BMap.readBytes t.flash.data ((s.part p).flashKey (tierBase + g * pageSize + u * unitSize)) unitSize = BMap.readBytes s.mem (a + u * unitSize) unitSize ∧
          (t.page p g).dirty = (s.page p g).dirty &&& ~~~(1#32 <<< u) ∧ (t.part p).written = (s.part p).written + unitSize ∧ t.mem = s.mem))) ∧
  (∀ (s : State) (p : Nat),
      (s.tierWorks p = true → s.flash.readOnly = false → ((s.part p).cleaning = true ∨ (s.part p).dirtyOver (s.part p).dirtyHigh = true) →
        ∃ t, exec (.cleaning p) s = .next t ∧ t = ((s.modPart p (fun x => { x with cleaning := true })).clean p (s.part p).pageCount).settleCleaning p) ∧
      ((s.part p).isPresent = true → (s.part p).agedAt + (s.part p).ageNs ≤ s.now → ∃ t, exec (.age p) s = .next t ∧
        (∀ g, t.page p g = { s.page p g with count := (s.page p g).count / 2 }) ∧ (t.part p).agedAt = s.now ∧ Same [.parts] s t) ∧
      (∀ g rest f, (s.part p).hints = (.prefetch, g) :: rest → s.tierWorks p = true → (s.page p g).state = .home → s.heirOf p g = false → s.freeTierFrame p = some f →
        ∃ t, exec (.prefetch p) s = .next t ∧ t.page p g = { s.page p g with state := .filling, frame := some f, filled := 0, dirty := 0 } ∧
          (t.part p).hints = rest ∧ Same [.parts] s t) ∧
      (∀ g rest, (s.part p).hints = (.pin, g) :: rest → s.tierWorks p = true → (s.page p g).pinned = false →
        (∀ f, (s.part p).mayPin (s.page p g) = true → (s.page p g).state = .home → s.freeTierFrame p = some f →
          ∃ t, exec (.pinHint p) s = .next t ∧ (t.page p g).pinned = true ∧ (t.page p g).state = .filling ∧ (t.page p g).frame = some f ∧
            (t.part p).hints = rest ∧ Same [.parts] s t) ∧
        ((s.part p).mayPin (s.page p g) = false → ∃ t, exec (.pinHint p) s = .next t ∧
          t.part p = { s.part p with hints := rest, pinRefused := (s.part p).pinRefused + 1 } ∧ Same [.parts] s t)) ∧
      (∀ g rest, (s.part p).hints = (.demote, g) :: rest → s.tierWorks p = true → (s.page p g).state = .resident → s.mayLeave p g = true →
        ∃ t, exec (.demote p) s = .next t ∧ t.page p g = { s.page p g with pinned := false, count := 0, state := .evicting, heir := none } ∧ (t.part p).hints = rest ∧ Same [.parts] s t) ∧
      (∀ ch b, s.channelWorks ch = true → b < 2 ^ 20 → (s.eraseBlock ch b).retired = false →
        (∃ t, exec (.garbageCollection ch b) s = .next t ∧ (t.eraseBlock ch b).cycles = (s.eraseBlock ch b).cycles + 1 ∧ (t.eraseBlock ch b).reads = 0 ∧
          t.flash.data = s.flash.data ∧ t.flash.written = s.flash.written) ∧
        (100000 ≤ (s.eraseBlock ch b).reads → ∃ t, exec (.readRelocation ch b) s = .next t ∧ (t.eraseBlock ch b).cycles = (s.eraseBlock ch b).cycles + 1 ∧
          (t.eraseBlock ch b).reads = 0 ∧ t.flash.data = s.flash.data ∧ t.flash.written = s.flash.written) ∧
        (∃ t, exec (.blockRetire ch b) s = .next t ∧ (t.eraseBlock ch b).retired = true ∧ (t.eraseBlock ch b).failing = false ∧
          min 300 (Tbl.get 0 s.flash.spare ch) ≤ Tbl.get 0 t.flash.spare ch ∧ t.flash.data = s.flash.data ∧ t.log.faults = s.log.faults + 1) ∧
        (∀ e c w, s.channelBlocks ch = [(b, e), (c, w)] → b ≠ c → s.validUnits ch b ≠ [] → s.validUnits ch c = [] → e.isFree = false → w.isFree = true →
          e.cycles + 500 < w.cycles → c < 2 ^ 20 → ∃ t, exec (.wearLevelling ch) s = .next t ∧
            (∀ u ∈ s.validUnits ch b, (Tbl.get none t.flash.map (u.extent * 2 ^ 20 + u.unit)).map (fun x => (x.1, x.2.1)) = some (ch, c)) ∧
            t.eraseBlock ch b = { e with units := [], next := 0, cycles := e.cycles + 1, reads := 0 } ∧ t.flash.data = s.flash.data)))

/-- An apply's phases where memory answers and nothing faults (R269, R270, R272, R273): PREPARE looks at every prepared element
and goes on, or skips, where its record has been decided as that decision says; the decision on a tensor scale record lets its
applies go on, or skips them; each later phase follows the one before; COMMIT makes the new version current and ends the apply.
Completes: `prepare`, `lossScaleUpdate`, `applyState`, `commit`. -/
def Obligations.appliesGoOn : Prop :=
  ∀ (s : State) (p i : Nat) (a : Apply) (r : Shard),
    (∀ st bad d, PhaseServes s p i a r 1 → s.mayPrepare p a = true → crc32c (BMap.readBytes r.b 0 224) = r.u 332 4 → r.onChisel = false →
      st = (s.atWork p i a r 1).putShard p i 272 1 (r.sstate % 4 + r.sstate / 8 * 8 + 4) → d = (s.part p).train.lsDone.find? (fun e => e.1 == r.scaleRec && e.2.1 == a.step) →
      (st.gradient p r a.step).1.status = 0 → bad = (st.gradient p r a.step).2.any badF →
      ((r.scaleRec ≠ 0 ∧ d = none) ∨ (bad = false ∧ d.all (fun e => !e.2.2) = true) → ∃ t, exec (.prepare p i) s = .next t ∧
        t.applyOf p i = some { a with phase := 2, nonFinite := bad, decided := decide (r.scaleRec = 0 ∨ d.isSome = true) }) ∧
      ((bad = true ∧ (r.scaleRec = 0 ∨ d.isSome = true)) ∨ d.any (fun e => e.2.2) = true → ∃ t, exec (.prepare p i) s = .next t ∧
        (t.part p).train.finished = (s.part p).train.finished + 1 ∧ (t.part p).train.skipped = (s.part p).train.skipped + 1 ∧
        (∀ b ∈ (t.part p).train.applies, ¬(b.shard = i ∧ b.step = a.step)))) ∧
    (∀ rec', s.applyOf p i = some a → r = s.shard p i → rec' ≠ 0 → r.scaleRec = rec' → s.hbmReady p = true → a.phase = 2 → a.halted = false → a.decided = false →
      Sound s p rec' 128 → (s.part p).inWindow rec' 128 = true →
      (s.part p).train.applies.filter (fun b => (s.shard p b.shard).scaleRec == rec' && !b.decided) = [a] →
      ∃ t, exec (.lossScaleUpdate p rec') s = .next t ∧ (a.nonFinite = false →
        BMap.readBytes t.mem rec' 128 = BMap.readBytes (lossScaleBytes (BMap.writeBytes [] 0 (BMap.readBytes s.mem rec' 128)) false) 0 128 ∧
        OnlyWrites s t rec' 128 ∧ (t.applyOf p i).map (·.decided) = some true) ∧
        (a.nonFinite = true → (t.part p).train.skipped = (s.part p).train.skipped + 1 ∧
          (∀ b ∈ (t.part p).train.applies, ¬(b.shard = i ∧ b.step = a.step)))) ∧
    (PhaseServes s p i a r 2 → s.mayRun p a 2 = true → r.rule = 4 → ∃ t, exec (.applyState p i) s = .next t ∧
      t.applyOf p i = some { a with phase := 3 } ∧ t.mem = s.mem) ∧
    (PhaseServes s p i a r 5 → s.mayRun p a 5 = true → (s.part p).journalAddr = 0 → ∃ t, exec (.commit p i) s = .next t ∧
      (t.shard p i).version = (r.version + 1) % 2 ^ 64 ∧ (t.shard p i).u 264 8 = a.step % 2 ^ 64 ∧ (t.shard p i).active = 1 - r.active ∧
      (t.part p).train.finished = (s.part p).train.finished + 1 ∧ (t.part p).train.lastDone = some i ∧
      (∀ b ∈ (t.part p).train.applies, ¬(b.shard = i ∧ b.step = a.step)) ∧ OnlyWrites s t (s.shardAddr p i + 256) 72)

/-- STATE, RULE and REGENERATE of a MOMENTUM shard on the update unit (R271, R274): the inactive state and master buffers get
the new values, and the working buffer the converted master. Completes: `applyState`, `applyRule`, `regenerate`.

Replicas (R281, R282): while the fence of a step waits, a replica reads its owner's record through PEER, by verified READs of
another module or at once in its own; it asks again while the owner's last step is too early; one that holds the newest buffer
that is old enough, or a newer one, takes nothing; any other asks for that buffer, its own tag at -2, writes it, reads the tag again,
and takes the tag as its own where it has not changed, or fails the fence. Completes: `replicaFetch`. -/
def Obligations.momentumAppliesRun : Prop :=
  (∀ (s : State) (p i : Nat) (a : Apply) (r : Shard) (st : State), r.rule = 1 → r.bf16 = false → r.onChisel = false → 1 ≤ r.n → r.active ≤ 1 →
      (∀ g m, PhaseServes s p i a r 2 → st = s.atWork p i a r 2 → s.mayRun p a 2 = true → g = (st.gradient p r a.step).2 →
        (st.gradient p r a.step).1.status = 0 → (st.gradient p r a.step).1.st.mem = s.mem → Sound s p (r.stateA r.active) (4 * r.n) →
        Sound s p (r.stateA (1 - r.active)) (4 * r.n) →
        m = splitLe 4 (BMap.readBytes s.mem (r.stateA r.active) (4 * r.n)) → g.length = r.n → ∃ t, exec (.applyState p i) s = .next t ∧
          t.applyOf p i = some { a with phase := 3 } ∧ OnlyWrites s t (r.stateA (1 - r.active)) (4 * r.n) ∧
          BMap.readBytes t.mem (r.stateA (1 - r.active)) (4 * r.n) =
            joinLe 4 ((m.zip g).map (fun e => policyWrite (s.policyZ p) 6 (addF (mulF r.beta1 e.1) e.2)))) ∧
      (∀ w m, PhaseServes s p i a r 3 → s.mayRun p a 3 = true → Sound s p (r.master r.active) (4 * r.n) → Sound s p (r.stateA (1 - r.active)) (4 * r.n) →
        Sound s p (r.master (1 - r.active)) (4 * r.n) → w = splitLe 4 (BMap.readBytes s.mem (r.master r.active) (4 * r.n)) →
        m = splitLe 4 (BMap.readBytes s.mem (r.stateA (1 - r.active)) (4 * r.n)) → ∃ t, exec (.applyRule p i) s = .next t ∧
          t.applyOf p i = some { a with phase := 4 } ∧ OnlyWrites s t (r.master (1 - r.active)) (4 * r.n) ∧
          BMap.readBytes t.mem (r.master (1 - r.active)) (4 * r.n) = joinLe 4 ((w.zip m).map (fun e => policyWrite (s.policyZ p) 6 (r.decayed e.1 e.2)))) ∧
      (PhaseServes s p i a r 4 → st = s.atWork p i a r 4 → s.mayRun p a 4 = true → r.audit = false →
        (st.regenInto p r (r.master (1 - r.active)) r.bufferOut).1.status = 0 → ∃ t,
        exec (.regenerate p i) s = .next t ∧ t.applyOf p i = some { a with phase := 5 } ∧
        t.mem = (st.regenInto p r (r.master (1 - r.active)) r.bufferOut).1.st.mem)) ∧
  (∀ (s : State) (p i : Nat) (w : FenceWait) (r own : Shard) (x : Fetch) (bound : Int), (s.part p).train.fence = some w → w.error = 0 → r = s.shard p i →
      (s.replicas p).contains i = true → (s.part p).train.fetched.contains i = false → s.hbmReady p = true → bound = (w.step : Int) - r.delay →
      (Tbl.get none (s.part p).train.fetches i = none → s.runStatus p r.peer 512 = 0 →
        (∀ a, s.localAddr r.peer = some a → Sound s p a 512 → ∃ t, exec (.replicaFetch p i w.step) s = .next t ∧ t.mem = s.mem ∧
          Tbl.get none (t.part p).train.fetches i = some { since := s.now, buf := BMap.writeBytes [] r.peer (BMap.readBytes s.mem a 512) }) ∧
        (∀ j a, s.localAddr r.peer = none → engineAddr r.peer = .remote j a → ∃ t, exec (.replicaFetch p i w.step) s = .next t ∧ t.mem = s.mem ∧
          t.readsOut = s.readsOut ++ (cutBlocks 2 a 512).map (fun c => (j, c.1, c.2, .replica p i, true)) ∧
          Tbl.get none (t.part p).train.fetches i = some { since := s.now, waits := (cutBlocks 2 a 512).length })) ∧
      (Tbl.get none (s.part p).train.fetches i = some x → x.failed = 0 → x.waits = 0 →
        (x.stage = 1 → own = ⟨BMap.writeBytes [] 0 (BMap.readBytes x.buf r.peer 512)⟩ →
          (own.lastStep < bound → s.now < x.since + 10000 → exec (.replicaFetch p i w.step) s = .next s) ∧
          (∀ k tag, bound ≤ own.lastStep → newestTag ((List.range own.buffers).map own.wtag) bound = some (k, tag) →
            ((∃ b, b < r.buffers ∧ tag ≤ r.wtag b) → ∃ t, exec (.replicaFetch p i w.step) s = .next t ∧ i ∈ (t.part p).train.fetched ∧
              (t.part p).train.lastDone = some i ∧ t.mem = s.mem) ∧
            ((∀ b, b < r.buffers → r.wtag b < tag) → ∃ t y, exec (.replicaFetch p i w.step) s = .next t ∧ (s.part p).train.fetched = (t.part p).train.fetched ∧
              Tbl.get none (t.part p).train.fetches i = some y ∧ y.stage = 2 ∧ y.buffer = k ∧ y.tag = tag))) ∧
        (∀ runs put, x.stage = 2 → runs = (r.ownerRuns ⟨BMap.writeBytes [] 0 (BMap.readBytes x.buf r.peer 512)⟩ x.buffer).map (fun e => BMap.readBytes x.buf e.1 e.2) →
          put = s.writeReplica p r r.bufferOut (runs.getD 0 []) (runs.getD 1 []) → put.status = 0 → ∃ t y, exec (.replicaFetch p i w.step) s = .next t ∧
            t.mem = put.st.mem ∧ Tbl.get none (t.part p).train.fetches i = some y ∧ y.stage = 3 ∧ y.tag = x.tag) ∧
        (x.stage = 3 → signed 64 (BMap.readLe x.buf (r.peer + 280 + 8 * x.buffer) 8) = x.tag → ∃ t, exec (.replicaFetch p i w.step) s = .next t ∧
          i ∈ (t.part p).train.fetched ∧ (t.part p).train.lastDone = some i ∧
          t.mem = (s.putShard p i (280 + 8 * r.bufferOut) 8 (unsigned 64 x.tag)).mem) ∧
        (x.stage = 3 → signed 64 (BMap.readLe x.buf (r.peer + 280 + 8 * x.buffer) 8) ≠ x.tag → ∃ t, exec (.replicaFetch p i w.step) s = .next t ∧
          (t.part p).train.fence = some { w with error := stDATA_ERROR, shard := i } ∧ t.mem = s.mem)))

/-- Ports come up (R287, R288, R290, R291): a measured and trained port goes to the exchange and sends its capabilities to the
neighbour it is cabled to; one that fails counts the attempt and is DOWN, or FAILED after the eighth; a partner that fits
brings the port UP with 8 lanes or DEGRADED with 7 and counts a link-up; one that does not makes it MISWIRED. Completes:
`portPresence`, `portRetry`, `caps`, `miswiredRetry`.

Links (R287, R297, R299, R300, R312): an idle cycle sends the packet whose turn it is at each port, a class 0 or 1 before all
others, classes 2 and 3 at 7 to 1, each domain's in their order; with the spare armed the first data lane that fails moves to it and nothing else
changes; unarmed, the port retrains; after the spare is in use a second failure retrains the port on 7 lanes and a third ends in
FAILED; up to 16 replays are only counted, more take the link DOWN, and a collective whose CHAIN packets waited there breaks.
Completes: `laneFail`, `linkReplay`. -/
def Obligations.portsComplete : Prop :=
  (∀ (s : State) (q : Nat), q < 8 → s.fabricOn = true → s.procUp pFAB = true →
      (∀ found, (s.port q).state = .down →
        (found.trained = true → ∃ t k, exec (.portPresence q found) s = .next t ∧ (t.port q).state = .caps ∧ (t.port q).term = found.term ∧
          (t.port q).lengthCm = found.lengthCm ∧ (t.port q).delayNs = found.delayNs ∧ (t.port q).lanesBad = [] ∧
          t.fabric.outbox = s.fabric.outbox ++ [(q, k)] ∧ k.type = pkCAPS ∧ k.dst = s.neighbour q ∧ (∀ r, r ≠ q → t.port r = s.port r)) ∧
        (found.trained = false → ∃ t, exec (.portPresence q found) s = .next t ∧ (t.port q).fails = (s.port q).fails + 1 ∧
          (t.port q).state = (if 8 ≤ (s.port q).fails + 1 then .failed else .down) ∧ t.fabric.outbox = s.fabric.outbox) ∧
        (found.trained = true → (s.port q).fails ≠ 0 → (s.port q).failedAt + 1000000000 ≤ s.now → ∃ t, exec (.portRetry q found) s = .next t ∧
          (t.port q).state = .caps ∧ (t.port q).lengthCm = found.lengthCm)) ∧
      (∀ (k : Packet) (c : Capability), s.power.fatal = false → k.type = pkCAPS → s.isStale k = false → (s.port q).state = .caps →
        ((c.position = s.neighbour q ∧ c.port = partnerPort q ∧ c.configCrc.toNat = s.configCrc ∧ c.fec.getLsbD 0 = true) →
          ∃ t, exec (.caps q k c) s = .next t ∧ (t.port q).state = (if (s.port q).lanes = 8 then .up else .degraded) ∧
            (t.port q).partner = some c ∧ (t.port q).linkUps = min (2 ^ 32 - 1) ((s.port q).linkUps + 1) ∧ (t.port q).fails = 0) ∧
        ((c.position ≠ s.neighbour q ∨ c.port ≠ partnerPort q ∨ c.configCrc.toNat ≠ s.configCrc ∨ c.fec.getLsbD 0 = false) →
          ∃ t, exec (.caps q k c) s = .next t ∧ (t.port q).state = .miswired ∧ (t.port q).partner = some c ∧ (t.port q).failedAt = s.now)) ∧
      (∀ (c : Capability), s.power.fatal = false → (s.port q).state = .miswired → (s.port q).failedAt + 1000000000 ≤ s.now →
        c.position = s.neighbour q → c.port = partnerPort q → c.configCrc.toNat = s.configCrc → c.fec.getLsbD 0 = true →
        ∃ t, exec (.miswiredRetry q c) s = .next t ∧ (t.port q).state = (if (s.port q).lanes = 8 then .up else .degraded) ∧
          (t.port q).partner = some c)) ∧
  (∀ (s : State) (q : Nat), q < 8 → s.portUp q = true →
      (∀ k, s.pending = [] → s.power.state ≠ .unpowered → s.nextPacket q = some k → ∃ t, step s = .next t ∧ (q, k) ∈ t.fabric.sent ∧
        (∀ e ∈ s.fabric.outbox, e.1 = q → e.2.cls < 2 → k.cls ≤ e.2.cls) ∧
        (∀ e ∈ s.fabric.outbox, e.1 = q → (k.cls = 3 → e.2.cls = 2 → 7 ≤ (s.port q).share) ∧ (k.cls = 2 → e.2.cls = 3 → (s.port q).share < 7)) ∧
        s.fabric.outbox.find? (fun e => e.1 == q && e.2.cls == k.cls && e.2.domain == k.domain) = some (q, k)) ∧
      (∀ lane, lane < 8 → (s.port q).lanesBad = [] → (s.port q).spareUsed = false → (s.port q).hasSpare = true →
        (32 < s.fabricN → ∃ t, exec (.laneFail q lane) s = .next t ∧
          t.port q = { s.port q with lanesBad := [lane], spareUsed := true, switches := (s.port q).switches + 1 } ∧ Same [.fabric] s t) ∧
        (s.fabricN ≤ 32 → ∃ t, exec (.laneFail q lane) s = .next t ∧ (t.port q).state = .caps ∧ (t.port q).lanes = 8)) ∧
      (∀ lane other, lane < 8 → (s.port q).spareUsed = true → (s.port q).lanesBad = [other] → lane ≠ other →
        ∃ t, exec (.laneFail q lane) s = .next t ∧ (t.port q).state = .caps ∧ (t.port q).lanes = 7) ∧
      (∀ lane a b, lane < 8 → (s.port q).spareUsed = true → (s.port q).lanesBad = [a, b] → lane ≠ a → lane ≠ b →
        ∃ t, exec (.laneFail q lane) s = .next t ∧ (t.port q).state = .failed) ∧
      (∀ replays, replays ≤ 16 → ∃ t, exec (.linkReplay q replays) s = .next t ∧
        t.port q = { s.port q with replays := (s.port q).replays + 1 } ∧ (∀ r, r ≠ q → t.port r = s.port r) ∧ Same [.fabric] s t) ∧
      (∀ replays, 16 < replays → ∃ t, exec (.linkReplay q replays) s = .next t ∧ (t.port q).state = .down ∧ (t.port q).failedAt = s.now ∧
        (∀ p ∈ allParts, ∀ x ∈ (t.part p).colls, x.chains = true →
          s.fabric.outbox.any (fun e => e.1 == q && e.2.type == pkCHAIN && e.2.tag == BitVec.ofNat 16 x.seq) = true → x.cut = true)))

/-- FAB_CONFIG and Caliper time over the fabric (R294, R301, R302, R367, R387): the command sets shape and position, no
collective's member is known any more, and every port repeats the exchange or stays DOWN; an exchange sends one SYNC to the
parent; a child's SYNC is answered by its port with its own t1 and a stamp of this module; no SYNC lowers the counter; a lost
parent begins holdover with the counter running on; a realignment brings every replica to the master. Completes: `fabConfig`,
`syncExchange`, `parentLost`, `sync`, `caliperRealign`. -/
def Obligations.fabricTimeComplete : Prop :=
  ∀ (s : State),
    (∀ slot shape position d, s.canTake 0 slot opFAB_CONFIG = true → (s.cmd 0 slot).param 0 1 = shape → (s.cmd 0 slot).param 1 1 = position →
      (s.cmd 0 slot).param 2 6 = 0 → shapeDims shape = some d → position < d.1 * d.2.1 * d.2.2 → bit (s.cmd 0 slot).cmdFlags 1 = false →
      (∀ p ∈ allParts, (s.part p).domain = 0) → ∃ t, exec (.fabConfig 0 slot) s = .next t ∧ t.fabric.shape = shape ∧ t.fabric.position = position ∧
        t.fabric.members = [] ∧ Finished t 0 slot stOK [crc32c (natLe shape 8)] ∧
        (∀ q, q < 8 → (t.port q).state = (if s.portUp q = true ∨ (s.port q).state = .miswired ∨ (s.port q).state = .caps then .caps else .down))) ∧
    (∀ q, s.parentPort = some q → s.fabricOn = true →
      (s.portUp q = true → ∃ t k, exec .syncExchange s = .next t ∧ t.fabric.outbox = s.fabric.outbox ++ [(q, k)] ∧ k.type = pkSYNC ∧
        k.dst = s.neighbour q ∧ k.tag = 0 ∧ t.fabric.syncSent = some (leNat (k.payload.take 8)) ∧ Same [.free, .time, .fabric] s t) ∧
      (s.portUp q = false → ∃ t, exec .parentLost s = .next t ∧ t.fabric.holdover = true ∧ t.fabric.syncSent = none ∧
        t.time.counter = s.time.counter ∧ t.time.increment = s.time.increment)) ∧
    (∀ q (k : Packet), q < 8 → k.type = pkSYNC → s.portUp q = true → s.isStale k = false →
      (k.tag = 0 → ∃ t a, exec (.sync q k) s = .next t ∧ t.fabric.outbox = s.fabric.outbox ++ [(q, a)] ∧ a.type = pkSYNC ∧ a.dst = k.src ∧
        a.tag = 1 ∧ leNat (a.payload.take 8) = leNat (k.payload.take 8) ∧ t.time.counter = s.time.counter ∧ Same [.free, .time, .fabric] s t) ∧
      (∀ sent, k.tag ≠ 0 → s.fabric.syncSent = some sent → leNat (k.payload.take 8) = sent → s.parentPort = some q → ∃ t, exec (.sync q k) s = .next t ∧
        t.fabric.syncSent = none ∧ t.fabric.joined = true ∧ s.time.counter ≤ t.time.counter)) ∧
    (∃ t, exec .caliperRealign s = .next t ∧ t.time = { s.time with replicas := [] } ∧ Same [.time] s t)

/-- Requests at their target (R29, R184, R195, R298, R303): in its turn, a WRITE of a partition's stack window stores its
payload, an ADD adds it, and a READ is answered with the bytes; each is acknowledged to its sender with its sequence number, and
the stream goes on to the next. A duplicate is acknowledged again and changes no memory; one more than 4 ms old is answered by a
STALE acknowledgement and changes no memory; one for another position only goes on by its route. Completes: `fabWrite`,
`fabAdd`, `fabRead`. -/
def Obligations.requestsAtTheirTarget : Prop :=
  ∀ (s : State) (q : Nat) (k : Packet) (n : Nat), n = k.payload.length →
    (Arrives s q k → s.isStale k = false → InTurn s k → s.partOfDomain k.domain ≠ 0 → OneBlock s (s.partOfDomain k.domain) k.addr (max n k.want) →
      s.answers (s.partOfDomain k.domain) k.addr (if k.type = pkREAD then k.want else n) = true → s.refusal k = 0 → k.nibble = none → k.acc = false →
      (k.type = pkWRITE → 1 ≤ n → ∃ t a, exec (.fabWrite q k) s = .next t ∧ BMap.readBytes t.mem k.addr n = k.payload ∧
        OnlyWrites s t k.addr n ∧
        t.fabric.outbox.getLast? = some (a, { (t.fabric.outbox.getLast?.map (·.2)).getD default with
          type := pkACK, dst := k.src, seq := k.seq, stale := false, status := 0 }) ∧
        Tbl.get 0 t.fabric.rxSeq (streamOf k) = (k.seq + 1) % 2 ^ 32) ∧
      (k.type = pkADD → 1 ≤ n → ∃ t a, exec (.fabAdd q k) s = .next t ∧
        BMap.readBytes t.mem k.addr n = (addRun k.addfmt (addBytes k.addfmt) (s.policyZ (s.partOfDomain k.domain)) n
          (BMap.readBytes s.mem k.addr n) k.payload).1 ∧ OnlyWrites s t k.addr n ∧
        t.fabric.outbox.getLast? = some (a, { (t.fabric.outbox.getLast?.map (·.2)).getD default with
          type := pkACK, dst := k.src, seq := k.seq, stale := false, status := 0 }) ∧
        Tbl.get 0 t.fabric.rxSeq (streamOf k) = (k.seq + 1) % 2 ^ 32) ∧
      (k.type = pkREAD → 1 ≤ k.want → ∃ t a, exec (.fabRead q k) s = .next t ∧ t.mem = s.mem ∧
        t.fabric.outbox.getLast? = some (a, { (t.fabric.outbox.getLast?.map (·.2)).getD default with
          type := pkREAD_DATA, dst := k.src, seq := k.seq, status := 0, payload := BMap.readBytes s.mem k.addr k.want }) ∧
        Tbl.get 0 t.fabric.rxSeq (streamOf k) = (k.seq + 1) % 2 ^ 32)) ∧
    (Arrives s q k → s.isStale k = false → k.type = pkWRITE → k.seq ≠ Tbl.get 0 s.fabric.rxSeq (streamOf k) →
      (Tbl.get 0 s.fabric.rxSeq (streamOf k) + 2 ^ 32 - k.seq) % 2 ^ 32 < 2 ^ 31 → ∃ t, exec (.fabWrite q k) s = .next t ∧ t.mem = s.mem ∧
        t.fabric.rxSeq = s.fabric.rxSeq ∧ (t.fabric.outbox.getLast?.map (fun e => (e.2.type, e.2.dst, e.2.seq, e.2.stale))) = some (pkACK, k.src, k.seq, false) ∧
        t.log.faults = s.log.faults + 1) ∧
    (Arrives s q k → s.isStale k = true → k.type = pkWRITE → ∃ t, exec (.fabWrite q k) s = .next t ∧ t.mem = s.mem ∧
        t.fabric.rxSeq = s.fabric.rxSeq ∧ t.fabric.stale = s.fabric.stale + 1 ∧
        (t.fabric.outbox.getLast?.map (fun e => (e.2.type, e.2.dst, e.2.seq, e.2.stale))) = some (pkACK, k.src, k.seq, true)) ∧
    (q < 8 → s.portUp q = true → s.fabricOn = true → k.type = pkWRITE → k.src < s.fabricN → k.dst < s.fabricN → k.dst ≠ s.fabric.position →
      ∃ t, exec (.fabWrite q k) s = .next t ∧ t = s.dispatch k)

/-- Answers and a sender's timers (R185, R298, R299): READ_DATA brings its bytes to the command that asked and takes the request
off the list; an ACK takes a write off; with STALE the packet is sent again under its own number; an answer to nothing is only
recorded; after 10 ms without an acknowledgement a packet is sent again, and after 1 s its owner ends with ABORTED. Completes:
`fabReadData`, `fabAck`, `resendTimeout`, `remoteRequestTimeout`. -/
def Obligations.answersComplete : Prop :=
  ∀ (s : State) (q : Nat) (k : Packet),
    (Arrives s q k → s.isStale k = false → k.type = pkREAD_DATA →
      (∀ u f n, s.answered k true = some u → u.owner = .command f n → u.reroute = none → k.status = 0 → (u.verify && !k.bchkOk) = false →
        k.payload.length = u.packet.want → ∃ t, exec (.fabReadData q k) s = .next t ∧
          (t.cmd f n).buf = BMap.writeBytes (s.cmd f n).buf u.engineAddr k.payload ∧
          t.fabric.unacked = s.fabric.unacked.filter (fun v => v.id != u.id)) ∧
      (s.answered k true = none → ∃ t, exec (.fabReadData q k) s = .next t ∧ t.fabric.unacked = s.fabric.unacked ∧ t.slots = s.slots ∧
        t.log.faults = s.log.faults + 1)) ∧
    (Arrives s q k → s.isStale k = false → k.type = pkACK →
      (∀ u f n, s.answered k false = some u → u.owner = .command f n → u.reroute = none → k.stale = false → k.status = 0 →
        ∃ t, exec (.fabAck q k) s = .next t ∧ t.fabric.unacked = s.fabric.unacked.filter (fun v => v.id != u.id) ∧
          (t.cmd f n).writes = (s.cmd f n).writes - 1) ∧
      (∀ u, s.answered k false = some u → k.stale = true → ∃ t, exec (.fabAck q k) s = .next t ∧
        (t.fabric.unacked.map (fun v => (v.id, v.packet.seq, v.packet.payload))) = s.fabric.unacked.map (fun v => (v.id, v.packet.seq, v.packet.payload)) ∧
        t.mem = s.mem)) ∧
    (∀ u, s.fabric.unacked.find? (fun v => v.id == u.id) = some u →
      (s.fabricOn = true → u.packet.type ≠ pkPARTIAL → u.last + 10000000 ≤ s.now → ∃ t, exec (.resendTimeout u.id) s = .next t ∧
        (t.fabric.outbox.getLast?.map (fun e => (e.2.seq, e.2.dst, e.2.payload))) = some (u.packet.seq, u.packet.dst, u.packet.payload) ∧
        (t.fabric.unacked.find? (fun v => v.id == u.id)).map (·.last) = some s.now ∧ t.mem = s.mem) ∧
      (∀ f n, u.owner = .command f n → (s.cmd f n).failed = 0 → u.first + 1000000000 ≤ s.now → ∃ t, exec (.remoteRequestTimeout u.id) s = .next t ∧
        (t.cmd f n).failed = stABORTED ∧ t.fabric.unacked = s.fabric.unacked.filter (fun v => v.id != u.id)))

/-- The five COLLECTIVE commands begin (R304, R305, R379): a well-formed record of an active domain whose ranges lie within the
partition table joins the partition's collectives and its command runs; with no WAIT_GATE it goes to the comparison, with eight
of the domain in flight it waits for room; a record whose form is wrong ends with BAD_PARAM and joins nothing. Completes:
`reduceScatter`, `allReduce`, `allGather`, `broadcast`, `permute`.

The members' comparison (R304): fields that differ end the collective with BAD_PARAM and move nothing; fields that agree let
the data move, and a member with no source of its own in the operation (a BROADCAST of another root) waits for copies. Completes:
`collectivePhase`. -/
def Obligations.collectivesComplete : Prop :=
  (∀ (s : State) (fn slot op : Nat) (i : Instr), collectiveRow i = some (fn, slot, op) → 1 ≤ fn → bit (s.cmd fn slot).cmdFlags 1 = false →
      (s.part fn).asleep = false → s.canTake fn slot opCOLLECTIVE = true → (s.cmd fn slot).cOp = op →
      (s.collCheck fn (s.cmd fn slot) = 0 → (s.cmd fn slot).cWaitGate = 0 → ∃ t, exec i s = .next t ∧ (t.cmd fn slot).phase = .running ∧
        (t.part fn).colls = (s.part fn).colls ++ [
          { pt := fn, seq := (s.cmd fn slot).cSeq, fn := fn, slot := slot,
            stage := if 8 ≤ ((s.part fn).colls.filter (fun y => y.stage != .room)).length then CollStage.room else CollStage.compare }] ∧
        t.mem = s.mem ∧ (∀ p, p ≠ fn → t.part p = s.part p)) ∧
      (s.domainActive fn = false → ∃ t, exec i s = .next t ∧ (t.cmd fn slot).phase = .finished ∧ (t.cmd fn slot).status = stBAD_PARAM ∧
        (t.part fn).colls = (s.part fn).colls ∧ t.mem = s.mem)) ∧
  (∀ (s : State) (p seq : Nat) (x : Coll), s.coll p seq = some x → x.stage = .compare → s.domainActive p = true →
      ((s.cmd x.fn x.slot).live = true → ∃ t, exec (.collectivePhase p seq false) s = .next t ∧ t.coll p seq = none ∧
        (t.cmd x.fn x.slot).phase = .finished ∧ (t.cmd x.fn x.slot).status = stBAD_PARAM ∧ t.mem = s.mem) ∧
      ((s.collCmd x).cOp = 4 → (s.collCmd x).cRoot ≠ s.fabric.position → ∃ t, exec (.collectivePhase p seq true) s = .next t ∧
        t.coll p seq = some { x with stage := .run, begun := true } ∧ t.mem = s.mem ∧ Same [.parts] s t))

/-- Data of a collective arrive (R309, R310, R314, R316): a COPY of a BROADCAST is written unchanged at its place and counted; a
CHAIN packet at a member whose collective has a break is discarded; a PARTIAL goes to its sender's slot of SCRATCH. Completes:
`copy`, `partialSum`.

A running sum at its owner (R309, R41): a CHAIN packet in its phase is added, element by element, to this member's
contribution and the sums are written as ACC48 to the chunk's slot; the member then holds that many more elements of its own
results. Completes: `chain`. -/
def Obligations.collectiveDataArrive : Prop :=
  (∀ (s : State) (q p seq : Nat) (k : Packet) (x : Coll), Arrives s q k → s.isStale k = false → p = s.partOfDomain k.domain → p ≠ 0 →
      s.coll p seq = some x → x.stage = .run → (s.part p).colls.find? (fun y => y.seq % 65536 == k.tag.toNat) = some x → x.pt = p → x.seq = seq → s.refusal k = 0 →
      (k.type = pkCOPY → InTurn s k → (s.collCmd x).cOp = 4 → 1 ≤ k.payload.length → OneBlock s p ((s.collCmd x).cDst + k.addr) k.payload.length →
        s.answers p ((s.collCmd x).cDst + k.addr) k.payload.length = true →
        x.copied + k.payload.length < (s.collCmd x).cElems → (s.collCmd x).cRoot ≠ s.fabric.position → ∃ t, exec (.copy q k) s = .next t ∧
          BMap.readBytes t.mem ((s.collCmd x).cDst + k.addr) k.payload.length = k.payload ∧
          OnlyWrites s t ((s.collCmd x).cDst + k.addr) k.payload.length ∧
          (t.coll p seq).map (·.copied) = some (x.copied + k.payload.length)) ∧
      (k.type = pkCHAIN → x.broken = true → (s.collCmd x).cReduces = true → x.finalDone = false → ∃ t, exec (.chain q k) s = .next t ∧ t = s) ∧
      (k.type = pkPARTIAL → InTurn s k → (s.collCmd x).cReduces = true → x.broken = true → x.finalDone = false → 1 ≤ k.payload.length →
        ((s.collCmd x).cSpan s.fabricN s.fabric.position).1 ≤ k.addr →
        k.addr + k.payload.length / 8 ≤ ((s.collCmd x).cSpan s.fabricN s.fabric.position).2 →
        OneBlock s p (s.partialAt (s.collCmd x) k) k.payload.length → s.answers p (s.partialAt (s.collCmd x) k) k.payload.length = true →
        ∃ t, exec (.partialSum q k) s = .next t ∧
          BMap.readBytes t.mem (s.partialAt (s.collCmd x) k) k.payload.length = k.payload ∧ OnlyWrites s t (s.partialAt (s.collCmd x) k) k.payload.length ∧
          (t.coll p seq).map (fun y => Tbl.get 0 y.partials k.src) = some (Tbl.get 0 x.partials k.src + k.payload.length))) ∧
  (∀ (s : State) (q p d seq : Nat) (k : Packet) (x : Coll) (st : State) (g : Got) (ws : List Nat) (f : BitVec 6), Arrives s q k → s.isStale k = false →
      p = s.partOfDomain k.domain → p ≠ 0 → s.coll p seq = some x → x.seq = seq → x.pt = p →
      (s.part p).colls.find? (fun y => y.seq % 65536 == k.tag.toNat) = some x →
      k.type = pkCHAIN → x.stage = .run → x.broken = false → x.finalDone = false → (s.collCmd x).cReduces = true → x.phase = d →
      d = (if 6 ≤ q then 0 else q / 2) → d < 2 → (q < 6 ∨ s.fabricN ≤ 32) →
      s.ready p [(s.chainAccess x q k).1] (s.chainAccess x q k).2 .write (.collective p seq) = (true, st) →
      k.addr + k.payload.length / 6 ≤ (s.collCmd x).cElems →
      s.holdsChunk d (k.addr / max 1 ((s.collCmd x).cChunk s.fabricN)) = true →
      s.ringStep d (k.addr / max 1 ((s.collCmd x).cChunk s.fabricN)) (q % 2 == 0) = 0 →
      st.contribution p (s.collCmd x) d k.addr (k.payload.length / 6) = (g, ws, f) → g.status = 0 → g.st.mem = s.mem →
      OneBlock s p ((s.collCmd x).cScratch + k.addr * 8) (k.payload.length / 6 * 8) →
      ∃ t, exec (.chain q k) s = .next t ∧
        BMap.readBytes t.mem ((s.collCmd x).cScratch + k.addr * 8) (k.payload.length / 6 * 8) =
          ((fieldsOf 6 (k.payload.length / 6) k.payload).zip ws).flatMap
            (fun e => natLe (policyWrite (s.policyZ p) 8 (accAdd e.1 e.2).val) 8) ∧
        (t.coll p seq).map (fun y => Tbl.get 0 y.done d) = some (Tbl.get 0 x.done d + k.payload.length / 6))

/-- Breaks and lost members (R308, R312, R313, R314, R315): a cut chain breaks at this member, which notes its own position;
a notice that arrives later with an earlier stamp is the one the reply names; a lost member ends every collective of its
partition with ABORTED and leaves device memory alone; a partial still missing 1 s after the notice makes its sender lost. The
sum of all partials is not begun before every one of them is in; then the pairwise sums of the slots, rounded once to ACC48 and
once to TO, stand at DST. Completes: `notice`, `fallbackSum`, `chainBreak`, `memberLost`, `partialTimeout`. -/
def Obligations.breaksComplete : Prop :=
  ∀ (s : State) (p seq : Nat) (x : Coll), s.coll p seq = some x → x.stage = .run → x.pt = p → x.seq = seq → (s.collCmd x).cReduces = true →
    (∀ q (k : Packet), Arrives s q k → s.isStale k = false → k.type = pkNOTICE → p = s.partOfDomain k.domain →
      (s.part p).colls.find? (fun y => y.seq % 65536 == k.tag.toNat) = some x → x.broken = true → ∃ t, exec (.notice q k) s = .next t ∧
        (t.coll p seq).map (fun y => (y.broken, y.brkStamp)) = some (true, min x.brkStamp (s.sendStamp k)) ∧ t.mem = s.mem) ∧
    (s.partialsIn x (s.collCmd x) = false → ∃ t, exec (.fallbackSum p seq) s = .next t ∧ t = s) ∧
    (∀ n dst, x.broken = true → x.finalDone = false → s.partialsIn x (s.collCmd x) = true → (s.collCmd x).cOp = 1 → (s.collCmd x).cLandAdd = false →
      n = (s.collCmd x).cSize s.fabricN s.fabric.position → 1 ≤ n →
      dst = (s.collCmd x).landAt s.fabricN ((s.collCmd x).cSpan s.fabricN s.fabric.position).1 → (s.collCmd x).cDoneGate = 0 →
      (∀ i, i < s.fabricN → OneBlock s p ((s.collCmd x).cScratch + i * ((s.collCmd x).cChunk s.fabricN * 8)) (n * 8)) →
      OneBlock s p dst (n * elemWidth (s.collCmd x).cTo) →
      (s.ready p ((List.range s.fabricN).map (fun i => ((s.collCmd x).cScratch + i * ((s.collCmd x).cChunk s.fabricN * 8), n * 8)))
        [(dst, n * elemWidth (s.collCmd x).cTo)] .write (.collective p seq)).1 = true →
      ∃ t, exec (.fallbackSum p seq) s = .next t ∧ BMap.readBytes t.mem dst (n * elemWidth (s.collCmd x).cTo) =
        (List.range n).flatMap (fun e => natLe (policyWrite (s.policyZ p) (s.collCmd x).cTo (toFmt (s.collCmd x).cTo .rne 1 (decodeAcc (encodeAcc
          (decodeFloat fFP64 (partialSum ((List.range s.fabricN).map (fun i => leNat (BMap.readBytes s.mem
            ((s.collCmd x).cScratch + i * ((s.collCmd x).cChunk s.fabricN * 8) + 8 * e) 8)))).1)).val)).val) (elemWidth (s.collCmd x).cTo))) ∧
    (x.broken = false → x.cut = true → s.procUp pFAB = true → ∃ t, exec (.chainBreak p seq) s = .next t ∧
      (∀ y, t.coll p seq = some y → y.broken = true ∧ y.brkPos = s.fabric.position)) ∧
    (∀ i, (s.part p).domain ≠ 0 → s.procUp pFAB = true → i < s.fabricN → i ≠ s.fabric.position → p ∈ allParts → (s.cmd x.fn x.slot).live = true →
      (∃ t, exec (.memberLost p i) s = .next t ∧ t.coll p seq = none ∧ (t.cmd x.fn x.slot).phase = .finished ∧
        (t.cmd x.fn x.slot).status = stABORTED ∧ t.mem = s.mem ∧ i ∉ t.domainMembers (s.part p).domain) ∧
      (x.broken = true → x.finalDone = false → Tbl.get 0 x.partials i < (s.collCmd x).cSize s.fabricN s.fabric.position * 8 →
        x.noticeAt + 1000000000 ≤ s.now → ∃ t, exec (.partialTimeout p seq i) s = .next t ∧ t.coll p seq = none ∧
          (t.cmd x.fn x.slot).status = stABORTED))

/-- The throttling ladder (R200, R201, R202): a reading is stored as its sensor's; one that raises the stack's temperature past
a level's entry value moves the stack to that level, and the die under its ceiling, at a frequency that the manual leaves PWR to set
(the model's choice, log 191); a level whose exit rule has held for 10 ms is left for the one below. Completes:
`temperatureReading`, `throttleLevelExit`.

The emergency clamp and its release (R400, R401, R402): a reading at its limit sets its flag, holds the dies it names at
0.60 GHz and drives ALERT_N, and THERM_N for THERMAL; no request is touched. A THERMAL release, once no stack is at L5 and the
clamped dies and the hub have been cool for 10 ms, clears the flag; a POWER release, once inlet power has been low for 10 ms, clears
its own and leaves every die a firmware ceiling. Completes: `emergencyClamp`, `clampRelease`.

PWR's steps under POWER_LIMIT (R460): a 100 ms average above the limit lowers each die's ceiling by 75 MHz, never below
600 MHz; one more than 200 W below it raises the ceilings by 75 MHz, never above 1,650 MHz, and a firmware ceiling that reaches
1,650 MHz ends; between the two neither step changes a ceiling. A die whose ceiling has changed runs within it. Completes:
`powerLimitStep`, `ceilingRaise`. -/
def Obligations.heatAndPowerComplete : Prop :=
  (∀ (s : State) (k : Nat), k < 20 →
      (∀ point reading, point < 18 → s.powered = true → ∃ t, exec (.temperatureReading k point reading) s = .next t ∧
        Tbl.get 0 (t.stack k).readings point = reading ∧
        (∀ q, q ≠ point → Tbl.get 0 (t.stack k).readings q = Tbl.get 0 (s.stack k).readings q) ∧
        (∀ j, j ≠ k → t.stack j = s.stack j) ∧ t.mem = s.mem ∧ t.slots = s.slots ∧
        ((t.stack k).temperature < 85 * 16 → (t.stack k).level = (s.stack k).level) ∧
        (85 * 16 ≤ (t.stack k).temperature → 1 ≤ (t.stack k).level) ∧
        (88 * 16 ≤ (t.stack k).temperature → 2 ≤ (t.stack k).level) ∧
        (91 * 16 ≤ (t.stack k).temperature → 3 ≤ (t.stack k).level) ∧
        (93 * 16 ≤ (t.stack k).temperature → 4 ≤ (t.stack k).level) ∧
        ((t.stack k).level ≠ (s.stack k).level → 600 ≤ (t.die (k / 5)).coreMhz ∧ (t.die (k / 5)).coreMhz ≤ max 600 (t.dieCeiling (k / 5))) ∧
        ((s.stack k).level < 5 → 95 * 16 ≤ (t.stack k).temperature → (t.stack k).level = 5 ∧ t.power.thermal = true ∧
          t.side.thermLow = true ∧ t.side.alertLow = true ∧ (t.die (k / 5)).coreMhz = 600)) ∧
      (∀ since, 0 < (s.stack k).level → (s.proc pPWR).restart = none → Tbl.get none (s.stack k).below (s.stack k).level = some since →
        since + 10000000 ≤ s.now → ∃ t, exec (.throttleLevelExit k) s = .next t ∧ (t.stack k).level = (s.stack k).level - 1 ∧
          (t.stack k).readings = (s.stack k).readings ∧ (t.die (k / 5)).coreMhz ≤ max 600 (t.dieCeiling (k / 5)) ∧ (∀ j, j ≠ k → t.stack j = s.stack j) ∧ t.mem = s.mem ∧ t.slots = s.slots)) ∧
  (∀ (s : State),
      (s.powered = true →
        (∀ d r, d < 4 → 105 * 16 ≤ r → ∃ t, exec (.emergencyClamp (.dieDiode d r)) s = .next t ∧ t.power.thermal = true ∧
          t.side.thermLow = true ∧ t.side.alertLow = true ∧ (t.die d).coreMhz = 600 ∧ (t.die d).hot = true ∧
          (∀ e, e ≠ d → t.die e = s.die e) ∧ Same [.free, .time, .log, .dies, .power, .side] s t) ∧
        (∀ w, 2400000 < w → ∃ t, exec (.emergencyClamp (.inletPower w)) s = .next t ∧ t.power.overPower = true ∧
          t.power.thermal = s.power.thermal ∧ t.side.thermLow = s.side.thermLow ∧ t.side.alertLow = true ∧
          (∀ d, d < 4 → (t.die d).coreMhz = 600 ∧ (t.die d).overload = true) ∧ Same [.free, .time, .log, .dies, .power, .side] s t)) ∧
      ((s.proc pPWR).restart = none →
        (s.power.thermal = true → s.cooled = true → ∃ t, exec (.clampRelease .thermal) s = .next t ∧
          t.power = { s.power with thermal := false, clearAt := s.now } ∧ t.side = { s.side with thermLow := false } ∧
          (∀ d, d < 4 → (t.die d).hot = false ∧ (t.die d).overload = (s.die d).overload) ∧ Same [.dies, .power, .side] s t) ∧
        (s.power.overPower = true → heldFor10ms s.power.lowFrom s.now = true → ∃ t, exec (.clampRelease .power) s = .next t ∧
          t.power = { s.power with overPower := false, clearAt := s.now, raiseAt := s.now } ∧
          (∀ d, d < 4 → (t.die d).overload = false ∧ (∃ c, (t.die d).fwCeiling = some c ∧ 600 ≤ c) ∧ (t.die d).hot = (s.die d).hot) ∧
          t.side = s.side ∧ t.hbm = s.hbm))) ∧
  (∀ (s : State) (w : Nat), s.power.state = .ms0 → (s.proc pPWR).restart = none →
      (s.power.limitAt + 1000000 ≤ s.now → ∃ t, exec (.powerLimitStep w) s = .next t ∧
        t.power = { s.power with mW100 := w, limitAt := s.now } ∧
        (∀ d, d < 4 → (t.die d).limitMhz = (if s.power.limitW.toNat * 1000 < w then max 600 ((s.die d).limitMhz - 75) else (s.die d).limitMhz) ∧
          (t.die d).fwCeiling = (s.die d).fwCeiling ∧
          (s.power.limitW.toNat * 1000 < w → (t.die d).coreMhz ≤ max 600 (t.dieCeiling d))) ∧ Same [.free, .time, .log, .dies, .power] s t) ∧
      (s.power.raiseAt + 100000000 ≤ s.now → ∃ t, exec (.ceilingRaise w) s = .next t ∧
        t.power = { s.power with mW100 := w, raiseAt := s.now } ∧
        (∀ d, d < 4 → (t.die d).limitMhz = (if w + 200000 < s.power.limitW.toNat * 1000 then min 1650 ((s.die d).limitMhz + 75) else (s.die d).limitMhz) ∧
          (w + 200000 < s.power.limitW.toNat * 1000 → (t.die d).coreMhz ≤ max 600 (t.dieCeiling d)) ∧
          (w + 200000 < s.power.limitW.toNat * 1000 → ∀ c, (s.die d).fwCeiling = some c →
            (t.die d).fwCeiling = (if 1650 ≤ c + 75 then none else some (c + 75)))) ∧ Same [.free, .time, .log, .dies, .power] s t))

/-- Power comes and goes (R441, R443, R460, R488, R489): an inlet of 40.0 to 60.0 V begins start-up, which ends in MS0 with
DEV_READY and one more start counted; a withdrawal and an inlet voltage below 38.0 V or above 62.0 V stop the module, contexts,
stack contents and partition tables lost unless a hibernation image is complete, the flash, the fuses and the firmware banks
kept, the next start clean only with an image. Completes: `inletConnect`, `startUp`, `powerFailStop`, `inletWithdrawal`.

Wake sources (R452, R454, R455, R456): in MS3 WAKE_N driven low, an address match outside the 60 ns window and an L1 exit
each begin the module's wake under their own code; the wake ends in MS0 with every partition still in MS2; in MS4 WAKE_N and an
address match begin start-up and an L1 exit does nothing. Completes: `wakeN`, `l1Exit`, `smbusAddressMatch`,
`wakeFromStandby`. -/
def Obligations.powerCyclesComplete : Prop :=
  (∀ (s : State),
      (∀ mV, s.power.state = .unpowered → 40000 ≤ mV → mV ≤ 60000 → ∃ t, exec (.inletConnect mV) s = .next t ∧
        t.power = { s.power with inletMv := mV, state := .starting } ∧ Same [.power] s t) ∧
      (∀ found, s.power.state = .starting → s.power.fatal = false → s.sec.tripped = false → (∀ c, c < 8 → (s.bootBegin found).bootBank found c = some true) →
        ∃ t, exec (.startUp found) s = .next t ∧ t.power.state = .ms0 ∧ t.power.devReady = true ∧ t.power.fatal = false ∧
          t.power.startCount = s.power.startCount + 1 ∧ t.sec.hasSrk = true ∧ t.sec.rollback = s.sec.rollback ∧
          (∀ c, c < 11 → (t.proc c).ready = true) ∧ t.side.slotId = found.straps ∧ t.log.persistent = []) ∧
      (∀ cause, s.power.state ≠ .unpowered → s.powerFails cause = true → ∃ t, exec (.powerFailStop cause) s = .next t ∧
        t = s.powerLost) ∧
      (s.power.state ≠ .unpowered → ∃ t, exec .inletWithdrawal s = .next t ∧ t = s.powerLost) ∧
      (∃ t, t = s.powerLost ∧ t.power.state = .unpowered ∧ t.power.devReady = false ∧ t.link.up = false ∧ t.tiles = [] ∧ t.atps = [] ∧
        t.slots = [] ∧ t.fns = [] ∧ t.log.entries = [] ∧ t.time.counter = 0 ∧ t.flash = s.flash ∧ t.sec.hasSrk = s.sec.hasSrk ∧
        t.sec.rollback = s.sec.rollback ∧ t.sec.revoked = s.sec.revoked ∧ (∀ c, (t.proc c).current = (s.proc c).current) ∧
        (s.power.image = none → t.parts = [] ∧ t.ctxs = [] ∧ t.mem = [] ∧ t.power.cleanNext = false) ∧
        (s.power.image ≠ none → t.ctxs = s.ctxs ∧ t.mem = s.mem ∧ t.power.cleanNext = true))) ∧
  (∀ (s : State),
      (s.power.state = .ms3 → s.power.regs.phase = 0 →
        (∃ t, exec (.wakeN true) s = .next t ∧ t.power.wakeAgent = 0x63 ∧ t.power.regs.phase = 2 ∧ t.side.wakeLow = true ∧ Same [.power, .side] s t) ∧
        (∃ t, exec .l1Exit s = .next t ∧ t.power.wakeAgent = 0x64 ∧ t.power.regs.phase = 2 ∧ Same [.power] s t) ∧
        (∀ address : BitVec 7, address.toNat = s.smbAddress → (∀ since, s.power.winFrom = some since → since + 60 ≤ s.now) →
          ∃ t, exec (.smbusAddressMatch address) s = .next t ∧ t.power.wakeAgent = 0x62 ∧ t.power.regs.phase = 2 ∧ t.side.nacked = true ∧
            Same [.power, .side] s t) ∧
        (∀ (address : BitVec 7) since, s.power.winFrom = some since → s.now < since + 60 → ∃ t, exec (.smbusAddressMatch address) s = .next t ∧ t = s)) ∧
      (s.power.state = .ms3 → s.power.regs.phase = 2 → (∀ p, p ∈ allParts → (s.part p).power.phase ≠ 2) →
        ∃ t, exec .wakeFromStandby s = .next t ∧ t.power.state = .ms0 ∧ t.power.regs.phase = 0 ∧ t.power.wakeAgent = 0 ∧ t.power.winFrom = none ∧
          t.parts = s.parts ∧ t.mem = s.mem ∧ t.ctxs = s.ctxs ∧
          (∀ p, p ∈ allParts → (s.part p).isPresent = true → (t.fn p).lastBeat = s.now) ∧
          (∀ k, k < 20 → s.stackOwner k ≠ 0 → t.stack k = s.stack k)) ∧
      (s.power.state = .ms4 →
        (∃ t, exec (.wakeN true) s = .next t ∧ t.power.state = .starting ∧ t.power.wakeAgent = 0x63) ∧
        (∀ address : BitVec 7, address.toNat = s.smbAddress → ∃ t, exec (.smbusAddressMatch address) s = .next t ∧
          t.power.state = .starting ∧ t.power.wakeAgent = 0x62) ∧
        (∃ t, exec .l1Exit s = .next t ∧ t = s)))

/-- The SMBus target (R493, R494, R495): it serves in MS0; a byte read gives the low byte and a word read both bytes of the
field its code names, a write is NACKed, an address other than 0x58 + SLOT_ID changes nothing; the alert response gives the
address, releases ALERT_N and clears the alert, which falls again 1 ms later while a flag is set; a clock held low for 35 ms
ends a transaction. Completes: `readByte`, `readWord`, `smbusWrite`, `smbusAddressMatch`, `alertResponseAddress`,
`alertReassert`, `clockLowTimeout`. -/
def Obligations.sidebandComplete : Prop :=
  ∀ (s : State), s.power.state = .ms0 →
    (∀ code : BitVec 8, ∃ t, exec (.readByte code) s = .next t ∧ t.side.answer.toNat = s.smbReg code.toNat % 256 ∧ t.side.nacked = false ∧
      t.side.busy = false ∧ Same [.free, .side] s t) ∧
    (∀ code : BitVec 8, ∃ t, exec (.readWord code) s = .next t ∧ t.side.answer.toNat = s.smbReg code.toNat % 65536 ∧ t.side.nacked = false ∧
      Same [.free, .side] s t) ∧
    (∃ t, exec (.readByte 0x01) s = .next t ∧
      t.side.answer.toNat = 8 * s.power.devReady.toNat + 16 * s.power.fatal.toNat) ∧
    (∃ t, exec (.readByte 0x03) s = .next t ∧ t.side.answer.toNat = s.side.slotId.toNat) ∧
    (∃ t, exec (.readWord 0x06) s = .next t ∧ t.side.answer.toNat = s.power.inletMv / 10 % 65536) ∧
    (∀ command : BitVec 8, ∃ t, exec (.smbusWrite command) s = .next t ∧ t.side = { s.side with nacked := true, busy := false } ∧ Same [.side] s t) ∧
    (∀ address : BitVec 7, address.toNat = 0x58 + s.side.slotId.toNat → ∃ t, exec (.smbusAddressMatch address) s = .next t ∧
      t.side = { s.side with busy := true, nacked := false } ∧ Same [.side] s t) ∧
    (∀ address : BitVec 7, address.toNat ≠ 0x58 + s.side.slotId.toNat → ∃ t, exec (.smbusAddressMatch address) s = .next t ∧ t = s) ∧
    (s.side.alertLow = true → ∃ t, exec .alertResponseAddress s = .next t ∧ t.side.answer.toNat = 0x58 + s.side.slotId.toNat ∧
      t.side.alertLow = false ∧ t.side.alertAt = some s.now ∧ Same [.side] s t) ∧
    (∀ since, s.side.alertAt = some since → since + 1000000 ≤ s.now → ∃ t, exec .alertReassert s = .next t ∧ t.side.alertAt = none ∧
      t.side.alertLow = (s.side.alertLow || s.power.thermal || s.power.overPower || s.power.fatal) ∧ Same [.side] s t) ∧
    (∀ us, s.side.busy = true → 35000 ≤ us → ∃ t, exec (.clockLowTimeout us) s = .next t ∧ t.side = { s.side with busy := false } ∧
      Same [.free, .side] s t) ∧
    (∀ us, us < 25000 → ∃ t, exec (.clockLowTimeout us) s = .next t ∧ Same [.free] s t)

/-- Processors restart and images change banks (R434, R436, R439): a verified restart makes the processor READY; a watchdog
restart counts, records an error and begins the restart; a swap back puts PREVIOUS in CURRENT's place when an image on
probation was restarted by watchdog; FW_UNSTABLE ends 600 s after the last watchdog restart. Completes: `processorRestart`,
`processorWatchdog`, `swapBack`, `fwUnstableClear`.

Probation and the persistent ring (R432, R471): an image whose 60 s have passed leaves probation and ROLLBACK becomes the
smallest SVN of the CURRENT images, never less than before; with a bit that does not burn it stays below that and does not
fall; an error due is copied once. Completes: `probationEnd`, `persistentCopy`.

The firmware commands (R382, R383, R438, R440, R470): FW_STAGE asks for its image, and once it is read and passes the checks
puts it in the STAGED bank; FW_ACTIVATE with no staged image or no interface level in common ends with BAD_PARAM, with a flag
set or cleared less than 1 s ago it arms the banks and ends with EMERGENCY_ACTIVE, otherwise its first processor begins its
restart on the staged image; FW_RESTART restarts on CURRENT; an armed activation begins once every flag has been clear for 1 s.
Completes: `fwStage`, `fwActivate`, `fwRestart`, `armedActivation`. -/
def Obligations.firmwareComplete : Prop :=
  (∀ (s : State) (c : Nat), c < 11 → s.hubOn = true →
      (∀ cause start, (s.proc c).restart = some (cause, start) → start ≤ s.now → (c ≠ pSEC → s.procUp pSEC = true) → c ≠ pHIF → s.fwSeqs = [] →
        ∃ t, exec (.processorRestart c true) s = .next t ∧ (t.proc c).ready = true ∧ (t.proc c).restart = none ∧ (t.proc c).lastReady = s.now ∧
          (t.proc c).enable = (s.proc c).enable ∧ (t.proc c).current = (s.proc c).current ∧ (∀ e, e ≠ c → t.proc e = s.proc e) ∧
          t.power = s.power ∧ t.mem = s.mem) ∧
      (s.procUp c = true → (s.proc c).unstable = false → ∃ t, exec (.processorWatchdog c) s = .next t ∧
        (t.proc c).restart = some (2, s.now) ∧ (t.proc c).ready = false ∧ (t.proc c).watchdogs = (s.proc c).watchdogs + 1 ∧
        (t.proc c).resets.head? = some s.now ∧ t.log.faults = s.log.faults + 1 ∧ (∀ e, e ≠ c → t.proc e = s.proc e)) ∧
      (∀ start g, (s.proc c).restart = some (2, start) → bankOf c = c → (s.proc c).probation ≠ none → (s.proc c).previous = some g →
        s.sec.rollback ≤ g.svn → s.fwSeqs = [] → ∃ t, exec (.swapBack c) s = .next t ∧
          (t.proc c).current = some g ∧ (t.proc c).previous = none ∧ (t.proc c).probation = none ∧ t.sec = s.sec) ∧
      ((s.proc c).unstable = true → (s.proc c).resets.headD 0 + 600000000000 ≤ s.now → ∃ t, exec (.fwUnstableClear c) s = .next t ∧
        t.proc c = { s.proc c with unstable := false } ∧ Same [.procs] s t)) ∧
  (∀ (s : State), s.hubOn = true →
      (∀ c since, (s.proc (bankOf c)).probation = some since → since + 60000000000 ≤ s.now → s.procUp pSEC = true →
        (∀ e, e < 11 → bankOf e = bankOf c → s.procUp e = true) →
        (∃ t, exec (.probationEnd c false) s = .next t ∧ (t.proc (bankOf c)).probation = none ∧
          t.sec = { s.sec with rollback := max s.sec.rollback s.leastSvn } ∧ (∀ e, (t.proc e).current = (s.proc e).current) ∧
          Same [.procs, .sec] s t) ∧
        (s.sec.rollback < s.leastSvn → ∃ t, exec (.probationEnd c true) s = .next t ∧ (t.proc (bankOf c)).probation = none ∧
          s.sec.rollback ≤ t.sec.rollback ∧ t.sec.rollback < s.leastSvn ∧ t.log.faults = s.log.faults + 1)) ∧
      (∀ seq, s.procUp pMGT = true → seq ∈ s.log.toPersist → ∃ t, exec (.persistentCopy seq) s = .next t ∧
        t.log.toPersist = s.log.toPersist.erase seq ∧ t.log.entries = s.log.entries ∧ t.log.persistent.length ≤ 4096 ∧ Same [.log] s t)) ∧
  (∀ (s : State) (slot : Nat), bit (s.cmd 0 slot).cmdFlags 1 = false →
      (s.canTake 0 slot opFW_STAGE = true → s.stageCheck 0 (s.cmd 0 slot) = 0 → s.fwSeqs = [] → ∃ t, exec (.fwStage 0 slot) s = .next t ∧
        (t.cmd 0 slot).phase = .running ∧ (t.cmd 0 slot).stage = 2 ∧ t.staging = s.staging ++ [(bankOf ((s.cmd 0 slot).param 0 1), 0, slot)] ∧
        t.procs = s.procs ∧ s.link.reads.length < t.link.reads.length) ∧
      (s.inRun 0 slot opFW_STAGE = true → (s.cmd 0 slot).stage = 2 → (s.cmd 0 slot).reads = 0 → (s.cmd 0 slot).failed = 0 → s.procUp pSEC = true →
        s.imageStatus ((s.cmd 0 slot).param 0 1) ((s.cmd 0 slot).param 16 4) (s.cmd 0 slot).buf = 0 → ∃ t, exec (.fwStage 0 slot) s = .next t ∧
        (t.proc (bankOf ((s.cmd 0 slot).param 0 1))).staged = some (imageOf ((s.cmd 0 slot).param 16 4) (s.cmd 0 slot).buf) ∧
        (t.proc (bankOf ((s.cmd 0 slot).param 0 1))).current = (s.proc (bankOf ((s.cmd 0 slot).param 0 1))).current ∧
        (t.proc (bankOf ((s.cmd 0 slot).param 0 1))).armed = (s.proc (bankOf ((s.cmd 0 slot).param 0 1))).armed ∧
        (∀ b, b ≠ bankOf ((s.cmd 0 slot).param 0 1) → t.proc b = s.proc b) ∧ t.sec = s.sec ∧
        Finished t 0 slot stOK [(imageOf ((s.cmd 0 slot).param 16 4) (s.cmd 0 slot).buf).version]) ∧
      (∀ mask, s.canTake 0 slot opFW_ACTIVATE = true → (s.cmd 0 slot).param 0 8 = mask → mask < 2048 → s.fwSeqs = [] →
        ((∃ b ∈ banksOf mask, (s.proc b).staged = none) → ∃ t, exec (.fwActivate 0 slot) s = .next t ∧
          (t.cmd 0 slot).phase = .finished ∧ (t.cmd 0 slot).status = stBAD_PARAM ∧ t.procs = s.procs) ∧
        ((∀ b ∈ banksOf mask, (s.proc b).staged ≠ none) → levelsMeet (s.imagesAfter (banksOf mask)) = true → s.calm = false →
          ∃ t, exec (.fwActivate 0 slot) s = .next t ∧ (t.cmd 0 slot).phase = .finished ∧ (t.cmd 0 slot).status = stEMERGENCY_ACTIVE ∧
            (∀ b ∈ banksOf mask, (t.proc b).armed = true ∧ (t.proc b).staged = (s.proc b).staged ∧ (t.proc b).current = (s.proc b).current)) ∧
        (∀ b rest, (∀ b ∈ banksOf mask, (s.proc b).staged ≠ none) → levelsMeet (s.imagesAfter (banksOf mask)) = true → s.calm = true →
          (∀ c, c < 11 → s.procUp c = true) → activateCodes (banksOf mask) = b :: rest → b < 8 → s.staging = [] → ∃ t, exec (.fwActivate 0 slot) s = .next t ∧
            (t.cmd 0 slot).phase = .running ∧ (t.proc b).restart = some (3, s.now) ∧ (t.proc b).current = (s.proc b).staged ∧
            (t.proc b).previous = (s.proc b).current ∧ (t.proc b).staged = none ∧ (t.proc b).probation = some s.now)) ∧
      (∀ mask c rest, s.canTake 0 slot opFW_RESTART = true → (s.cmd 0 slot).param 0 8 = mask → mask < 2048 → s.fwSeqs = [] →
        (bit mask pPWR && s.flagSet) = false → (∀ e, e < 11 → s.procUp e = true) → restartCodes mask = c :: rest → s.staging = [] →
        ∃ t, exec (.fwRestart 0 slot) s = .next t ∧ (t.cmd 0 slot).phase = .running ∧ (t.proc c).restart = some (1, s.now) ∧
          (t.proc c).current = (s.proc c).current ∧ (t.proc c).staged = (s.proc c).staged) ∧
      (∀ b rest, s.hubOn = true → s.calm = true → s.fwSeqs = [] → (∀ c, c < 11 → s.procUp c = true) →
        (∀ e, e < 8 → (s.proc e).armed = true → (s.proc e).staged ≠ none) →
        levelsMeet (s.imagesAfter ((List.range 8).filter (fun e => (s.proc e).armed))) = true →
        activateCodes ((List.range 8).filter (fun e => (s.proc e).armed)) = b :: rest → b < 8 → s.staging = [] →
        ∃ t, exec .armedActivation s = .next t ∧ (t.proc b).restart = some (3, s.now) ∧ (t.proc b).current = (s.proc b).staged ∧
          (t.proc b).previous = (s.proc b).current ∧ t.slots = s.slots))

/-- The requests of a connection answer (R472, R473, R474) while the mailbox is served: version 1.3, CTExponent 17 with messages
of 4,096 bytes, the algorithms; slot 0's digests and chain of a function that has a chain, and its challenge, signed with the function's
own key unless the keys are zeroised; and a measurement block's index and bytes. No request changes another function, a partition
or the security element. Completes: `getVersion`, `getCapabilities`, `negotiateAlgorithms`, `getDigests`, `getCertificate`,
`challenge`, `getMeasurements`.

A partition function whose partition does not exist (R473): GET_DIGESTS reports no populated slot, CHALLENGE and
GET_MEASUREMENTS return ERROR with ErrorCode Unspecified (0x05 of DMTF SPDM). -/
def Obligations.attestationRequestsAnswer : Prop :=
  (∀ (s : State) (fn : Nat), s.doeOpen fn = true →
      (∃ t, exec (.getVersion fn) s = .next t ∧ (t.fn fn).spdm =
          { (s.fn fn).spdm with version := true, caps := false, algs := false, reply := [0x04, 0x13] } ∧
        (∀ g, g ≠ fn → t.fn g = s.fn g) ∧ Same [.free, .time, .log, .fns] s t) ∧
      ((s.fn fn).spdm.version = true → (s.fn fn).spdm.caps = false → ∃ t, exec (.getCapabilities fn) s = .next t ∧
        (t.fn fn).spdm = { (s.fn fn).spdm with caps := true, reply := [0x61, 17, 4096] } ∧ Same [.free, .time, .log, .fns] s t) ∧
      ((s.fn fn).spdm.caps = true → (s.fn fn).spdm.algs = false → ∃ t, exec (.negotiateAlgorithms fn) s = .next t ∧
        (t.fn fn).spdm = { (s.fn fn).spdm with algs := true, reply := [0x63] } ∧ Same [.free, .time, .log, .fns] s t) ∧
      ((s.fn fn).spdm.algs = true → s.hasChain fn = true →
        (∃ t, exec (.getDigests fn) s = .next t ∧ (t.fn fn).spdm.reply = [0x01, 1] ∧ Same [.free, .time, .log, .fns] s t) ∧
        (∃ t, exec (.getCertificate fn) s = .next t ∧ (t.fn fn).spdm.reply = [0x02, 0] ∧ Same [.free, .time, .log, .fns] s t) ∧
        (s.sec.cdi.isSome = true → ∃ t, exec (.challenge fn) s = .next t ∧ (t.fn fn).spdm.reply = [0x03, 0] ∧
          (t.fn fn).spdm.signer = s.keyLabel fn ∧ Same [.free, .time, .log, .fns] s t) ∧
        (∃ t, exec (.getMeasurements fn 10) s = .next t ∧
          (t.fn fn).spdm.reply = [0x60, 1, 10, s.sec.rollback % 256, s.sec.revoked.toNat, 0, 0, 0, 0, 0, 0] ∧
          Same [.free, .time, .log, .fns] s t) ∧
        (∀ (index : Nat) (b : List Nat), s.measurement fn index = some b → ∃ t, exec (.getMeasurements fn index) s = .next t ∧
          (t.fn fn).spdm.reply = 0x60 :: 1 :: index :: b ∧ Same [.free, .time, .log, .fns] s t))) ∧
  (∀ (s : State) (fn index : Nat), s.doeOpen fn = true → fn ≠ 0 → (s.part fn).isPresent = false → (s.fn fn).spdm.algs = true →
      (∃ t, exec (.getDigests fn) s = .next t ∧ (t.fn fn).spdm.reply = [0x01, 0]) ∧
      (∃ t, exec (.challenge fn) s = .next t ∧ (t.fn fn).spdm.reply = [0x7F, 0x05]) ∧
      (∃ t, exec (.getMeasurements fn index) s = .next t ∧ (t.fn fn).spdm.reply = [0x7F, 0x05]))

/-- Sessions (R472): KEY_EXCHANGE opens the first of the two places that is empty and no other, and with both in use opens
none; FINISH establishes a handshake whose MAC agrees and ends one whose MAC does not; HEARTBEAT, KEY_UPDATE and END_SESSION
answer an established session; no request touches a session other than its own. Completes: `keyExchange`, `finish`, `heartbeat`,
`keyUpdate`, `endSession`. -/
def Obligations.sessionsComplete : Prop :=
  ∀ (s : State) (fn k : Nat), s.doeOpen fn = true →
    ((s.fn fn).spdm.algs = true → s.hasChain fn = true → s.sec.cdi.isSome = true →
      ([0, 1].find? (fun j => Tbl.get 0 (s.fn fn).spdm.sessions j == 0) = some k → ∃ t, exec (.keyExchange fn) s = .next t ∧
        Tbl.get 0 (t.fn fn).spdm.sessions k = 1 ∧ (∀ j, j ≠ k → Tbl.get 0 (t.fn fn).spdm.sessions j = Tbl.get 0 (s.fn fn).spdm.sessions j) ∧
        (t.fn fn).spdm.reply = [0x64, k] ∧ (t.fn fn).spdm.signer = s.keyLabel fn ∧ Same [.free, .time, .log, .fns] s t) ∧
      ([0, 1].find? (fun j => Tbl.get 0 (s.fn fn).spdm.sessions j == 0) = none → ∃ t, exec (.keyExchange fn) s = .next t ∧
        (t.fn fn).spdm.sessions = (s.fn fn).spdm.sessions)) ∧
    (Tbl.get 0 (s.fn fn).spdm.sessions k = 1 → ∀ macOk, ∃ t, exec (.finish fn k macOk) s = .next t ∧
      Tbl.get 0 (t.fn fn).spdm.sessions k = (if macOk then 2 else 0) ∧
      (∀ j, j ≠ k → Tbl.get 0 (t.fn fn).spdm.sessions j = Tbl.get 0 (s.fn fn).spdm.sessions j) ∧ Same [.free, .time, .log, .fns] s t) ∧
    (Tbl.get 0 (s.fn fn).spdm.sessions k = 2 →
      (∃ t, exec (.heartbeat fn k) s = .next t ∧ (t.fn fn).spdm = { (s.fn fn).spdm with reply := [0x68, k] } ∧ Same [.free, .time, .log, .fns] s t) ∧
      (∃ t, exec (.keyUpdate fn k) s = .next t ∧ Tbl.get 0 (t.fn fn).spdm.keyGen k = Tbl.get 0 (s.fn fn).spdm.keyGen k + 1 ∧
        (t.fn fn).spdm.sessions = (s.fn fn).spdm.sessions ∧ (t.fn fn).spdm.reply = [0x69, k] ∧ Same [.free, .time, .log, .fns] s t) ∧
      (∃ t, exec (.endSession fn k) s = .next t ∧ Tbl.get 0 (t.fn fn).spdm.sessions k = 0 ∧
        (∀ j, j ≠ k → Tbl.get 0 (t.fn fn).spdm.sessions j = Tbl.get 0 (s.fn fn).spdm.sessions j) ∧ (t.fn fn).spdm.reply = [0x6C, k] ∧
        Same [.free, .time, .log, .fns] s t))

/-- The service port (R483): SVC_CHALLENGE's nonce stands from now; a good unlock with the service state reached grants its SCOPE
and uses the nonce up; one that is not good grants nothing, counts, and at the third in a row begins the lockout, during which
an unlock changes nothing of the security element; the lockout ends after 60 s; closing the cover locks the port and leaves the
state of R404. Completes: `svcChallenge`, `svcUnlock`, `unlockLockoutEnd`, `coverClose`. -/
def Obligations.servicePortComplete : Prop :=
  ∀ (s : State),
    (s.doeOpen 0 = true →
      (∃ t n, exec .svcChallenge s = .next t ∧ t.sec = { s.sec with nonce := some (n, s.now) } ∧ (t.fn 0).spdm.digest = n ∧
        (t.fn 0).spdm.reply = [0x7E] ∧ Same [.free, .time, .log, .fns, .sec] s t) ∧
      (∀ (scope : BitVec 8) (key sig : List Byte), s.sec.lockout = none →
        (s.serviceReady = true → s.unlockGood scope key sig = true → ∃ t, exec (.svcUnlock scope key sig) s = .next t ∧
          t.sec = { s.sec with nonce := none, unlocked := some scope, failures := 0 } ∧ (t.fn 0).spdm.reply = [0x7E] ∧
          Same [.free, .time, .log, .fns, .sec] s t) ∧
        ((s.serviceReady && s.unlockGood scope key sig) = false → ∃ t, exec (.svcUnlock scope key sig) s = .next t ∧
          t.sec.unlocked = s.sec.unlocked ∧ t.sec.nonce = none ∧ t.sec.failures = s.sec.failures + 1 ∧
          t.sec.lockout = (if 3 ≤ s.sec.failures + 1 then some s.now else none) ∧ (t.fn 0).spdm.reply.head? = some 0x7F ∧
          Same [.free, .time, .log, .fns, .sec] s t)) ∧
      (∀ (scope : BitVec 8) (key sig : List Byte), s.sec.lockout ≠ none → ∃ t, exec (.svcUnlock scope key sig) s = .next t ∧
        t.sec = s.sec ∧ (t.fn 0).spdm.reply.head? = some 0x7F)) ∧
    (∀ since, s.sec.lockout = some since → since + 60000000000 ≤ s.now → ∃ t, exec .unlockLockoutEnd s = .next t ∧
      t.sec = { s.sec with lockout := none, failures := 0 } ∧ Same [.sec] s t) ∧
    (∃ t, exec .coverClose s = .next t ∧ t.sec = { s.sec with coverOpen := false, unlocked := none } ∧ Same [.sec] s t)

/-- The MODULE class and the service latch (R404, R477, R481): an uncorrectable fault of the hub or of a checker sets FATAL,
deasserts DEV_READY, drives ALERT_N and ends every command with ABORTED, device memory kept; a corrected mismatch is only
counted; a latch trip in MS0 destroys the storage root key and the hibernation key, ends every session, zeroes stacks, clears
tiles and marks measurement index 12, and keeps the fuses. Completes: `moduleFatal`, `checkerCompare`, `serviceLatchTrip`. -/
def Obligations.moduleFaultsComplete : Prop :=
  ∀ (s : State), s.power.fatal = false →
    (s.power.state = .ms0 → ∃ t, exec (.moduleFatal none) s = .next t ∧ t.power.fatal = true ∧ t.power.devReady = false ∧
      t.side.alertLow = true ∧ (∀ f n, 1 ≤ f → f < 9 → n < 128 → (t.cmd f n).live = false) ∧ t.mem = s.mem ∧ t.flash.data = s.flash.data) ∧
    (s.power.state = .ms0 → s.procUp pSEC = true →
      (∀ c, ∃ t, exec (.checkerCompare c true false) s = .next t ∧ t.sec = { s.sec with checkFixed := s.sec.checkFixed + 1 } ∧ Same [.sec] s t) ∧
      (∀ c corrected, ∃ t, exec (.checkerCompare c corrected true) s = .next t ∧ t.power.fatal = true ∧ t.power.devReady = false ∧
        t.side.alertLow = true ∧ t.mem = s.mem)) ∧
    (s.power.state = .ms0 → ∃ t, exec .serviceLatchTrip s = .next t ∧ t.power.fatal = true ∧ t.power.devReady = false ∧
      t.sec.hasSrk = false ∧ t.sec.hibKey = false ∧ t.sec.cdi = none ∧ t.sec.coverOpen = true ∧ t.sec.openSince = true ∧ t.sec.zeroised = true ∧
      t.sec.unlocked = none ∧ t.power.image = none ∧ t.mem = [] ∧
      (∀ k, k < 256 → (t.tile k).store = [] ∧ (t.tile k).groups = [] ∧ (t.tile k).vregs = []) ∧
      (∀ f, f < 9 → (t.fn f).spdm.sessions = []) ∧
      t.sec.rollback = s.sec.rollback ∧ t.sec.revoked = s.sec.revoked ∧ t.sec.vendorHash = s.sec.vendorHash)
end

