-- ==== Sys2Proof/Laws/Table.lean ====
section
/-! SUPPORT. The laws of the sparse tables and byte arrays: a read after a write, and the canonical form, which every operation
keeps. -/

namespace Sys2Proof.Machine

open Sys2Proof

variable {α : Type}

/-! ## Reading after a write -/

theorem Tbl.get_put_same (d : α) (t : Tbl α) (k : Nat) (v : α) (h : ∀ e ∈ t, e.1 ≠ k) : Tbl.get d (Tbl.put t k v) k = v := by
  induction t with
  | nil => simp [Tbl.put, Tbl.get]
  | cons e t ih =>
    have hne : e.1 ≠ k := h e (by simp)
    unfold Tbl.put
    split
    · simp [Tbl.get]
    · simp [Tbl.get, hne, ih (fun x hx => h x (by simp [hx]))]

theorem Tbl.get_put_other (d : α) (t : Tbl α) (k : Nat) (v : α) (i : Nat) (h : i ≠ k) : Tbl.get d (Tbl.put t k v) i = Tbl.get d t i := by
  induction t with
  | nil => simp [Tbl.put, Tbl.get, Ne.symm h]
  | cons e t ih =>
    unfold Tbl.put
    split
    · simp [Tbl.get, Ne.symm h]
    · simp only [Tbl.get, ih]

theorem Tbl.get_filter_other (d : α) (t : Tbl α) (q : Nat × α → Bool) (i : Nat) (h : ∀ e ∈ t, e.1 = i → q e = true) :
    Tbl.get d (t.filter q) i = Tbl.get d t i := by
  induction t with
  | nil => rfl
  | cons e t ih =>
    have ht := ih (fun x hx => h x (by simp [hx]))
    by_cases hi : e.1 = i
    · simp [List.filter, h e (by simp) hi, Tbl.get, hi]
    · cases hq : q e <;> simp [List.filter, hq, Tbl.get, hi, ht]

theorem Tbl.get_absent (d : α) (t : Tbl α) (i : Nat) (h : ∀ e ∈ t, e.1 ≠ i) : Tbl.get d t i = d := by
  induction t with
  | nil => rfl
  | cons e t ih => simp [Tbl.get, h e (by simp), ih (fun x hx => h x (by simp [hx]))]

theorem Tbl.put_mem (t : Tbl α) (k : Nat) (v : α) (e : Nat × α) (h : e ∈ Tbl.put t k v) : e = (k, v) ∨ e ∈ t := by
  induction t with
  | nil => simpa [Tbl.put] using h
  | cons a t ih =>
    unfold Tbl.put at h
    split at h
    · simpa using h
    · rcases List.mem_cons.1 h with rfl | h
      · exact Or.inr (by simp)
      · rcases ih h with h | h
        · exact Or.inl h
        · exact Or.inr (by simp [h])

variable [DecidableEq α]

@[simp] theorem Tbl.get_set_same (d : α) (t : Tbl α) (k : Nat) (v : α) : Tbl.get d (Tbl.set d t k v) k = v := by
  have h : ∀ e ∈ t.filter (fun e => e.1 != k), e.1 ≠ k := by simp
  unfold Tbl.set
  split
  · rename_i hv
    rw [hv]
    exact Tbl.get_absent d _ k h
  · exact Tbl.get_put_same d _ k v h

theorem Tbl.get_set_other (d : α) (t : Tbl α) (k : Nat) (v : α) (i : Nat) (h : i ≠ k) : Tbl.get d (Tbl.set d t k v) i = Tbl.get d t i := by
  have hf : Tbl.get d (t.filter (fun e => e.1 != k)) i = Tbl.get d t i := Tbl.get_filter_other d t _ i (fun e _ he => by simp [he, h])
  unfold Tbl.set
  split
  · exact hf
  · rw [Tbl.get_put_other d _ k v i h, hf]

theorem Tbl.get_set (d : α) (t : Tbl α) (k i : Nat) (v : α) : Tbl.get d (Tbl.set d t k v) i = if i = k then v else Tbl.get d t i := by
  split
  · subst i; exact Tbl.get_set_same d t k v
  · exact Tbl.get_set_other d t k v i ‹_›

/-! ## The canonical form -/

/-- The canonical form as a property of neighbours and of entries. -/
def Tbl.Canon (d : α) (t : Tbl α) : Prop := t.Pairwise (fun a b => a.1 < b.1) ∧ ∀ e ∈ t, e.2 ≠ d

theorem Tbl.wf_iff (d : α) (t : Tbl α) : Tbl.wf d t = true ↔ Tbl.Canon d t := by
  induction t with
  | nil => simp [Tbl.wf, Tbl.Canon]
  | cons e t ih =>
    cases t with
    | nil => simp [Tbl.wf, Tbl.Canon]
    | cons e' t =>
      obtain ⟨k, v⟩ := e
      obtain ⟨k', w⟩ := e'
      simp only [Tbl.wf, Bool.and_eq_true, decide_eq_true_eq, ih, Tbl.Canon, List.pairwise_cons, List.mem_cons]
      constructor
      · rintro ⟨⟨hk, hv⟩, ⟨hp, hq⟩, he⟩
        refine ⟨⟨?_, hp, hq⟩, ?_⟩
        · rintro x (rfl | hx)
          · exact hk
          · exact Nat.lt_trans hk (hp x hx)
        · rintro x (rfl | hx)
          · simpa using hv
          · exact he x hx
      · rintro ⟨⟨hk, hp, hq⟩, he⟩
        exact ⟨⟨hk (k', w) (Or.inl rfl), by simpa using he (k, v) (Or.inl rfl)⟩, ⟨hp, hq⟩, fun x hx => he x (Or.inr hx)⟩

theorem Tbl.wf_filter (d : α) (t : Tbl α) (q : Nat × α → Bool) (h : Tbl.wf d t = true) : Tbl.wf d (t.filter q) = true := by
  rw [Tbl.wf_iff] at *
  exact ⟨h.1.filter _, fun e he => h.2 e (List.mem_of_mem_filter he)⟩

omit [DecidableEq α] in
theorem Tbl.put_canon (d : α) (t : Tbl α) (k : Nat) (v : α) (h : Tbl.Canon d t) (hv : v ≠ d) (hk : ∀ e ∈ t, e.1 ≠ k) :
    Tbl.Canon d (Tbl.put t k v) := by
  refine ⟨?_, fun e he => ?_⟩
  · induction t with
    | nil => simp [Tbl.put]
    | cons a t ih =>
      have hp := List.pairwise_cons.1 h.1
      unfold Tbl.put
      split
      · rename_i hlt
        refine List.pairwise_cons.2 ⟨?_, h.1⟩
        intro x hx
        rcases List.mem_cons.1 hx with rfl | hx
        · exact hlt
        · exact Nat.lt_trans hlt (hp.1 x hx)
      · rename_i hge
        have hne := hk a (by simp)
        refine List.pairwise_cons.2 ⟨?_, ih ⟨hp.2, fun e he => h.2 e (by simp [he])⟩ (fun e he => hk e (by simp [he]))⟩
        intro x hx
        rcases Tbl.put_mem t k v x hx with rfl | hx
        · exact Nat.lt_of_le_of_ne (Nat.not_lt.1 hge) hne
        · exact hp.1 x hx
  · rcases Tbl.put_mem t k v e he with rfl | he
    · exact hv
    · exact h.2 e he

/-- Writing keeps the canonical form. -/
theorem Tbl.wf_set (d : α) (t : Tbl α) (k : Nat) (v : α) (h : Tbl.wf d t = true) : Tbl.wf d (Tbl.set d t k v) = true := by
  have hf := Tbl.wf_filter d t (fun e => e.1 != k) h
  unfold Tbl.set
  split
  · exact hf
  · rename_i hv
    rw [Tbl.wf_iff] at *
    exact Tbl.put_canon d _ k v hf hv (by simp)

/-- Setting several keys in turn keeps the canonical form. -/
theorem Tbl.wf_foldl_set (d : α) (g : Nat → α) (es acc : Tbl α) (h : Tbl.wf d acc = true) :
    Tbl.wf d (es.foldl (fun m e => Tbl.set d m e.1 (g e.1)) acc) = true := by
  induction es generalizing acc with
  | nil => exact h
  | cons e es ih => exact ih _ (Tbl.wf_set d acc e.1 _ h)

/-- Setting several keys in turn: a key among them reads as set, any other as before. -/
theorem Tbl.get_foldl_set (d : α) (g : Nat → α) (es acc : Tbl α) (k : Nat) :
    Tbl.get d (es.foldl (fun m e => Tbl.set d m e.1 (g e.1)) acc) k = if k ∈ es.map Prod.fst then g k else Tbl.get d acc k := by
  induction es generalizing acc with
  | nil => simp
  | cons e es ih =>
    rw [List.foldl_cons, ih, Tbl.get_set]
    by_cases hk : k = e.1
    · simp [hk]
    · simp only [hk, if_false, List.map_cons, List.mem_cons, false_or]

/-- Changing the listed values keeps the canonical form; it needs no form of the table before. -/
theorem Tbl.wf_mapV (d : α) (f : α → α) (t : Tbl α) : Tbl.wf d (Tbl.mapV d f t) = true :=
  Tbl.wf_foldl_set d (fun k => f (Tbl.get d t k)) t [] rfl

/-- Every listed key reads as changed; every other key reads `d`. -/
theorem Tbl.get_mapV (d : α) (f : α → α) (t : Tbl α) (k : Nat) :
    Tbl.get d (Tbl.mapV d f t) k = if k ∈ t.map Prod.fst then f (Tbl.get d t k) else d :=
  Tbl.get_foldl_set d (fun k => f (Tbl.get d t k)) t [] k

/-! ## Byte arrays -/

@[simp] theorem BMap.read_write_same (m : BMap) (a : Nat) (b : Byte) : BMap.read (BMap.write m a b) a = b := Tbl.get_set_same _ _ _ _

theorem BMap.read_write_other (m : BMap) (a : Nat) (b : Byte) (i : Nat) (h : i ≠ a) : BMap.read (BMap.write m a b) i = BMap.read m i :=
  Tbl.get_set_other _ _ _ _ _ h

theorem BMap.wf_write (m : BMap) (a : Nat) (b : Byte) (h : BMap.wf m = true) : BMap.wf (BMap.write m a b) = true := Tbl.wf_set _ _ _ _ h

/-- A byte outside the bytes written reads as before. -/
theorem BMap.read_writeBytes_outside (m : BMap) (a : Nat) (bs : List Byte) (i : Nat) (h : i < a ∨ a + bs.length ≤ i) :
    BMap.read (BMap.writeBytes m a bs) i = BMap.read m i := by
  induction bs generalizing m a with
  | nil => rfl
  | cons b bs ih =>
    simp only [List.length_cons] at h
    rw [BMap.writeBytes, ih _ _ (by omega), BMap.read_write_other _ _ _ _ (by omega)]

/-- A byte inside the bytes written reads as written. -/
theorem BMap.read_writeBytes_inside (m : BMap) (a : Nat) (bs : List Byte) (i : Nat) (h : i < bs.length) :
    BMap.read (BMap.writeBytes m a bs) (a + i) = bs[i] := by
  induction bs generalizing m a i with
  | nil => simp at h
  | cons b bs ih =>
    rw [BMap.writeBytes]
    cases i with
    | zero =>
      rw [Nat.add_zero, BMap.read_writeBytes_outside _ _ _ _ (Or.inl (by omega))]
      simp
    | succ i =>
      have := ih (BMap.write m a b) (a + 1) i (by simpa using h)
      rw [show a + 1 + i = a + (i + 1) by omega] at this
      simpa using this

theorem BMap.length_readBytes (m : BMap) (a n : Nat) : (BMap.readBytes m a n).length = n := by
  induction n generalizing a with
  | zero => rfl
  | succ n ih => simp [BMap.readBytes, ih]

/-- Reading back the bytes written. -/
theorem BMap.readBytes_writeBytes (m : BMap) (a : Nat) (bs : List Byte) : BMap.readBytes (BMap.writeBytes m a bs) a bs.length = bs := by
  induction bs generalizing m a with
  | nil => rfl
  | cons b bs ih =>
    simp only [List.length_cons, BMap.readBytes, BMap.writeBytes]
    rw [ih, BMap.read_writeBytes_outside _ _ _ _ (Or.inl (by omega)), BMap.read_write_same]

theorem BMap.wf_writeBytes (m : BMap) (a : Nat) (bs : List Byte) (h : BMap.wf m = true) : BMap.wf (BMap.writeBytes m a bs) = true := by
  induction bs generalizing m a with
  | nil => exact h
  | cons b bs ih => exact ih _ _ (BMap.wf_write m a b h)

theorem BMap.wf_writeLe (m : BMap) (a n v : Nat) (h : BMap.wf m = true) : BMap.wf (BMap.writeLe m a n v) = true := BMap.wf_writeBytes m a _ h

theorem BMap.wf_clear (m : BMap) (a n : Nat) (h : BMap.wf m = true) : BMap.wf (BMap.clear m a n) = true := Tbl.wf_filter _ _ _ h

/-- Cleared bytes read zero, all others as before. -/
theorem BMap.read_clear (m : BMap) (a n i : Nat) : BMap.read (BMap.clear m a n) i = if a ≤ i ∧ i < a + n then 0 else BMap.read m i := by
  unfold BMap.read BMap.clear
  split
  · rename_i h
    refine Tbl.get_absent 0 _ i (fun e he => ?_)
    have := (List.mem_filter.1 he).2
    simp at this
    omega
  · rename_i h
    refine Tbl.get_filter_other 0 m _ i (fun e _ he => ?_)
    simp
    omega

end Sys2Proof.Machine
end

