-- ==== Sys2Proof/Laws/State.lean ====
section
/-! SUPPORT. What each update of one unit leaves alone, field by field, and what it makes of the unit itself. -/

namespace Sys2Proof.Machine

open Sys2Proof


/-! ## Fn -/

@[simp] theorem State.setFn_pending (s : State) (f : Nat) (x : Fn) : (s.setFn f x).pending = s.pending := rfl
@[simp] theorem State.setFn_free (s : State) (f : Nat) (x : Fn) : (s.setFn f x).free = s.free := rfl
@[simp] theorem State.setFn_time (s : State) (f : Nat) (x : Fn) : (s.setFn f x).time = s.time := rfl
@[simp] theorem State.setFn_log (s : State) (f : Nat) (x : Fn) : (s.setFn f x).log = s.log := rfl
@[simp] theorem State.setFn_link (s : State) (f : Nat) (x : Fn) : (s.setFn f x).link = s.link := rfl
@[simp] theorem State.setFn_slots (s : State) (f : Nat) (x : Fn) : (s.setFn f x).slots = s.slots := rfl
@[simp] theorem State.setFn_parts (s : State) (f : Nat) (x : Fn) : (s.setFn f x).parts = s.parts := rfl
@[simp] theorem State.setFn_tiles (s : State) (f : Nat) (x : Fn) : (s.setFn f x).tiles = s.tiles := rfl
@[simp] theorem State.setFn_atps (s : State) (f : Nat) (x : Fn) : (s.setFn f x).atps = s.atps := rfl
@[simp] theorem State.setFn_signals (s : State) (f : Nat) (x : Fn) : (s.setFn f x).signals = s.signals := rfl
@[simp] theorem State.setFn_ctxs (s : State) (f : Nat) (x : Fn) : (s.setFn f x).ctxs = s.ctxs := rfl
@[simp] theorem State.setFn_copies (s : State) (f : Nat) (x : Fn) : (s.setFn f x).copies = s.copies := rfl
@[simp] theorem State.setFn_loose (s : State) (f : Nat) (x : Fn) : (s.setFn f x).loose = s.loose := rfl
@[simp] theorem State.setFn_hbm (s : State) (f : Nat) (x : Fn) : (s.setFn f x).hbm = s.hbm := rfl
@[simp] theorem State.setFn_mem (s : State) (f : Nat) (x : Fn) : (s.setFn f x).mem = s.mem := rfl
@[simp] theorem State.setFn_blocks (s : State) (f : Nat) (x : Fn) : (s.setFn f x).blocks = s.blocks := rfl
@[simp] theorem State.setFn_chisel (s : State) (f : Nat) (x : Fn) : (s.setFn f x).chisel = s.chisel := rfl
@[simp] theorem State.setFn_nextList (s : State) (f : Nat) (x : Fn) : (s.setFn f x).nextList = s.nextList := rfl
@[simp] theorem State.setFn_flash (s : State) (f : Nat) (x : Fn) : (s.setFn f x).flash = s.flash := rfl
@[simp] theorem State.setFn_tierReqs (s : State) (f : Nat) (x : Fn) : (s.setFn f x).tierReqs = s.tierReqs := rfl
@[simp] theorem State.setFn_nextReq (s : State) (f : Nat) (x : Fn) : (s.setFn f x).nextReq = s.nextReq := rfl
@[simp] theorem State.setFn_mgrQueue (s : State) (f : Nat) (x : Fn) : (s.setFn f x).mgrQueue = s.mgrQueue := rfl
@[simp] theorem State.setFn_grants (s : State) (f : Nat) (x : Fn) : (s.setFn f x).grants = s.grants := rfl
@[simp] theorem State.setFn_fabric (s : State) (f : Nat) (x : Fn) : (s.setFn f x).fabric = s.fabric := rfl
@[simp] theorem State.setFn_dies (s : State) (f : Nat) (x : Fn) : (s.setFn f x).dies = s.dies := rfl
@[simp] theorem State.setFn_secClear (s : State) (f : Nat) (x : Fn) : (s.setFn f x).secClear = s.secClear := rfl
@[simp] theorem State.setFn_secOut (s : State) (f : Nat) (x : Fn) : (s.setFn f x).secOut = s.secOut := rfl
@[simp] theorem State.setFn_drains (s : State) (f : Nat) (x : Fn) : (s.setFn f x).drains = s.drains := rfl
@[simp] theorem State.setFn_procs (s : State) (f : Nat) (x : Fn) : (s.setFn f x).procs = s.procs := rfl
@[simp] theorem State.setFn_fwSeqs (s : State) (f : Nat) (x : Fn) : (s.setFn f x).fwSeqs = s.fwSeqs := rfl
@[simp] theorem State.setFn_staging (s : State) (f : Nat) (x : Fn) : (s.setFn f x).staging = s.staging := rfl
@[simp] theorem State.setFn_power (s : State) (f : Nat) (x : Fn) : (s.setFn f x).power = s.power := rfl
@[simp] theorem State.setFn_sec (s : State) (f : Nat) (x : Fn) : (s.setFn f x).sec = s.sec := rfl
@[simp] theorem State.setFn_side (s : State) (f : Nat) (x : Fn) : (s.setFn f x).side = s.side := rfl
@[simp] theorem State.modFn_pending (s : State) (f : Nat) (g : Fn → Fn) : (s.modFn f g).pending = s.pending := rfl
@[simp] theorem State.modFn_free (s : State) (f : Nat) (g : Fn → Fn) : (s.modFn f g).free = s.free := rfl
@[simp] theorem State.modFn_time (s : State) (f : Nat) (g : Fn → Fn) : (s.modFn f g).time = s.time := rfl
@[simp] theorem State.modFn_log (s : State) (f : Nat) (g : Fn → Fn) : (s.modFn f g).log = s.log := rfl
@[simp] theorem State.modFn_link (s : State) (f : Nat) (g : Fn → Fn) : (s.modFn f g).link = s.link := rfl
@[simp] theorem State.modFn_slots (s : State) (f : Nat) (g : Fn → Fn) : (s.modFn f g).slots = s.slots := rfl
@[simp] theorem State.modFn_parts (s : State) (f : Nat) (g : Fn → Fn) : (s.modFn f g).parts = s.parts := rfl
@[simp] theorem State.modFn_tiles (s : State) (f : Nat) (g : Fn → Fn) : (s.modFn f g).tiles = s.tiles := rfl
@[simp] theorem State.modFn_atps (s : State) (f : Nat) (g : Fn → Fn) : (s.modFn f g).atps = s.atps := rfl
@[simp] theorem State.modFn_signals (s : State) (f : Nat) (g : Fn → Fn) : (s.modFn f g).signals = s.signals := rfl
@[simp] theorem State.modFn_ctxs (s : State) (f : Nat) (g : Fn → Fn) : (s.modFn f g).ctxs = s.ctxs := rfl
@[simp] theorem State.modFn_copies (s : State) (f : Nat) (g : Fn → Fn) : (s.modFn f g).copies = s.copies := rfl
@[simp] theorem State.modFn_loose (s : State) (f : Nat) (g : Fn → Fn) : (s.modFn f g).loose = s.loose := rfl
@[simp] theorem State.modFn_hbm (s : State) (f : Nat) (g : Fn → Fn) : (s.modFn f g).hbm = s.hbm := rfl
@[simp] theorem State.modFn_mem (s : State) (f : Nat) (g : Fn → Fn) : (s.modFn f g).mem = s.mem := rfl
@[simp] theorem State.modFn_blocks (s : State) (f : Nat) (g : Fn → Fn) : (s.modFn f g).blocks = s.blocks := rfl
@[simp] theorem State.modFn_chisel (s : State) (f : Nat) (g : Fn → Fn) : (s.modFn f g).chisel = s.chisel := rfl
@[simp] theorem State.modFn_nextList (s : State) (f : Nat) (g : Fn → Fn) : (s.modFn f g).nextList = s.nextList := rfl
@[simp] theorem State.modFn_flash (s : State) (f : Nat) (g : Fn → Fn) : (s.modFn f g).flash = s.flash := rfl
@[simp] theorem State.modFn_tierReqs (s : State) (f : Nat) (g : Fn → Fn) : (s.modFn f g).tierReqs = s.tierReqs := rfl
@[simp] theorem State.modFn_nextReq (s : State) (f : Nat) (g : Fn → Fn) : (s.modFn f g).nextReq = s.nextReq := rfl
@[simp] theorem State.modFn_mgrQueue (s : State) (f : Nat) (g : Fn → Fn) : (s.modFn f g).mgrQueue = s.mgrQueue := rfl
@[simp] theorem State.modFn_grants (s : State) (f : Nat) (g : Fn → Fn) : (s.modFn f g).grants = s.grants := rfl
@[simp] theorem State.modFn_fabric (s : State) (f : Nat) (g : Fn → Fn) : (s.modFn f g).fabric = s.fabric := rfl
@[simp] theorem State.modFn_dies (s : State) (f : Nat) (g : Fn → Fn) : (s.modFn f g).dies = s.dies := rfl
@[simp] theorem State.modFn_secClear (s : State) (f : Nat) (g : Fn → Fn) : (s.modFn f g).secClear = s.secClear := rfl
@[simp] theorem State.modFn_secOut (s : State) (f : Nat) (g : Fn → Fn) : (s.modFn f g).secOut = s.secOut := rfl
@[simp] theorem State.modFn_drains (s : State) (f : Nat) (g : Fn → Fn) : (s.modFn f g).drains = s.drains := rfl
@[simp] theorem State.modFn_procs (s : State) (f : Nat) (g : Fn → Fn) : (s.modFn f g).procs = s.procs := rfl
@[simp] theorem State.modFn_fwSeqs (s : State) (f : Nat) (g : Fn → Fn) : (s.modFn f g).fwSeqs = s.fwSeqs := rfl
@[simp] theorem State.modFn_staging (s : State) (f : Nat) (g : Fn → Fn) : (s.modFn f g).staging = s.staging := rfl
@[simp] theorem State.modFn_power (s : State) (f : Nat) (g : Fn → Fn) : (s.modFn f g).power = s.power := rfl
@[simp] theorem State.modFn_sec (s : State) (f : Nat) (g : Fn → Fn) : (s.modFn f g).sec = s.sec := rfl
@[simp] theorem State.modFn_side (s : State) (f : Nat) (g : Fn → Fn) : (s.modFn f g).side = s.side := rfl

/-! ## Slot -/

@[simp] theorem State.setSlot_pending (s : State) (f n : Nat) (x : Slot) : (s.setSlot f n x).pending = s.pending := rfl
@[simp] theorem State.setSlot_free (s : State) (f n : Nat) (x : Slot) : (s.setSlot f n x).free = s.free := rfl
@[simp] theorem State.setSlot_time (s : State) (f n : Nat) (x : Slot) : (s.setSlot f n x).time = s.time := rfl
@[simp] theorem State.setSlot_log (s : State) (f n : Nat) (x : Slot) : (s.setSlot f n x).log = s.log := rfl
@[simp] theorem State.setSlot_link (s : State) (f n : Nat) (x : Slot) : (s.setSlot f n x).link = s.link := rfl
@[simp] theorem State.setSlot_fns (s : State) (f n : Nat) (x : Slot) : (s.setSlot f n x).fns = s.fns := rfl
@[simp] theorem State.setSlot_parts (s : State) (f n : Nat) (x : Slot) : (s.setSlot f n x).parts = s.parts := rfl
@[simp] theorem State.setSlot_tiles (s : State) (f n : Nat) (x : Slot) : (s.setSlot f n x).tiles = s.tiles := rfl
@[simp] theorem State.setSlot_atps (s : State) (f n : Nat) (x : Slot) : (s.setSlot f n x).atps = s.atps := rfl
@[simp] theorem State.setSlot_signals (s : State) (f n : Nat) (x : Slot) : (s.setSlot f n x).signals = s.signals := rfl
@[simp] theorem State.setSlot_ctxs (s : State) (f n : Nat) (x : Slot) : (s.setSlot f n x).ctxs = s.ctxs := rfl
@[simp] theorem State.setSlot_copies (s : State) (f n : Nat) (x : Slot) : (s.setSlot f n x).copies = s.copies := rfl
@[simp] theorem State.setSlot_loose (s : State) (f n : Nat) (x : Slot) : (s.setSlot f n x).loose = s.loose := rfl
@[simp] theorem State.setSlot_hbm (s : State) (f n : Nat) (x : Slot) : (s.setSlot f n x).hbm = s.hbm := rfl
@[simp] theorem State.setSlot_mem (s : State) (f n : Nat) (x : Slot) : (s.setSlot f n x).mem = s.mem := rfl
@[simp] theorem State.setSlot_blocks (s : State) (f n : Nat) (x : Slot) : (s.setSlot f n x).blocks = s.blocks := rfl
@[simp] theorem State.setSlot_chisel (s : State) (f n : Nat) (x : Slot) : (s.setSlot f n x).chisel = s.chisel := rfl
@[simp] theorem State.setSlot_nextList (s : State) (f n : Nat) (x : Slot) : (s.setSlot f n x).nextList = s.nextList := rfl
@[simp] theorem State.setSlot_flash (s : State) (f n : Nat) (x : Slot) : (s.setSlot f n x).flash = s.flash := rfl
@[simp] theorem State.setSlot_tierReqs (s : State) (f n : Nat) (x : Slot) : (s.setSlot f n x).tierReqs = s.tierReqs := rfl
@[simp] theorem State.setSlot_nextReq (s : State) (f n : Nat) (x : Slot) : (s.setSlot f n x).nextReq = s.nextReq := rfl
@[simp] theorem State.setSlot_mgrQueue (s : State) (f n : Nat) (x : Slot) : (s.setSlot f n x).mgrQueue = s.mgrQueue := rfl
@[simp] theorem State.setSlot_grants (s : State) (f n : Nat) (x : Slot) : (s.setSlot f n x).grants = s.grants := rfl
@[simp] theorem State.setSlot_fabric (s : State) (f n : Nat) (x : Slot) : (s.setSlot f n x).fabric = s.fabric := rfl
@[simp] theorem State.setSlot_dies (s : State) (f n : Nat) (x : Slot) : (s.setSlot f n x).dies = s.dies := rfl
@[simp] theorem State.setSlot_secClear (s : State) (f n : Nat) (x : Slot) : (s.setSlot f n x).secClear = s.secClear := rfl
@[simp] theorem State.setSlot_secOut (s : State) (f n : Nat) (x : Slot) : (s.setSlot f n x).secOut = s.secOut := rfl
@[simp] theorem State.setSlot_drains (s : State) (f n : Nat) (x : Slot) : (s.setSlot f n x).drains = s.drains := rfl
@[simp] theorem State.setSlot_procs (s : State) (f n : Nat) (x : Slot) : (s.setSlot f n x).procs = s.procs := rfl
@[simp] theorem State.setSlot_fwSeqs (s : State) (f n : Nat) (x : Slot) : (s.setSlot f n x).fwSeqs = s.fwSeqs := rfl
@[simp] theorem State.setSlot_staging (s : State) (f n : Nat) (x : Slot) : (s.setSlot f n x).staging = s.staging := rfl
@[simp] theorem State.setSlot_power (s : State) (f n : Nat) (x : Slot) : (s.setSlot f n x).power = s.power := rfl
@[simp] theorem State.setSlot_sec (s : State) (f n : Nat) (x : Slot) : (s.setSlot f n x).sec = s.sec := rfl
@[simp] theorem State.setSlot_side (s : State) (f n : Nat) (x : Slot) : (s.setSlot f n x).side = s.side := rfl
@[simp] theorem State.modSlot_pending (s : State) (f n : Nat) (g : Slot → Slot) : (s.modSlot f n g).pending = s.pending := rfl
@[simp] theorem State.modSlot_free (s : State) (f n : Nat) (g : Slot → Slot) : (s.modSlot f n g).free = s.free := rfl
@[simp] theorem State.modSlot_time (s : State) (f n : Nat) (g : Slot → Slot) : (s.modSlot f n g).time = s.time := rfl
@[simp] theorem State.modSlot_log (s : State) (f n : Nat) (g : Slot → Slot) : (s.modSlot f n g).log = s.log := rfl
@[simp] theorem State.modSlot_link (s : State) (f n : Nat) (g : Slot → Slot) : (s.modSlot f n g).link = s.link := rfl
@[simp] theorem State.modSlot_fns (s : State) (f n : Nat) (g : Slot → Slot) : (s.modSlot f n g).fns = s.fns := rfl
@[simp] theorem State.modSlot_parts (s : State) (f n : Nat) (g : Slot → Slot) : (s.modSlot f n g).parts = s.parts := rfl
@[simp] theorem State.modSlot_tiles (s : State) (f n : Nat) (g : Slot → Slot) : (s.modSlot f n g).tiles = s.tiles := rfl
@[simp] theorem State.modSlot_atps (s : State) (f n : Nat) (g : Slot → Slot) : (s.modSlot f n g).atps = s.atps := rfl
@[simp] theorem State.modSlot_signals (s : State) (f n : Nat) (g : Slot → Slot) : (s.modSlot f n g).signals = s.signals := rfl
@[simp] theorem State.modSlot_ctxs (s : State) (f n : Nat) (g : Slot → Slot) : (s.modSlot f n g).ctxs = s.ctxs := rfl
@[simp] theorem State.modSlot_copies (s : State) (f n : Nat) (g : Slot → Slot) : (s.modSlot f n g).copies = s.copies := rfl
@[simp] theorem State.modSlot_loose (s : State) (f n : Nat) (g : Slot → Slot) : (s.modSlot f n g).loose = s.loose := rfl
@[simp] theorem State.modSlot_hbm (s : State) (f n : Nat) (g : Slot → Slot) : (s.modSlot f n g).hbm = s.hbm := rfl
@[simp] theorem State.modSlot_mem (s : State) (f n : Nat) (g : Slot → Slot) : (s.modSlot f n g).mem = s.mem := rfl
@[simp] theorem State.modSlot_blocks (s : State) (f n : Nat) (g : Slot → Slot) : (s.modSlot f n g).blocks = s.blocks := rfl
@[simp] theorem State.modSlot_chisel (s : State) (f n : Nat) (g : Slot → Slot) : (s.modSlot f n g).chisel = s.chisel := rfl
@[simp] theorem State.modSlot_nextList (s : State) (f n : Nat) (g : Slot → Slot) : (s.modSlot f n g).nextList = s.nextList := rfl
@[simp] theorem State.modSlot_flash (s : State) (f n : Nat) (g : Slot → Slot) : (s.modSlot f n g).flash = s.flash := rfl
@[simp] theorem State.modSlot_tierReqs (s : State) (f n : Nat) (g : Slot → Slot) : (s.modSlot f n g).tierReqs = s.tierReqs := rfl
@[simp] theorem State.modSlot_nextReq (s : State) (f n : Nat) (g : Slot → Slot) : (s.modSlot f n g).nextReq = s.nextReq := rfl
@[simp] theorem State.modSlot_mgrQueue (s : State) (f n : Nat) (g : Slot → Slot) : (s.modSlot f n g).mgrQueue = s.mgrQueue := rfl
@[simp] theorem State.modSlot_grants (s : State) (f n : Nat) (g : Slot → Slot) : (s.modSlot f n g).grants = s.grants := rfl
@[simp] theorem State.modSlot_fabric (s : State) (f n : Nat) (g : Slot → Slot) : (s.modSlot f n g).fabric = s.fabric := rfl
@[simp] theorem State.modSlot_dies (s : State) (f n : Nat) (g : Slot → Slot) : (s.modSlot f n g).dies = s.dies := rfl
@[simp] theorem State.modSlot_secClear (s : State) (f n : Nat) (g : Slot → Slot) : (s.modSlot f n g).secClear = s.secClear := rfl
@[simp] theorem State.modSlot_secOut (s : State) (f n : Nat) (g : Slot → Slot) : (s.modSlot f n g).secOut = s.secOut := rfl
@[simp] theorem State.modSlot_drains (s : State) (f n : Nat) (g : Slot → Slot) : (s.modSlot f n g).drains = s.drains := rfl
@[simp] theorem State.modSlot_procs (s : State) (f n : Nat) (g : Slot → Slot) : (s.modSlot f n g).procs = s.procs := rfl
@[simp] theorem State.modSlot_fwSeqs (s : State) (f n : Nat) (g : Slot → Slot) : (s.modSlot f n g).fwSeqs = s.fwSeqs := rfl
@[simp] theorem State.modSlot_staging (s : State) (f n : Nat) (g : Slot → Slot) : (s.modSlot f n g).staging = s.staging := rfl
@[simp] theorem State.modSlot_power (s : State) (f n : Nat) (g : Slot → Slot) : (s.modSlot f n g).power = s.power := rfl
@[simp] theorem State.modSlot_sec (s : State) (f n : Nat) (g : Slot → Slot) : (s.modSlot f n g).sec = s.sec := rfl
@[simp] theorem State.modSlot_side (s : State) (f n : Nat) (g : Slot → Slot) : (s.modSlot f n g).side = s.side := rfl

/-! ## Part -/

@[simp] theorem State.setPart_pending (s : State) (p : Nat) (x : Part) : (s.setPart p x).pending = s.pending := rfl
@[simp] theorem State.setPart_free (s : State) (p : Nat) (x : Part) : (s.setPart p x).free = s.free := rfl
@[simp] theorem State.setPart_time (s : State) (p : Nat) (x : Part) : (s.setPart p x).time = s.time := rfl
@[simp] theorem State.setPart_log (s : State) (p : Nat) (x : Part) : (s.setPart p x).log = s.log := rfl
@[simp] theorem State.setPart_link (s : State) (p : Nat) (x : Part) : (s.setPart p x).link = s.link := rfl
@[simp] theorem State.setPart_fns (s : State) (p : Nat) (x : Part) : (s.setPart p x).fns = s.fns := rfl
@[simp] theorem State.setPart_slots (s : State) (p : Nat) (x : Part) : (s.setPart p x).slots = s.slots := rfl
@[simp] theorem State.setPart_tiles (s : State) (p : Nat) (x : Part) : (s.setPart p x).tiles = s.tiles := rfl
@[simp] theorem State.setPart_atps (s : State) (p : Nat) (x : Part) : (s.setPart p x).atps = s.atps := rfl
@[simp] theorem State.setPart_signals (s : State) (p : Nat) (x : Part) : (s.setPart p x).signals = s.signals := rfl
@[simp] theorem State.setPart_ctxs (s : State) (p : Nat) (x : Part) : (s.setPart p x).ctxs = s.ctxs := rfl
@[simp] theorem State.setPart_copies (s : State) (p : Nat) (x : Part) : (s.setPart p x).copies = s.copies := rfl
@[simp] theorem State.setPart_loose (s : State) (p : Nat) (x : Part) : (s.setPart p x).loose = s.loose := rfl
@[simp] theorem State.setPart_hbm (s : State) (p : Nat) (x : Part) : (s.setPart p x).hbm = s.hbm := rfl
@[simp] theorem State.setPart_mem (s : State) (p : Nat) (x : Part) : (s.setPart p x).mem = s.mem := rfl
@[simp] theorem State.setPart_blocks (s : State) (p : Nat) (x : Part) : (s.setPart p x).blocks = s.blocks := rfl
@[simp] theorem State.setPart_chisel (s : State) (p : Nat) (x : Part) : (s.setPart p x).chisel = s.chisel := rfl
@[simp] theorem State.setPart_nextList (s : State) (p : Nat) (x : Part) : (s.setPart p x).nextList = s.nextList := rfl
@[simp] theorem State.setPart_flash (s : State) (p : Nat) (x : Part) : (s.setPart p x).flash = s.flash := rfl
@[simp] theorem State.setPart_tierReqs (s : State) (p : Nat) (x : Part) : (s.setPart p x).tierReqs = s.tierReqs := rfl
@[simp] theorem State.setPart_nextReq (s : State) (p : Nat) (x : Part) : (s.setPart p x).nextReq = s.nextReq := rfl
@[simp] theorem State.setPart_mgrQueue (s : State) (p : Nat) (x : Part) : (s.setPart p x).mgrQueue = s.mgrQueue := rfl
@[simp] theorem State.setPart_grants (s : State) (p : Nat) (x : Part) : (s.setPart p x).grants = s.grants := rfl
@[simp] theorem State.setPart_fabric (s : State) (p : Nat) (x : Part) : (s.setPart p x).fabric = s.fabric := rfl
@[simp] theorem State.setPart_dies (s : State) (p : Nat) (x : Part) : (s.setPart p x).dies = s.dies := rfl
@[simp] theorem State.setPart_secClear (s : State) (p : Nat) (x : Part) : (s.setPart p x).secClear = s.secClear := rfl
@[simp] theorem State.setPart_secOut (s : State) (p : Nat) (x : Part) : (s.setPart p x).secOut = s.secOut := rfl
@[simp] theorem State.setPart_drains (s : State) (p : Nat) (x : Part) : (s.setPart p x).drains = s.drains := rfl
@[simp] theorem State.setPart_procs (s : State) (p : Nat) (x : Part) : (s.setPart p x).procs = s.procs := rfl
@[simp] theorem State.setPart_fwSeqs (s : State) (p : Nat) (x : Part) : (s.setPart p x).fwSeqs = s.fwSeqs := rfl
@[simp] theorem State.setPart_staging (s : State) (p : Nat) (x : Part) : (s.setPart p x).staging = s.staging := rfl
@[simp] theorem State.setPart_power (s : State) (p : Nat) (x : Part) : (s.setPart p x).power = s.power := rfl
@[simp] theorem State.setPart_sec (s : State) (p : Nat) (x : Part) : (s.setPart p x).sec = s.sec := rfl
@[simp] theorem State.setPart_side (s : State) (p : Nat) (x : Part) : (s.setPart p x).side = s.side := rfl
@[simp] theorem State.modPart_pending (s : State) (p : Nat) (g : Part → Part) : (s.modPart p g).pending = s.pending := rfl
@[simp] theorem State.modPart_free (s : State) (p : Nat) (g : Part → Part) : (s.modPart p g).free = s.free := rfl
@[simp] theorem State.modPart_time (s : State) (p : Nat) (g : Part → Part) : (s.modPart p g).time = s.time := rfl
@[simp] theorem State.modPart_log (s : State) (p : Nat) (g : Part → Part) : (s.modPart p g).log = s.log := rfl
@[simp] theorem State.modPart_link (s : State) (p : Nat) (g : Part → Part) : (s.modPart p g).link = s.link := rfl
@[simp] theorem State.modPart_fns (s : State) (p : Nat) (g : Part → Part) : (s.modPart p g).fns = s.fns := rfl
@[simp] theorem State.modPart_slots (s : State) (p : Nat) (g : Part → Part) : (s.modPart p g).slots = s.slots := rfl
@[simp] theorem State.modPart_tiles (s : State) (p : Nat) (g : Part → Part) : (s.modPart p g).tiles = s.tiles := rfl
@[simp] theorem State.modPart_atps (s : State) (p : Nat) (g : Part → Part) : (s.modPart p g).atps = s.atps := rfl
@[simp] theorem State.modPart_signals (s : State) (p : Nat) (g : Part → Part) : (s.modPart p g).signals = s.signals := rfl
@[simp] theorem State.modPart_ctxs (s : State) (p : Nat) (g : Part → Part) : (s.modPart p g).ctxs = s.ctxs := rfl
@[simp] theorem State.modPart_copies (s : State) (p : Nat) (g : Part → Part) : (s.modPart p g).copies = s.copies := rfl
@[simp] theorem State.modPart_loose (s : State) (p : Nat) (g : Part → Part) : (s.modPart p g).loose = s.loose := rfl
@[simp] theorem State.modPart_hbm (s : State) (p : Nat) (g : Part → Part) : (s.modPart p g).hbm = s.hbm := rfl
@[simp] theorem State.modPart_mem (s : State) (p : Nat) (g : Part → Part) : (s.modPart p g).mem = s.mem := rfl
@[simp] theorem State.modPart_blocks (s : State) (p : Nat) (g : Part → Part) : (s.modPart p g).blocks = s.blocks := rfl
@[simp] theorem State.modPart_chisel (s : State) (p : Nat) (g : Part → Part) : (s.modPart p g).chisel = s.chisel := rfl
@[simp] theorem State.modPart_nextList (s : State) (p : Nat) (g : Part → Part) : (s.modPart p g).nextList = s.nextList := rfl
@[simp] theorem State.modPart_flash (s : State) (p : Nat) (g : Part → Part) : (s.modPart p g).flash = s.flash := rfl
@[simp] theorem State.modPart_tierReqs (s : State) (p : Nat) (g : Part → Part) : (s.modPart p g).tierReqs = s.tierReqs := rfl
@[simp] theorem State.modPart_nextReq (s : State) (p : Nat) (g : Part → Part) : (s.modPart p g).nextReq = s.nextReq := rfl
@[simp] theorem State.modPart_mgrQueue (s : State) (p : Nat) (g : Part → Part) : (s.modPart p g).mgrQueue = s.mgrQueue := rfl
@[simp] theorem State.modPart_grants (s : State) (p : Nat) (g : Part → Part) : (s.modPart p g).grants = s.grants := rfl
@[simp] theorem State.modPart_fabric (s : State) (p : Nat) (g : Part → Part) : (s.modPart p g).fabric = s.fabric := rfl
@[simp] theorem State.modPart_dies (s : State) (p : Nat) (g : Part → Part) : (s.modPart p g).dies = s.dies := rfl
@[simp] theorem State.modPart_secClear (s : State) (p : Nat) (g : Part → Part) : (s.modPart p g).secClear = s.secClear := rfl
@[simp] theorem State.modPart_secOut (s : State) (p : Nat) (g : Part → Part) : (s.modPart p g).secOut = s.secOut := rfl
@[simp] theorem State.modPart_drains (s : State) (p : Nat) (g : Part → Part) : (s.modPart p g).drains = s.drains := rfl
@[simp] theorem State.modPart_procs (s : State) (p : Nat) (g : Part → Part) : (s.modPart p g).procs = s.procs := rfl
@[simp] theorem State.modPart_fwSeqs (s : State) (p : Nat) (g : Part → Part) : (s.modPart p g).fwSeqs = s.fwSeqs := rfl
@[simp] theorem State.modPart_staging (s : State) (p : Nat) (g : Part → Part) : (s.modPart p g).staging = s.staging := rfl
@[simp] theorem State.modPart_power (s : State) (p : Nat) (g : Part → Part) : (s.modPart p g).power = s.power := rfl
@[simp] theorem State.modPart_sec (s : State) (p : Nat) (g : Part → Part) : (s.modPart p g).sec = s.sec := rfl
@[simp] theorem State.modPart_side (s : State) (p : Nat) (g : Part → Part) : (s.modPart p g).side = s.side := rfl

/-! ## Tile -/

@[simp] theorem State.setTile_pending (s : State) (t : Nat) (x : Tile) : (s.setTile t x).pending = s.pending := rfl
@[simp] theorem State.setTile_free (s : State) (t : Nat) (x : Tile) : (s.setTile t x).free = s.free := rfl
@[simp] theorem State.setTile_time (s : State) (t : Nat) (x : Tile) : (s.setTile t x).time = s.time := rfl
@[simp] theorem State.setTile_log (s : State) (t : Nat) (x : Tile) : (s.setTile t x).log = s.log := rfl
@[simp] theorem State.setTile_link (s : State) (t : Nat) (x : Tile) : (s.setTile t x).link = s.link := rfl
@[simp] theorem State.setTile_fns (s : State) (t : Nat) (x : Tile) : (s.setTile t x).fns = s.fns := rfl
@[simp] theorem State.setTile_slots (s : State) (t : Nat) (x : Tile) : (s.setTile t x).slots = s.slots := rfl
@[simp] theorem State.setTile_parts (s : State) (t : Nat) (x : Tile) : (s.setTile t x).parts = s.parts := rfl
@[simp] theorem State.setTile_atps (s : State) (t : Nat) (x : Tile) : (s.setTile t x).atps = s.atps := rfl
@[simp] theorem State.setTile_signals (s : State) (t : Nat) (x : Tile) : (s.setTile t x).signals = s.signals := rfl
@[simp] theorem State.setTile_ctxs (s : State) (t : Nat) (x : Tile) : (s.setTile t x).ctxs = s.ctxs := rfl
@[simp] theorem State.setTile_copies (s : State) (t : Nat) (x : Tile) : (s.setTile t x).copies = s.copies := rfl
@[simp] theorem State.setTile_loose (s : State) (t : Nat) (x : Tile) : (s.setTile t x).loose = s.loose := rfl
@[simp] theorem State.setTile_hbm (s : State) (t : Nat) (x : Tile) : (s.setTile t x).hbm = s.hbm := rfl
@[simp] theorem State.setTile_mem (s : State) (t : Nat) (x : Tile) : (s.setTile t x).mem = s.mem := rfl
@[simp] theorem State.setTile_blocks (s : State) (t : Nat) (x : Tile) : (s.setTile t x).blocks = s.blocks := rfl
@[simp] theorem State.setTile_chisel (s : State) (t : Nat) (x : Tile) : (s.setTile t x).chisel = s.chisel := rfl
@[simp] theorem State.setTile_nextList (s : State) (t : Nat) (x : Tile) : (s.setTile t x).nextList = s.nextList := rfl
@[simp] theorem State.setTile_flash (s : State) (t : Nat) (x : Tile) : (s.setTile t x).flash = s.flash := rfl
@[simp] theorem State.setTile_tierReqs (s : State) (t : Nat) (x : Tile) : (s.setTile t x).tierReqs = s.tierReqs := rfl
@[simp] theorem State.setTile_nextReq (s : State) (t : Nat) (x : Tile) : (s.setTile t x).nextReq = s.nextReq := rfl
@[simp] theorem State.setTile_mgrQueue (s : State) (t : Nat) (x : Tile) : (s.setTile t x).mgrQueue = s.mgrQueue := rfl
@[simp] theorem State.setTile_grants (s : State) (t : Nat) (x : Tile) : (s.setTile t x).grants = s.grants := rfl
@[simp] theorem State.setTile_fabric (s : State) (t : Nat) (x : Tile) : (s.setTile t x).fabric = s.fabric := rfl
@[simp] theorem State.setTile_dies (s : State) (t : Nat) (x : Tile) : (s.setTile t x).dies = s.dies := rfl
@[simp] theorem State.setTile_secClear (s : State) (t : Nat) (x : Tile) : (s.setTile t x).secClear = s.secClear := rfl
@[simp] theorem State.setTile_secOut (s : State) (t : Nat) (x : Tile) : (s.setTile t x).secOut = s.secOut := rfl
@[simp] theorem State.setTile_drains (s : State) (t : Nat) (x : Tile) : (s.setTile t x).drains = s.drains := rfl
@[simp] theorem State.setTile_procs (s : State) (t : Nat) (x : Tile) : (s.setTile t x).procs = s.procs := rfl
@[simp] theorem State.setTile_fwSeqs (s : State) (t : Nat) (x : Tile) : (s.setTile t x).fwSeqs = s.fwSeqs := rfl
@[simp] theorem State.setTile_staging (s : State) (t : Nat) (x : Tile) : (s.setTile t x).staging = s.staging := rfl
@[simp] theorem State.setTile_power (s : State) (t : Nat) (x : Tile) : (s.setTile t x).power = s.power := rfl
@[simp] theorem State.setTile_sec (s : State) (t : Nat) (x : Tile) : (s.setTile t x).sec = s.sec := rfl
@[simp] theorem State.setTile_side (s : State) (t : Nat) (x : Tile) : (s.setTile t x).side = s.side := rfl
@[simp] theorem State.modTile_pending (s : State) (t : Nat) (g : Tile → Tile) : (s.modTile t g).pending = s.pending := rfl
@[simp] theorem State.modTile_free (s : State) (t : Nat) (g : Tile → Tile) : (s.modTile t g).free = s.free := rfl
@[simp] theorem State.modTile_time (s : State) (t : Nat) (g : Tile → Tile) : (s.modTile t g).time = s.time := rfl
@[simp] theorem State.modTile_log (s : State) (t : Nat) (g : Tile → Tile) : (s.modTile t g).log = s.log := rfl
@[simp] theorem State.modTile_link (s : State) (t : Nat) (g : Tile → Tile) : (s.modTile t g).link = s.link := rfl
@[simp] theorem State.modTile_fns (s : State) (t : Nat) (g : Tile → Tile) : (s.modTile t g).fns = s.fns := rfl
@[simp] theorem State.modTile_slots (s : State) (t : Nat) (g : Tile → Tile) : (s.modTile t g).slots = s.slots := rfl
@[simp] theorem State.modTile_parts (s : State) (t : Nat) (g : Tile → Tile) : (s.modTile t g).parts = s.parts := rfl
@[simp] theorem State.modTile_atps (s : State) (t : Nat) (g : Tile → Tile) : (s.modTile t g).atps = s.atps := rfl
@[simp] theorem State.modTile_signals (s : State) (t : Nat) (g : Tile → Tile) : (s.modTile t g).signals = s.signals := rfl
@[simp] theorem State.modTile_ctxs (s : State) (t : Nat) (g : Tile → Tile) : (s.modTile t g).ctxs = s.ctxs := rfl
@[simp] theorem State.modTile_copies (s : State) (t : Nat) (g : Tile → Tile) : (s.modTile t g).copies = s.copies := rfl
@[simp] theorem State.modTile_loose (s : State) (t : Nat) (g : Tile → Tile) : (s.modTile t g).loose = s.loose := rfl
@[simp] theorem State.modTile_hbm (s : State) (t : Nat) (g : Tile → Tile) : (s.modTile t g).hbm = s.hbm := rfl
@[simp] theorem State.modTile_mem (s : State) (t : Nat) (g : Tile → Tile) : (s.modTile t g).mem = s.mem := rfl
@[simp] theorem State.modTile_blocks (s : State) (t : Nat) (g : Tile → Tile) : (s.modTile t g).blocks = s.blocks := rfl
@[simp] theorem State.modTile_chisel (s : State) (t : Nat) (g : Tile → Tile) : (s.modTile t g).chisel = s.chisel := rfl
@[simp] theorem State.modTile_nextList (s : State) (t : Nat) (g : Tile → Tile) : (s.modTile t g).nextList = s.nextList := rfl
@[simp] theorem State.modTile_flash (s : State) (t : Nat) (g : Tile → Tile) : (s.modTile t g).flash = s.flash := rfl
@[simp] theorem State.modTile_tierReqs (s : State) (t : Nat) (g : Tile → Tile) : (s.modTile t g).tierReqs = s.tierReqs := rfl
@[simp] theorem State.modTile_nextReq (s : State) (t : Nat) (g : Tile → Tile) : (s.modTile t g).nextReq = s.nextReq := rfl
@[simp] theorem State.modTile_mgrQueue (s : State) (t : Nat) (g : Tile → Tile) : (s.modTile t g).mgrQueue = s.mgrQueue := rfl
@[simp] theorem State.modTile_grants (s : State) (t : Nat) (g : Tile → Tile) : (s.modTile t g).grants = s.grants := rfl
@[simp] theorem State.modTile_fabric (s : State) (t : Nat) (g : Tile → Tile) : (s.modTile t g).fabric = s.fabric := rfl
@[simp] theorem State.modTile_dies (s : State) (t : Nat) (g : Tile → Tile) : (s.modTile t g).dies = s.dies := rfl
@[simp] theorem State.modTile_secClear (s : State) (t : Nat) (g : Tile → Tile) : (s.modTile t g).secClear = s.secClear := rfl
@[simp] theorem State.modTile_secOut (s : State) (t : Nat) (g : Tile → Tile) : (s.modTile t g).secOut = s.secOut := rfl
@[simp] theorem State.modTile_drains (s : State) (t : Nat) (g : Tile → Tile) : (s.modTile t g).drains = s.drains := rfl
@[simp] theorem State.modTile_procs (s : State) (t : Nat) (g : Tile → Tile) : (s.modTile t g).procs = s.procs := rfl
@[simp] theorem State.modTile_fwSeqs (s : State) (t : Nat) (g : Tile → Tile) : (s.modTile t g).fwSeqs = s.fwSeqs := rfl
@[simp] theorem State.modTile_staging (s : State) (t : Nat) (g : Tile → Tile) : (s.modTile t g).staging = s.staging := rfl
@[simp] theorem State.modTile_power (s : State) (t : Nat) (g : Tile → Tile) : (s.modTile t g).power = s.power := rfl
@[simp] theorem State.modTile_sec (s : State) (t : Nat) (g : Tile → Tile) : (s.modTile t g).sec = s.sec := rfl
@[simp] theorem State.modTile_side (s : State) (t : Nat) (g : Tile → Tile) : (s.modTile t g).side = s.side := rfl

/-! ## Atp -/

@[simp] theorem State.setAtp_pending (s : State) (n : Nat) (x : Atp) : (s.setAtp n x).pending = s.pending := rfl
@[simp] theorem State.setAtp_free (s : State) (n : Nat) (x : Atp) : (s.setAtp n x).free = s.free := rfl
@[simp] theorem State.setAtp_time (s : State) (n : Nat) (x : Atp) : (s.setAtp n x).time = s.time := rfl
@[simp] theorem State.setAtp_log (s : State) (n : Nat) (x : Atp) : (s.setAtp n x).log = s.log := rfl
@[simp] theorem State.setAtp_link (s : State) (n : Nat) (x : Atp) : (s.setAtp n x).link = s.link := rfl
@[simp] theorem State.setAtp_fns (s : State) (n : Nat) (x : Atp) : (s.setAtp n x).fns = s.fns := rfl
@[simp] theorem State.setAtp_slots (s : State) (n : Nat) (x : Atp) : (s.setAtp n x).slots = s.slots := rfl
@[simp] theorem State.setAtp_parts (s : State) (n : Nat) (x : Atp) : (s.setAtp n x).parts = s.parts := rfl
@[simp] theorem State.setAtp_tiles (s : State) (n : Nat) (x : Atp) : (s.setAtp n x).tiles = s.tiles := rfl
@[simp] theorem State.setAtp_signals (s : State) (n : Nat) (x : Atp) : (s.setAtp n x).signals = s.signals := rfl
@[simp] theorem State.setAtp_ctxs (s : State) (n : Nat) (x : Atp) : (s.setAtp n x).ctxs = s.ctxs := rfl
@[simp] theorem State.setAtp_copies (s : State) (n : Nat) (x : Atp) : (s.setAtp n x).copies = s.copies := rfl
@[simp] theorem State.setAtp_loose (s : State) (n : Nat) (x : Atp) : (s.setAtp n x).loose = s.loose := rfl
@[simp] theorem State.setAtp_hbm (s : State) (n : Nat) (x : Atp) : (s.setAtp n x).hbm = s.hbm := rfl
@[simp] theorem State.setAtp_mem (s : State) (n : Nat) (x : Atp) : (s.setAtp n x).mem = s.mem := rfl
@[simp] theorem State.setAtp_blocks (s : State) (n : Nat) (x : Atp) : (s.setAtp n x).blocks = s.blocks := rfl
@[simp] theorem State.setAtp_chisel (s : State) (n : Nat) (x : Atp) : (s.setAtp n x).chisel = s.chisel := rfl
@[simp] theorem State.setAtp_nextList (s : State) (n : Nat) (x : Atp) : (s.setAtp n x).nextList = s.nextList := rfl
@[simp] theorem State.setAtp_flash (s : State) (n : Nat) (x : Atp) : (s.setAtp n x).flash = s.flash := rfl
@[simp] theorem State.setAtp_tierReqs (s : State) (n : Nat) (x : Atp) : (s.setAtp n x).tierReqs = s.tierReqs := rfl
@[simp] theorem State.setAtp_nextReq (s : State) (n : Nat) (x : Atp) : (s.setAtp n x).nextReq = s.nextReq := rfl
@[simp] theorem State.setAtp_mgrQueue (s : State) (n : Nat) (x : Atp) : (s.setAtp n x).mgrQueue = s.mgrQueue := rfl
@[simp] theorem State.setAtp_grants (s : State) (n : Nat) (x : Atp) : (s.setAtp n x).grants = s.grants := rfl
@[simp] theorem State.setAtp_fabric (s : State) (n : Nat) (x : Atp) : (s.setAtp n x).fabric = s.fabric := rfl
@[simp] theorem State.setAtp_dies (s : State) (n : Nat) (x : Atp) : (s.setAtp n x).dies = s.dies := rfl
@[simp] theorem State.setAtp_secClear (s : State) (n : Nat) (x : Atp) : (s.setAtp n x).secClear = s.secClear := rfl
@[simp] theorem State.setAtp_secOut (s : State) (n : Nat) (x : Atp) : (s.setAtp n x).secOut = s.secOut := rfl
@[simp] theorem State.setAtp_drains (s : State) (n : Nat) (x : Atp) : (s.setAtp n x).drains = s.drains := rfl
@[simp] theorem State.setAtp_procs (s : State) (n : Nat) (x : Atp) : (s.setAtp n x).procs = s.procs := rfl
@[simp] theorem State.setAtp_fwSeqs (s : State) (n : Nat) (x : Atp) : (s.setAtp n x).fwSeqs = s.fwSeqs := rfl
@[simp] theorem State.setAtp_staging (s : State) (n : Nat) (x : Atp) : (s.setAtp n x).staging = s.staging := rfl
@[simp] theorem State.setAtp_power (s : State) (n : Nat) (x : Atp) : (s.setAtp n x).power = s.power := rfl
@[simp] theorem State.setAtp_sec (s : State) (n : Nat) (x : Atp) : (s.setAtp n x).sec = s.sec := rfl
@[simp] theorem State.setAtp_side (s : State) (n : Nat) (x : Atp) : (s.setAtp n x).side = s.side := rfl
@[simp] theorem State.modAtp_pending (s : State) (n : Nat) (g : Atp → Atp) : (s.modAtp n g).pending = s.pending := rfl
@[simp] theorem State.modAtp_free (s : State) (n : Nat) (g : Atp → Atp) : (s.modAtp n g).free = s.free := rfl
@[simp] theorem State.modAtp_time (s : State) (n : Nat) (g : Atp → Atp) : (s.modAtp n g).time = s.time := rfl
@[simp] theorem State.modAtp_log (s : State) (n : Nat) (g : Atp → Atp) : (s.modAtp n g).log = s.log := rfl
@[simp] theorem State.modAtp_link (s : State) (n : Nat) (g : Atp → Atp) : (s.modAtp n g).link = s.link := rfl
@[simp] theorem State.modAtp_fns (s : State) (n : Nat) (g : Atp → Atp) : (s.modAtp n g).fns = s.fns := rfl
@[simp] theorem State.modAtp_slots (s : State) (n : Nat) (g : Atp → Atp) : (s.modAtp n g).slots = s.slots := rfl
@[simp] theorem State.modAtp_parts (s : State) (n : Nat) (g : Atp → Atp) : (s.modAtp n g).parts = s.parts := rfl
@[simp] theorem State.modAtp_tiles (s : State) (n : Nat) (g : Atp → Atp) : (s.modAtp n g).tiles = s.tiles := rfl
@[simp] theorem State.modAtp_signals (s : State) (n : Nat) (g : Atp → Atp) : (s.modAtp n g).signals = s.signals := rfl
@[simp] theorem State.modAtp_ctxs (s : State) (n : Nat) (g : Atp → Atp) : (s.modAtp n g).ctxs = s.ctxs := rfl
@[simp] theorem State.modAtp_copies (s : State) (n : Nat) (g : Atp → Atp) : (s.modAtp n g).copies = s.copies := rfl
@[simp] theorem State.modAtp_loose (s : State) (n : Nat) (g : Atp → Atp) : (s.modAtp n g).loose = s.loose := rfl
@[simp] theorem State.modAtp_hbm (s : State) (n : Nat) (g : Atp → Atp) : (s.modAtp n g).hbm = s.hbm := rfl
@[simp] theorem State.modAtp_mem (s : State) (n : Nat) (g : Atp → Atp) : (s.modAtp n g).mem = s.mem := rfl
@[simp] theorem State.modAtp_blocks (s : State) (n : Nat) (g : Atp → Atp) : (s.modAtp n g).blocks = s.blocks := rfl
@[simp] theorem State.modAtp_chisel (s : State) (n : Nat) (g : Atp → Atp) : (s.modAtp n g).chisel = s.chisel := rfl
@[simp] theorem State.modAtp_nextList (s : State) (n : Nat) (g : Atp → Atp) : (s.modAtp n g).nextList = s.nextList := rfl
@[simp] theorem State.modAtp_flash (s : State) (n : Nat) (g : Atp → Atp) : (s.modAtp n g).flash = s.flash := rfl
@[simp] theorem State.modAtp_tierReqs (s : State) (n : Nat) (g : Atp → Atp) : (s.modAtp n g).tierReqs = s.tierReqs := rfl
@[simp] theorem State.modAtp_nextReq (s : State) (n : Nat) (g : Atp → Atp) : (s.modAtp n g).nextReq = s.nextReq := rfl
@[simp] theorem State.modAtp_mgrQueue (s : State) (n : Nat) (g : Atp → Atp) : (s.modAtp n g).mgrQueue = s.mgrQueue := rfl
@[simp] theorem State.modAtp_grants (s : State) (n : Nat) (g : Atp → Atp) : (s.modAtp n g).grants = s.grants := rfl
@[simp] theorem State.modAtp_fabric (s : State) (n : Nat) (g : Atp → Atp) : (s.modAtp n g).fabric = s.fabric := rfl
@[simp] theorem State.modAtp_dies (s : State) (n : Nat) (g : Atp → Atp) : (s.modAtp n g).dies = s.dies := rfl
@[simp] theorem State.modAtp_secClear (s : State) (n : Nat) (g : Atp → Atp) : (s.modAtp n g).secClear = s.secClear := rfl
@[simp] theorem State.modAtp_secOut (s : State) (n : Nat) (g : Atp → Atp) : (s.modAtp n g).secOut = s.secOut := rfl
@[simp] theorem State.modAtp_drains (s : State) (n : Nat) (g : Atp → Atp) : (s.modAtp n g).drains = s.drains := rfl
@[simp] theorem State.modAtp_procs (s : State) (n : Nat) (g : Atp → Atp) : (s.modAtp n g).procs = s.procs := rfl
@[simp] theorem State.modAtp_fwSeqs (s : State) (n : Nat) (g : Atp → Atp) : (s.modAtp n g).fwSeqs = s.fwSeqs := rfl
@[simp] theorem State.modAtp_staging (s : State) (n : Nat) (g : Atp → Atp) : (s.modAtp n g).staging = s.staging := rfl
@[simp] theorem State.modAtp_power (s : State) (n : Nat) (g : Atp → Atp) : (s.modAtp n g).power = s.power := rfl
@[simp] theorem State.modAtp_sec (s : State) (n : Nat) (g : Atp → Atp) : (s.modAtp n g).sec = s.sec := rfl
@[simp] theorem State.modAtp_side (s : State) (n : Nat) (g : Atp → Atp) : (s.modAtp n g).side = s.side := rfl

/-! ## Ctx -/

@[simp] theorem State.setCtx_pending (s : State) (c : Nat) (x : Ctx) : (s.setCtx c x).pending = s.pending := rfl
@[simp] theorem State.setCtx_free (s : State) (c : Nat) (x : Ctx) : (s.setCtx c x).free = s.free := rfl
@[simp] theorem State.setCtx_time (s : State) (c : Nat) (x : Ctx) : (s.setCtx c x).time = s.time := rfl
@[simp] theorem State.setCtx_log (s : State) (c : Nat) (x : Ctx) : (s.setCtx c x).log = s.log := rfl
@[simp] theorem State.setCtx_link (s : State) (c : Nat) (x : Ctx) : (s.setCtx c x).link = s.link := rfl
@[simp] theorem State.setCtx_fns (s : State) (c : Nat) (x : Ctx) : (s.setCtx c x).fns = s.fns := rfl
@[simp] theorem State.setCtx_slots (s : State) (c : Nat) (x : Ctx) : (s.setCtx c x).slots = s.slots := rfl
@[simp] theorem State.setCtx_parts (s : State) (c : Nat) (x : Ctx) : (s.setCtx c x).parts = s.parts := rfl
@[simp] theorem State.setCtx_tiles (s : State) (c : Nat) (x : Ctx) : (s.setCtx c x).tiles = s.tiles := rfl
@[simp] theorem State.setCtx_atps (s : State) (c : Nat) (x : Ctx) : (s.setCtx c x).atps = s.atps := rfl
@[simp] theorem State.setCtx_signals (s : State) (c : Nat) (x : Ctx) : (s.setCtx c x).signals = s.signals := rfl
@[simp] theorem State.setCtx_copies (s : State) (c : Nat) (x : Ctx) : (s.setCtx c x).copies = s.copies := rfl
@[simp] theorem State.setCtx_loose (s : State) (c : Nat) (x : Ctx) : (s.setCtx c x).loose = s.loose := rfl
@[simp] theorem State.setCtx_hbm (s : State) (c : Nat) (x : Ctx) : (s.setCtx c x).hbm = s.hbm := rfl
@[simp] theorem State.setCtx_mem (s : State) (c : Nat) (x : Ctx) : (s.setCtx c x).mem = s.mem := rfl
@[simp] theorem State.setCtx_blocks (s : State) (c : Nat) (x : Ctx) : (s.setCtx c x).blocks = s.blocks := rfl
@[simp] theorem State.setCtx_chisel (s : State) (c : Nat) (x : Ctx) : (s.setCtx c x).chisel = s.chisel := rfl
@[simp] theorem State.setCtx_nextList (s : State) (c : Nat) (x : Ctx) : (s.setCtx c x).nextList = s.nextList := rfl
@[simp] theorem State.setCtx_flash (s : State) (c : Nat) (x : Ctx) : (s.setCtx c x).flash = s.flash := rfl
@[simp] theorem State.setCtx_tierReqs (s : State) (c : Nat) (x : Ctx) : (s.setCtx c x).tierReqs = s.tierReqs := rfl
@[simp] theorem State.setCtx_nextReq (s : State) (c : Nat) (x : Ctx) : (s.setCtx c x).nextReq = s.nextReq := rfl
@[simp] theorem State.setCtx_mgrQueue (s : State) (c : Nat) (x : Ctx) : (s.setCtx c x).mgrQueue = s.mgrQueue := rfl
@[simp] theorem State.setCtx_grants (s : State) (c : Nat) (x : Ctx) : (s.setCtx c x).grants = s.grants := rfl
@[simp] theorem State.setCtx_fabric (s : State) (c : Nat) (x : Ctx) : (s.setCtx c x).fabric = s.fabric := rfl
@[simp] theorem State.setCtx_dies (s : State) (c : Nat) (x : Ctx) : (s.setCtx c x).dies = s.dies := rfl
@[simp] theorem State.setCtx_secClear (s : State) (c : Nat) (x : Ctx) : (s.setCtx c x).secClear = s.secClear := rfl
@[simp] theorem State.setCtx_secOut (s : State) (c : Nat) (x : Ctx) : (s.setCtx c x).secOut = s.secOut := rfl
@[simp] theorem State.setCtx_drains (s : State) (c : Nat) (x : Ctx) : (s.setCtx c x).drains = s.drains := rfl
@[simp] theorem State.setCtx_procs (s : State) (c : Nat) (x : Ctx) : (s.setCtx c x).procs = s.procs := rfl
@[simp] theorem State.setCtx_fwSeqs (s : State) (c : Nat) (x : Ctx) : (s.setCtx c x).fwSeqs = s.fwSeqs := rfl
@[simp] theorem State.setCtx_staging (s : State) (c : Nat) (x : Ctx) : (s.setCtx c x).staging = s.staging := rfl
@[simp] theorem State.setCtx_power (s : State) (c : Nat) (x : Ctx) : (s.setCtx c x).power = s.power := rfl
@[simp] theorem State.setCtx_sec (s : State) (c : Nat) (x : Ctx) : (s.setCtx c x).sec = s.sec := rfl
@[simp] theorem State.setCtx_side (s : State) (c : Nat) (x : Ctx) : (s.setCtx c x).side = s.side := rfl

/-! ## Stack -/

@[simp] theorem State.setStack_pending (s : State) (k : Nat) (x : Stack) : (s.setStack k x).pending = s.pending := rfl
@[simp] theorem State.setStack_free (s : State) (k : Nat) (x : Stack) : (s.setStack k x).free = s.free := rfl
@[simp] theorem State.setStack_time (s : State) (k : Nat) (x : Stack) : (s.setStack k x).time = s.time := rfl
@[simp] theorem State.setStack_log (s : State) (k : Nat) (x : Stack) : (s.setStack k x).log = s.log := rfl
@[simp] theorem State.setStack_link (s : State) (k : Nat) (x : Stack) : (s.setStack k x).link = s.link := rfl
@[simp] theorem State.setStack_fns (s : State) (k : Nat) (x : Stack) : (s.setStack k x).fns = s.fns := rfl
@[simp] theorem State.setStack_slots (s : State) (k : Nat) (x : Stack) : (s.setStack k x).slots = s.slots := rfl
@[simp] theorem State.setStack_parts (s : State) (k : Nat) (x : Stack) : (s.setStack k x).parts = s.parts := rfl
@[simp] theorem State.setStack_tiles (s : State) (k : Nat) (x : Stack) : (s.setStack k x).tiles = s.tiles := rfl
@[simp] theorem State.setStack_atps (s : State) (k : Nat) (x : Stack) : (s.setStack k x).atps = s.atps := rfl
@[simp] theorem State.setStack_signals (s : State) (k : Nat) (x : Stack) : (s.setStack k x).signals = s.signals := rfl
@[simp] theorem State.setStack_ctxs (s : State) (k : Nat) (x : Stack) : (s.setStack k x).ctxs = s.ctxs := rfl
@[simp] theorem State.setStack_copies (s : State) (k : Nat) (x : Stack) : (s.setStack k x).copies = s.copies := rfl
@[simp] theorem State.setStack_loose (s : State) (k : Nat) (x : Stack) : (s.setStack k x).loose = s.loose := rfl
@[simp] theorem State.setStack_mem (s : State) (k : Nat) (x : Stack) : (s.setStack k x).mem = s.mem := rfl
@[simp] theorem State.setStack_blocks (s : State) (k : Nat) (x : Stack) : (s.setStack k x).blocks = s.blocks := rfl
@[simp] theorem State.setStack_chisel (s : State) (k : Nat) (x : Stack) : (s.setStack k x).chisel = s.chisel := rfl
@[simp] theorem State.setStack_nextList (s : State) (k : Nat) (x : Stack) : (s.setStack k x).nextList = s.nextList := rfl
@[simp] theorem State.setStack_flash (s : State) (k : Nat) (x : Stack) : (s.setStack k x).flash = s.flash := rfl
@[simp] theorem State.setStack_tierReqs (s : State) (k : Nat) (x : Stack) : (s.setStack k x).tierReqs = s.tierReqs := rfl
@[simp] theorem State.setStack_nextReq (s : State) (k : Nat) (x : Stack) : (s.setStack k x).nextReq = s.nextReq := rfl
@[simp] theorem State.setStack_mgrQueue (s : State) (k : Nat) (x : Stack) : (s.setStack k x).mgrQueue = s.mgrQueue := rfl
@[simp] theorem State.setStack_grants (s : State) (k : Nat) (x : Stack) : (s.setStack k x).grants = s.grants := rfl
@[simp] theorem State.setStack_fabric (s : State) (k : Nat) (x : Stack) : (s.setStack k x).fabric = s.fabric := rfl
@[simp] theorem State.setStack_dies (s : State) (k : Nat) (x : Stack) : (s.setStack k x).dies = s.dies := rfl
@[simp] theorem State.setStack_secClear (s : State) (k : Nat) (x : Stack) : (s.setStack k x).secClear = s.secClear := rfl
@[simp] theorem State.setStack_secOut (s : State) (k : Nat) (x : Stack) : (s.setStack k x).secOut = s.secOut := rfl
@[simp] theorem State.setStack_drains (s : State) (k : Nat) (x : Stack) : (s.setStack k x).drains = s.drains := rfl
@[simp] theorem State.setStack_procs (s : State) (k : Nat) (x : Stack) : (s.setStack k x).procs = s.procs := rfl
@[simp] theorem State.setStack_fwSeqs (s : State) (k : Nat) (x : Stack) : (s.setStack k x).fwSeqs = s.fwSeqs := rfl
@[simp] theorem State.setStack_staging (s : State) (k : Nat) (x : Stack) : (s.setStack k x).staging = s.staging := rfl
@[simp] theorem State.setStack_power (s : State) (k : Nat) (x : Stack) : (s.setStack k x).power = s.power := rfl
@[simp] theorem State.setStack_sec (s : State) (k : Nat) (x : Stack) : (s.setStack k x).sec = s.sec := rfl
@[simp] theorem State.setStack_side (s : State) (k : Nat) (x : Stack) : (s.setStack k x).side = s.side := rfl
@[simp] theorem State.modStack_pending (s : State) (k : Nat) (g : Stack → Stack) : (s.modStack k g).pending = s.pending := rfl
@[simp] theorem State.modStack_free (s : State) (k : Nat) (g : Stack → Stack) : (s.modStack k g).free = s.free := rfl
@[simp] theorem State.modStack_time (s : State) (k : Nat) (g : Stack → Stack) : (s.modStack k g).time = s.time := rfl
@[simp] theorem State.modStack_log (s : State) (k : Nat) (g : Stack → Stack) : (s.modStack k g).log = s.log := rfl
@[simp] theorem State.modStack_link (s : State) (k : Nat) (g : Stack → Stack) : (s.modStack k g).link = s.link := rfl
@[simp] theorem State.modStack_fns (s : State) (k : Nat) (g : Stack → Stack) : (s.modStack k g).fns = s.fns := rfl
@[simp] theorem State.modStack_slots (s : State) (k : Nat) (g : Stack → Stack) : (s.modStack k g).slots = s.slots := rfl
@[simp] theorem State.modStack_parts (s : State) (k : Nat) (g : Stack → Stack) : (s.modStack k g).parts = s.parts := rfl
@[simp] theorem State.modStack_tiles (s : State) (k : Nat) (g : Stack → Stack) : (s.modStack k g).tiles = s.tiles := rfl
@[simp] theorem State.modStack_atps (s : State) (k : Nat) (g : Stack → Stack) : (s.modStack k g).atps = s.atps := rfl
@[simp] theorem State.modStack_signals (s : State) (k : Nat) (g : Stack → Stack) : (s.modStack k g).signals = s.signals := rfl
@[simp] theorem State.modStack_ctxs (s : State) (k : Nat) (g : Stack → Stack) : (s.modStack k g).ctxs = s.ctxs := rfl
@[simp] theorem State.modStack_copies (s : State) (k : Nat) (g : Stack → Stack) : (s.modStack k g).copies = s.copies := rfl
@[simp] theorem State.modStack_loose (s : State) (k : Nat) (g : Stack → Stack) : (s.modStack k g).loose = s.loose := rfl
@[simp] theorem State.modStack_mem (s : State) (k : Nat) (g : Stack → Stack) : (s.modStack k g).mem = s.mem := rfl
@[simp] theorem State.modStack_blocks (s : State) (k : Nat) (g : Stack → Stack) : (s.modStack k g).blocks = s.blocks := rfl
@[simp] theorem State.modStack_chisel (s : State) (k : Nat) (g : Stack → Stack) : (s.modStack k g).chisel = s.chisel := rfl
@[simp] theorem State.modStack_nextList (s : State) (k : Nat) (g : Stack → Stack) : (s.modStack k g).nextList = s.nextList := rfl
@[simp] theorem State.modStack_flash (s : State) (k : Nat) (g : Stack → Stack) : (s.modStack k g).flash = s.flash := rfl
@[simp] theorem State.modStack_tierReqs (s : State) (k : Nat) (g : Stack → Stack) : (s.modStack k g).tierReqs = s.tierReqs := rfl
@[simp] theorem State.modStack_nextReq (s : State) (k : Nat) (g : Stack → Stack) : (s.modStack k g).nextReq = s.nextReq := rfl
@[simp] theorem State.modStack_mgrQueue (s : State) (k : Nat) (g : Stack → Stack) : (s.modStack k g).mgrQueue = s.mgrQueue := rfl
@[simp] theorem State.modStack_grants (s : State) (k : Nat) (g : Stack → Stack) : (s.modStack k g).grants = s.grants := rfl
@[simp] theorem State.modStack_fabric (s : State) (k : Nat) (g : Stack → Stack) : (s.modStack k g).fabric = s.fabric := rfl
@[simp] theorem State.modStack_dies (s : State) (k : Nat) (g : Stack → Stack) : (s.modStack k g).dies = s.dies := rfl
@[simp] theorem State.modStack_secClear (s : State) (k : Nat) (g : Stack → Stack) : (s.modStack k g).secClear = s.secClear := rfl
@[simp] theorem State.modStack_secOut (s : State) (k : Nat) (g : Stack → Stack) : (s.modStack k g).secOut = s.secOut := rfl
@[simp] theorem State.modStack_drains (s : State) (k : Nat) (g : Stack → Stack) : (s.modStack k g).drains = s.drains := rfl
@[simp] theorem State.modStack_procs (s : State) (k : Nat) (g : Stack → Stack) : (s.modStack k g).procs = s.procs := rfl
@[simp] theorem State.modStack_fwSeqs (s : State) (k : Nat) (g : Stack → Stack) : (s.modStack k g).fwSeqs = s.fwSeqs := rfl
@[simp] theorem State.modStack_staging (s : State) (k : Nat) (g : Stack → Stack) : (s.modStack k g).staging = s.staging := rfl
@[simp] theorem State.modStack_power (s : State) (k : Nat) (g : Stack → Stack) : (s.modStack k g).power = s.power := rfl
@[simp] theorem State.modStack_sec (s : State) (k : Nat) (g : Stack → Stack) : (s.modStack k g).sec = s.sec := rfl
@[simp] theorem State.modStack_side (s : State) (k : Nat) (g : Stack → Stack) : (s.modStack k g).side = s.side := rfl

/-! ## Block -/

@[simp] theorem State.setBlock_pending (s : State) (a : Nat) (x : Block) : (s.setBlock a x).pending = s.pending := rfl
@[simp] theorem State.setBlock_free (s : State) (a : Nat) (x : Block) : (s.setBlock a x).free = s.free := rfl
@[simp] theorem State.setBlock_time (s : State) (a : Nat) (x : Block) : (s.setBlock a x).time = s.time := rfl
@[simp] theorem State.setBlock_log (s : State) (a : Nat) (x : Block) : (s.setBlock a x).log = s.log := rfl
@[simp] theorem State.setBlock_link (s : State) (a : Nat) (x : Block) : (s.setBlock a x).link = s.link := rfl
@[simp] theorem State.setBlock_fns (s : State) (a : Nat) (x : Block) : (s.setBlock a x).fns = s.fns := rfl
@[simp] theorem State.setBlock_slots (s : State) (a : Nat) (x : Block) : (s.setBlock a x).slots = s.slots := rfl
@[simp] theorem State.setBlock_parts (s : State) (a : Nat) (x : Block) : (s.setBlock a x).parts = s.parts := rfl
@[simp] theorem State.setBlock_tiles (s : State) (a : Nat) (x : Block) : (s.setBlock a x).tiles = s.tiles := rfl
@[simp] theorem State.setBlock_atps (s : State) (a : Nat) (x : Block) : (s.setBlock a x).atps = s.atps := rfl
@[simp] theorem State.setBlock_signals (s : State) (a : Nat) (x : Block) : (s.setBlock a x).signals = s.signals := rfl
@[simp] theorem State.setBlock_ctxs (s : State) (a : Nat) (x : Block) : (s.setBlock a x).ctxs = s.ctxs := rfl
@[simp] theorem State.setBlock_copies (s : State) (a : Nat) (x : Block) : (s.setBlock a x).copies = s.copies := rfl
@[simp] theorem State.setBlock_loose (s : State) (a : Nat) (x : Block) : (s.setBlock a x).loose = s.loose := rfl
@[simp] theorem State.setBlock_hbm (s : State) (a : Nat) (x : Block) : (s.setBlock a x).hbm = s.hbm := rfl
@[simp] theorem State.setBlock_mem (s : State) (a : Nat) (x : Block) : (s.setBlock a x).mem = s.mem := rfl
@[simp] theorem State.setBlock_chisel (s : State) (a : Nat) (x : Block) : (s.setBlock a x).chisel = s.chisel := rfl
@[simp] theorem State.setBlock_nextList (s : State) (a : Nat) (x : Block) : (s.setBlock a x).nextList = s.nextList := rfl
@[simp] theorem State.setBlock_flash (s : State) (a : Nat) (x : Block) : (s.setBlock a x).flash = s.flash := rfl
@[simp] theorem State.setBlock_tierReqs (s : State) (a : Nat) (x : Block) : (s.setBlock a x).tierReqs = s.tierReqs := rfl
@[simp] theorem State.setBlock_nextReq (s : State) (a : Nat) (x : Block) : (s.setBlock a x).nextReq = s.nextReq := rfl
@[simp] theorem State.setBlock_mgrQueue (s : State) (a : Nat) (x : Block) : (s.setBlock a x).mgrQueue = s.mgrQueue := rfl
@[simp] theorem State.setBlock_grants (s : State) (a : Nat) (x : Block) : (s.setBlock a x).grants = s.grants := rfl
@[simp] theorem State.setBlock_fabric (s : State) (a : Nat) (x : Block) : (s.setBlock a x).fabric = s.fabric := rfl
@[simp] theorem State.setBlock_dies (s : State) (a : Nat) (x : Block) : (s.setBlock a x).dies = s.dies := rfl
@[simp] theorem State.setBlock_secClear (s : State) (a : Nat) (x : Block) : (s.setBlock a x).secClear = s.secClear := rfl
@[simp] theorem State.setBlock_secOut (s : State) (a : Nat) (x : Block) : (s.setBlock a x).secOut = s.secOut := rfl
@[simp] theorem State.setBlock_drains (s : State) (a : Nat) (x : Block) : (s.setBlock a x).drains = s.drains := rfl
@[simp] theorem State.setBlock_procs (s : State) (a : Nat) (x : Block) : (s.setBlock a x).procs = s.procs := rfl
@[simp] theorem State.setBlock_fwSeqs (s : State) (a : Nat) (x : Block) : (s.setBlock a x).fwSeqs = s.fwSeqs := rfl
@[simp] theorem State.setBlock_staging (s : State) (a : Nat) (x : Block) : (s.setBlock a x).staging = s.staging := rfl
@[simp] theorem State.setBlock_power (s : State) (a : Nat) (x : Block) : (s.setBlock a x).power = s.power := rfl
@[simp] theorem State.setBlock_sec (s : State) (a : Nat) (x : Block) : (s.setBlock a x).sec = s.sec := rfl
@[simp] theorem State.setBlock_side (s : State) (a : Nat) (x : Block) : (s.setBlock a x).side = s.side := rfl

/-! ## Die -/

@[simp] theorem State.setDie_pending (s : State) (d : Nat) (x : Die) : (s.setDie d x).pending = s.pending := rfl
@[simp] theorem State.setDie_free (s : State) (d : Nat) (x : Die) : (s.setDie d x).free = s.free := rfl
@[simp] theorem State.setDie_time (s : State) (d : Nat) (x : Die) : (s.setDie d x).time = s.time := rfl
@[simp] theorem State.setDie_log (s : State) (d : Nat) (x : Die) : (s.setDie d x).log = s.log := rfl
@[simp] theorem State.setDie_link (s : State) (d : Nat) (x : Die) : (s.setDie d x).link = s.link := rfl
@[simp] theorem State.setDie_fns (s : State) (d : Nat) (x : Die) : (s.setDie d x).fns = s.fns := rfl
@[simp] theorem State.setDie_slots (s : State) (d : Nat) (x : Die) : (s.setDie d x).slots = s.slots := rfl
@[simp] theorem State.setDie_parts (s : State) (d : Nat) (x : Die) : (s.setDie d x).parts = s.parts := rfl
@[simp] theorem State.setDie_tiles (s : State) (d : Nat) (x : Die) : (s.setDie d x).tiles = s.tiles := rfl
@[simp] theorem State.setDie_atps (s : State) (d : Nat) (x : Die) : (s.setDie d x).atps = s.atps := rfl
@[simp] theorem State.setDie_signals (s : State) (d : Nat) (x : Die) : (s.setDie d x).signals = s.signals := rfl
@[simp] theorem State.setDie_ctxs (s : State) (d : Nat) (x : Die) : (s.setDie d x).ctxs = s.ctxs := rfl
@[simp] theorem State.setDie_copies (s : State) (d : Nat) (x : Die) : (s.setDie d x).copies = s.copies := rfl
@[simp] theorem State.setDie_loose (s : State) (d : Nat) (x : Die) : (s.setDie d x).loose = s.loose := rfl
@[simp] theorem State.setDie_hbm (s : State) (d : Nat) (x : Die) : (s.setDie d x).hbm = s.hbm := rfl
@[simp] theorem State.setDie_mem (s : State) (d : Nat) (x : Die) : (s.setDie d x).mem = s.mem := rfl
@[simp] theorem State.setDie_blocks (s : State) (d : Nat) (x : Die) : (s.setDie d x).blocks = s.blocks := rfl
@[simp] theorem State.setDie_chisel (s : State) (d : Nat) (x : Die) : (s.setDie d x).chisel = s.chisel := rfl
@[simp] theorem State.setDie_nextList (s : State) (d : Nat) (x : Die) : (s.setDie d x).nextList = s.nextList := rfl
@[simp] theorem State.setDie_flash (s : State) (d : Nat) (x : Die) : (s.setDie d x).flash = s.flash := rfl
@[simp] theorem State.setDie_tierReqs (s : State) (d : Nat) (x : Die) : (s.setDie d x).tierReqs = s.tierReqs := rfl
@[simp] theorem State.setDie_nextReq (s : State) (d : Nat) (x : Die) : (s.setDie d x).nextReq = s.nextReq := rfl
@[simp] theorem State.setDie_mgrQueue (s : State) (d : Nat) (x : Die) : (s.setDie d x).mgrQueue = s.mgrQueue := rfl
@[simp] theorem State.setDie_grants (s : State) (d : Nat) (x : Die) : (s.setDie d x).grants = s.grants := rfl
@[simp] theorem State.setDie_fabric (s : State) (d : Nat) (x : Die) : (s.setDie d x).fabric = s.fabric := rfl
@[simp] theorem State.setDie_secClear (s : State) (d : Nat) (x : Die) : (s.setDie d x).secClear = s.secClear := rfl
@[simp] theorem State.setDie_secOut (s : State) (d : Nat) (x : Die) : (s.setDie d x).secOut = s.secOut := rfl
@[simp] theorem State.setDie_drains (s : State) (d : Nat) (x : Die) : (s.setDie d x).drains = s.drains := rfl
@[simp] theorem State.setDie_procs (s : State) (d : Nat) (x : Die) : (s.setDie d x).procs = s.procs := rfl
@[simp] theorem State.setDie_fwSeqs (s : State) (d : Nat) (x : Die) : (s.setDie d x).fwSeqs = s.fwSeqs := rfl
@[simp] theorem State.setDie_staging (s : State) (d : Nat) (x : Die) : (s.setDie d x).staging = s.staging := rfl
@[simp] theorem State.setDie_power (s : State) (d : Nat) (x : Die) : (s.setDie d x).power = s.power := rfl
@[simp] theorem State.setDie_sec (s : State) (d : Nat) (x : Die) : (s.setDie d x).sec = s.sec := rfl
@[simp] theorem State.setDie_side (s : State) (d : Nat) (x : Die) : (s.setDie d x).side = s.side := rfl
@[simp] theorem State.modDie_pending (s : State) (d : Nat) (g : Die → Die) : (s.modDie d g).pending = s.pending := rfl
@[simp] theorem State.modDie_free (s : State) (d : Nat) (g : Die → Die) : (s.modDie d g).free = s.free := rfl
@[simp] theorem State.modDie_time (s : State) (d : Nat) (g : Die → Die) : (s.modDie d g).time = s.time := rfl
@[simp] theorem State.modDie_log (s : State) (d : Nat) (g : Die → Die) : (s.modDie d g).log = s.log := rfl
@[simp] theorem State.modDie_link (s : State) (d : Nat) (g : Die → Die) : (s.modDie d g).link = s.link := rfl
@[simp] theorem State.modDie_fns (s : State) (d : Nat) (g : Die → Die) : (s.modDie d g).fns = s.fns := rfl
@[simp] theorem State.modDie_slots (s : State) (d : Nat) (g : Die → Die) : (s.modDie d g).slots = s.slots := rfl
@[simp] theorem State.modDie_parts (s : State) (d : Nat) (g : Die → Die) : (s.modDie d g).parts = s.parts := rfl
@[simp] theorem State.modDie_tiles (s : State) (d : Nat) (g : Die → Die) : (s.modDie d g).tiles = s.tiles := rfl
@[simp] theorem State.modDie_atps (s : State) (d : Nat) (g : Die → Die) : (s.modDie d g).atps = s.atps := rfl
@[simp] theorem State.modDie_signals (s : State) (d : Nat) (g : Die → Die) : (s.modDie d g).signals = s.signals := rfl
@[simp] theorem State.modDie_ctxs (s : State) (d : Nat) (g : Die → Die) : (s.modDie d g).ctxs = s.ctxs := rfl
@[simp] theorem State.modDie_copies (s : State) (d : Nat) (g : Die → Die) : (s.modDie d g).copies = s.copies := rfl
@[simp] theorem State.modDie_loose (s : State) (d : Nat) (g : Die → Die) : (s.modDie d g).loose = s.loose := rfl
@[simp] theorem State.modDie_hbm (s : State) (d : Nat) (g : Die → Die) : (s.modDie d g).hbm = s.hbm := rfl
@[simp] theorem State.modDie_mem (s : State) (d : Nat) (g : Die → Die) : (s.modDie d g).mem = s.mem := rfl
@[simp] theorem State.modDie_blocks (s : State) (d : Nat) (g : Die → Die) : (s.modDie d g).blocks = s.blocks := rfl
@[simp] theorem State.modDie_chisel (s : State) (d : Nat) (g : Die → Die) : (s.modDie d g).chisel = s.chisel := rfl
@[simp] theorem State.modDie_nextList (s : State) (d : Nat) (g : Die → Die) : (s.modDie d g).nextList = s.nextList := rfl
@[simp] theorem State.modDie_flash (s : State) (d : Nat) (g : Die → Die) : (s.modDie d g).flash = s.flash := rfl
@[simp] theorem State.modDie_tierReqs (s : State) (d : Nat) (g : Die → Die) : (s.modDie d g).tierReqs = s.tierReqs := rfl
@[simp] theorem State.modDie_nextReq (s : State) (d : Nat) (g : Die → Die) : (s.modDie d g).nextReq = s.nextReq := rfl
@[simp] theorem State.modDie_mgrQueue (s : State) (d : Nat) (g : Die → Die) : (s.modDie d g).mgrQueue = s.mgrQueue := rfl
@[simp] theorem State.modDie_grants (s : State) (d : Nat) (g : Die → Die) : (s.modDie d g).grants = s.grants := rfl
@[simp] theorem State.modDie_fabric (s : State) (d : Nat) (g : Die → Die) : (s.modDie d g).fabric = s.fabric := rfl
@[simp] theorem State.modDie_secClear (s : State) (d : Nat) (g : Die → Die) : (s.modDie d g).secClear = s.secClear := rfl
@[simp] theorem State.modDie_secOut (s : State) (d : Nat) (g : Die → Die) : (s.modDie d g).secOut = s.secOut := rfl
@[simp] theorem State.modDie_drains (s : State) (d : Nat) (g : Die → Die) : (s.modDie d g).drains = s.drains := rfl
@[simp] theorem State.modDie_procs (s : State) (d : Nat) (g : Die → Die) : (s.modDie d g).procs = s.procs := rfl
@[simp] theorem State.modDie_fwSeqs (s : State) (d : Nat) (g : Die → Die) : (s.modDie d g).fwSeqs = s.fwSeqs := rfl
@[simp] theorem State.modDie_staging (s : State) (d : Nat) (g : Die → Die) : (s.modDie d g).staging = s.staging := rfl
@[simp] theorem State.modDie_power (s : State) (d : Nat) (g : Die → Die) : (s.modDie d g).power = s.power := rfl
@[simp] theorem State.modDie_sec (s : State) (d : Nat) (g : Die → Die) : (s.modDie d g).sec = s.sec := rfl
@[simp] theorem State.modDie_side (s : State) (d : Nat) (g : Die → Die) : (s.modDie d g).side = s.side := rfl

/-! ## Proc -/

@[simp] theorem State.setProc_pending (s : State) (c : Nat) (x : Proc) : (s.setProc c x).pending = s.pending := rfl
@[simp] theorem State.setProc_free (s : State) (c : Nat) (x : Proc) : (s.setProc c x).free = s.free := rfl
@[simp] theorem State.setProc_time (s : State) (c : Nat) (x : Proc) : (s.setProc c x).time = s.time := rfl
@[simp] theorem State.setProc_log (s : State) (c : Nat) (x : Proc) : (s.setProc c x).log = s.log := rfl
@[simp] theorem State.setProc_link (s : State) (c : Nat) (x : Proc) : (s.setProc c x).link = s.link := rfl
@[simp] theorem State.setProc_fns (s : State) (c : Nat) (x : Proc) : (s.setProc c x).fns = s.fns := rfl
@[simp] theorem State.setProc_slots (s : State) (c : Nat) (x : Proc) : (s.setProc c x).slots = s.slots := rfl
@[simp] theorem State.setProc_parts (s : State) (c : Nat) (x : Proc) : (s.setProc c x).parts = s.parts := rfl
@[simp] theorem State.setProc_tiles (s : State) (c : Nat) (x : Proc) : (s.setProc c x).tiles = s.tiles := rfl
@[simp] theorem State.setProc_atps (s : State) (c : Nat) (x : Proc) : (s.setProc c x).atps = s.atps := rfl
@[simp] theorem State.setProc_signals (s : State) (c : Nat) (x : Proc) : (s.setProc c x).signals = s.signals := rfl
@[simp] theorem State.setProc_ctxs (s : State) (c : Nat) (x : Proc) : (s.setProc c x).ctxs = s.ctxs := rfl
@[simp] theorem State.setProc_copies (s : State) (c : Nat) (x : Proc) : (s.setProc c x).copies = s.copies := rfl
@[simp] theorem State.setProc_loose (s : State) (c : Nat) (x : Proc) : (s.setProc c x).loose = s.loose := rfl
@[simp] theorem State.setProc_hbm (s : State) (c : Nat) (x : Proc) : (s.setProc c x).hbm = s.hbm := rfl
@[simp] theorem State.setProc_mem (s : State) (c : Nat) (x : Proc) : (s.setProc c x).mem = s.mem := rfl
@[simp] theorem State.setProc_blocks (s : State) (c : Nat) (x : Proc) : (s.setProc c x).blocks = s.blocks := rfl
@[simp] theorem State.setProc_chisel (s : State) (c : Nat) (x : Proc) : (s.setProc c x).chisel = s.chisel := rfl
@[simp] theorem State.setProc_nextList (s : State) (c : Nat) (x : Proc) : (s.setProc c x).nextList = s.nextList := rfl
@[simp] theorem State.setProc_flash (s : State) (c : Nat) (x : Proc) : (s.setProc c x).flash = s.flash := rfl
@[simp] theorem State.setProc_tierReqs (s : State) (c : Nat) (x : Proc) : (s.setProc c x).tierReqs = s.tierReqs := rfl
@[simp] theorem State.setProc_nextReq (s : State) (c : Nat) (x : Proc) : (s.setProc c x).nextReq = s.nextReq := rfl
@[simp] theorem State.setProc_mgrQueue (s : State) (c : Nat) (x : Proc) : (s.setProc c x).mgrQueue = s.mgrQueue := rfl
@[simp] theorem State.setProc_grants (s : State) (c : Nat) (x : Proc) : (s.setProc c x).grants = s.grants := rfl
@[simp] theorem State.setProc_fabric (s : State) (c : Nat) (x : Proc) : (s.setProc c x).fabric = s.fabric := rfl
@[simp] theorem State.setProc_dies (s : State) (c : Nat) (x : Proc) : (s.setProc c x).dies = s.dies := rfl
@[simp] theorem State.setProc_secClear (s : State) (c : Nat) (x : Proc) : (s.setProc c x).secClear = s.secClear := rfl
@[simp] theorem State.setProc_secOut (s : State) (c : Nat) (x : Proc) : (s.setProc c x).secOut = s.secOut := rfl
@[simp] theorem State.setProc_drains (s : State) (c : Nat) (x : Proc) : (s.setProc c x).drains = s.drains := rfl
@[simp] theorem State.setProc_fwSeqs (s : State) (c : Nat) (x : Proc) : (s.setProc c x).fwSeqs = s.fwSeqs := rfl
@[simp] theorem State.setProc_staging (s : State) (c : Nat) (x : Proc) : (s.setProc c x).staging = s.staging := rfl
@[simp] theorem State.setProc_power (s : State) (c : Nat) (x : Proc) : (s.setProc c x).power = s.power := rfl
@[simp] theorem State.setProc_sec (s : State) (c : Nat) (x : Proc) : (s.setProc c x).sec = s.sec := rfl
@[simp] theorem State.setProc_side (s : State) (c : Nat) (x : Proc) : (s.setProc c x).side = s.side := rfl
@[simp] theorem State.modProc_pending (s : State) (c : Nat) (g : Proc → Proc) : (s.modProc c g).pending = s.pending := rfl
@[simp] theorem State.modProc_free (s : State) (c : Nat) (g : Proc → Proc) : (s.modProc c g).free = s.free := rfl
@[simp] theorem State.modProc_time (s : State) (c : Nat) (g : Proc → Proc) : (s.modProc c g).time = s.time := rfl
@[simp] theorem State.modProc_log (s : State) (c : Nat) (g : Proc → Proc) : (s.modProc c g).log = s.log := rfl
@[simp] theorem State.modProc_link (s : State) (c : Nat) (g : Proc → Proc) : (s.modProc c g).link = s.link := rfl
@[simp] theorem State.modProc_fns (s : State) (c : Nat) (g : Proc → Proc) : (s.modProc c g).fns = s.fns := rfl
@[simp] theorem State.modProc_slots (s : State) (c : Nat) (g : Proc → Proc) : (s.modProc c g).slots = s.slots := rfl
@[simp] theorem State.modProc_parts (s : State) (c : Nat) (g : Proc → Proc) : (s.modProc c g).parts = s.parts := rfl
@[simp] theorem State.modProc_tiles (s : State) (c : Nat) (g : Proc → Proc) : (s.modProc c g).tiles = s.tiles := rfl
@[simp] theorem State.modProc_atps (s : State) (c : Nat) (g : Proc → Proc) : (s.modProc c g).atps = s.atps := rfl
@[simp] theorem State.modProc_signals (s : State) (c : Nat) (g : Proc → Proc) : (s.modProc c g).signals = s.signals := rfl
@[simp] theorem State.modProc_ctxs (s : State) (c : Nat) (g : Proc → Proc) : (s.modProc c g).ctxs = s.ctxs := rfl
@[simp] theorem State.modProc_copies (s : State) (c : Nat) (g : Proc → Proc) : (s.modProc c g).copies = s.copies := rfl
@[simp] theorem State.modProc_loose (s : State) (c : Nat) (g : Proc → Proc) : (s.modProc c g).loose = s.loose := rfl
@[simp] theorem State.modProc_hbm (s : State) (c : Nat) (g : Proc → Proc) : (s.modProc c g).hbm = s.hbm := rfl
@[simp] theorem State.modProc_mem (s : State) (c : Nat) (g : Proc → Proc) : (s.modProc c g).mem = s.mem := rfl
@[simp] theorem State.modProc_blocks (s : State) (c : Nat) (g : Proc → Proc) : (s.modProc c g).blocks = s.blocks := rfl
@[simp] theorem State.modProc_chisel (s : State) (c : Nat) (g : Proc → Proc) : (s.modProc c g).chisel = s.chisel := rfl
@[simp] theorem State.modProc_nextList (s : State) (c : Nat) (g : Proc → Proc) : (s.modProc c g).nextList = s.nextList := rfl
@[simp] theorem State.modProc_flash (s : State) (c : Nat) (g : Proc → Proc) : (s.modProc c g).flash = s.flash := rfl
@[simp] theorem State.modProc_tierReqs (s : State) (c : Nat) (g : Proc → Proc) : (s.modProc c g).tierReqs = s.tierReqs := rfl
@[simp] theorem State.modProc_nextReq (s : State) (c : Nat) (g : Proc → Proc) : (s.modProc c g).nextReq = s.nextReq := rfl
@[simp] theorem State.modProc_mgrQueue (s : State) (c : Nat) (g : Proc → Proc) : (s.modProc c g).mgrQueue = s.mgrQueue := rfl
@[simp] theorem State.modProc_grants (s : State) (c : Nat) (g : Proc → Proc) : (s.modProc c g).grants = s.grants := rfl
@[simp] theorem State.modProc_fabric (s : State) (c : Nat) (g : Proc → Proc) : (s.modProc c g).fabric = s.fabric := rfl
@[simp] theorem State.modProc_dies (s : State) (c : Nat) (g : Proc → Proc) : (s.modProc c g).dies = s.dies := rfl
@[simp] theorem State.modProc_secClear (s : State) (c : Nat) (g : Proc → Proc) : (s.modProc c g).secClear = s.secClear := rfl
@[simp] theorem State.modProc_secOut (s : State) (c : Nat) (g : Proc → Proc) : (s.modProc c g).secOut = s.secOut := rfl
@[simp] theorem State.modProc_drains (s : State) (c : Nat) (g : Proc → Proc) : (s.modProc c g).drains = s.drains := rfl
@[simp] theorem State.modProc_fwSeqs (s : State) (c : Nat) (g : Proc → Proc) : (s.modProc c g).fwSeqs = s.fwSeqs := rfl
@[simp] theorem State.modProc_staging (s : State) (c : Nat) (g : Proc → Proc) : (s.modProc c g).staging = s.staging := rfl
@[simp] theorem State.modProc_power (s : State) (c : Nat) (g : Proc → Proc) : (s.modProc c g).power = s.power := rfl
@[simp] theorem State.modProc_sec (s : State) (c : Nat) (g : Proc → Proc) : (s.modProc c g).sec = s.sec := rfl
@[simp] theorem State.modProc_side (s : State) (c : Nat) (g : Proc → Proc) : (s.modProc c g).side = s.side := rfl

/-! ## Port -/

@[simp] theorem State.setPort_pending (s : State) (q : Nat) (x : Port) : (s.setPort q x).pending = s.pending := rfl
@[simp] theorem State.setPort_free (s : State) (q : Nat) (x : Port) : (s.setPort q x).free = s.free := rfl
@[simp] theorem State.setPort_time (s : State) (q : Nat) (x : Port) : (s.setPort q x).time = s.time := rfl
@[simp] theorem State.setPort_log (s : State) (q : Nat) (x : Port) : (s.setPort q x).log = s.log := rfl
@[simp] theorem State.setPort_link (s : State) (q : Nat) (x : Port) : (s.setPort q x).link = s.link := rfl
@[simp] theorem State.setPort_fns (s : State) (q : Nat) (x : Port) : (s.setPort q x).fns = s.fns := rfl
@[simp] theorem State.setPort_slots (s : State) (q : Nat) (x : Port) : (s.setPort q x).slots = s.slots := rfl
@[simp] theorem State.setPort_parts (s : State) (q : Nat) (x : Port) : (s.setPort q x).parts = s.parts := rfl
@[simp] theorem State.setPort_tiles (s : State) (q : Nat) (x : Port) : (s.setPort q x).tiles = s.tiles := rfl
@[simp] theorem State.setPort_atps (s : State) (q : Nat) (x : Port) : (s.setPort q x).atps = s.atps := rfl
@[simp] theorem State.setPort_signals (s : State) (q : Nat) (x : Port) : (s.setPort q x).signals = s.signals := rfl
@[simp] theorem State.setPort_ctxs (s : State) (q : Nat) (x : Port) : (s.setPort q x).ctxs = s.ctxs := rfl
@[simp] theorem State.setPort_copies (s : State) (q : Nat) (x : Port) : (s.setPort q x).copies = s.copies := rfl
@[simp] theorem State.setPort_loose (s : State) (q : Nat) (x : Port) : (s.setPort q x).loose = s.loose := rfl
@[simp] theorem State.setPort_hbm (s : State) (q : Nat) (x : Port) : (s.setPort q x).hbm = s.hbm := rfl
@[simp] theorem State.setPort_mem (s : State) (q : Nat) (x : Port) : (s.setPort q x).mem = s.mem := rfl
@[simp] theorem State.setPort_blocks (s : State) (q : Nat) (x : Port) : (s.setPort q x).blocks = s.blocks := rfl
@[simp] theorem State.setPort_chisel (s : State) (q : Nat) (x : Port) : (s.setPort q x).chisel = s.chisel := rfl
@[simp] theorem State.setPort_nextList (s : State) (q : Nat) (x : Port) : (s.setPort q x).nextList = s.nextList := rfl
@[simp] theorem State.setPort_flash (s : State) (q : Nat) (x : Port) : (s.setPort q x).flash = s.flash := rfl
@[simp] theorem State.setPort_tierReqs (s : State) (q : Nat) (x : Port) : (s.setPort q x).tierReqs = s.tierReqs := rfl
@[simp] theorem State.setPort_nextReq (s : State) (q : Nat) (x : Port) : (s.setPort q x).nextReq = s.nextReq := rfl
@[simp] theorem State.setPort_mgrQueue (s : State) (q : Nat) (x : Port) : (s.setPort q x).mgrQueue = s.mgrQueue := rfl
@[simp] theorem State.setPort_grants (s : State) (q : Nat) (x : Port) : (s.setPort q x).grants = s.grants := rfl
@[simp] theorem State.setPort_dies (s : State) (q : Nat) (x : Port) : (s.setPort q x).dies = s.dies := rfl
@[simp] theorem State.setPort_secClear (s : State) (q : Nat) (x : Port) : (s.setPort q x).secClear = s.secClear := rfl
@[simp] theorem State.setPort_secOut (s : State) (q : Nat) (x : Port) : (s.setPort q x).secOut = s.secOut := rfl
@[simp] theorem State.setPort_drains (s : State) (q : Nat) (x : Port) : (s.setPort q x).drains = s.drains := rfl
@[simp] theorem State.setPort_procs (s : State) (q : Nat) (x : Port) : (s.setPort q x).procs = s.procs := rfl
@[simp] theorem State.setPort_fwSeqs (s : State) (q : Nat) (x : Port) : (s.setPort q x).fwSeqs = s.fwSeqs := rfl
@[simp] theorem State.setPort_staging (s : State) (q : Nat) (x : Port) : (s.setPort q x).staging = s.staging := rfl
@[simp] theorem State.setPort_power (s : State) (q : Nat) (x : Port) : (s.setPort q x).power = s.power := rfl
@[simp] theorem State.setPort_sec (s : State) (q : Nat) (x : Port) : (s.setPort q x).sec = s.sec := rfl
@[simp] theorem State.setPort_side (s : State) (q : Nat) (x : Port) : (s.setPort q x).side = s.side := rfl
@[simp] theorem State.modPort_pending (s : State) (q : Nat) (g : Port → Port) : (s.modPort q g).pending = s.pending := rfl
@[simp] theorem State.modPort_free (s : State) (q : Nat) (g : Port → Port) : (s.modPort q g).free = s.free := rfl
@[simp] theorem State.modPort_time (s : State) (q : Nat) (g : Port → Port) : (s.modPort q g).time = s.time := rfl
@[simp] theorem State.modPort_log (s : State) (q : Nat) (g : Port → Port) : (s.modPort q g).log = s.log := rfl
@[simp] theorem State.modPort_link (s : State) (q : Nat) (g : Port → Port) : (s.modPort q g).link = s.link := rfl
@[simp] theorem State.modPort_fns (s : State) (q : Nat) (g : Port → Port) : (s.modPort q g).fns = s.fns := rfl
@[simp] theorem State.modPort_slots (s : State) (q : Nat) (g : Port → Port) : (s.modPort q g).slots = s.slots := rfl
@[simp] theorem State.modPort_parts (s : State) (q : Nat) (g : Port → Port) : (s.modPort q g).parts = s.parts := rfl
@[simp] theorem State.modPort_tiles (s : State) (q : Nat) (g : Port → Port) : (s.modPort q g).tiles = s.tiles := rfl
@[simp] theorem State.modPort_atps (s : State) (q : Nat) (g : Port → Port) : (s.modPort q g).atps = s.atps := rfl
@[simp] theorem State.modPort_signals (s : State) (q : Nat) (g : Port → Port) : (s.modPort q g).signals = s.signals := rfl
@[simp] theorem State.modPort_ctxs (s : State) (q : Nat) (g : Port → Port) : (s.modPort q g).ctxs = s.ctxs := rfl
@[simp] theorem State.modPort_copies (s : State) (q : Nat) (g : Port → Port) : (s.modPort q g).copies = s.copies := rfl
@[simp] theorem State.modPort_loose (s : State) (q : Nat) (g : Port → Port) : (s.modPort q g).loose = s.loose := rfl
@[simp] theorem State.modPort_hbm (s : State) (q : Nat) (g : Port → Port) : (s.modPort q g).hbm = s.hbm := rfl
@[simp] theorem State.modPort_mem (s : State) (q : Nat) (g : Port → Port) : (s.modPort q g).mem = s.mem := rfl
@[simp] theorem State.modPort_blocks (s : State) (q : Nat) (g : Port → Port) : (s.modPort q g).blocks = s.blocks := rfl
@[simp] theorem State.modPort_chisel (s : State) (q : Nat) (g : Port → Port) : (s.modPort q g).chisel = s.chisel := rfl
@[simp] theorem State.modPort_nextList (s : State) (q : Nat) (g : Port → Port) : (s.modPort q g).nextList = s.nextList := rfl
@[simp] theorem State.modPort_flash (s : State) (q : Nat) (g : Port → Port) : (s.modPort q g).flash = s.flash := rfl
@[simp] theorem State.modPort_tierReqs (s : State) (q : Nat) (g : Port → Port) : (s.modPort q g).tierReqs = s.tierReqs := rfl
@[simp] theorem State.modPort_nextReq (s : State) (q : Nat) (g : Port → Port) : (s.modPort q g).nextReq = s.nextReq := rfl
@[simp] theorem State.modPort_mgrQueue (s : State) (q : Nat) (g : Port → Port) : (s.modPort q g).mgrQueue = s.mgrQueue := rfl
@[simp] theorem State.modPort_grants (s : State) (q : Nat) (g : Port → Port) : (s.modPort q g).grants = s.grants := rfl
@[simp] theorem State.modPort_dies (s : State) (q : Nat) (g : Port → Port) : (s.modPort q g).dies = s.dies := rfl
@[simp] theorem State.modPort_secClear (s : State) (q : Nat) (g : Port → Port) : (s.modPort q g).secClear = s.secClear := rfl
@[simp] theorem State.modPort_secOut (s : State) (q : Nat) (g : Port → Port) : (s.modPort q g).secOut = s.secOut := rfl
@[simp] theorem State.modPort_drains (s : State) (q : Nat) (g : Port → Port) : (s.modPort q g).drains = s.drains := rfl
@[simp] theorem State.modPort_procs (s : State) (q : Nat) (g : Port → Port) : (s.modPort q g).procs = s.procs := rfl
@[simp] theorem State.modPort_fwSeqs (s : State) (q : Nat) (g : Port → Port) : (s.modPort q g).fwSeqs = s.fwSeqs := rfl
@[simp] theorem State.modPort_staging (s : State) (q : Nat) (g : Port → Port) : (s.modPort q g).staging = s.staging := rfl
@[simp] theorem State.modPort_power (s : State) (q : Nat) (g : Port → Port) : (s.modPort q g).power = s.power := rfl
@[simp] theorem State.modPort_sec (s : State) (q : Nat) (g : Port → Port) : (s.modPort q g).sec = s.sec := rfl
@[simp] theorem State.modPort_side (s : State) (q : Nat) (g : Port → Port) : (s.modPort q g).side = s.side := rfl

/-! ## Extent -/

@[simp] theorem State.setExtent_pending (s : State) (e : Nat) (x : Extent) : (s.setExtent e x).pending = s.pending := rfl
@[simp] theorem State.setExtent_free (s : State) (e : Nat) (x : Extent) : (s.setExtent e x).free = s.free := rfl
@[simp] theorem State.setExtent_time (s : State) (e : Nat) (x : Extent) : (s.setExtent e x).time = s.time := rfl
@[simp] theorem State.setExtent_log (s : State) (e : Nat) (x : Extent) : (s.setExtent e x).log = s.log := rfl
@[simp] theorem State.setExtent_link (s : State) (e : Nat) (x : Extent) : (s.setExtent e x).link = s.link := rfl
@[simp] theorem State.setExtent_fns (s : State) (e : Nat) (x : Extent) : (s.setExtent e x).fns = s.fns := rfl
@[simp] theorem State.setExtent_slots (s : State) (e : Nat) (x : Extent) : (s.setExtent e x).slots = s.slots := rfl
@[simp] theorem State.setExtent_parts (s : State) (e : Nat) (x : Extent) : (s.setExtent e x).parts = s.parts := rfl
@[simp] theorem State.setExtent_tiles (s : State) (e : Nat) (x : Extent) : (s.setExtent e x).tiles = s.tiles := rfl
@[simp] theorem State.setExtent_atps (s : State) (e : Nat) (x : Extent) : (s.setExtent e x).atps = s.atps := rfl
@[simp] theorem State.setExtent_signals (s : State) (e : Nat) (x : Extent) : (s.setExtent e x).signals = s.signals := rfl
@[simp] theorem State.setExtent_ctxs (s : State) (e : Nat) (x : Extent) : (s.setExtent e x).ctxs = s.ctxs := rfl
@[simp] theorem State.setExtent_copies (s : State) (e : Nat) (x : Extent) : (s.setExtent e x).copies = s.copies := rfl
@[simp] theorem State.setExtent_loose (s : State) (e : Nat) (x : Extent) : (s.setExtent e x).loose = s.loose := rfl
@[simp] theorem State.setExtent_hbm (s : State) (e : Nat) (x : Extent) : (s.setExtent e x).hbm = s.hbm := rfl
@[simp] theorem State.setExtent_mem (s : State) (e : Nat) (x : Extent) : (s.setExtent e x).mem = s.mem := rfl
@[simp] theorem State.setExtent_blocks (s : State) (e : Nat) (x : Extent) : (s.setExtent e x).blocks = s.blocks := rfl
@[simp] theorem State.setExtent_chisel (s : State) (e : Nat) (x : Extent) : (s.setExtent e x).chisel = s.chisel := rfl
@[simp] theorem State.setExtent_nextList (s : State) (e : Nat) (x : Extent) : (s.setExtent e x).nextList = s.nextList := rfl
@[simp] theorem State.setExtent_tierReqs (s : State) (e : Nat) (x : Extent) : (s.setExtent e x).tierReqs = s.tierReqs := rfl
@[simp] theorem State.setExtent_nextReq (s : State) (e : Nat) (x : Extent) : (s.setExtent e x).nextReq = s.nextReq := rfl
@[simp] theorem State.setExtent_mgrQueue (s : State) (e : Nat) (x : Extent) : (s.setExtent e x).mgrQueue = s.mgrQueue := rfl
@[simp] theorem State.setExtent_grants (s : State) (e : Nat) (x : Extent) : (s.setExtent e x).grants = s.grants := rfl
@[simp] theorem State.setExtent_fabric (s : State) (e : Nat) (x : Extent) : (s.setExtent e x).fabric = s.fabric := rfl
@[simp] theorem State.setExtent_dies (s : State) (e : Nat) (x : Extent) : (s.setExtent e x).dies = s.dies := rfl
@[simp] theorem State.setExtent_secClear (s : State) (e : Nat) (x : Extent) : (s.setExtent e x).secClear = s.secClear := rfl
@[simp] theorem State.setExtent_secOut (s : State) (e : Nat) (x : Extent) : (s.setExtent e x).secOut = s.secOut := rfl
@[simp] theorem State.setExtent_drains (s : State) (e : Nat) (x : Extent) : (s.setExtent e x).drains = s.drains := rfl
@[simp] theorem State.setExtent_procs (s : State) (e : Nat) (x : Extent) : (s.setExtent e x).procs = s.procs := rfl
@[simp] theorem State.setExtent_fwSeqs (s : State) (e : Nat) (x : Extent) : (s.setExtent e x).fwSeqs = s.fwSeqs := rfl
@[simp] theorem State.setExtent_staging (s : State) (e : Nat) (x : Extent) : (s.setExtent e x).staging = s.staging := rfl
@[simp] theorem State.setExtent_power (s : State) (e : Nat) (x : Extent) : (s.setExtent e x).power = s.power := rfl
@[simp] theorem State.setExtent_sec (s : State) (e : Nat) (x : Extent) : (s.setExtent e x).sec = s.sec := rfl
@[simp] theorem State.setExtent_side (s : State) (e : Nat) (x : Extent) : (s.setExtent e x).side = s.side := rfl

/-! ## Commands, free values and time -/

@[simp] theorem State.modCmd_pending (s : State) (f n : Nat) (g : Cmd → Cmd) : (s.modCmd f n g).pending = s.pending := rfl
@[simp] theorem State.modCmd_free (s : State) (f n : Nat) (g : Cmd → Cmd) : (s.modCmd f n g).free = s.free := rfl
@[simp] theorem State.modCmd_time (s : State) (f n : Nat) (g : Cmd → Cmd) : (s.modCmd f n g).time = s.time := rfl
@[simp] theorem State.modCmd_log (s : State) (f n : Nat) (g : Cmd → Cmd) : (s.modCmd f n g).log = s.log := rfl
@[simp] theorem State.modCmd_link (s : State) (f n : Nat) (g : Cmd → Cmd) : (s.modCmd f n g).link = s.link := rfl
@[simp] theorem State.modCmd_fns (s : State) (f n : Nat) (g : Cmd → Cmd) : (s.modCmd f n g).fns = s.fns := rfl
@[simp] theorem State.modCmd_parts (s : State) (f n : Nat) (g : Cmd → Cmd) : (s.modCmd f n g).parts = s.parts := rfl
@[simp] theorem State.modCmd_tiles (s : State) (f n : Nat) (g : Cmd → Cmd) : (s.modCmd f n g).tiles = s.tiles := rfl
@[simp] theorem State.modCmd_atps (s : State) (f n : Nat) (g : Cmd → Cmd) : (s.modCmd f n g).atps = s.atps := rfl
@[simp] theorem State.modCmd_signals (s : State) (f n : Nat) (g : Cmd → Cmd) : (s.modCmd f n g).signals = s.signals := rfl
@[simp] theorem State.modCmd_ctxs (s : State) (f n : Nat) (g : Cmd → Cmd) : (s.modCmd f n g).ctxs = s.ctxs := rfl
@[simp] theorem State.modCmd_copies (s : State) (f n : Nat) (g : Cmd → Cmd) : (s.modCmd f n g).copies = s.copies := rfl
@[simp] theorem State.modCmd_loose (s : State) (f n : Nat) (g : Cmd → Cmd) : (s.modCmd f n g).loose = s.loose := rfl
@[simp] theorem State.modCmd_hbm (s : State) (f n : Nat) (g : Cmd → Cmd) : (s.modCmd f n g).hbm = s.hbm := rfl
@[simp] theorem State.modCmd_mem (s : State) (f n : Nat) (g : Cmd → Cmd) : (s.modCmd f n g).mem = s.mem := rfl
@[simp] theorem State.modCmd_blocks (s : State) (f n : Nat) (g : Cmd → Cmd) : (s.modCmd f n g).blocks = s.blocks := rfl
@[simp] theorem State.modCmd_chisel (s : State) (f n : Nat) (g : Cmd → Cmd) : (s.modCmd f n g).chisel = s.chisel := rfl
@[simp] theorem State.modCmd_nextList (s : State) (f n : Nat) (g : Cmd → Cmd) : (s.modCmd f n g).nextList = s.nextList := rfl
@[simp] theorem State.modCmd_flash (s : State) (f n : Nat) (g : Cmd → Cmd) : (s.modCmd f n g).flash = s.flash := rfl
@[simp] theorem State.modCmd_tierReqs (s : State) (f n : Nat) (g : Cmd → Cmd) : (s.modCmd f n g).tierReqs = s.tierReqs := rfl
@[simp] theorem State.modCmd_nextReq (s : State) (f n : Nat) (g : Cmd → Cmd) : (s.modCmd f n g).nextReq = s.nextReq := rfl
@[simp] theorem State.modCmd_mgrQueue (s : State) (f n : Nat) (g : Cmd → Cmd) : (s.modCmd f n g).mgrQueue = s.mgrQueue := rfl
@[simp] theorem State.modCmd_grants (s : State) (f n : Nat) (g : Cmd → Cmd) : (s.modCmd f n g).grants = s.grants := rfl
@[simp] theorem State.modCmd_fabric (s : State) (f n : Nat) (g : Cmd → Cmd) : (s.modCmd f n g).fabric = s.fabric := rfl
@[simp] theorem State.modCmd_dies (s : State) (f n : Nat) (g : Cmd → Cmd) : (s.modCmd f n g).dies = s.dies := rfl
@[simp] theorem State.modCmd_secClear (s : State) (f n : Nat) (g : Cmd → Cmd) : (s.modCmd f n g).secClear = s.secClear := rfl
@[simp] theorem State.modCmd_secOut (s : State) (f n : Nat) (g : Cmd → Cmd) : (s.modCmd f n g).secOut = s.secOut := rfl
@[simp] theorem State.modCmd_drains (s : State) (f n : Nat) (g : Cmd → Cmd) : (s.modCmd f n g).drains = s.drains := rfl
@[simp] theorem State.modCmd_procs (s : State) (f n : Nat) (g : Cmd → Cmd) : (s.modCmd f n g).procs = s.procs := rfl
@[simp] theorem State.modCmd_fwSeqs (s : State) (f n : Nat) (g : Cmd → Cmd) : (s.modCmd f n g).fwSeqs = s.fwSeqs := rfl
@[simp] theorem State.modCmd_staging (s : State) (f n : Nat) (g : Cmd → Cmd) : (s.modCmd f n g).staging = s.staging := rfl
@[simp] theorem State.modCmd_power (s : State) (f n : Nat) (g : Cmd → Cmd) : (s.modCmd f n g).power = s.power := rfl
@[simp] theorem State.modCmd_sec (s : State) (f n : Nat) (g : Cmd → Cmd) : (s.modCmd f n g).sec = s.sec := rfl
@[simp] theorem State.modCmd_side (s : State) (f n : Nat) (g : Cmd → Cmd) : (s.modCmd f n g).side = s.side := rfl
@[simp] theorem State.fresh_pending (s : State) : (s.fresh).2.pending = s.pending := rfl
@[simp] theorem State.fresh_time (s : State) : (s.fresh).2.time = s.time := rfl
@[simp] theorem State.fresh_log (s : State) : (s.fresh).2.log = s.log := rfl
@[simp] theorem State.fresh_link (s : State) : (s.fresh).2.link = s.link := rfl
@[simp] theorem State.fresh_fns (s : State) : (s.fresh).2.fns = s.fns := rfl
@[simp] theorem State.fresh_slots (s : State) : (s.fresh).2.slots = s.slots := rfl
@[simp] theorem State.fresh_parts (s : State) : (s.fresh).2.parts = s.parts := rfl
@[simp] theorem State.fresh_tiles (s : State) : (s.fresh).2.tiles = s.tiles := rfl
@[simp] theorem State.fresh_atps (s : State) : (s.fresh).2.atps = s.atps := rfl
@[simp] theorem State.fresh_signals (s : State) : (s.fresh).2.signals = s.signals := rfl
@[simp] theorem State.fresh_ctxs (s : State) : (s.fresh).2.ctxs = s.ctxs := rfl
@[simp] theorem State.fresh_copies (s : State) : (s.fresh).2.copies = s.copies := rfl
@[simp] theorem State.fresh_loose (s : State) : (s.fresh).2.loose = s.loose := rfl
@[simp] theorem State.fresh_hbm (s : State) : (s.fresh).2.hbm = s.hbm := rfl
@[simp] theorem State.fresh_mem (s : State) : (s.fresh).2.mem = s.mem := rfl
@[simp] theorem State.fresh_blocks (s : State) : (s.fresh).2.blocks = s.blocks := rfl
@[simp] theorem State.fresh_chisel (s : State) : (s.fresh).2.chisel = s.chisel := rfl
@[simp] theorem State.fresh_nextList (s : State) : (s.fresh).2.nextList = s.nextList := rfl
@[simp] theorem State.fresh_flash (s : State) : (s.fresh).2.flash = s.flash := rfl
@[simp] theorem State.fresh_tierReqs (s : State) : (s.fresh).2.tierReqs = s.tierReqs := rfl
@[simp] theorem State.fresh_nextReq (s : State) : (s.fresh).2.nextReq = s.nextReq := rfl
@[simp] theorem State.fresh_mgrQueue (s : State) : (s.fresh).2.mgrQueue = s.mgrQueue := rfl
@[simp] theorem State.fresh_grants (s : State) : (s.fresh).2.grants = s.grants := rfl
@[simp] theorem State.fresh_fabric (s : State) : (s.fresh).2.fabric = s.fabric := rfl
@[simp] theorem State.fresh_dies (s : State) : (s.fresh).2.dies = s.dies := rfl
@[simp] theorem State.fresh_secClear (s : State) : (s.fresh).2.secClear = s.secClear := rfl
@[simp] theorem State.fresh_secOut (s : State) : (s.fresh).2.secOut = s.secOut := rfl
@[simp] theorem State.fresh_drains (s : State) : (s.fresh).2.drains = s.drains := rfl
@[simp] theorem State.fresh_procs (s : State) : (s.fresh).2.procs = s.procs := rfl
@[simp] theorem State.fresh_fwSeqs (s : State) : (s.fresh).2.fwSeqs = s.fwSeqs := rfl
@[simp] theorem State.fresh_staging (s : State) : (s.fresh).2.staging = s.staging := rfl
@[simp] theorem State.fresh_power (s : State) : (s.fresh).2.power = s.power := rfl
@[simp] theorem State.fresh_sec (s : State) : (s.fresh).2.sec = s.sec := rfl
@[simp] theorem State.fresh_side (s : State) : (s.fresh).2.side = s.side := rfl
@[simp] theorem State.fresh_free (s : State) : (s.fresh).2.free = s.free + 1 := rfl
@[simp] theorem State.fresh_value (s : State) : (s.fresh).1 = Config.freeNat s.free := rfl
@[simp] theorem State.tick_pending (s : State) : s.tick.pending = s.pending := by unfold State.tick; split <;> rfl
@[simp] theorem State.tick_free (s : State) : s.tick.free = s.free := by unfold State.tick; split <;> rfl
@[simp] theorem State.tick_log (s : State) : s.tick.log = s.log := by unfold State.tick; split <;> rfl
@[simp] theorem State.tick_link (s : State) : s.tick.link = s.link := by unfold State.tick; split <;> rfl
@[simp] theorem State.tick_fns (s : State) : s.tick.fns = s.fns := by unfold State.tick; split <;> rfl
@[simp] theorem State.tick_slots (s : State) : s.tick.slots = s.slots := by unfold State.tick; split <;> rfl
@[simp] theorem State.tick_parts (s : State) : s.tick.parts = s.parts := by unfold State.tick; split <;> rfl
@[simp] theorem State.tick_tiles (s : State) : s.tick.tiles = s.tiles := by unfold State.tick; split <;> rfl
@[simp] theorem State.tick_atps (s : State) : s.tick.atps = s.atps := by unfold State.tick; split <;> rfl
@[simp] theorem State.tick_signals (s : State) : s.tick.signals = s.signals := by unfold State.tick; split <;> rfl
@[simp] theorem State.tick_ctxs (s : State) : s.tick.ctxs = s.ctxs := by unfold State.tick; split <;> rfl
@[simp] theorem State.tick_copies (s : State) : s.tick.copies = s.copies := by unfold State.tick; split <;> rfl
@[simp] theorem State.tick_loose (s : State) : s.tick.loose = s.loose := by unfold State.tick; split <;> rfl
@[simp] theorem State.tick_hbm (s : State) : s.tick.hbm = s.hbm := by unfold State.tick; split <;> rfl
@[simp] theorem State.tick_mem (s : State) : s.tick.mem = s.mem := by unfold State.tick; split <;> rfl
@[simp] theorem State.tick_blocks (s : State) : s.tick.blocks = s.blocks := by unfold State.tick; split <;> rfl
@[simp] theorem State.tick_chisel (s : State) : s.tick.chisel = s.chisel := by unfold State.tick; split <;> rfl
@[simp] theorem State.tick_nextList (s : State) : s.tick.nextList = s.nextList := by unfold State.tick; split <;> rfl
@[simp] theorem State.tick_flash (s : State) : s.tick.flash = s.flash := by unfold State.tick; split <;> rfl
@[simp] theorem State.tick_tierReqs (s : State) : s.tick.tierReqs = s.tierReqs := by unfold State.tick; split <;> rfl
@[simp] theorem State.tick_nextReq (s : State) : s.tick.nextReq = s.nextReq := by unfold State.tick; split <;> rfl
@[simp] theorem State.tick_mgrQueue (s : State) : s.tick.mgrQueue = s.mgrQueue := by unfold State.tick; split <;> rfl
@[simp] theorem State.tick_grants (s : State) : s.tick.grants = s.grants := by unfold State.tick; split <;> rfl
@[simp] theorem State.tick_fabric (s : State) : s.tick.fabric = s.fabric := by unfold State.tick; split <;> rfl
@[simp] theorem State.tick_dies (s : State) : s.tick.dies = s.dies := by unfold State.tick; split <;> rfl
@[simp] theorem State.tick_secClear (s : State) : s.tick.secClear = s.secClear := by unfold State.tick; split <;> rfl
@[simp] theorem State.tick_secOut (s : State) : s.tick.secOut = s.secOut := by unfold State.tick; split <;> rfl
@[simp] theorem State.tick_drains (s : State) : s.tick.drains = s.drains := by unfold State.tick; split <;> rfl
@[simp] theorem State.tick_procs (s : State) : s.tick.procs = s.procs := by unfold State.tick; split <;> rfl
@[simp] theorem State.tick_fwSeqs (s : State) : s.tick.fwSeqs = s.fwSeqs := by unfold State.tick; split <;> rfl
@[simp] theorem State.tick_staging (s : State) : s.tick.staging = s.staging := by unfold State.tick; split <;> rfl
@[simp] theorem State.tick_power (s : State) : s.tick.power = s.power := by unfold State.tick; split <;> rfl
@[simp] theorem State.tick_sec (s : State) : s.tick.sec = s.sec := by unfold State.tick; split <;> rfl
@[simp] theorem State.tick_side (s : State) : s.tick.side = s.side := by unfold State.tick; split <;> rfl

/-! ## The unit itself -/

@[simp] theorem State.setFn_same (s : State) (f : Nat) (x : Fn) : (s.setFn f x).fn f = x := Tbl.get_set_same _ _ _ _
theorem State.setFn_other (s : State) (f : Nat) (x : Fn) (i : Nat) (h : i ≠ f) : (s.setFn f x).fn i = s.fn i := Tbl.get_set_other _ _ _ _ _ h
@[simp] theorem State.modFn_same (s : State) (f : Nat) (g : Fn → Fn) : (s.modFn f g).fn f = g (s.fn f) := Tbl.get_set_same _ _ _ _
theorem State.modFn_other (s : State) (f : Nat) (g : Fn → Fn) (i : Nat) (h : i ≠ f) : (s.modFn f g).fn i = s.fn i := Tbl.get_set_other _ _ _ _ _ h
@[simp] theorem State.setPart_same (s : State) (p : Nat) (x : Part) : (s.setPart p x).part p = x := Tbl.get_set_same _ _ _ _
theorem State.setPart_other (s : State) (p : Nat) (x : Part) (i : Nat) (h : i ≠ p) : (s.setPart p x).part i = s.part i := Tbl.get_set_other _ _ _ _ _ h
@[simp] theorem State.modPart_same (s : State) (p : Nat) (g : Part → Part) : (s.modPart p g).part p = g (s.part p) := Tbl.get_set_same _ _ _ _
theorem State.modPart_other (s : State) (p : Nat) (g : Part → Part) (i : Nat) (h : i ≠ p) : (s.modPart p g).part i = s.part i := Tbl.get_set_other _ _ _ _ _ h
@[simp] theorem State.setTile_same (s : State) (t : Nat) (x : Tile) : (s.setTile t x).tile t = x := Tbl.get_set_same _ _ _ _
theorem State.setTile_other (s : State) (t : Nat) (x : Tile) (i : Nat) (h : i ≠ t) : (s.setTile t x).tile i = s.tile i := Tbl.get_set_other _ _ _ _ _ h
@[simp] theorem State.modTile_same (s : State) (t : Nat) (g : Tile → Tile) : (s.modTile t g).tile t = g (s.tile t) := Tbl.get_set_same _ _ _ _
theorem State.modTile_other (s : State) (t : Nat) (g : Tile → Tile) (i : Nat) (h : i ≠ t) : (s.modTile t g).tile i = s.tile i := Tbl.get_set_other _ _ _ _ _ h
@[simp] theorem State.setAtp_same (s : State) (n : Nat) (x : Atp) : (s.setAtp n x).atp n = x := Tbl.get_set_same _ _ _ _
theorem State.setAtp_other (s : State) (n : Nat) (x : Atp) (i : Nat) (h : i ≠ n) : (s.setAtp n x).atp i = s.atp i := Tbl.get_set_other _ _ _ _ _ h
@[simp] theorem State.modAtp_same (s : State) (n : Nat) (g : Atp → Atp) : (s.modAtp n g).atp n = g (s.atp n) := Tbl.get_set_same _ _ _ _
theorem State.modAtp_other (s : State) (n : Nat) (g : Atp → Atp) (i : Nat) (h : i ≠ n) : (s.modAtp n g).atp i = s.atp i := Tbl.get_set_other _ _ _ _ _ h
@[simp] theorem State.setCtx_same (s : State) (c : Nat) (x : Ctx) : (s.setCtx c x).ctx c = x := Tbl.get_set_same _ _ _ _
theorem State.setCtx_other (s : State) (c : Nat) (x : Ctx) (i : Nat) (h : i ≠ c) : (s.setCtx c x).ctx i = s.ctx i := Tbl.get_set_other _ _ _ _ _ h
@[simp] theorem State.setStack_same (s : State) (k : Nat) (x : Stack) : (s.setStack k x).stack k = x := Tbl.get_set_same _ _ _ _
theorem State.setStack_other (s : State) (k : Nat) (x : Stack) (i : Nat) (h : i ≠ k) : (s.setStack k x).stack i = s.stack i := Tbl.get_set_other _ _ _ _ _ h
@[simp] theorem State.modStack_same (s : State) (k : Nat) (g : Stack → Stack) : (s.modStack k g).stack k = g (s.stack k) := Tbl.get_set_same _ _ _ _
theorem State.modStack_other (s : State) (k : Nat) (g : Stack → Stack) (i : Nat) (h : i ≠ k) : (s.modStack k g).stack i = s.stack i := Tbl.get_set_other _ _ _ _ _ h
@[simp] theorem State.setDie_same (s : State) (d : Nat) (x : Die) : (s.setDie d x).die d = x := Tbl.get_set_same _ _ _ _
theorem State.setDie_other (s : State) (d : Nat) (x : Die) (i : Nat) (h : i ≠ d) : (s.setDie d x).die i = s.die i := Tbl.get_set_other _ _ _ _ _ h
@[simp] theorem State.modDie_same (s : State) (d : Nat) (g : Die → Die) : (s.modDie d g).die d = g (s.die d) := Tbl.get_set_same _ _ _ _
theorem State.modDie_other (s : State) (d : Nat) (g : Die → Die) (i : Nat) (h : i ≠ d) : (s.modDie d g).die i = s.die i := Tbl.get_set_other _ _ _ _ _ h
@[simp] theorem State.setProc_same (s : State) (c : Nat) (x : Proc) : (s.setProc c x).proc c = x := Tbl.get_set_same _ _ _ _
theorem State.setProc_other (s : State) (c : Nat) (x : Proc) (i : Nat) (h : i ≠ c) : (s.setProc c x).proc i = s.proc i := Tbl.get_set_other _ _ _ _ _ h
@[simp] theorem State.modProc_same (s : State) (c : Nat) (g : Proc → Proc) : (s.modProc c g).proc c = g (s.proc c) := Tbl.get_set_same _ _ _ _
theorem State.modProc_other (s : State) (c : Nat) (g : Proc → Proc) (i : Nat) (h : i ≠ c) : (s.modProc c g).proc i = s.proc i := Tbl.get_set_other _ _ _ _ _ h
@[simp] theorem State.setSlot_same (s : State) (f n : Nat) (x : Slot) : (s.setSlot f n x).slot f n = x := Tbl.get_set_same _ _ _ _
theorem State.setSlot_other (s : State) (f n : Nat) (x : Slot) (g m : Nat) (h : slotKey g m ≠ slotKey f n) :
    (s.setSlot f n x).slot g m = s.slot g m := Tbl.get_set_other _ _ _ _ _ h
@[simp] theorem State.modSlot_same (s : State) (f n : Nat) (g : Slot → Slot) : (s.modSlot f n g).slot f n = g (s.slot f n) :=
  Tbl.get_set_same _ _ _ _
theorem State.modSlot_other (s : State) (f n : Nat) (g : Slot → Slot) (a m : Nat) (h : slotKey a m ≠ slotKey f n) :
    (s.modSlot f n g).slot a m = s.slot a m := Tbl.get_set_other _ _ _ _ _ h
@[simp] theorem State.modCmd_same (s : State) (f n : Nat) (g : Cmd → Cmd) : (s.modCmd f n g).cmd f n = g (s.cmd f n) := by
  simp [State.modCmd, State.cmd]
@[simp] theorem State.setPort_same (s : State) (q : Nat) (x : Port) : (s.setPort q x).port q = x := Tbl.get_set_same _ _ _ _
theorem State.setPort_other (s : State) (q : Nat) (x : Port) (i : Nat) (h : i ≠ q) : (s.setPort q x).port i = s.port i :=
  Tbl.get_set_other _ _ _ _ _ h
@[simp] theorem State.modPort_same (s : State) (q : Nat) (g : Port → Port) : (s.modPort q g).port q = g (s.port q) := Tbl.get_set_same _ _ _ _
@[simp] theorem State.setExtent_same (s : State) (e : Nat) (x : Extent) : (s.setExtent e x).extent e = x := Tbl.get_set_same _ _ _ _
theorem State.setExtent_other (s : State) (e : Nat) (x : Extent) (i : Nat) (h : i ≠ e) : (s.setExtent e x).extent i = s.extent i :=
  Tbl.get_set_other _ _ _ _ _ h
@[simp] theorem State.setBlock_same (s : State) (a : Nat) (x : Block) : (s.setBlock a x).block a = x := Tbl.get_set_same _ _ _ _
theorem State.setBlock_other (s : State) (a : Nat) (x : Block) (b : Nat) (h : b / 2048 ≠ a / 2048) : (s.setBlock a x).block b = s.block b :=
  Tbl.get_set_other _ _ _ _ _ h

end Sys2Proof.Machine
end

