-- ==== Sys2Proof/Tests/Slice0.lean ====
section
/-! SUPPORT. Tests: every check of well-formedness refuses an ill-formed command, and every statement that has hypotheses is
applied to a concrete state and operands at which the kernel finds all of them true; its conclusion there is that the command
answers a next state. States are built by the helpers below from the rules' layouts, not from the model's answers. -/

set_option maxRecDepth 100000
set_option synthInstance.maxSize 4000
set_option synthInstance.maxHeartbeats 200000
set_option Elab.async false

namespace Sys2Proof.Machine

open Sys2Proof

/-! ## Well-formedness -/

/-- A bad operand in each place: refused (slotSubmit to resetModule). -/
theorem test_refused_slotSubmit : ([
    Instr.slotSubmit 9 0 true 0,
    Instr.slotSubmit 0 32 true 0,
    Instr.slotRelease 9 0,
    Instr.slotRelease 0 32,
    Instr.registerWrite 9 0 [0],
    Instr.registerWrite 0 0 [],
    Instr.registerWrite 0 65536 [0],
    Instr.lowHalfRead 9 0,
    Instr.lowHalfRead 0 4,
    Instr.hostAlive 9 0,
    Instr.logCursor 9 0,
    Instr.snap 9,
    Instr.powerWake 9,
    Instr.enterMs2 9 none,
    Instr.nop 9 0,
    Instr.nop 0 32,
    Instr.nop 0 128,
    Instr.halt 9 0,
    Instr.halt 0 32,
    Instr.attach 9 0,
    Instr.attach 0 32,
    Instr.attachResume 9 0,
    Instr.attachResume 0 32,
    Instr.attachLockoutEnd 9,
    Instr.resetPartition 9 0,
    Instr.resetPartition 0 32,
    Instr.resetModule 9 0,
    Instr.resetModule 0 32] : List Instr).all (fun i => !i.wf) = true := by decide +kernel

/-- A bad operand in each place: refused (partSet to ctxPool). -/
theorem test_refused_partSet : ([
    Instr.partSet 9 0,
    Instr.partSet 0 32,
    Instr.fabConfig 9 0,
    Instr.fabConfig 0 32,
    Instr.tileDisable 9 0,
    Instr.tileDisable 0 32,
    Instr.sectionDisable 9 0,
    Instr.sectionDisable 0 32,
    Instr.drainExpire 9 0,
    Instr.drainExpire 0 32,
    Instr.loadProgram 9 0,
    Instr.loadProgram 0 32,
    Instr.run 9 0,
    Instr.run 0 32,
    Instr.runComplete 9 0,
    Instr.runComplete 0 32,
    Instr.chiselRun 9 0,
    Instr.chiselRun 0 32,
    Instr.trainSetup 9 0,
    Instr.trainSetup 0 32,
    Instr.stepFence 9 0,
    Instr.stepFence 0 32,
    Instr.stepFenceComplete 9 0,
    Instr.stepFenceComplete 0 32,
    Instr.maquetteTake 9 0,
    Instr.maquetteTake 0 32,
    Instr.rollback 9 0,
    Instr.rollback 0 32,
    Instr.rollforward 9 0,
    Instr.rollforward 0 32,
    Instr.ctxPool 9 0,
    Instr.ctxPool 0 32] : List Instr).all (fun i => !i.wf) = true := by decide +kernel

/-- A bad operand in each place: refused (ctxOpen to fwStage). -/
theorem test_refused_ctxOpen : ([
    Instr.ctxOpen 9 0,
    Instr.ctxOpen 0 32,
    Instr.ctxFork 9 0,
    Instr.ctxFork 0 32,
    Instr.ctxTruncate 9 0,
    Instr.ctxTruncate 0 32,
    Instr.ctxFree 9 0,
    Instr.ctxFree 0 32,
    Instr.ctxQuery 9 0,
    Instr.ctxQuery 0 32,
    Instr.tierHint 9 0,
    Instr.tierHint 0 32,
    Instr.tierStatus 9 0,
    Instr.tierStatus 0 32,
    Instr.reduceScatter 9 0,
    Instr.reduceScatter 0 32,
    Instr.allReduce 9 0,
    Instr.allReduce 0 32,
    Instr.allGather 9 0,
    Instr.allGather 0 32,
    Instr.broadcast 9 0,
    Instr.broadcast 0 32,
    Instr.permute 9 0,
    Instr.permute 0 32,
    Instr.getSurvey 9 0,
    Instr.getSurvey 0 32,
    Instr.logRead 9 0,
    Instr.logRead 0 32,
    Instr.traceSet 9 0,
    Instr.traceSet 0 32,
    Instr.fwStage 9 0,
    Instr.fwStage 0 32] : List Instr).all (fun i => !i.wf) = true := by decide +kernel

/-- A bad operand in each place: refused (fwActivate to replay). -/
theorem test_refused_fwActivate : ([
    Instr.fwActivate 9 0,
    Instr.fwActivate 0 32,
    Instr.fwRestart 9 0,
    Instr.fwRestart 0 32,
    Instr.domainRelay 9 0 (List.replicate 256 0),
    Instr.domainRelay 0 64 (List.replicate 256 0),
    Instr.domainRelay 0 0 [],
    Instr.domainReport 9 0 0 0,
    Instr.domainReport 0 32 0 0,
    Instr.domainReport 0 0 64 0,
    Instr.commandComplete 9 0,
    Instr.commandComplete 0 32,
    Instr.flushReadComplete 9 0,
    Instr.flushReadComplete 0 32,
    Instr.deadlineExpire 9 0,
    Instr.deadlineExpire 0 32,
    Instr.heartbeatTimeout 9,
    Instr.flr 9,
    Instr.flrComplete 9,
    Instr.busMasterDisable 9,
    Instr.nopInstruction 256 .F,
    Instr.seg 256 .F,
    Instr.stepBoundary 256,
    Instr.loop 256 .F,
    Instr.replay 256 .F] : List Instr).all (fun i => !i.wf) = true := by decide +kernel

/-- A bad operand in each place: refused (endStream to vstream). -/
theorem test_refused_endStream : ([
    Instr.endStream 256 .F,
    Instr.fload 256 .clean,
    Instr.fmcast 256,
    Instr.multicastDeliver 256,
    Instr.frecv 256,
    Instr.fhint 256,
    Instr.mopen 256,
    Instr.mmask 256,
    Instr.macc 256 .clean,
    Instr.mclose 256,
    Instr.vmode 256,
    Instr.vop 256 .clean,
    Instr.vlut 256,
    Instr.vld 256,
    Instr.vst 256,
    Instr.vstream 256] : List Instr).all (fun i => !i.wf) = true := by decide +kernel

/-- A bad operand in each place: refused (vtload to append). -/
theorem test_refused_vtload : ([
    Instr.vtload 256,
    Instr.vredOpen 256,
    Instr.vredPut 256,
    Instr.vredClose 256,
    Instr.vpsum 256,
    Instr.vseed 256,
    Instr.sstore 256,
    Instr.sadd 256,
    Instr.saccw 256,
    Instr.scfence 256,
    Instr.instructionComplete 256 .F,
    Instr.remoteSignal 256 0,
    Instr.remoteSignal 0 32,
    Instr.watchdog 256,
    Instr.tileGate (.tile 256),
    Instr.tileGate (.atp 16),
    Instr.attend 16,
    Instr.append 16] : List Instr).all (fun i => !i.wf) = true := by decide +kernel

/-- A bad operand in each place: refused (combine to partialWriteMerge). -/
theorem test_refused_combine : ([
    Instr.combine 16,
    Instr.atpLoop 16,
    Instr.atpEnd 16,
    Instr.keyBlock 16 0,
    Instr.jobComplete 16,
    Instr.gatePoll (.atp 16),
    Instr.gatePoll (.command 9 0),
    Instr.gatePoll (.command 0 32),
    Instr.gateWatchdog 16,
    Instr.pin 16,
    Instr.unpin 16 0,
    Instr.resolve 16 0,
    Instr.switch 0 0 0,
    Instr.switch 9 0 0,
    Instr.switch 1 262144 0,
    Instr.advance 16 0,
    Instr.memoryRead ⟨0, 0, false⟩ ⟨0, true⟩ .good,
    Instr.memoryRead ⟨2047, 0, false⟩ ⟨2, true⟩ .good,
    Instr.memoryRead ⟨0, 4, false⟩ ⟨1, true⟩ .good,
    Instr.blockReread 1 .good,
    Instr.memoryWrite ⟨1, 0, false⟩ (List.replicate 2048 0),
    Instr.memoryWrite ⟨0, 0, false⟩ [],
    Instr.memoryWrite ⟨0, 4, false⟩ (List.replicate 2048 0),
    Instr.partialWriteMerge ⟨0, 0, false⟩ [] .good .good,
    Instr.partialWriteMerge ⟨0, 0, false⟩ (List.replicate 2048 0) .good .good,
    Instr.partialWriteMerge ⟨2047, 0, false⟩ [0, 0] .good .good,
    Instr.partialWriteMerge ⟨0, 4, false⟩ [0] .good .good] : List Instr).all (fun i => !i.wf) = true := by decide +kernel

/-- A bad operand in each place: refused (memorySideAdd to fill). -/
theorem test_refused_memorySideAdd : ([
    Instr.memorySideAdd ⟨2 ^ 48, 0, false⟩ 0 [] .good .good,
    Instr.memorySideAdd ⟨0, 0, false⟩ 5 [] .good .good,
    Instr.memorySideAdd ⟨0, 4, false⟩ 0 [] .good .good,
    Instr.regulatorAdmit 20 1,
    Instr.regulatorAdmit 0 0,
    Instr.regulatorAdmit 0 9,
    Instr.refresh 20 0 0,
    Instr.refresh 0 64 0,
    Instr.refresh 0 0 64,
    Instr.rfm 20 0 0,
    Instr.rfm 0 64 0,
    Instr.rfm 0 0 64,
    Instr.patrol 20 .good .good,
    Instr.stackStartup 20 ⟨0, 0, true⟩,
    Instr.temperatureReading 20 0 0,
    Instr.temperatureReading 0 18 0,
    Instr.throttleLevelExit 20,
    Instr.stackRecovery 20 .trainingLost,
    Instr.stackRecoveryEnd 20 true,
    Instr.chset 20 0 default,
    Instr.chset 0 64 default,
    Instr.chset 0 0 { (default : ChiselSetup) with base := 20 },
    Instr.chrow 20 0 default,
    Instr.chrow 0 64 default,
    Instr.chrow 0 0 { (default : ChiselRow) with colFirst := 64, colLast := 64 },
    Instr.chrow 0 0 { (default : ChiselRow) with colLast := 64 },
    Instr.chrow 0 0 { (default : ChiselRow) with colFirst := 1 },
    Instr.chacc 20 0 0 0 0 0 (List.replicate 64 0),
    Instr.chacc 0 64 0 0 0 0 (List.replicate 64 0),
    Instr.chacc 0 0 65536 0 0 0 (List.replicate 64 0),
    Instr.chacc 0 0 0 64 0 0 (List.replicate 64 0),
    Instr.chacc 0 0 0 0 64 0 (List.replicate 64 0),
    Instr.chacc 0 0 0 0 0 0 [],
    Instr.chfnc 20 0,
    Instr.chfnc 0 64,
    Instr.readThrough 0 0 0,
    Instr.readThrough 9 0 0,
    Instr.readThrough 1 (2 ^ 24) 0,
    Instr.fill 0 0 0,
    Instr.fill 9 0 0,
    Instr.fill 1 (2 ^ 24) 0] : List Instr).all (fun i => !i.wf) = true := by decide +kernel

/-- A bad operand in each place: refused (fillComplete to applyState). -/
theorem test_refused_fillComplete : ([
    Instr.fillComplete 0 ⟨0, 0⟩,
    Instr.fillComplete 9 ⟨0, 0⟩,
    Instr.fillComplete 1 ⟨2 ^ 24, 0⟩,
    Instr.directWrite 0 0 0,
    Instr.directWrite 9 0 0,
    Instr.directWrite 1 (2 ^ 24) 0,
    Instr.eviction 0 0,
    Instr.eviction 9 0,
    Instr.eviction 1 (2 ^ 24),
    Instr.writeBack 0 0 0,
    Instr.writeBack 9 0 0,
    Instr.writeBack 1 (2 ^ 24) 0,
    Instr.writeBack 1 0 32,
    Instr.cleaning 0,
    Instr.cleaning 9,
    Instr.age 0,
    Instr.age 9,
    Instr.prefetch 0,
    Instr.prefetch 9,
    Instr.pinHint 0,
    Instr.pinHint 9,
    Instr.demote 0,
    Instr.demote 9,
    Instr.wearLevelling 32,
    Instr.readRelocation 32 0,
    Instr.blockRetire 32 0,
    Instr.garbageCollection 32 0,
    Instr.prepare 0 0,
    Instr.prepare 9 0,
    Instr.lossScaleUpdate 0 0,
    Instr.lossScaleUpdate 9 0,
    Instr.applyState 0 0,
    Instr.applyState 9 0] : List Instr).all (fun i => !i.wf) = true := by decide +kernel

/-- A bad operand in each place: refused (applyRule to copy). -/
theorem test_refused_applyRule : ([
    Instr.applyRule 0 0,
    Instr.applyRule 9 0,
    Instr.regenerate 0 0,
    Instr.regenerate 9 0,
    Instr.commit 0 0,
    Instr.commit 9 0,
    Instr.replicaFetch 0 0 0,
    Instr.replicaFetch 9 0 0,
    Instr.portPresence 8 ⟨0, 0, 0, false, true⟩,
    Instr.portRetry 8 ⟨0, 0, 0, false, true⟩,
    Instr.laneFail 8 0,
    Instr.laneFail 0 9,
    Instr.linkReplay 8 0,
    Instr.fabRead 8 default,
    Instr.fabRead 0 { (default : Packet) with type := 256 },
    Instr.fabRead 0 { (default : Packet) with cls := 4 },
    Instr.fabRead 0 { (default : Packet) with src := 64 },
    Instr.fabRead 0 { (default : Packet) with dst := 64 },
    Instr.fabRead 0 { (default : Packet) with payload := List.replicate 2049 0 },
    Instr.fabReadData 8 default,
    Instr.fabReadData 0 { (default : Packet) with type := 256 },
    Instr.fabWrite 8 default,
    Instr.fabWrite 0 { (default : Packet) with type := 256 },
    Instr.fabAck 8 default,
    Instr.fabAck 0 { (default : Packet) with type := 256 },
    Instr.fabAdd 8 default,
    Instr.fabAdd 0 { (default : Packet) with type := 256 },
    Instr.chain 8 default,
    Instr.chain 0 { (default : Packet) with type := 256 },
    Instr.partialSum 8 default,
    Instr.partialSum 0 { (default : Packet) with type := 256 },
    Instr.copy 8 default,
    Instr.copy 0 { (default : Packet) with type := 256 }] : List Instr).all (fun i => !i.wf) = true := by decide +kernel

/-- A bad operand in each place: refused (notice to getCapabilities). -/
theorem test_refused_notice : ([
    Instr.notice 8 default,
    Instr.notice 0 { (default : Packet) with type := 256 },
    Instr.sync 8 default,
    Instr.sync 0 { (default : Packet) with type := 256 },
    Instr.caps 8 default default,
    Instr.caps 0 { (default : Packet) with type := 256 } default,
    Instr.miswiredRetry 8 default,
    Instr.chainBreak 0 0,
    Instr.chainBreak 9 0,
    Instr.fallbackSum 0 0,
    Instr.fallbackSum 9 0,
    Instr.partialTimeout 0 0 0,
    Instr.partialTimeout 9 0 0,
    Instr.partialTimeout 1 0 64,
    Instr.memberLost 0 0,
    Instr.memberLost 9 0,
    Instr.memberLost 1 64,
    Instr.collectivePhase 0 0 true,
    Instr.collectivePhase 9 0 true,
    Instr.processorRestart 11 true,
    Instr.processorWatchdog 11,
    Instr.fwUnstableClear 11,
    Instr.probationEnd 11 true,
    Instr.swapBack 11,
    Instr.getVersion 9,
    Instr.getCapabilities 9] : List Instr).all (fun i => !i.wf) = true := by decide +kernel

/-- A bad operand in each place: refused (negotiateAlgorithms to clearingEnd). -/
theorem test_refused_negotiateAlgorithms : ([
    Instr.negotiateAlgorithms 9,
    Instr.getDigests 9,
    Instr.getCertificate 9,
    Instr.challenge 9,
    Instr.getMeasurements 9 0,
    Instr.keyExchange 9,
    Instr.finish 9 0 true,
    Instr.heartbeat 9 0,
    Instr.keyUpdate 9 0,
    Instr.endSession 9 0,
    Instr.moduleFatal (some 11),
    Instr.busMasterEnable 9,
    Instr.clearingEnd (.tileSection 16),
    Instr.clearingEnd (.stack 20),
    Instr.clearingEnd (.extent 480)] : List Instr).all (fun i => !i.wf) = true := by decide +kernel

/-! ## Helpers: memory, commands and a module in MS0 -/

/-- Conditions that are decided together. -/
theorem given {a b c : Prop} (f : a → b → c) (h : a ∧ b) : c := f h.1 h.2

/-- The nonzero bytes of a run. -/
def bytesFrom (a : Nat) : List Byte → BMap
  | [] => []
  | b :: bs => if b = 0 then bytesFrom (a + 1) bs else (a, b) :: bytesFrom (a + 1) bs

/-- Little-endian fields (offset, bytes, value) from an address on, in rising order. -/
def fieldsAt (a : Nat) (fs : List (Nat × Nat × Nat)) : BMap := fs.flatMap (fun f => bytesFrom (a + f.1) (natLe f.2.2 f.2.1))

/-- A command of an opcode with parameter fields (offset, bytes, value) and flags. -/
def cmdOf (op : Nat) (ps : List (Nat × Nat × Nat)) (flags : Nat := 0) : Cmd :=
  { packet := fieldsAt 0 [(0, 2, op), (2, 1, flags), (4, 4, 0x77)] ++ fieldsAt 32 ps, phase := .accepted, arrival := 3 }

/-- Partition 1: section 0, stack 0, attached. -/
def part1 : Part := { isPresent := true, sections := 1, hbm := 1, token := 5, host := .attached, ctxQuota := 4 }

/-- A module in MS0 with its link up and one partition. -/
def w0 : State :=
  { link := { up := true }, fns := [(0, { bme := true }), (1, { bme := true })], parts := [(1, part1)],
    hbm := [(0, { mode := .service })], power := { state := .ms0, devReady := true },
    time := { counter := 100 * 10 ^ 9 * 2 ^ 32 } }

/-- A command accepted in slot 1 of a function, first of its arrivals. -/
def State.withCmd (s : State) (f : Nat) (c : Cmd) : State :=
  (s.setSlot f 1 { state := .queued, cmd := c }).modFn f (fun x => { x with arrivals := [1] })

/-- A command running in slot 1 of a function. -/
def State.withRun (s : State) (f : Nat) (c : Cmd) : State :=
  s.setSlot f 1 { state := .running, cmd := { c with phase := .running, start := 5 } }

/-- A MOMENTUM shard of two elements with BF16 working buffers, its buffers in stack 0. -/
def shardFields : List (Nat × Nat × Nat) :=
  [(0, 1, 1), (2, 1, 1), (3, 1, 4), (4, 4, 1), (8, 4, 2), (16, 4, 0x3DCCCCCD), (20, 4, 0x3F000000), (36, 4, 2048), (72, 8, 0x30000),
   (80, 8, 0x31000), (88, 8, 0x31800), (96, 8, 0x32000), (104, 8, 0x32800), (144, 8, 0x33000), (152, 8, 0x33800),
   (264, 1, 3), (280, 1, 3), (288, 1, 2), (332, 4, 0xddf6f97a)]

/-- Its record in memory at 0x20000, with gradient, master and state values. -/
def shardMem : BMap :=
  fieldsAt 0x20000 shardFields ++ fieldsAt 0x30000 [(0, 4, 0x40003F80), (0x1000, 8, 0x3F8000003F000000), (0x2000, 8, 0x3E800000BF800000)]

/-- Partition 1 with that shard set up, one step begun. -/
def wTrain : State :=
  { w0.setPart 1 { part1 with train := { isSetUp := true, table := 0x20000, shards := 1 } } with
    mem := shardMem }

/-- An instruction word: opcode, engine, the wait, signal, acquire and release fields as one number, operands. -/
def word (opc eng ctl ops : Nat) : BitVec 128 := BitVec.ofNat 128 (opc * 2 ^ 120 + eng * 2 ^ 118 + ctl * 2 ^ 96 + ops)

/-- Tile 3 of section 0 runs program 1 of partition 1. -/
def tile3 : Tile := { program := some (1, 1), running := true }

/-- Partition 1 with that program. -/
def wProgs : State := w0.modPart 1 (fun x => { x with programs := [(1, { loaded := true, tiles := [3], cmd := some (1, 4) })] })

/-- Tile 3 with an engine standing at a word. -/
def State.withTile (s : State) (x : Tile) : State := { s with tiles := [(3, x)] }

/-- The 64 bytes of tensor descriptor `i` of a table. -/
def tensor (i base sbase : Nat) (ext stride : List Nat) (ctl : Nat) : List (Nat × Nat × Nat) :=
  [(64 * i, 8, base), (64 * i + 8, 8, sbase)] ++ (List.range 5).map (fun d => (64 * i + 16 + 4 * d, 4, ext.getD d 1)) ++
  (List.range 5).map (fun d => (64 * i + 36 + 4 * d, 4, stride.getD d 0)) ++ [(64 * i + 60, 4, ctl)]

/-- A tile store with some bytes below, a descriptor table of eight at 0x10000, and the configuration block that names it. -/
def storeOf (below : BMap) (descs : List (Nat × Nat × Nat)) : BMap :=
  below ++ fieldsAt 0x10000 descs ++ fieldsAt cfgBase [(320, 4, 0x10000), (324, 1, 8)]

/-- Tile 3 with one engine standing at position 2 before a word, and a store. -/
def atWord (e : Engine) (w : BitVec 128) (m : BMap) : Tile := ({ tile3 with store := m } : Tile).setEng e { imem := [(2, w)], pc := 2 }

/-! ## Witnesses, part A -/

def wA : State := { w0 with slots := [(128 + 3, { state := .done, status := 5 }), (128 + 4, { state := .running })] }

theorem test_window_submit (h : Obligations.windowsComplete) : ∃ t, exec (.slotSubmit 1 5 true 0x1234) wA = .next t := by
  refine (given fun c1 => given fun c2 => given fun c3 c4 => ((h.1 wA 1 5 true 0x1234 c1 c2 c3).1 c4).imp (fun _ e => e.1)) ?_
  decide +kernel

def wFill : State := w0.setSlot 1 6 { bytes := fieldsAt 24 [(0, 4, 5)] }

theorem test_window_accept (h : Obligations.windowsComplete) : ∃ t, exec (.slotSubmit 1 6 true 0x7700000000) wFill = .next t := by
  refine (given fun c1 => given fun c2 => given fun c3 c4 => ((h.1 wFill 1 6 true 0x7700000000 c1 c2 c3).1 c4).imp (fun _ e => e.1)) ?_
  decide +kernel

theorem test_window_busy (h : Obligations.windowsComplete) : ∃ t, exec (.slotSubmit 1 4 false 0x1234) wA = .next t := by
  refine (given fun c1 => given fun c2 => given fun c3 c4 => ((h.1 wA 1 4 false 0x1234 c1 c2 c3).2.1 c4).imp (fun _ e => e.1)) ?_
  decide +kernel

theorem test_window_release (h : Obligations.windowsComplete) : ∃ t, exec (.slotRelease 1 3) wA = .next t := by
  refine (given fun c1 => given fun c2 => given fun c3 c4 => ((h.1 wA 1 3 true 0 c1 c2 c3).2.2 c4).imp (fun _ e => e.1)) ?_
  decide +kernel

theorem test_register_heartbeat (h : Obligations.windowsComplete) : ∃ t, exec (.registerWrite 1 0x0104 (natLe 60 4)) wA = .next t := by
  refine (given fun c1 => given fun c2 => given fun c3 => given fun c4 c5 => ((h.2.1 wA 1 c1 c2).1 60 c3 c4 c5).imp (fun _ e => e.1)) ?_
  decide +kernel

theorem test_register_limit (h : Obligations.windowsComplete) : ∃ t, exec (.registerWrite 0 0x01A0 (natLe 1000 4)) wA = .next t := by
  refine (given fun c1 => given fun c2 => given fun c3 => given fun c4 c5 => ((h.2.1 wA 0 c1 c2).2.1 1000 c3 c4 c5).imp (fun _ e => e.1)) ?_
  decide +kernel

theorem test_register_flush (h : Obligations.windowsComplete) : ∃ t, exec (.registerWrite 1 0x0110 (natLe (BitVec.toNat (0xFFFFFFFFFFFFFFFF : BitVec 64)) 8)) wA = .next t := by
  refine (given fun c1 => given fun c2 c3 => ((h.2.1 wA 1 c1 c2).2.2.1 0xFFFFFFFFFFFFFFFF c3).imp (fun _ e => e.1)) ?_
  decide +kernel

theorem test_register_slot (h : Obligations.windowsComplete) : ∃ t, exec (.registerWrite 1 (0x2000 + 256 * 31 + 252) [1, 2, 3, 4]) wA = .next t := by
  refine (given fun c1 => given fun c2 => given fun c3 => given fun c4 => given fun c5 c6 => ((h.2.1 wA 1 c1 c2).2.2.2 31 252 [1, 2, 3, 4] c3 c4 c5 c6).imp (fun _ e => e.1)) ?_
  decide +kernel

theorem test_window_capture (h : Obligations.windowsComplete) : ∃ t, exec (.lowHalfRead 1 0x0110) wA = .next t := by
  refine (given fun c1 => given fun c2 c3 => ((h.2.2 wA 1 c1).1 0x0110 c2 c3).imp (fun _ e => e.1)) ?_
  decide +kernel

theorem test_window_time (h : Obligations.windowsComplete) : ∃ t, exec (.lowHalfRead 1 0x20) wA = .next t :=
  ((h.2.2 wA 1 (by decide +kernel)).2.1).imp (fun _ e => e.1)

theorem test_window_cursor (h : Obligations.windowsComplete) : ∃ t, exec (.logCursor 1 0xFFFFFFFFFFFFFFFF) wA = .next t := by
  refine (given fun c1 c2 => ((h.2.2 wA 1 c1).2.2.1 0xFFFFFFFFFFFFFFFF c2).imp (fun _ e => e.1)) ?_
  decide +kernel

theorem test_window_snap (h : Obligations.windowsComplete) : ∃ t, exec (.snap 1) wA = .next t := by
  refine (given fun c1 c2 => ((h.2.2 wA 1 c1).2.2.2 c2).imp (fun _ e => e.1)) ?_
  decide +kernel

def wBeat : State := w0.setPart 1 { part1 with host := .detached }

theorem test_heart_alive (h : Obligations.hostLinksComplete) : ∃ t, exec (.hostAlive 1 7) wA = .next t := by
  refine (given fun c1 => given fun c2 c3 => ((h.2.2 wA 1 7).1 c1 c2 c3).imp (fun _ e => e.1)) ?_
  decide +kernel

theorem test_heart_detached (h : Obligations.hostLinksComplete) : ∃ t, exec (.hostAlive 1 7) wBeat = .next t := by
  refine (given fun c1 => given fun c2 c3 => ((h.2.2 wBeat 1 7).1 c1 c2 c3).imp (fun _ e => e.1)) ?_
  decide +kernel

theorem test_heart_timeout (h : Obligations.hostLinksComplete) : ∃ t, exec (.heartbeatTimeout 1) wA = .next t := by
  refine (given fun c1 => given fun c2 => given fun c3 => given fun c4 c5 => ((h.2.2 wA 1 7).2 c1 c2 c3 c4 c5).imp (fun _ e => e.1)) ?_
  decide +kernel

/-! ## Witnesses, part B -/

def doneCmd (flags flag : Nat) : Cmd :=
  { cmdOf 0 [] flags with
    packet := (cmdOf 0 [] flags).packet ++ fieldsAt 8 [(0, 8, flag)], phase := .finished, status := 0x101, start := 7, stop := 9, result := [1, 2, 3, 4] }

def wDone (flags flag : Nat) : State := w0.setSlot 1 1 { state := .running, cmd := doneCmd flags flag }

theorem test_complete_plain (h : Obligations.completionsComplete) : ∃ t, exec (.commandComplete 1 1) (wDone 0 0) = .next t := by
  refine (given fun c1 => given fun c2 => given fun c3 c4 => (((h.1 (wDone 0 0) 1 1 c1).1 c2 c3).1 c4).imp (fun _ e => e.1)) ?_
  decide +kernel

theorem test_complete_flag (h : Obligations.completionsComplete) : ∃ t, exec (.commandComplete 1 1) (wDone 0 0x8000) = .next t := by
  refine (given fun c1 => given fun c2 => given fun c3 c4 => (((h.1 (wDone 0 0x8000) 1 1 c1).1 c2 c3).1 c4).imp (fun _ e => e.1)) ?_
  decide +kernel

theorem test_complete_flushing (h : Obligations.completionsComplete) : ∃ t, exec (.commandComplete 1 1) (wDone 1 0) = .next t := by
  refine (given fun c1 => given fun c2 => given fun c3 => given fun c4 => given fun c5 => given fun c6 c7 => (((h.1 (wDone 1 0) 1 1 c1).1 c2 c3).2 c4 c5 c6 c7).imp (fun _ e => e.1)) ?_
  decide +kernel

def wFlush : State := (w0.setSlot 1 1 { state := .running, cmd := { doneCmd 1 0x8000 with phase := .flushing, flushes := 1 } })

theorem test_complete_flushed (h : Obligations.completionsComplete) : ∃ t, exec (.flushReadComplete 1 1) wFlush = .next t := by
  refine (given fun c1 => given fun c2 c3 => ((h.1 wFlush 1 1 c1).2.1 c2 c3).imp (fun _ e => e.1)) ?_
  decide +kernel

def wPart : State := (w0.modPart 1 (fun x => { x with domain := 6 })).setSlot 1 65 { cmd := { doneCmd 2 0 with relayed := some 0 } }

theorem test_complete_report (h : Obligations.completionsComplete) : ∃ t, exec (.commandComplete 1 65) wPart = .next t := by
  refine (given fun c1 => given fun c2 c3 => ((h.1 wPart 1 65 c1).2.2 0 c2 c3).imp (fun _ e => e.1)) ?_
  decide +kernel

def wLate (p : CmdPhase) : State :=
  w0.setSlot 1 1 { state := .running, cmd := { cmdOf 0 [] with packet := (cmdOf 0 []).packet ++ fieldsAt 16 [(0, 8, 1000000000)], phase := p } }

theorem test_deadline_waiting (h : Obligations.completionsComplete) : ∃ t, exec (.deadlineExpire 1 1) (wLate .accepted) = .next t :=
  (h.2 (wLate .accepted) 1 1 (by decide +kernel)).imp (fun _ e => e.1)

theorem test_deadline_running (h : Obligations.completionsComplete) : ∃ t, exec (.deadlineExpire 1 1) (wLate .running) = .next t :=
  (h.2 (wLate .running) 1 1 (by decide +kernel)).imp (fun _ e => e.1)

def wLink : State := { w0 with link := { up := true, writes := [{ id := 4, fn := 1, tlps := [(64, [1])], owner := .command 1 1 }], reads := [⟨9, 1, 128, 8, 0, .command 1 1, 50⟩], nextTag := 10 } }

theorem test_link_lost (h : Obligations.hostLinksComplete) : ∃ t, exec (.hostLinkLost .perst) wLink = .next t := by
  refine (given fun c1 c2 => ((h.1 wLink).1 .perst c1 c2).imp (fun _ e => e.1)) ?_
  decide +kernel

def wDown : State := { w0 with link := {} }

theorem test_link_up (h : Obligations.hostLinksComplete) : ∃ t, exec (.hostLinkUp) wDown = .next t := by
  refine (given fun c1 c2 => ((h.1 wDown).2.1 c1 c2).imp (fun _ e => e.1)) ?_
  decide +kernel

theorem test_link_recovery (h : Obligations.hostLinksComplete) : ∃ t, exec (.linkRecovery) wLink = .next t := by
  refine (given fun c1 c2 => ((h.1 wLink).2.2.1 c1 c2).imp (fun _ e => e.1)) ?_
  decide +kernel

def wRecov : State := { wLink with link := { wLink.link with recovery := some 60 } }

theorem test_link_recovered (h : Obligations.hostLinksComplete) : ∃ t, exec (.linkRecoveryEnd 32 8) wRecov = .next t :=
  ((h.1 wRecov).2.2.2 32 8 60 (by decide +kernel)).imp (fun _ e => e.1)

def wFlr : State := { (wLink.setSlot 1 1 { state := .running, cmd := { cmdOf 0 [] with phase := .running, reads := 1 } }) with
  fns := [(0, { bme := true }), (1, { bme := true })] }

theorem test_flr_begins (h : Obligations.hostLinksComplete) : ∃ t, exec (.flr 1) wFlr = .next t := by
  refine (given fun c1 => given fun c2 c3 => ((h.2.1 wFlr 1 c1).1 c2 c3).imp (fun _ e => e.1)) ?_
  decide +kernel

def wFlrOn : State := wFlr.modFn 1 (fun x => { x with flrStart := some 40 })

theorem test_flr_ends (h : Obligations.hostLinksComplete) : ∃ t, exec (.flrComplete 1) wFlrOn = .next t := by
  refine (given fun c1 => given fun c2 c3 => ((h.2.1 wFlrOn 1 c1).2.1 40 c2 c3).imp (fun _ e => e.1)) ?_
  decide +kernel

theorem test_flr_disable (h : Obligations.hostLinksComplete) : ∃ t, exec (.busMasterDisable 1) wFlr = .next t := by
  refine (given fun c1 c2 => ((h.2.1 wFlr 1 c1).2.2.1 c2).imp (fun _ e => e.1)) ?_
  decide +kernel

theorem test_flr_enable (h : Obligations.hostLinksComplete) : ∃ t, exec (.busMasterEnable 1) wFlr = .next t := by
  refine (given fun c1 c2 => ((h.2.1 wFlr 1 c1).2.2.2 c2).imp (fun _ e => e.1)) ?_
  decide +kernel

def wRead : HostRead := ⟨9, 1, 128, 8, 0, .command 1 1, 50⟩

theorem test_host_data (h : Obligations.hostRequestsComplete) : ∃ t, exec (.hostReadCompletion 9 (.data [1,2,3,4,5,6,7,8])) wFlr = .next t := by
  refine (given fun c1 => given fun c2 => given fun c3 => given fun c4 c5 => (((h.1 wFlr c1 c2).1 wRead 1 1 c3 c4).1 [1,2,3,4,5,6,7,8] c5).imp (fun _ e => e.1)) ?_
  decide +kernel

theorem test_host_unsupported (h : Obligations.hostRequestsComplete) : ∃ t, exec (.hostReadCompletion 9 .unsupportedRequest) wFlr = .next t := by
  refine (given fun c1 => given fun c2 => given fun c3 => given fun c4 c5 => ((((h.1 wFlr c1 c2).1 wRead 1 1 c3 c4).2 c5).1).imp (fun _ e => e.1)) ?_
  decide +kernel

theorem test_host_aborted (h : Obligations.hostRequestsComplete) : ∃ t, exec (.hostReadCompletion 9 .completerAbort) wFlr = .next t := by
  refine (given fun c1 => given fun c2 => given fun c3 => given fun c4 c5 => ((((h.1 wFlr c1 c2).1 wRead 1 1 c3 c4).2 c5).2.1).imp (fun _ e => e.1)) ?_
  decide +kernel

theorem test_host_poisoned (h : Obligations.hostRequestsComplete) : ∃ t, exec (.hostReadCompletion 9 .poisoned) wFlr = .next t := by
  refine (given fun c1 => given fun c2 => given fun c3 => given fun c4 c5 => ((((h.1 wFlr c1 c2).1 wRead 1 1 c3 c4).2 c5).2.2.1).imp (fun _ e => e.1)) ?_
  decide +kernel

theorem test_host_silent (h : Obligations.hostRequestsComplete) : ∃ t, exec (.hostReadTimeout 9) wFlr = .next t := by
  refine (given fun c1 => given fun c2 => given fun c3 => given fun c4 => given fun c5 c6 => ((((h.1 wFlr c1 c2).1 wRead 1 1 c3 c4).2 c5).2.2.2 c6).imp (fun _ e => e.1)) ?_
  decide +kernel

theorem test_host_unknown (h : Obligations.hostRequestsComplete) : ∃ t, exec (.hostReadCompletion 5 .poisoned) wFlr = .next t := by
  refine (given fun c1 => given fun c2 => given fun c3 c4 => ((h.1 wFlr c1 c2).2.1 5 .poisoned c3 c4).imp (fun _ e => e.1)) ?_
  decide +kernel

theorem test_host_acknowledged (h : Obligations.hostRequestsComplete) : ∃ t, exec (.hostWriteAck 4) wFlr = .next t := by
  refine (given fun c1 => given fun c2 => given fun c3 c4 => ((h.1 wFlr c1 c2).2.2 { id := 4, fn := 1, tlps := [(64, [1])], owner := .command 1 1 } c3 c4).imp (fun _ e => e.1)) ?_
  decide +kernel

def wDom : State := { w0 with parts := [(1, { part1 with domain := 6 })], fabric := { shape := 0, position := 0, members := [(6, List.range 16)], ports := [(0, { state := .up })] } }

theorem test_relay_taken (h : Obligations.hostRequestsComplete) : ∃ t, exec (.domainRelay 1 1 [1, 2, 3]) wDom = .next t := by
  refine (given fun c1 => given fun c2 => given fun c3 => given fun c4 c5 => ((h.2 wDom 1 c1).1 1 [1, 2, 3] 64 c2 c3 c4 c5).imp (fun _ e => e.1)) ?_
  decide +kernel

def wRel : State := wDom.withRun 1 (cmdOf opNOP [] 2)

theorem test_relay_lost (h : Obligations.hostRequestsComplete) : ∃ t, exec (.domainReport 1 1 1 0x202) wRel = .next t := by
  refine (given fun c1 => given fun c2 => given fun c3 => given fun c4 => given fun c5 c6 => ((h.2 wRel 1 c1).2 1 1 0x202 c2 c3 c4 c5 c6).imp (fun _ e => e.1)) ?_
  decide +kernel

theorem test_relay_reported (h : Obligations.hostRequestsComplete) : ∃ t, exec (.domainReport 1 1 1 0) wRel = .next t := by
  refine (given fun c1 => given fun c2 => given fun c3 => given fun c4 => given fun c5 c6 => ((h.2 wRel 1 c1).2 1 1 0 c2 c3 c4 c5 c6).imp (fun _ e => e.1)) ?_
  decide +kernel

theorem test_power_ms2 (h : Obligations.powerEntriesComplete) : ∃ t, exec (.enterMs2 1 none) w0 = .next t := by
  refine (given fun c1 => given fun c2 => given fun c3 => given fun c4 => given fun c5 => given fun c6 => given fun c7 => given fun c8 c9 => (((h.1 w0 1).1 c1 c2 c3 c4 c5 c6 c7).1 c8 c9).imp (fun _ e => e.1)) ?_
  decide +kernel

def wMs2 : State := { w0 with parts := [(1, { part1 with asleep := true })], hbm := [(0, { mode := .selfRefresh })] }

theorem test_power_wake (h : Obligations.powerEntriesComplete) : ∃ t, exec (.powerWake 1) wMs2 = .next t := by
  refine (given fun c1 => given fun c2 => given fun c3 => given fun c4 => given fun c5 => given fun c6 => given fun c7 c8 => (((h.1 wMs2 1).1 c1 c2 c3 c4 c5 c6 c7).2 c8).imp (fun _ e => e.1)) ?_
  decide +kernel

theorem test_power_ms3 (h : Obligations.powerEntriesComplete) : ∃ t, exec (.enterMs3 none) wMs2 = .next t := by
  refine (given fun c1 => given fun c2 => given fun c3 => given fun c4 => given fun c5 => given fun c6 c7 => (((h.1 wMs2 1).2 c1 c2 c3 c4 c5 c6 c7).1).imp (fun _ e => e.1)) ?_
  decide +kernel

theorem test_power_ms4 (h : Obligations.powerEntriesComplete) : ∃ t, exec (.enterMs4 none) wMs2 = .next t := by
  refine (given fun c1 => given fun c2 => given fun c3 => given fun c4 => given fun c5 => given fun c6 c7 => (((h.1 wMs2 1).2 c1 c2 c3 c4 c5 c6 c7).2).imp (fun _ e => e.1)) ?_
  decide +kernel

theorem test_power_refused3 (h : Obligations.powerEntriesComplete) : ∃ t, exec (.enterMs3 none) w0 = .next t := by
  refine (given fun c1 => given fun c2 => given fun c3 => given fun c4 => given fun c5 c6 => ((h.2 w0 4 0x21 [] c1 c2 c3 c4 c5 c6).1 none).imp (fun _ e => e.1)) ?_
  decide +kernel

theorem test_power_refused4 (h : Obligations.powerEntriesComplete) : ∃ t, exec (.enterMs4 none) w0 = .next t := by
  refine (given fun c1 => given fun c2 => given fun c3 => given fun c4 => given fun c5 c6 => ((h.2 w0 4 0x21 [] c1 c2 c3 c4 c5 c6).2 none).imp (fun _ e => e.1)) ?_
  decide +kernel

/-! ## Witnesses, part D -/

def wNop : State := w0.withCmd 1 (cmdOf opNOP [])

theorem test_nop (h : Obligations.reportCommandsComplete) : ∃ t, exec (.nop 1 1) wNop = .next t :=
  ((h.1 wNop 1 1).1 (by decide +kernel)).imp (fun _ e => e.1)

def wTrace : State := w0.withCmd 0 (cmdOf opTRACE_SET [(0, 8, 10), (8, 8, 0x1234567890)])

theorem test_trace_set (h : Obligations.reportCommandsComplete) : ∃ t, exec (.traceSet 0 1) wTrace = .next t := by
  refine (given fun c1 c2 => ((h.1 wTrace 0 1).2.1 c1 c2).imp (fun _ e => e.1)) ?_
  decide +kernel

def wSurvey : State := w0.withCmd 1 (cmdOf opGET_SURVEY [(0, 8, 0x4000), (8, 4, 128)])

theorem test_get_survey (h : Obligations.reportCommandsComplete) : ∃ t, exec (.getSurvey 1 1) wSurvey = .next t := by
  refine (given fun c1 => given fun c2 => given fun c3 c4 => ((h.1 wSurvey 1 1).2.2.1 c1 c2 c3 c4).imp (fun _ e => e.1)) ?_
  decide +kernel

def wLog : State := { (w0.withCmd 1 (cmdOf opLOG_READ [(0, 8, 1), (8, 4, 2), (16, 8, 0x4000)])) with
  log := { entries := [{ seq := 0, pt := 1 }, { seq := 1, pt := 1 }, { seq := 2, pt := 3 }, { seq := 3, pt := 1 }], appended := 4 } }

theorem test_log_read (h : Obligations.reportCommandsComplete) : ∃ t, exec (.logRead 1 1) wLog = .next t := by
  refine (given fun c1 => given fun c2 => given fun c3 => given fun c4 c5 => ((h.1 wLog 1 1).2.2.2 c1 c2 c3 c4 c5).imp (fun _ e => e.elim (fun _ e => e.1))) ?_
  decide +kernel

def wAtt (token : Nat) (x : Part) : State :=
  (w0.setPart 1 x).withCmd 1 { cmdOf opATTACH [] with packet := (cmdOf opATTACH []).packet ++ fieldsAt 24 [(0, 4, token)] }

theorem test_attach (h : Obligations.attachCommandsComplete) : ∃ t, exec (.attach 1 1) (wAtt 5 part1) = .next t := by
  refine (given fun c1 => given fun c2 => given fun c3 => given fun c4 c5 => (((h (wAtt 5 part1) 1 1).1 c1 c2).1 c3 c4 c5).imp (fun _ e => e.1)) ?_
  decide +kernel

theorem test_attach_wrong (h : Obligations.attachCommandsComplete) : ∃ t, exec (.attach 1 1) (wAtt 6 part1) = .next t := by
  refine (given fun c1 => given fun c2 c3 => (((h (wAtt 6 part1) 1 1).1 c1 c2).2 c3).imp (fun _ e => e.1)) ?_
  decide +kernel

def wRes : State := (w0.setPart 1 { part1 with host := .orphaned, cause := 1 }).withRun 1 { cmdOf opATTACH [] with stage := 1 }

theorem test_attach_resume (h : Obligations.attachCommandsComplete) : ∃ t, exec (.attachResume 1 1) wRes = .next t := by
  refine (given fun c1 => given fun c2 => given fun c3 c4 => ((h wRes 1 1).2.1 c1 c2 c3 c4).imp (fun _ e => e.1)) ?_
  decide +kernel

def wLock : State := w0.modFn 1 (fun x => { x with lockout := some 7, refusals := 16 })

theorem test_attach_lockout (h : Obligations.attachCommandsComplete) : ∃ t, exec (.attachLockoutEnd 1) wLock = .next t := by
  refine (given fun c1 c2 => ((h wLock 1 1).2.2 7 c1 c2).imp (fun _ e => e.1)) ?_
  decide +kernel

def wHalt : State :=
  ((w0.withCmd 1 (cmdOf opHALT [])).setSlot 1 2 { state := .running, cmd := { cmdOf opCTX_FREE [] with phase := .running } }).setPart 1
    { part1 with train := { isSetUp := true, applies := [{ shard := 0, step := 3, phase := 4 }] } }

theorem test_halt (h : Obligations.haltsAndResetsComplete) : ∃ t, exec (.halt 1 1) wHalt = .next t := by
  refine (given fun c1 c2 => (h.1 wHalt 1 1 c1 c2).imp (fun _ e => e.1)) ?_
  decide +kernel

def wReset : State :=
  ((w0.withCmd 1 (cmdOf opRESET_PARTITION [])).setSlot 1 2 { state := .running, cmd := { cmdOf opCTX_FREE [] with phase := .running } }).setPart 1
    { part1 with programs := [(1, { loaded := true, tiles := [3] })], pools := [(0, { pages := 3 })] }

theorem test_reset_partition (h : Obligations.haltsAndResetsComplete) : ∃ t, exec (.resetPartition 1 1) wReset = .next t := by
  refine (given fun c1 => given fun c2 c3 => ((h.2 wReset 1 1).1 c1 c2 c3).imp (fun _ e => e.1)) ?_
  decide +kernel

def wResetEnd : State := w0.withRun 1 { cmdOf opRESET_PARTITION [] with result := [4] }

theorem test_reset_partition_end (h : Obligations.haltsAndResetsComplete) : ∃ t, exec (.resetPartition 1 1) wResetEnd = .next t := by
  refine (given fun c1 => given fun c2 c3 => ((h.2 wResetEnd 1 1).2.1 c1 c2 c3).imp (fun _ e => e.1)) ?_
  decide +kernel

def wModule : State := w0.withCmd 0 (cmdOf opRESET_MODULE [(0, 8, 1)])

theorem test_reset_module (h : Obligations.haltsAndResetsComplete) : ∃ t, exec (.resetModule 0 1) wModule = .next t := by
  refine (given fun c1 c2 => ((h.2 wModule 1 1).2.2.1 c1 c2).imp (fun _ e => e.1)) ?_
  decide +kernel

def wModuleGo : State := { w0 with power := { w0.power with resetting := some 1 } }

theorem test_reset_module_end (h : Obligations.haltsAndResetsComplete) : ∃ t, exec (.resetModule 0 1) wModuleGo = .next t := by
  refine (given fun c1 c2 => ((h.2 wModuleGo 1 1).2.2.2 c1 c2).imp (fun _ e => e.1)) ?_
  decide +kernel

def wSet (p u sec hbm : Nat) : State :=
  w0.withCmd 0 (cmdOf opPART_SET [(0, 1, p), (1, 1, u), (2, 1, 1), (6, 2, sec), (8, 4, hbm), (14, 2, 4), (36, 1, 128), (37, 1, 128), (56, 2, 32), (58, 2, 32)])

theorem test_part_set_new (h : Obligations.partSetWritesTheTable) : ∃ t, exec (.partSet 0 1) (wSet 2 5 6 2) = .next t := by
  refine (given fun c1 => given fun c2 => given fun c3 c4 => (h (wSet 2 5 6 2) 1 2 c1 c2 c3 c4).imp (fun _ e => e.1)) ?_
  decide +kernel

theorem test_part_set_shrink (h : Obligations.partSetWritesTheTable) : ∃ t, exec (.partSet 0 1) (wSet 1 1 3 0) = .next t := by
  refine (given fun c1 => given fun c2 => given fun c3 c4 => (h (wSet 1 1 3 0) 1 1 c1 c2 c3 c4).imp (fun _ e => e.1)) ?_
  decide +kernel

def wTileOff : State := w0.withCmd 0 (cmdOf opTILE_DISABLE [(0, 1, 70)])

theorem test_tile_disable (h : Obligations.disablesAndClearingsComplete) : ∃ t, exec (.tileDisable 0 1) wTileOff = .next t := by
  refine (given fun c1 => given fun c2 => given fun c3 => given fun c4 => given fun c5 => given fun c6 => given fun c7 c8 => ((h.1 wTileOff 0 1 70 c1).1 c2 c3 c4 c5 c6 c7 c8).imp (fun _ e => e.elim (fun _ e => e.1))) ?_
  decide +kernel

def wSecOff : State := w0.withCmd 0 (cmdOf opSECTION_DISABLE [(0, 1, 15)])

theorem test_section_disable (h : Obligations.disablesAndClearingsComplete) : ∃ t, exec (.sectionDisable 0 1) wSecOff = .next t := by
  refine (given fun c1 => given fun c2 => given fun c3 => given fun c4 => given fun c5 => given fun c6 => given fun c7 c8 => ((h.1 wSecOff 0 1 15 c1).2 c2 c3 c4 c5 c6 c7 c8).imp (fun _ e => e.1)) ?_
  decide +kernel

def wDrain0 : State :=
  (w0.setPart 1 { part1 with programs := [(1, { loaded := true, tiles := [3], cmd := some (1, 2) })] }).setSlot 1 2
    { state := .running, cmd := { cmdOf opRUN [(0, 1, 1)] with phase := .running } }

def wDrain : State := { wDrain0.withRun 0 (cmdOf opTILE_DISABLE [(0, 1, 3)]) with drains := [⟨0, 1, [3], [], 3, false, 40⟩] }

theorem test_drain_expire (h : Obligations.disablesAndClearingsComplete) : ∃ t, exec (.drainExpire 0 1) wDrain = .next t := by
  refine (given fun c1 => given fun c2 => given fun c3 => given fun c4 c5 => ((h.2 wDrain).1 ⟨0, 1, [3], [], 3, false, 40⟩ 1 1 1 2 c1 c2 c3 c4 c5).imp (fun _ e => e.1)) ?_
  decide +kernel

def wClear : State :=
  { w0 with
    secClear := 0x8001, hbm := [(0, { mode := .scrubbing })], mem := [(5, 1), (2 ^ 37 + 3, 7)], tiles := [(3, { store := [(1, 1)] })],
    flash := { extents := [(4, { trimming := 2 })] } }

theorem test_clearing_section (h : Obligations.disablesAndClearingsComplete) : ∃ t, exec (.clearingEnd (.tileSection 15)) wClear = .next t := by
  refine (given fun c1 c2 => ((h.2 wClear).2.1 15 c1 c2).imp (fun _ e => e.1)) ?_
  decide +kernel

theorem test_clearing_stack (h : Obligations.disablesAndClearingsComplete) : ∃ t, exec (.clearingEnd (.stack 0)) wClear = .next t := by
  refine (given fun c1 => given fun c2 c3 => ((h.2 wClear).2.2.1 0 c1 c2 c3).imp (fun _ e => e.1)) ?_
  decide +kernel

theorem test_clearing_extent (h : Obligations.disablesAndClearingsComplete) : ∃ t, exec (.clearingEnd (.extent 4)) wClear = .next t :=
  ((h.2 wClear).2.2.2 4 (by decide +kernel)).imp (fun _ e => e.1)

def wNoTrace : State := w0.withCmd 0 (cmdOf opTRACE_SET [(0, 8, 11)])

theorem test_trace_refused (h : Obligations.reportCommandsComplete) : ∃ t, exec (.traceSet 0 1) wNoTrace = .next t := by
  refine (given fun c1 c2 => ((h.2 wNoTrace 1).1 c1 c2).imp (fun _ e => e.1)) ?_
  decide +kernel

def wNoFab : State := (w0.modPart 1 (fun x => { x with domain := 6 })).withCmd 0 (cmdOf opFAB_CONFIG [(0, 8, 255)])

theorem test_fab_refused (h : Obligations.reportCommandsComplete) : ∃ t, exec (.fabConfig 0 1) wNoFab = .next t := by
  refine (given fun c1 => given fun c2 c3 => ((h.2 wNoFab 1).2.1 c1 c2 c3).imp (fun _ e => e.1)) ?_
  decide +kernel

theorem test_part_refused (h : Obligations.reportCommandsComplete) : ∃ t, exec (.partSet 0 1) (wSet 9 5 6 2) = .next t := by
  refine (given fun c1 c2 => ((h.2 (wSet 9 5 6 2) 1).2.2 c1 c2).imp (fun _ e => e.1)) ?_
  decide +kernel

/-! ## Witnesses, part E1 -/

def pool1 : Pool := { pages := 4, pageBytes := 20480, pageAddr := 0x10000, metaAddr := 0x80000, tableAddr := 0x90000, tableFrames := 4 }

def wPool : State := w0.withCmd 1 (cmdOf opCTX_POOL [(0, 1, 3), (8, 8, 0x10000), (16, 4, 20480), (20, 4, 4), (24, 8, 0x80000), (32, 8, 0x90000), (40, 4, 4)])

theorem test_ctx_pool (h : Obligations.contextCommandsComplete) : ∃ t, exec (.ctxPool 1 1) wPool = .next t := by
  refine (given fun c1 => given fun c2 => given fun c3 => given fun c4 c5 => ((h.1 wPool _ 1 1 rfl).1 c1 c2 |>.1 _ c3 c4 rfl c5).imp (fun _ e => e.1)) ?_
  decide +kernel

/-- Entry 0 is an open context of one mapped page in pool 0. -/
def wCtx : State :=
  { w0.setPart 1 { part1 with pools := [(0, { pool1 with framesUsed := [(0, true), (1, true)] })] } with
    ctxs := [(0, { state := 1, owner := 1, fmt := 0xA, pool := 0, pos := 3, mapped := 1, root := 0x90000, openStamp := 9, lastStamp := 9 })]
    mem := fieldsAt 0x80000 [(0, 4, 1), (0x10000, 8, 2 ^ 63 + 0x91000), (0x11000, 8, 2 ^ 63)] }

def wOpen : State := wCtx.withCmd 1 (cmdOf opCTX_OPEN [(0, 1, 0xA), (3, 1, 0), (4, 2, 7)])

theorem test_ctx_open (h : Obligations.contextCommandsComplete) : ∃ t, exec (.ctxOpen 1 1) wOpen = .next t := by
  refine (given fun c1 => given fun c2 => given fun c3 => given fun c4 => given fun c5 => given fun c6 => given fun c7 c8 => (((h.1 wOpen _ 1 1 rfl).1 c1 c2).2 1 { pool1 with framesUsed := [(0, true), (1, true)] } c3 c4 c5 c6 c7 ⟨2, c8⟩).imp (fun _ e => e.1)) ?_
  decide +kernel

def wQuery : State := wCtx.withCmd 1 (cmdOf opCTX_QUERY [])

theorem test_ctx_query (h : Obligations.contextCommandsComplete) : ∃ t, exec (.ctxQuery 1 1) wQuery = .next t := by
  refine (given fun c1 => given fun c2 => given fun c3 c4 => ((h.1 wQuery _ 1 1 rfl).2 c1 c2 c3 c4).imp (fun _ e => e.1)) ?_
  decide +kernel

def wTrunc : State := wCtx.withCmd 1 (cmdOf opCTX_TRUNCATE [(4, 4, 1)])

theorem test_ctx_truncate (h : Obligations.contextCommandsComplete) : ∃ t, exec (.ctxTruncate 1 1) wTrunc = .next t := by
  refine (given fun c1 => given fun c2 => given fun c3 => given fun c4 => given fun c5 => given fun c6 => given fun c7 c8 => (((h.2 wTrunc _ 1 1 0 rfl c1 c2).2 c3 c4).1 c5 c6 c7 c8).imp (fun _ e => e.1)) ?_
  decide +kernel

def wTruncAll : State := wCtx.withCmd 1 (cmdOf opCTX_TRUNCATE [])

theorem test_ctx_truncate_all (h : Obligations.contextCommandsComplete) : ∃ t, exec (.ctxTruncate 1 1) wTruncAll = .next t := by
  refine (given fun c1 => given fun c2 => given fun c3 => given fun c4 => given fun c5 => given fun c6 => given fun c7 c8 => (((h.2 wTruncAll _ 1 1 0 rfl c1 c2).2 c3 c4).1 c5 c6 c7 c8).imp (fun _ e => e.1)) ?_
  decide +kernel

def wTruncWait : State := wTrunc.setCtx 0 { wTrunc.ctx 0 with appending := true }

theorem test_ctx_truncate_waits (h : Obligations.contextCommandsComplete) : ∃ t, exec (.ctxTruncate 1 1) wTruncWait = .next t := by
  refine (given fun c1 => given fun c2 => given fun c3 => given fun c4 => given fun c5 c6 => ((h.2 wTruncWait _ 1 1 0 rfl c1 c2).1 opCTX_TRUNCATE _ _ (.head _) c3 c4 c5 c6).imp (fun _ e => e.1)) ?_
  decide +kernel

def wFree : State := wCtx.withCmd 1 (cmdOf opCTX_FREE [])

theorem test_ctx_free (h : Obligations.contextCommandsComplete) : ∃ t, exec (.ctxFree 1 1) wFree = .next t := by
  refine (given fun c1 => given fun c2 => given fun c3 => given fun c4 => given fun c5 => given fun c6 => given fun c7 c8 => (((h.2 wFree _ 1 1 0 rfl c1 c2).2 c3 c4).2.1 c5 c6 c7 c8).imp (fun _ e => e.1)) ?_
  decide +kernel

def wFreeWait : State := wFree.setCtx 0 { wFree.ctx 0 with appending := true }

theorem test_ctx_free_waits (h : Obligations.contextCommandsComplete) : ∃ t, exec (.ctxFree 1 1) wFreeWait = .next t := by
  refine (given fun c1 => given fun c2 => given fun c3 => given fun c4 => given fun c5 c6 => ((h.2 wFreeWait _ 1 1 0 rfl c1 c2).1 opCTX_FREE _ _ (.tail _ (.head _)) c3 c4 c5 c6).imp (fun _ e => e.1)) ?_
  decide +kernel

def wFork (n : Nat) : State := wCtx.withCmd 1 (cmdOf opCTX_FORK [(4, 4, n), (8, 2, 5)])

theorem test_ctx_fork (h : Obligations.contextCommandsComplete) : ∃ t, exec (.ctxFork 1 1) (wFork 0) = .next t := by
  refine (given fun c1 => given fun c2 => given fun c3 => given fun c4 => given fun c5 => given fun c6 => given fun c7 => given fun c8 => given fun c9 => given fun c10 => given fun c11 => given fun c12 => given fun c13 c14 => ((((h.2 (wFork 0) _ 1 1 0 rfl c1 c2).2 c3 c4).2.2 c5 c6 c7 c8 c9).1 1 { pool1 with framesUsed := [(0, true), (1, true)] } c10 c11 c12 c13 ⟨2, c14⟩).imp (fun _ e => e.1)) ?_
  decide +kernel

theorem test_ctx_fork_page (h : Obligations.contextCommandsComplete) : ∃ t, exec (.ctxFork 1 1) (wFork 2) = .next t := by
  refine (given fun c1 => given fun c2 => given fun c3 => given fun c4 => given fun c5 => given fun c6 => given fun c7 => given fun c8 c9 => ((((h.2 (wFork 2) _ 1 1 0 rfl c1 c2).2 c3 c4).2.2 c5 c6 c7 c8 c9).2).imp (fun _ e => e.1)) ?_
  decide +kernel

/-! ## Witnesses, part E2 -/

/-- An image with one tile, its streams each an END. -/
def recHead (type target n : Nat) : List Byte := natLe type 1 ++ natLe 0 1 ++ natLe target 2 ++ natLe 0 4 ++ natLe n 4 ++ natLe 0 4

def imageRecs : List Byte :=
  recHead 1 3 1024 ++ List.replicate 1024 0 ++ (List.range 4).flatMap (fun e =>
    recHead (2 + e) 3 16 ++ natLe (0x04 * 2 ^ 120 + e * 2 ^ 118) 16)

def imageHead : List Byte :=
  natLe 0x47503257 4 ++ natLe 1 2 ++ natLe 0 2 ++ natLe 5 4 ++ natLe (crc32c imageRecs) 4 ++ natLe (32 + imageRecs.length) 8 ++ natLe 0 8

def wLoad : State :=
  { w0.withCmd 1 (cmdOf opLOAD_PROGRAM [(0, 1, 2), (8, 8, 0x4000), (16, 8, 1200)]) with mem := bytesFrom 0x4000 (imageHead ++ imageRecs) }

theorem test_load (h : Obligations.programsLoadAndRun) : ∃ t, exec (.loadProgram 1 1) wLoad = .next t := by
  refine (given fun c1 => given fun c2 => given fun c3 => given fun c4 => given fun c5 => given fun c6 => given fun c7 => given fun c8 => given fun c9 => given fun c10 c11 => ((h.1 wLoad _ 1 1 2 0x4000 1200 (((wLoad.take 1 1).beginCmd 1 1).imageCheck 1 2 1200 (BMap.writeBytes [] 0 (BMap.readBytes wLoad.mem 0x4000 1200))).2 c1 rfl c2 c3 c4 c5 c6 c7).1 c8 c9 c10 c11 (by rfl)).imp (fun _ e => e.1)) ?_
  decide +kernel

def wLoadHost : State := w0.withCmd 1 (cmdOf opLOAD_PROGRAM [(0, 1, 2), (8, 8, 2 ^ 63 + 8), (16, 8, 1200)])

theorem test_load_host (h : Obligations.programsLoadAndRun) : ∃ t, exec (.loadProgram 1 1) wLoadHost = .next t := by
  refine (given fun c1 => given fun c2 => given fun c3 => given fun c4 => given fun c5 => given fun c6 => given fun c7 => given fun c8 => given fun c9 c10 => ((h.1 wLoadHost _ 1 1 2 (2 ^ 63 + 8) 1200 {} c1 rfl c2 c3 c4 c5 c6 c7).2 c8 c9 c10).imp (fun _ e => e.1)) ?_
  decide +kernel

/-- Tile 3 and ATP 0 hold program 1; the tile's one descriptor lies at 0x1000. -/
def wProg : State :=
  { (wTrain.modPart 1 (fun x => { x with train := { x.train with step := 4 }, programs := [(1, { loaded := true, tiles := [3], atps := [0] })] })) with
    tiles := [(3, { program := some (1, 1), flags := 5, f := { imem := [(0, 0x04#128 <<< 120)], pc := 7 }
                    store := fieldsAt cfgBase [(320, 4, 0x1000), (324, 1, 1)] })]
    atps := [(0, { program := some (1, 1), ended := true, pc := 9 })] }

def wRun : State := wProg.withCmd 1 (cmdOf opRUN [(0, 1, 1), (1, 1, 1), (8, 8, 16)])

theorem test_run (h : Obligations.programsLoadAndRun) : ∃ t, exec (.run 1 1) wRun = .next t := by
  refine (given fun c1 => given fun c2 => given fun c3 => given fun c4 => given fun c5 => given fun c6 c7 => ((h.2 wRun _ 1 1 1 c1 rfl).1 c2 c3 c4 c5 c6 c7).imp (fun _ e => e.1)) ?_
  decide +kernel

def wRunOver : State :=
  { (wProg.modPart 1 (fun x => { x with programs := [(1, { loaded := true, tiles := [3], atps := [0], cmd := some (1, 1) })] })).withRun 1
      { cmdOf opRUN [(0, 1, 1)] with stage := 2 } with
    tiles := [(3, { program := some (1, 1), running := true, f := { ended := true }, m := { ended := true }, v := { ended := true }, s := { ended := true } })]
    atps := [(0, { program := some (1, 1), running := true, ended := true })] }

theorem test_run_complete (h : Obligations.programsLoadAndRun) : ∃ t, exec (.runComplete 1 1) wRunOver = .next t := by
  refine (given fun c1 => given fun c2 => given fun c3 => given fun c4 => given fun c5 c6 => ((h.2 wRunOver _ 1 1 1 c1 rfl).2 c2 c3 c4 c5 c6).imp (fun _ e => e.1)) ?_
  decide +kernel

/-- One SCALE record of a Chisel list at 0x5000. -/
def wList : State :=
  { w0.withCmd 1 (cmdOf opCHISEL_RUN [(0, 8, 0x5000), (8, 4, 1)]) with mem := fieldsAt 0x5000 [(0, 1, 0x0A), (1, 1, 0x66), (4, 4, 0x3F800000), (16, 8, 2 ^ 24), (40, 8, 4)] }

theorem test_chisel_run (h : Obligations.chiselsComplete) : ∃ t, exec (.chiselRun 1 1) wList = .next t := by
  refine (given fun c1 => given fun c2 => given fun c3 => given fun c4 => given fun c5 => given fun c6 => given fun c7 => given fun c8 c9 => (h.1 wList _ 1 1 c1 rfl c2 c3 c4 c5 c6 c7 ⟨0, c8⟩ c9).imp (fun _ e => e.elim (fun _ e => e.1))) ?_
  decide +kernel

def wSetup (mode : Nat) : State := wTrain.withCmd 1 (cmdOf opTRAIN_SETUP [(0, 1, mode), (4, 4, 1), (8, 8, 0x20000)])

theorem test_train_setup (h : Obligations.stepsComplete) : ∃ t, exec (.trainSetup 1 1) (wSetup 0) = .next t := by
  refine (given fun c1 => given fun c2 => given fun c3 c4 => ((h (wSetup 0) _ 1 1 rfl).1 c1 c2 c3 c4).imp (fun _ e => e.1)) ?_
  decide +kernel

theorem test_train_setup_kept (h : Obligations.stepsComplete) : ∃ t, exec (.trainSetup 1 1) (wSetup 1) = .next t := by
  refine (given fun c1 => given fun c2 => given fun c3 c4 => ((h (wSetup 1) _ 1 1 rfl).1 c1 c2 c3 c4).imp (fun _ e => e.1)) ?_
  decide +kernel

def wFence : State := wTrain.withCmd 1 (cmdOf opSTEP_FENCE [])

theorem test_step_fence (h : Obligations.stepsComplete) : ∃ t, exec (.stepFence 1 1) wFence = .next t := by
  refine (given fun c1 => given fun c2 => given fun c3 c4 => ((h wFence _ 1 1 rfl).2.1 c1 c2 c3 c4).imp (fun _ e => e.1)) ?_
  decide +kernel

def wFenced : State :=
  (wTrain.modPart 1 (fun x => { x with train := { x.train with step := 4, closed := 5, fence := some { fn := 1, slot := 1, step := 4, since := 9, met := some 12 } } })).withRun 1 (cmdOf opSTEP_FENCE [])

theorem test_step_fence_end (h : Obligations.stepsComplete) : ∃ t, exec (.stepFenceComplete 1 1) wFenced = .next t := by
  refine (given fun c1 => given fun c2 => given fun c3 => given fun c4 => given fun c5 => given fun c6 => given fun c7 c8 => ((h wFenced _ 1 1 rfl).2.2 { fn := 1, slot := 1, step := 4, since := 9, met := some 12 } c1 c2 c3 c4 c5 c6 c7 c8).imp (fun _ e => e.1)) ?_
  decide +kernel

def wHint : State := (w0.setPart 1 { part1 with extents := [0] }).withCmd 1 (cmdOf opTIER_HINT [(0, 4, 7), (4, 4, 3), (8, 1, 1)])

theorem test_tier_hint (h : Obligations.tierCommandsComplete) : ∃ t, exec (.tierHint 1 1) wHint = .next t := by
  refine (given fun c1 => given fun c2 => given fun c3 => given fun c4 => given fun c5 => given fun c6 => given fun c7 => given fun c8 => given fun c9 c10 => ((h wHint 1 1 7 3 c1 c2).1 .pin c3 c4 c5 c6 c7 c8 c9 c10).imp (fun _ e => e.1)) ?_
  decide +kernel

def wStatus : State := (w0.setPart 1 { part1 with extents := [0] }).withCmd 1 (cmdOf opTIER_STATUS [(0, 4, 7), (4, 4, 3), (8, 8, 0x4000)])

theorem test_tier_status (h : Obligations.tierCommandsComplete) : ∃ t, exec (.tierStatus 1 1) wStatus = .next t := by
  refine (given fun c1 => given fun c2 => given fun c3 => given fun c4 => given fun c5 => given fun c6 c7 => ((h wStatus 1 1 7 3 c1 c2).2 c3 c4 c5 c6 c7).imp (fun _ e => e.1)) ?_
  decide +kernel

/-! ## Witnesses, part E3 -/

/-- Partition 1 with one extent, which holds its Maquettes, and a journal of 16 entries at 0x50000. -/
def maqPart : Part := { part1 with extents := [0], maqCtl := 1, journal := 0x50000 }

/-- A COMMITTED slot 0 of step 7 with an empty image. -/
def emptySlot : SlotDesc := { state := slotCOMMITTED, step := 7, stamp := 3, grants := maqPart.grantCrc, image := crc32c [] }

/-- The store's pages are granted to the command in slot 1. -/
def wMaq (action : Nat) : State :=
  { (w0.setPart 1 maqPart).withCmd 1 (cmdOf opMAQUETTE [(0, 1, action)]) with
    flash := { data := bytesFrom 0 (descBytes emptySlot) }, grants := [0, 1, 16383, 16384, 16385].map (fun g => (.command 1 1, g, true)) }

/-- The state in which the command of an action has begun, and that in which its accesses are made. -/
def wMaqRun (action : Nat) : State := (((wMaq action).take 1 1).beginCmd 1 1).modCmd 1 1 (fun c => { c with stage := 3 })

def wMaqOn (action : Nat) (runs : List (Nat × Nat) × List (Nat × Nat)) : State :=
  ((wMaqRun action).ready 1 (runs.1.filter (fun r => r.2 != 0)) (runs.2.filter (fun r => r.2 != 0)) .write (.command 1 1)).2

def wTake : State := wMaqOn 0 ((wMaqRun 0).takeRuns 1)

theorem test_maquette_take (h : Obligations.maquettesComplete) : ∃ t, exec (.maquetteTake 1 1) (wMaq 0) = .next t := by
  refine (given fun c1 => given fun c2 => given fun c3 => given fun c4 => given fun c5 => given fun c6 => given fun c7 c8 => ((h (wMaq 0) (wMaqRun 0) wTake 1 1 ((wMaqRun 0).takeRuns 1) c1 c2 c3 c4 c5 rfl (Prod.ext c6 (by simp only [wTake, wMaqOn]))).1 c7 c8 rfl).imp (fun _ e => e.1)) ?_
  decide +kernel

def foundSlot : SlotDesc := { emptySlot with ok := true }

def wRoll : State := wMaqOn 1 ((wMaqRun 1).rollRuns 1)

theorem test_rollback (h : Obligations.maquettesComplete) : ∃ t, exec (.rollback 1 1) (wMaq 1) = .next t := by
  refine (given fun c1 => given fun c2 => given fun c3 => given fun c4 => given fun c5 => given fun c6 => given fun c7 => given fun c8 => given fun c9 => given fun c10 => given fun c11 => given fun c12 => given fun c13 c14 => ((h (wMaq 1) (wMaqRun 1) wRoll 1 1 ((wMaqRun 1).rollRuns 1) c1 c2 c3 c4 c5 rfl (Prod.ext c6 rfl)).2.1 0 foundSlot [] (wRoll.findSlot 1).2.2.2.2 c7 c8 rfl (Prod.ext c9 (Prod.ext c10 (Prod.ext c11 (Prod.ext c12 rfl)))) c13 c14).imp (fun _ e => e.1)) ?_
  decide +kernel

def wForward : State := wMaqOn 2 ((wMaqRun 2).replayRuns 1)

def wSound : State := (wForward.soundSlot 1 0).2.2.2

theorem test_rollforward (h : Obligations.maquettesComplete) : ∃ t, exec (.rollforward 1 1) (wMaq 2) = .next t := by
  refine (given fun c1 => given fun c2 => given fun c3 => given fun c4 => given fun c5 => given fun c6 => given fun c7 => given fun c8 => given fun c9 => given fun c10 => given fun c11 => given fun c12 => given fun c13 => given fun c14 => given fun c15 => given fun c16 c17 => ((h (wMaq 2) (wMaqRun 2) wForward 1 1 ((wMaqRun 2).replayRuns 1) c1 c2 c3 c4 c5 rfl (Prod.ext c6 rfl)).2.2 0 foundSlot [] wSound (wSound.journalAfter 1 0).2 [] _ c7 c8 rfl c9 (Prod.ext c10 (Prod.ext c11 (Prod.ext c12 rfl))) (Prod.ext c13 rfl) c14 rfl c15 c16 c17).imp (fun _ e => e.1)) ?_
  decide +kernel

/-! ## Witnesses, part F1 -/

def wNopI : State := wProgs.withTile { tile3 with m := { imem := [(2, word 0 1 0 0)], pc := 2 } }

theorem test_nop_instruction (h : Obligations.controlInstructionsIssue) : ∃ t, exec (.nopInstruction 3 .M) wNopI = .next t := by
  refine (given fun c1 c2 => ((h wNopI 3 .M (word 0 1 0 0) c1).1 c2).imp (fun _ e => e.1)) ?_
  decide +kernel

def wSeg : State := wProgs.withTile { tile3 with stream := true, v := { imem := [(2, word 1 2 0 7)], pc := 2 } }

theorem test_seg (h : Obligations.controlInstructionsIssue) : ∃ t, exec (.seg 3 .V) wSeg = .next t := by
  refine (given fun c1 => given fun c2 => given fun c3 c4 => ((h wSeg 3 .V (word 1 2 0 7) c1).2.1 c2 c3 c4).imp (fun _ e => e.1)) ?_
  decide +kernel

def wSegStep : State := wProgs.withTile { tile3 with f := { imem := [(2, word 1 0 0 0x10007)], pc := 2 } }

theorem test_seg_step (h : Obligations.controlInstructionsIssue) : ∃ t, exec (.seg 3 .F) wSegStep = .next t := by
  refine (given fun c1 => given fun c2 c3 => ((h wSegStep 3 .F (word 1 0 0 0x10007) c1).2.2.1 c2 c3).imp (fun _ e => e.1)) ?_
  decide +kernel

def wLoop : State := wProgs.withTile { tile3 with s := { imem := [(2, word 2 3 0 0x30009)], pc := 2 } }

theorem test_loop (h : Obligations.controlInstructionsIssue) : ∃ t, exec (.loop 3 .S) wLoop = .next t := by
  refine (given fun c1 c2 => ((h wLoop 3 .S (word 2 3 0 0x30009) c1).2.2.2.1 c2).imp (fun _ e => e.1)) ?_
  decide +kernel

def wReplay : State := wProgs.withTile { tile3 with m := { imem := [(1, word 1 1 0 5), (4, word 3 1 0 0x20005)], pc := 4 } }

theorem test_replay (h : Obligations.controlInstructionsIssue) : ∃ t, exec (.replay 3 .M) wReplay = .next t := by
  refine (given fun c1 => given fun c2 => given fun c3 => given fun c4 c5 => ((h wReplay 3 .M (word 3 1 0 0x20005) c1).2.2.2.2.1 c2 c3 c4 c5).imp (fun _ e => e.1)) ?_
  decide +kernel

def wEnd : State := wProgs.withTile { tile3 with v := { imem := [(4, word 4 2 0 0)], pc := 4 } }

theorem test_end_stream (h : Obligations.controlInstructionsIssue) : ∃ t, exec (.endStream 3 .V) wEnd = .next t := by
  refine (given fun c1 c2 => ((h wEnd 3 .V (word 4 2 0 0) c1).2.2.2.2.2 c2).imp (fun _ e => e.1)) ?_
  decide +kernel

/-- A NOP that waits on token 5. -/
def wWait (n : Nat) : State := wProgs.withTile { tile3 with m := { imem := [(2, word 0 1 (2 ^ 16 + 5 * 2 ^ 17) 0)], pc := 2 }, tokens := if n = 0 then [] else [(5, n)] }

theorem test_token_waits (h : Obligations.instructionsComplete) : ∃ t, exec (.nopInstruction 3 .M) (wWait 0) = .next t := by
  refine (given fun c1 => given fun c2 => given fun c3 => given fun c4 => given fun c5 => given fun c6 => given fun c7 => given fun c8 => given fun c9 => given fun c10 c11 => ((h.1 (wWait 0) 3 .M (word 0 1 (2 ^ 16 + 5 * 2 ^ 17) 0) c1 c2 c3 c4 c5 c6 c7 c8 c9).1 c10 c11).imp (fun _ e => e.1)) ?_
  decide +kernel

theorem test_token_taken (h : Obligations.instructionsComplete) : ∃ t, exec (.nopInstruction 3 .M) (wWait 2) = .next t := by
  refine (given fun c1 => given fun c2 => given fun c3 => given fun c4 => given fun c5 => given fun c6 => given fun c7 => given fun c8 => given fun c9 => given fun c10 => given fun c11 c12 => ((h.1 (wWait 2) 3 .M (word 0 1 (2 ^ 16 + 5 * 2 ^ 17) 0) c1 c2 c3 c4 c5 c6 c7 c8 c9).2.1 c10 c11 c12).imp (fun _ e => e.1)) ?_
  decide +kernel

/-- A NOP that acquires a slot of ring 3. -/
def wAcq : State := wProgs.withTile { tile3 with m := { imem := [(2, word 0 1 (2 ^ 5 + 3 * 2 ^ 6) 0)], pc := 2 }, rings := [(3, { full := 2, free := 1, consPtr := 1 })], store := fieldsAt cfgBase [(64 + 48 + 8, 1, 3)] }

theorem test_ring_acquired (h : Obligations.instructionsComplete) : ∃ t, exec (.nopInstruction 3 .M) wAcq = .next t := by
  refine (given fun c1 => given fun c2 => given fun c3 => given fun c4 => given fun c5 => given fun c6 => given fun c7 => given fun c8 => given fun c9 => given fun c10 => given fun c11 => given fun c12 c13 => ((h.1 wAcq 3 .M (word 0 1 (2 ^ 5 + 3 * 2 ^ 6) 0) c1 c2 c3 c4 c5 c6 c7 c8 c9).2.2 c10 c11 c12 c13).imp (fun _ e => e.1)) ?_
  decide +kernel

/-- An SSTORE whose effect is made: it signals token 6 here, token 9 of tile 8, and releases ring 3. -/
def doneWord : BitVec 128 := word 0x60 3 (1 + 3 * 2 + 2 ^ 10 + 6 * 2 ^ 11) (2 ^ 33 + 9 * 2 ^ 28 + 8 * 2 ^ 20)

def wDone1 : State := wProgs.withTile { tile3 with s := { flights := [{ id := 4, word := doneWord, ran := true }], nextId := 5, pc := 7 }, tokens := [(6, 65534)] }

theorem test_instruction_complete (h : Obligations.instructionsComplete) : ∃ t, exec (.instructionComplete 3 .S) wDone1 = .next t := by
  refine (given fun c1 => given fun c2 => given fun c3 => given fun c4 => given fun c5 => given fun c6 => given fun c7 c8 => (h.2 wDone1 3 .S { id := 4, word := doneWord, ran := true } [] c1 c2 c3 c4 c5 c6 c7 c8).imp (fun _ e => e.1)) ?_
  decide +kernel

def atMark (e : Nat) : EngineState := { imem := [(2, word 1 e 0 0x10007)], pc := 2, atStep := true }

def wBoundary : State := wProgs.withTile { tile3 with f := atMark 0, m := atMark 1, v := atMark 2, s := atMark 3, stream := true, steps := 4 }

theorem test_step_boundary (h : Obligations.tileEventsComplete) : ∃ t, exec (.stepBoundary 3) wBoundary = .next t := by
  refine (given fun c1 => given fun c2 => given fun c3 c4 => ((h wBoundary 3 c1 c2).1 (fun e => by cases e <;> decide +kernel) c3 c4).imp (fun _ e => e.1)) ?_
  decide +kernel

def endE : EngineState := { ended := true }

def wStuck : State := wProgs.withTile { tile3 with f := { imem := [(0, word 0 0 (2 ^ 16) 0)] }, m := endE, v := endE, s := endE, blockedAt := some 5 }

theorem test_watchdog (h : Obligations.tileEventsComplete) : ∃ t, exec (.watchdog 3) wStuck = .next t := by
  refine (given fun c1 => given fun c2 => given fun c3 => given fun c4 => given fun c5 => given fun c6 => given fun c7 => given fun c8 c9 => ((h wStuck 3 c1 c2).2.1 5 1 1 c3 c4 c5 c6 c7 c8 c9).imp (fun _ e => e.1)) ?_
  decide +kernel

def wSignal : State := { wStuck with signals := [(2, 1, 1), (3, 9, 1)] }

theorem test_remote_signal (h : Obligations.tileEventsComplete) : ∃ t, exec (.remoteSignal 3 9) wSignal = .next t := by
  refine (given fun c1 => given fun c2 => given fun c3 c4 => ((h wSignal 3 c1 c2).2.2.1 9 1 c3 c4).imp (fun _ e => e.1)) ?_
  decide +kernel

theorem test_tile_gate (h : Obligations.tileEventsComplete) : ∃ t, exec (.tileGate (.tile 3)) wStuck = .next t := by
  refine (given fun c1 => given fun c2 => given fun c3 => given fun c4 => given fun c5 c6 => ((h wStuck 3 c1 c2).2.2.2.1 5 c3 c4 c5 c6).imp (fun _ e => e.1)) ?_
  decide +kernel

def wAtpEnd : State := { wStuck with atps := [(15, { running := true, ended := true })] }

theorem test_atp_gate (h : Obligations.tileEventsComplete) : ∃ t, exec (.tileGate (.atp 15)) wAtpEnd = .next t := by
  refine (given fun c1 => given fun c2 => given fun c3 => given fun c4 c5 => ((h wAtpEnd 3 c1 c2).2.2.2.2 15 c3 c4 c5).imp (fun _ e => e.1)) ?_
  decide +kernel

def wMask : State := wProgs.withTile (atWord .M (word 0x21 1 0 (2 + 8 * 5 + 2 ^ 34 * 3)) [])

theorem test_mmask (h : Obligations.matrixInstructionsIssue) : ∃ t, exec (.mmask 3) wMask = .next t := by
  refine (given fun c1 c2 => ((h wMask 3 (word 0x21 1 0 (2 + 8 * 5 + 2 ^ 34 * 3)) c1).1 c2).imp (fun _ e => e.1)) ?_
  decide +kernel

def openWord : BitVec 128 := word 0x20 1 0 (2 + 2 ^ 7 * 8 + 2 ^ 18 * 9 + 2 ^ 41)

def wOpenG : State := wProgs.withTile { atWord .M openWord [(40, 0xFF)] with masks := [(2, some ⟨40, 1, 0, 0⟩)] }

theorem test_mopen (h : Obligations.matrixInstructionsIssue) : ∃ t, exec (.mopen 3) wOpenG = .next t := by
  refine (given fun c1 => given fun c2 => given fun c3 => given fun c4 c5 => ((h wOpenG 3 openWord c1).2.1 (openGroup openWord (some ⟨40, 1, 0, 0⟩)) c2 c3 c4 c5).imp (fun _ e => e.1)) ?_
  decide +kernel

/-- Two S8 operands of 16 elements along K and two rows, their scales 127, and an open group. -/
def maccWord : BitVec 128 := word 0x22 1 0 (0 + 2 ^ 8 * 1 + 2 ^ 16 * 2)

def maccStore : BMap := storeOf (bytesFrom 0x2000 ((List.range 32).map (fun i => BitVec.ofNat 8 (i + 1))) ++ [(0x3000, 127), (0x3001, 127)])
  (tensor 0 0x2000 0x3000 [16, 2] [1, 16] 0x400 ++ tensor 1 0x2000 0x3000 [16, 2] [1, 16] 0x400)

def group2 : Group := { isOpen := true, spillAddr := 0x4000, resultAddr := 0x4800 }

def wMacc : State := wProgs.withTile { atWord .M maccWord maccStore with groups := [(1, { isOpen := true }), (2, group2)] }

def maccView : View := { fmt := 0, bs := 16, sd := 0, layout := 0, check := false, ts := true, base := 0x2000, sbase := 0x3000, off := 0, ext := [16, 2, 1, 1, 1], stride := [1, 16, 0, 0, 0], pstride := [1, 1, 0, 0, 0] }

theorem test_macc (h : Obligations.matrixInstructionsIssue) : ∃ t, exec (.macc 3 .clean) wMacc = .next t := by
  refine (given fun c1 => given fun c2 => given fun c3 => given fun c4 => given fun c5 => given fun c6 => given fun c7 => given fun c8 => given fun c9 => given fun c10 c11 => ((h wMacc 3 maccWord c1).2.2.1 maccView maccView ⟨maccView, false, (wMacc.tile 3).store⟩ ⟨maccView, false, (wMacc.tile 3).store⟩ c2 c3 c4 (by rfl) (by rfl) c5 c6 c7 c8 c9 c10 c11).imp (fun _ e => e.1)) ?_
  decide +kernel

def wClose : State := wProgs.withTile { atWord .M (word 0x23 1 0 2) maccStore with groups := [(2, { group2 with ladders := [(3, { levels := [(0, some 0x3FF000000000)] })] })] }

theorem test_mclose (h : Obligations.matrixInstructionsIssue) : ∃ t, exec (.mclose 3) wClose = .next t := by
  refine (given fun c1 => given fun c2 => given fun c3 c4 => ((h wClose 3 (word 0x23 1 0 2) c1).2.2.2 { group2 with ladders := [(3, { levels := [(0, some 0x3FF000000000)] })] } c2 c3 c4).imp (fun _ e => e.1)) ?_
  decide +kernel

def wSignalX : State := { wStuck with signals := [(3, 9, 2)] }

theorem test_remote_signal_dropped (h : Obligations.tileEventsComplete) : ∃ t, exec (.remoteSignal 3 9) wSignalX = .next t := by
  refine (given fun c1 => given fun c2 => given fun c3 c4 => ((h wSignalX 3 c1 c2).2.2.1 9 2 c3 c4).imp (fun _ e => e.1)) ?_
  decide +kernel

/-! ## Witnesses, part F2 -/

def wV (w : BitVec 128) (m : BMap) : State := wProgs.withTile { atWord .V w m with vregs := [(2, BitVec.ofNat 2048 0xC00000003F800000), (3, BitVec.ofNat 2048 0x3F00000040000000)] }

def vmodeWord : BitVec 128 := word 0x40 2 0 1

theorem test_vmode (h : Obligations.vectorInstructionsIssue) : ∃ t, exec (.vmode 3) (wV vmodeWord []) = .next t := by
  refine (given fun c1 => given fun c2 => given fun c3 c4 => ((h.1 (wV vmodeWord []) 3 vmodeWord _ c1 rfl).1 c2 c3 c4).imp (fun _ e => e.1)) ?_
  decide +kernel

def vseedWord : BitVec 128 := word 0x48 2 0 0

theorem test_vseed (h : Obligations.vectorInstructionsIssue) : ∃ t, exec (.vseed 3) (wV vseedWord []) = .next t := by
  refine (given fun c1 c2 => ((h.1 (wV vseedWord []) 3 vseedWord _ c1 rfl).2.1 c2).imp (fun _ e => e.1)) ?_
  decide +kernel

def vopWord : BitVec 128 := word 0x41 2 0 (3 + 2 ^ 4 + 2 ^ 8 * 1 + 2 ^ 13 * 2 + 2 ^ 18 * 3)

theorem test_vop (h : Obligations.vectorInstructionsIssue) : ∃ t, exec (.vop 3 .clean) (wV vopWord []) = .next t := by
  refine (given fun c1 => given fun c2 => given fun c3 c4 => ((h.1 (wV vopWord []) 3 vopWord _ c1 rfl).2.2.1 c2 c3 c4).imp (fun _ e => e.1)) ?_
  decide +kernel

def vlutWord : BitVec 128 := word 0x41 2 0 (14 + 2 ^ 8 * 1 + 2 ^ 13 * 2 + 2 ^ 37 * 5)

def wVlut : State := (wV vlutWord []).modTile 3 (fun x => { x with tables := [(5, some { n := 2, x0 := 0, invH := 0x3F800000, values := [(0, 0x40000000), (1, 0x40800000)] })] })

theorem test_vlut (h : Obligations.vectorInstructionsIssue) : ∃ t, exec (.vlut 3) wVlut = .next t := by
  refine (given fun c1 => given fun c2 => given fun c3 => given fun c4 c5 => ((h.1 wVlut 3 vlutWord _ c1 rfl).2.2.2.1 c2 c3 c4 c5).imp (fun _ e => e.1)) ?_
  decide +kernel

def vtloadWord : BitVec 128 := word 0x45 2 0 (5 + 2 ^ 3 * 0x400)

def wVtload : State := wV vtloadWord (storeOf (fieldsAt 0x2000 [(0, 4, 3), (4, 4, 0xBF800000), (8, 4, 0x3F800000), (16, 4, 7), (20, 4, 8), (24, 4, 0xFFFFFFFF)]) [])

theorem test_vtload (h : Obligations.vectorInstructionsIssue) : ∃ t, exec (.vtload 3) wVtload = .next t := by
  refine (given fun c1 => given fun c2 => given fun c3 => given fun c4 => given fun c5 => given fun c6 => given fun c7 => given fun c8 c9 => ((h.1 wVtload 3 vtloadWord _ c1 rfl).2.2.2.2.1 0x2000 3 c2 c3 c4 c5 c6 c7 c8 c9).imp (fun _ e => e.elim (fun _ e => e.1))) ?_
  decide +kernel

/-- A view of 70 FP32 (format 6), S32 (7), BF16 (4) elements at 0x2000. -/
def row70 (fmt : Nat) : View := { fmt := fmt, bs := 1, sd := 0, layout := 0, check := false, ts := true, base := 0x2000, sbase := 0, off := 0, ext := [70, 1, 1, 1, 1], stride := [1, 0, 0, 0, 0], pstride := [0, 0, 0, 0, 0] }

def row70Store (fmt : Nat) : BMap := storeOf (fieldsAt 0x2000 [(0x100, 4, 0x3F800000), (0x104, 4, 0x7FC00001), (0x114, 4, 9)]) (tensor 0 0x2000 0 [70] [1] (0x400 + fmt))

def vldWord : BitVec 128 := word 0x42 2 0 (2 ^ 8 * 4 + 2 ^ 16)

theorem test_vld (h : Obligations.vectorInstructionsIssue) : ∃ t, exec (.vld 3) (wV vldWord (row70Store 6)) = .next t := by
  refine (given fun c1 => given fun c2 => given fun c3 => given fun c4 => given fun c5 c6 => ((h.1 (wV vldWord (row70Store 6)) 3 vldWord _ c1 rfl).2.2.2.2.2.1 (row70 6) _ _ c2 c3 c4 c5 c6 rfl rfl).imp (fun _ e => e.1)) ?_
  decide +kernel

theorem test_vld_s32 (h : Obligations.vectorInstructionsIssue) : ∃ t, exec (.vld 3) (wV vldWord (row70Store 7)) = .next t := by
  refine (given fun c1 => given fun c2 => given fun c3 => given fun c4 => given fun c5 c6 => ((h.1 (wV vldWord (row70Store 7)) 3 vldWord _ c1 rfl).2.2.2.2.2.1 (row70 7) _ _ c2 c3 c4 c5 c6 rfl rfl).imp (fun _ e => e.1)) ?_
  decide +kernel

def vstWord : BitVec 128 := word 0x43 2 0 (2 ^ 8 * 2 + 2 ^ 14 * 2 + 2 ^ 16)

theorem test_vst (h : Obligations.vectorInstructionsIssue) : ∃ t, exec (.vst 3) (wV vstWord (row70Store 4)) = .next t := by
  refine (given fun c1 => given fun c2 => given fun c3 => given fun c4 c5 => ((h.1 (wV vstWord (row70Store 4)) 3 vstWord _ c1 rfl).2.2.2.2.2.2 (row70 4) c2 c3 c4 c5).imp (fun _ e => e.1)) ?_
  decide +kernel

def vstPacked : BitVec 128 := word 0x43 2 0 (2 ^ 8 * 2 + 2 ^ 13)

theorem test_vst_packed (h : Obligations.vectorInstructionsIssue) : ∃ t, exec (.vst 3) (wV vstPacked (row70Store 4)) = .next t := by
  refine (given fun c1 => given fun c2 => given fun c3 => given fun c4 c5 => ((h.1 (wV vstPacked (row70Store 4)) 3 vstPacked _ c1 rfl).2.2.2.2.2.2 (row70 4) c2 c3 c4 c5).imp (fun _ e => e.1)) ?_
  decide +kernel

def vredWord (action ops : Nat) : BitVec 128 := word 0x46 2 0 (action + 4 * 1 + ops)

theorem test_vred_open (h : Obligations.vectorInstructionsIssue) : ∃ t, exec (.vredOpen 3) (wV (vredWord 0 (16 * 5)) []) = .next t := by
  refine (given fun c1 => given fun c2 => given fun c3 => given fun c4 => given fun c5 c6 => ((h.2 (wV (vredWord 0 (16 * 5)) []) 3 (vredWord 0 (16 * 5)) _ c1 rfl).1 c2 c3 c4 c5 c6).imp (fun _ e => e.1)) ?_
  decide +kernel

def wPut : State := (wV (vredWord 1 (2 ^ 7 * 2 + 2 ^ 12 * 1)) []).modTile 3 (fun x => { x with reds := [(1, some { op := 1 })] })

theorem test_vred_put (h : Obligations.vectorInstructionsIssue) : ∃ t, exec (.vredPut 3) wPut = .next t := by
  refine (given fun c1 => given fun c2 => given fun c3 c4 => ((h.2 wPut 3 (vredWord 1 (2 ^ 7 * 2 + 2 ^ 12 * 1)) _ c1 rfl).2.1 { op := 1 } c2 c3 c4).imp (fun _ e => e.1)) ?_
  decide +kernel

def wCloseR (r : RedSlot) : State := (wV (vredWord 2 (2 ^ 7 * 30)) []).modTile 3 (fun x => { x with reds := [(1, some r)] })

theorem test_vred_close (h : Obligations.vectorInstructionsIssue) : ∃ t, exec (.vredClose 3) (wCloseR { op := 2, levels := [(0, some 0x3FF0000000000000)] }) = .next t := by
  refine (given fun c1 => given fun c2 => given fun c3 => given fun c4 => given fun c5 => given fun c6 c7 => ((h.2 (wCloseR { op := 2, levels := [(0, some 0x3FF0000000000000)] }) 3 (vredWord 2 (2 ^ 7 * 30)) _ c1 rfl).2.2.1 { op := 2, levels := [(0, some 0x3FF0000000000000)] } c2 c3 c4 c5 c6 c7).imp (fun _ e => e.1)) ?_
  decide +kernel

theorem test_vred_close_argmax (h : Obligations.vectorInstructionsIssue) : ∃ t, exec (.vredClose 3) (wCloseR { op := 5, best := some 0x40000000, index := 6 }) = .next t := by
  refine (given fun c1 => given fun c2 => given fun c3 => given fun c4 => given fun c5 => given fun c6 c7 => ((h.2 (wCloseR { op := 5, best := some 0x40000000, index := 6 }) 3 (vredWord 2 (2 ^ 7 * 30)) _ c1 rfl).2.2.1 { op := 5, best := some 0x40000000, index := 6 } c2 c3 c4 c5 c6 c7).imp (fun _ e => e.1)) ?_
  decide +kernel

def fp64View (base : Nat) (ext : List Nat) (stride : List Int) : View := { fmt := 9, bs := 1, sd := 0, layout := 0, check := false, ts := true, base := base, sbase := 0, off := 0, ext := ext, stride := stride, pstride := [0, 0, 0, 0, 0] }

def vpsumWord : BitVec 128 := word 0x47 2 0 (2 ^ 8 * 1)

def wPsum : State := wV vpsumWord (storeOf (fieldsAt 0x2000 [(0, 8, 0x3FF0000000000000), (8, 8, 0x4000000000000000), (16, 8, 0x3FF0000000000000)])
  (tensor 0 0x2000 0 [2, 3] [1, 2] 0x409 ++ tensor 1 0x3000 0 [2] [1] 0x409))

theorem test_vpsum (h : Obligations.vectorInstructionsIssue) : ∃ t, exec (.vpsum 3) wPsum = .next t := by
  refine (given fun c1 => given fun c2 => given fun c3 => given fun c4 => given fun c5 => given fun c6 => given fun c7 => given fun c8 => given fun c9 => given fun c10 => given fun c11 c12 => ((h.2 wPsum 3 vpsumWord _ c1 rfl).2.2.2.1 (fp64View 0x2000 [2, 3, 1, 1, 1] [1, 2, 0, 0, 0]) (fp64View 0x3000 [2, 1, 1, 1, 1] [1, 0, 0, 0, 0]) 3 2 c2 c3 c4 c5 c6 c7 c8 c9 c10 c11 c12).imp (fun _ e => e.1)) ?_
  decide +kernel

/-- A VSTREAM of one stage, A + A, over descriptor 0 to descriptor 1, its record at 0x1000 and its plan at 0x1100. -/
def vstreamWord : BitVec 128 := word 0x44 2 0 (0 + 2 ^ 8 * 255 + 2 ^ 16 * 255 + 2 ^ 24 * 1 + 2 ^ 32 * 0x200)

def fp32View (base : Nat) : View := { fmt := 6, bs := 1, sd := 0, layout := 0, check := false, ts := true, base := base, sbase := 0, off := 0, ext := [3, 1, 1, 1, 1], stride := [1, 0, 0, 0, 0], pstride := [0, 0, 0, 0, 0] }

def streamStore : BMap := storeOf (fieldsAt 0x1000 [(0, 4, 0x1100), (4, 1, 1), (0x100, 8, 3 + 2 ^ 8 * 1 + 2 ^ 11 * 1)] ++ fieldsAt 0x2000 [(0, 4, 0x3F800000), (8, 4, 0xC0000000)])
  (tensor 0 0x2000 0 [3] [1] 0x406 ++ tensor 1 0x3000 0 [3] [1] 0x406)

def wStream : State := wV vstreamWord streamStore

theorem test_vstream (h : Obligations.vectorInstructionsIssue) : ∃ t, exec (.vstream 3) wStream = .next t := by
  refine (given fun c1 => given fun c2 => given fun c3 => given fun c4 => given fun c5 => given fun c6 => given fun c7 => given fun c8 => given fun c9 => given fun c10 => given fun c11 => given fun c12 c13 => ((h.2 wStream 3 vstreamWord _ c1 rfl).2.2.2.2 (readStream streamStore 0x1000) _ (fp32View 0x2000) c2 c3 c4 c5 c6 c7 c8 c9 c10 c11 c12 rfl c13).imp (fun _ e => e.1)) ?_
  decide +kernel

/-- A view of 3 FP32 elements anywhere, and of `n` S32 elements. -/
def viewAt (fmt n : Nat) (ts : Bool) (base : Nat) : View := { fmt := fmt, bs := 1, sd := 0, layout := 0, check := false, ts := ts, base := base, sbase := 0, off := 0, ext := [n, 1, 1, 1, 1], stride := [1, 0, 0, 0, 0], pstride := [0, 0, 0, 0, 0] }

def tensorAt (i fmt n : Nat) (ts : Bool) (base : Nat) : List (Nat × Nat × Nat) := tensor i base 0 [n] [1] ((if ts then 0x400 else 0) + fmt)

def wF (e : Engine) (w : BitVec 128) (m : BMap) : State := { wProgs.withTile (atWord e w m) with mem := fieldsAt 0x47F0 [(0, 4, 0x3F800000), (8, 4, 0xC0000000)] }

def floadWord : BitVec 128 := word 0x10 0 0 (2 ^ 8 * 1)

def floadStore (a : Nat) : BMap := storeOf [] (tensorAt 0 6 3 false a ++ tensorAt 1 6 3 true 0x2000)

theorem test_fload (h : Obligations.loadsAndMulticastsIssue) : ∃ t, exec (.fload 3 .clean) (wF .F floadWord (floadStore 0x47F0)) = .next t := by
  refine (given fun c1 => given fun c2 => given fun c3 => given fun c4 => given fun c5 => given fun c6 => given fun c7 => given fun c8 => given fun c9 => given fun c10 => given fun c11 => given fun c12 c13 => ((((h (wF .F floadWord (floadStore 0x47F0)) 3 1 floadWord _ rfl c1).1 c2).1 (viewAt 6 3 false 0x47F0) (viewAt 6 3 true 0x2000) 0x47F0 12 c3 c4 c5 c6 c7 c8 c9 c10).1 c11 c12 c13).imp (fun _ e => e.1)) ?_
  decide +kernel

theorem test_fload_host (h : Obligations.loadsAndMulticastsIssue) : ∃ t, exec (.fload 3 .clean) (wF .F floadWord (floadStore (2 ^ 63 + 0x2000))) = .next t := by
  refine (given fun c1 => given fun c2 => given fun c3 => given fun c4 => given fun c5 => given fun c6 => given fun c7 => given fun c8 => given fun c9 => given fun c10 => given fun c11 => given fun c12 => given fun c13 c14 => ((((h (wF .F floadWord (floadStore (2 ^ 63 + 0x2000))) 3 1 floadWord _ rfl c1).1 c2).1 (viewAt 6 3 false (2 ^ 63 + 0x2000)) (viewAt 6 3 true 0x2000) (2 ^ 63 + 0x2000) 12 c3 c4 c5 c6 c7 c8 c9 c10).2 0x2000 c11 c12 c13 c14).imp (fun _ e => e.1)) ?_
  decide +kernel

def frecvWord : BitVec 128 := word 0x12 0 0 (2 ^ 8 * 1 + 2 ^ 16 * 4 + 2 ^ 20 * 77)

theorem test_frecv (h : Obligations.loadsAndMulticastsIssue) : ∃ t, exec (.frecv 3) (wF .F frecvWord (floadStore 0)) = .next t := by
  refine (given fun c1 => given fun c2 => given fun c3 => given fun c4 => given fun c5 c6 => (((h (wF .F frecvWord (floadStore 0)) 3 1 frecvWord _ rfl c1).1 c2).2.1 (viewAt 6 3 true 0x2000) c3 c4 c5 c6).imp (fun _ e => e.1)) ?_
  decide +kernel

def fhintWord : BitVec 128 := word 0x13 0 0 (2 ^ 8 * 1)

def wHintF : State := (wF .F fhintWord (storeOf [] (tensorAt 0 6 3 false (tierBase + 0x1FFFFC)))).modPart 1 (fun x => { x with extents := [0] })

theorem test_fhint (h : Obligations.loadsAndMulticastsIssue) : ∃ t, exec (.fhint 3) wHintF = .next t := by
  refine (given fun c1 => given fun c2 => given fun c3 => given fun c4 => given fun c5 => given fun c6 => given fun c7 c8 => (((h wHintF 3 1 fhintWord _ rfl c1).1 c2).2.2.1 (viewAt 6 3 false (tierBase + 0x1FFFFC)) .pin c3 c4 c5 c6 c7 c8).imp (fun _ e => e.1)) ?_
  decide +kernel

def fmcastWord : BitVec 128 := word 0x11 0 0 (1 + 2 ^ 8 * 255 + 2 ^ 16 * 4 + 2 ^ 20 * 77)

def wMcast : State := (wF .F fmcastWord (floadStore 0)).modPart 1 (fun x => { x with sets := [(4, 2 ^ 5)] })

theorem test_fmcast (h : Obligations.loadsAndMulticastsIssue) : ∃ t, exec (.fmcast 3) wMcast = .next t := by
  refine (given fun c1 => given fun c2 => given fun c3 => given fun c4 => given fun c5 => given fun c6 c7 => (((h wMcast 3 1 fmcastWord _ rfl c1).1 c2).2.2.2 (viewAt 6 3 true 0x2000) c3 c4 c5 (Or.inl ⟨c6, c7⟩)).imp (fun _ e => e.1)) ?_
  decide +kernel

def fmcastSelf : BitVec 128 := word 0x11 0 0 (1 + 2 ^ 8 * 1 + 2 ^ 16 * 4 + 2 ^ 20 * 77)

def wMcastSelf : State := (wF .F fmcastSelf (floadStore 0)).modPart 1 (fun x => { x with sets := [(4, 2 ^ 5 + 2 ^ 3)] })

theorem test_fmcast_self (h : Obligations.loadsAndMulticastsIssue) : ∃ t, exec (.fmcast 3) wMcastSelf = .next t := by
  refine (given fun c1 => given fun c2 => given fun c3 => given fun c4 => given fun c5 c6 => (((h wMcastSelf 3 1 fmcastSelf _ rfl c1).1 c2).2.2.2 (viewAt 6 3 true 0x2000) c3 c4 c5 (Or.inr c6)).imp (fun _ e => e.1)) ?_
  decide +kernel

def castFlight : Flight := { id := 2, word := fmcastWord, src := some (viewAt 6 3 true 0x2000) }

def recvFlight : Flight := { id := 6, word := frecvWord, dst := some (viewAt 6 3 true 0x3000) }

def wDeliver : State :=
  { wMcast with tiles := [(3, { tile3 with f := { flights := [castFlight], nextId := 3 }, store := fieldsAt 0x2000 [(0, 4, 5)] }),
      (5, { tile3 with f := { flights := [recvFlight], nextId := 7 }, receipts := [⟨4, 77, 6⟩] })] }

theorem test_multicast_deliver (h : Obligations.loadsAndMulticastsIssue) : ∃ t, exec (.multicastDeliver 3) wDeliver = .next t := by
  refine (given fun c1 => given fun c2 => given fun c3 => given fun c4 => given fun c5 => given fun c6 => given fun c7 => given fun c8 => given fun c9 => given fun c10 => given fun c11 => given fun c12 c13 => ((h wDeliver 3 1 fmcastWord _ rfl c1).2 castFlight recvFlight (viewAt 6 3 true 0x2000) (viewAt 6 3 true 0x3000) ⟨4, 77, 6⟩ 5 c2 c3 c4 c5 c6 c7 c8 c9 c10 c11 c12 c13).imp (fun _ e => e.1)) ?_
  decide +kernel

def sstoreWord : BitVec 128 := word 0x60 3 0 (2 ^ 8 * 1)

def storeBytes : BMap := fieldsAt 0x2000 [(0, 4, 0x3F800000), (4, 4, 7), (8, 4, 0x80000000)]

def wStore : State := wF .S sstoreWord (storeOf storeBytes (tensorAt 0 6 3 true 0x2000 ++ tensorAt 1 6 3 false 0x47F4))

theorem test_sstore (h : Obligations.storesAndFencesIssue) : ∃ t, exec (.sstore 3) wStore = .next t := by
  refine (given fun c1 => given fun c2 => given fun c3 => given fun c4 => given fun c5 => given fun c6 => given fun c7 => given fun c8 => given fun c9 => given fun c10 => given fun c11 => given fun c12 => given fun c13 => given fun c14 c15 => ((h wStore 3 1 sstoreWord _ c1 rfl c2 c3).1 (viewAt 6 3 true 0x2000) (viewAt 6 3 false 0x47F4) [[0, 0, 0, 0, 0], [1, 0, 0, 0, 0], [2, 0, 0, 0, 0]] 0x47F4 (natLe 0x3F800000 4 ++ natLe 7 4 ++ natLe 0x80000000 4) c4 c5 c6 c7 c8 c9 c10 c11 c12 c13 c14 c15).imp (fun _ e => e.1)) ?_
  decide +kernel

def saddWord : BitVec 128 := word 0x61 3 0 (2 ^ 8 * 1)

def wSadd (w : BitVec 128) (fmt : Nat) : State := wF .S w (storeOf storeBytes (tensorAt 0 fmt 3 true 0x2000 ++ tensorAt 1 fmt 3 false 0x47F0))

theorem test_sadd (h : Obligations.storesAndFencesIssue) : ∃ t, exec (.sadd 3) (wSadd saddWord 6) = .next t := by
  refine (given fun c1 => given fun c2 => given fun c3 => given fun c4 => given fun c5 => given fun c6 => given fun c7 => given fun c8 => given fun c9 => given fun c10 => given fun c11 => given fun c12 => given fun c13 c14 => ((h (wSadd saddWord 6) 3 1 saddWord _ c1 rfl c2 c3).2.1 (viewAt 6 3 true 0x2000) (viewAt 6 3 false 0x47F0) 0x47F0 (natLe 0x3F800000 4 ++ natLe 7 4 ++ natLe 0x80000000 4) (.sadd 3) 0 c4 c5 (Or.inl ⟨c6, rfl, c7⟩) c8 c9 c10 c11 c12 c13 c14).imp (fun _ e => e.1)) ?_
  decide +kernel

def saccwWord : BitVec 128 := word 0x62 3 0 (2 ^ 8 * 1)

theorem test_saccw (h : Obligations.storesAndFencesIssue) : ∃ t, exec (.saccw 3) (wSadd saccwWord 7) = .next t := by
  refine (given fun c1 => given fun c2 => given fun c3 => given fun c4 => given fun c5 => given fun c6 => given fun c7 => given fun c8 => given fun c9 => given fun c10 => given fun c11 => given fun c12 => given fun c13 c14 => ((h (wSadd saccwWord 7) 3 1 saccwWord _ c1 rfl c2 c3).2.1 (viewAt 7 3 true 0x2000) (viewAt 7 3 false 0x47F0) 0x47F0 (natLe 0x3F800000 4 ++ natLe 7 4 ++ natLe 0x80000000 4) (.saccw 3) 3 c4 c5 (Or.inr ⟨c6, rfl, c7⟩) c8 c9 c10 c11 c12 c13 c14).imp (fun _ e => e.1)) ?_
  decide +kernel

def scfenceWord : BitVec 128 := word 0x63 3 0 1

def wScf : State := { (wF .S scfenceWord (storeOf storeBytes (tensorAt 0 6 3 true 0x2000 ++ tensorAt 1 6 3 false 0x47F4))) with
  chisel := [{ id := 2, pt := 1, fn := 1, slot := 4, records := [(fieldsAt 0 [(0, 1, 0x0A), (1, 1, 0x66), (4, 4, 0x3F800000), (16, 8, 0), (40, 8, 4)]).foldl (fun l e => l.set e.1 e.2) (List.replicate 64 0)] }] }

theorem test_scfence (h : Obligations.storesAndFencesIssue) : ∃ t, exec (.scfence 3) wScf = .next t := by
  refine (given fun c1 => given fun c2 => given fun c3 => given fun c4 => given fun c5 => given fun c6 => given fun c7 c8 => ((h wScf 3 1 scfenceWord _ c1 rfl c2 c3).2.2 (viewAt 6 3 false 0x47F4) c4 c5 c6 c7 c8).imp (fun _ e => e.1)) ?_
  decide +kernel

/-! ## Witnesses, part G -/

/-- An ATP of partition 1 at record 2 of its job memory. -/
def atpAt (fs : List (Nat × Nat × Nat)) : Atp := { program := some (1, 1), running := true, jobs := fieldsAt 256 fs, pc := 2 }

def State.withAtp (s : State) (x : Atp) : State := { s with atps := [(0, x)] }

/-- Descriptors of a query and an output row of 32 BF16 values and of one KV8 key and value, with metadata, in stack 0. -/
def attnMem : BMap := fieldsAt 0x4000 (tensor 0 0x6000 0 [32, 1] [1, 32] 4 ++ tensor 1 0x6100 0 [32, 1] [1, 32] 4 ++
    tensor 2 0x6200 0x6300 [32, 1] [1, 32] 0x1A ++ tensor 3 0x6400 0x6500 [32, 1] [1, 32] 0x1A) ++
  fieldsAt 0x6000 [(0, 2, 0x3F80), (2, 2, 0x4000), (0x200, 1, 3), (0x201, 1, 5), (0x300, 1, 127), (0x400, 1, 7), (0x500, 1, 127)]

def attendRec : List (Nat × Nat × Nat) :=
  [(2, 1, 0), (4, 2, 1), (8, 1, 1), (16, 4, 0x3F800000), (24, 8, 0x4000), (32, 8, 0x4040), (40, 8, 0x5000), (56, 8, 0x4080), (64, 8, 0x40C0), (72, 8, 0x5100), (84, 4, 1)]

def wAttend : State := { wProgs.withAtp (atpAt attendRec) with mem := attnMem }

def descRuns : List (Nat × Nat) := [(0x4000, 64), (0x4040, 64), (0x4080, 64), (0x40C0, 64)]

/-- The views of those descriptors. -/
def bfRow (base : Nat) : View := { fmt := 4, bs := 1, sd := 0, layout := 0, check := false, ts := false, base := base, sbase := 0, off := 0, ext := [32, 1, 1, 1, 1], stride := [1, 32, 0, 0, 0], pstride := [0, 0, 0, 0, 0] }

def kvRow (base : Nat) : View := { fmt := 10, bs := 32, sd := 0, layout := 0, check := false, ts := false, base := base, sbase := base + 0x100, off := 0, ext := [32, 1, 1, 1, 1], stride := [1, 32, 0, 0, 0], pstride := [1, 1, 0, 0, 0] }

def attendRuns : List (Nat × Nat) := descRuns ++ [(0x6000, 64), (0x5000, 8)]

theorem test_attend (h : Obligations.jobsStart) : ∃ t, exec (.attend 0) wAttend = .next t := by
  refine (given fun c1 => given fun c2 => given fun c3 => given fun c4 => given fun c5 => given fun c6 => given fun c7 => given fun c8 => given fun c9 => given fun c10 => given fun c11 => given fun c12 c13 => ((h wAttend 0 1 ((wAttend.atp 0).jobRec 2) c1).1 descRuns (wAttend.bytesAt descRuns) (bfRow 0x6000) (bfRow 0x6100) attendRuns c2 c3 c4 rfl c5 c6 c7 c8 c9 c10 c11 c12 c13).imp (fun _ e => e.1)) ?_
  decide +kernel

def openCtx : Ctx := { state := 1, owner := 1, fmt := 0xA, dhCode := 0, pool := 0, pos := 3, mapped := 1, root := 0x90000, openStamp := 9, lastStamp := 9 }

def appendRec : List (Nat × Nat × Nat) := [(0, 1, 1), (1, 1, 16), (4, 2, 1), (56, 8, 0x4000), (64, 8, 0x4040)]

def wAppend : State := { wAttend.withAtp (atpAt appendRec) with ctxs := [(0, openCtx)] }

theorem test_append (h : Obligations.jobsStart) : ∃ t, exec (.append 0) wAppend = .next t := by
  refine (given fun c1 => given fun c2 => given fun c3 => given fun c4 => given fun c5 => given fun c6 => given fun c7 => given fun c8 c9 => ((h wAppend 0 1 ((wAppend.atp 0).jobRec 2) c1).2.1 [(0x4000, 64), (0x4040, 64)] (wAppend.bytesAt [(0x4000, 64), (0x4040, 64)]) (bfRow 0x6000) (bfRow 0x6100) [(0x4000, 64), (0x4040, 64), (0x6000, 64), (0x6100, 64)] c2 c3 c4 rfl c5 c6 c7 c8 c9).imp (fun _ e => e.1)) ?_
  decide +kernel

def combineRec : List (Nat × Nat × Nat) := [(0, 1, 2), (4, 2, 1), (24, 8, 0x4000), (32, 8, 0x4040), (48, 8, 0x5000), (84, 4, 2)]

def wCombine : State := { wProgs.withAtp (atpAt combineRec) with
  mem := fieldsAt 0x4000 (tensor 0 0x6000 0 [32, 1, 2] [1, 32, 32] 6 ++ tensor 1 0x6200 0 [32, 1] [1, 32] 4) ++ fieldsAt 0x6000 [(0, 4, 0x3F800000), (0x80, 4, 0x40000000)] }

def partialView : View := { fmt := 6, bs := 1, sd := 0, layout := 0, check := false, ts := false, base := 0x6000, sbase := 0, off := 0, ext := [32, 1, 2, 1, 1], stride := [1, 32, 32, 0, 0], pstride := [0, 0, 0, 0, 0] }

def combineRuns : List (Nat × Nat) := [(0x4000, 64), (0x4040, 64), (0x6000, 256), (0x5000, 8)]

theorem test_combine (h : Obligations.jobsStart) : ∃ t, exec (.combine 0) wCombine = .next t := by
  refine (given fun c1 => given fun c2 => given fun c3 => given fun c4 => given fun c5 => given fun c6 => given fun c7 => given fun c8 => given fun c9 => given fun c10 => given fun c11 => given fun c12 => given fun c13 c14 => ((h wCombine 0 1 ((wCombine.atp 0).jobRec 2) c1).2.2.1 [(0x4000, 64), (0x4040, 64)] (wCombine.bytesAt [(0x4000, 64), (0x4040, 64)]) partialView (bfRow 0x6200) combineRuns (joinRuns (((wCombine.atp 0).jobRec 2).combined (wCombine.bytesAt combineRuns) partialView (bfRow 0x6200) (wCombine.policyZ 1)).1) 0x6200 64 c2 c3 c4 rfl c5 c6 c7 c8 c9 c10 c11 c12 rfl c13 c14).imp (fun _ e => e.1)) ?_
  decide +kernel

def wAtpLoop : State := wProgs.withAtp (atpAt [(0, 1, 3), (4, 2, 7), (6, 2, 5)])

theorem test_atp_loop (h : Obligations.jobsStart) : ∃ t, exec (.atpLoop 0) wAtpLoop = .next t := by
  refine (given fun c1 => given fun c2 => given fun c3 => given fun c4 c5 => ((h wAtpLoop 0 1 ((wAtpLoop.atp 0).jobRec 2) c1).2.2.2.1 c2 c3 c4 c5).imp (fun _ e => e.1)) ?_
  decide +kernel

def wAtpEndRec : State := wProgs.withAtp (atpAt [(0, 1, 4)])

theorem test_atp_end (h : Obligations.jobsStart) : ∃ t, exec (.atpEnd 0) wAtpEndRec = .next t := by
  refine (given fun c1 c2 => ((h wAtpEndRec 0 1 ((wAtpEndRec.atp 0).jobRec 2) c1).2.2.2.2 c2).imp (fun _ e => e.1)) ?_
  decide +kernel

/-- An ATTEND with its inputs read. -/
def keysJob : Job := { id := 4, record := 2, stage := .keys, inputs := attnMem.filter (fun e => e.1 < 0x6200) }

def wKeys (fs : List (Nat × Nat × Nat)) (j : Job) : State := { wProgs.withAtp { atpAt fs with active := [j], nextJob := 5, pc := 3 } with mem := attnMem }

def keyRuns1 : List (Nat × Nat) := [(0x5100, 8), (0x6200, 32), (0x6300, 1), (0x6400, 32), (0x6500, 1)]

def wLastKeys : State := wKeys attendRec keysJob

def lastKey : List Key := [{ slot := 0, pos := 0, seg := 0, idx := 0 }]

def lastAccs : Tbl RowAcc := (((wLastKeys.atp 0).jobRec 2).block (((wLastKeys.atp 0).jobRec 2).queries keysJob.inputs (bfRow 0x6000)).1 keysJob.inputs lastKey (kvRow 0x6200) (kvRow 0x6400) (wLastKeys.bytesAt keyRuns1) []).1

theorem test_key_block (h : Obligations.keyBlocksComplete) : ∃ t, exec (.keyBlock 0 4) wLastKeys = .next t := by
  refine (given fun c1 => given fun c2 => given fun c3 => given fun c4 => given fun c5 => given fun c6 => given fun c7 => given fun c8 => given fun c9 => given fun c10 => given fun c11 => given fun c12 => given fun c13 => given fun c14 => given fun c15 => given fun c16 => given fun c17 => given fun c18 => given fun c19 => given fun c20 => given fun c21 => given fun c22 c23 => (((h wLastKeys 0 4 1 keysJob ((wLastKeys.atp 0).jobRec 2) (bfRow 0x6000) (bfRow 0x6100) c1 c2 rfl c3 c4 c5 c6 c7 c8 c9 c10).1 [(0x5100, 8)] lastKey keyRuns1 (if ((wLastKeys.atp 0).jobRec 2).anyAllowed keysJob.inputs lastKey then lastAccs else keysJob.rows) (kvRow 0x6200) (kvRow 0x6400) c11 c12 c13 c14 c15 c16 c17 c18 c19 rfl).2 (joinRuns (((wLastKeys.atp 0).jobRec 2).outputs (bfRow 0x6100) (wLastKeys.policyZ 1) (if ((wLastKeys.atp 0).jobRec 2).anyAllowed keysJob.inputs lastKey then lastAccs else keysJob.rows)).1) 0x6100 64 c20 c21 rfl c22 c23).imp (fun _ e => e.1)) ?_
  decide +kernel

/-- Two key blocks, and a row of the padding segment. -/
def skipInputs : BMap := fieldsAt 0x4000 (tensor 0 0x6000 0 [32, 1] [1, 32] 4 ++ tensor 1 0x6100 0 [32, 1] [1, 32] 4 ++
    tensor 2 0x6200 0x6300 [32, 1] [1, 32] 0x1A ++ tensor 3 0x6400 0x6500 [32, 1] [1, 32] 0x1A) ++ fieldsAt 0x5000 [(4, 2, 0xFFFF)]

def wSkip : State := wKeys (attendRec.dropLast ++ [(84, 4, 300)]) { keysJob with inputs := skipInputs }

theorem test_key_block_skipped (h : Obligations.keyBlocksComplete) : ∃ t, exec (.keyBlock 0 4) wSkip = .next t := by
  refine (given fun c1 => given fun c2 => given fun c3 => given fun c4 => given fun c5 => given fun c6 => given fun c7 => given fun c8 => given fun c9 => given fun c10 => given fun c11 => given fun c12 => given fun c13 => given fun c14 => given fun c15 => given fun c16 => given fun c17 => given fun c18 => given fun c19 c20 => (((h wSkip 0 4 1 { keysJob with inputs := skipInputs } ((wSkip.atp 0).jobRec 2) (bfRow 0x6000) (bfRow 0x6100) c1 c2 rfl c3 c4 c5 c6 c7 c8 c9 c10).1 [(0x5100, 2048)] (((wSkip.atp 0).jobRec 2).denseKeys 0 (wSkip.bytesAt [(0x5100, 2048)])) [(0x5100, 2048)] [] (kvRow 0x6200) (kvRow 0x6400) c11 c12 c13 c14 c15 c16 rfl c17 c18 c19).1 c20).imp (fun _ e => e.1)) ?_
  decide +kernel

/-- An ATTEND over the first two positions of a context of one head, page 2 of its pool. -/
def onePool : Pool := { pageAddr := 0x100000, pageBytes := 20480, pages := 4, metaAddr := 0x80000, tableAddr := 0x90000, tableFrames := 4, framesUsed := [(0, true), (1, true)] }

def pageJob : Job := { keysJob with inputs := attnMem.filter (fun e => e.1 < 0x6200) ++ [(0x5004, 7#8)], pages := [(0, 2)], length := 2, pinned := true, ctx := { openCtx with seg := 7 }, source := onePool.shape }

def pageRec : List (Nat × Nat × Nat) := [(4, 2, 1), (16, 4, 0x3F800000), (24, 8, 0x4000), (32, 8, 0x4040), (40, 8, 0x5000), (80, 4, 1), (84, 4, 2)]

def pageMem : BMap := fieldsAt 0x10A000 [(32, 1, 5), (0x2001, 1, 127), (0x5020, 1, 3), (0x7001, 1, 127)]

def wPage (j : Job) : State := { wProgs.withAtp { atpAt pageRec with active := [j], nextJob := 5, pc := 3 } with mem := pageMem }

def pageKey : List Key := [{ slot := 1, pos := 1, seg := 7, idx := 1 }]

def pageRuns : List (Nat × Nat) := (pageView pageJob.ctx 0x10A000).keyRuns pageKey ++ (pageView pageJob.ctx 0x10C800).keyRuns pageKey

def pageAccs : Tbl RowAcc := (((wPage pageJob).atp 0).jobRec 2 |>.block ((((wPage pageJob).atp 0).jobRec 2).queries pageJob.inputs (bfRow 0x6000)).1 pageJob.inputs pageKey (pageView pageJob.ctx 0x10A000) (pageView pageJob.ctx 0x10C800) ((wPage pageJob).bytesAt pageRuns) []).1

def pageOut : Tbl RowAcc := if (((wPage pageJob).atp 0).jobRec 2).anyAllowed pageJob.inputs pageKey then pageAccs else pageJob.rows

theorem test_page_block (h : Obligations.keyBlocksComplete) : ∃ t, exec (.keyBlock 0 4) (wPage pageJob) = .next t := by
  refine (given fun c1 => given fun c2 => given fun c3 => given fun c4 => given fun c5 => given fun c6 => given fun c7 => given fun c8 => given fun c9 => given fun c10 => given fun c11 => given fun c12 => given fun c13 => given fun c14 => given fun c15 => given fun c16 => given fun c17 => given fun c18 => given fun c19 c20 => (((h (wPage pageJob) 0 4 1 pageJob (((wPage pageJob).atp 0).jobRec 2) (bfRow 0x6000) (bfRow 0x6100) c1 c2 rfl c3 c4 c5 c6 c7 c8 c9 c10).2.1 0 2 pageKey 0x10A000 pageRuns (pageView pageJob.ctx 0x10A000) (pageView pageJob.ctx 0x10C800) pageOut c11 c12 c13 c14 rfl rfl c15 c16 rfl).2 (joinRuns ((((wPage pageJob).atp 0).jobRec 2).outputs (bfRow 0x6100) ((wPage pageJob).policyZ 1) pageOut).1) 0x6100 64 c17 c18 rfl c19 c20).imp (fun _ e => e.1)) ?_
  decide +kernel

theorem test_pages_done (h : Obligations.keyBlocksComplete) : ∃ t, exec (.keyBlock 0 4) (wPage { pageJob with nextBlk := 1 }) = .next t := by
  refine (given fun c1 => given fun c2 => given fun c3 => given fun c4 => given fun c5 => given fun c6 => given fun c7 => given fun c8 => given fun c9 => given fun c10 => given fun c11 => given fun c12 => given fun c13 => given fun c14 => given fun c15 c16 => ((h (wPage { pageJob with nextBlk := 1 }) 0 4 1 { pageJob with nextBlk := 1 } (((wPage pageJob).atp 0).jobRec 2) (bfRow 0x6000) (bfRow 0x6100) c1 c2 c3 c4 c5 c6 c7 c8 c9 c10 c11).2.2 (joinRuns ((((wPage pageJob).atp 0).jobRec 2).outputs (bfRow 0x6100) ((wPage pageJob).policyZ 1) []).1) 0x6100 64 c12 c13 c14 c15 c16).imp (fun _ e => e.1)) ?_
  decide +kernel

def endRec : List (Nat × Nat × Nat) := [(4, 2, 1), (116, 1, 3), (117, 1, 0x62), (120, 8, 0x7000)]

def endJob : Job := { id := 4, record := 2, stage := .finalised }

def wJobEnd : State := { wProgs.withAtp { atpAt endRec with active := [endJob, { id := 5, record := 3 }], nextJob := 6, pc := 4 } with mem := fieldsAt 0x7000 [(0, 8, 2 ^ 64 - 1)] }

theorem test_job_complete (h : Obligations.jobsEnd) : ∃ t, exec (.jobComplete 0) wJobEnd = .next t := by
  refine (given fun c1 => given fun c2 => given fun c3 => given fun c4 => given fun c5 => given fun c6 => given fun c7 => given fun c8 => given fun c9 => given fun c10 => given fun c11 => given fun c12 c13 => ((h wJobEnd 0 1 c1 c2 c3).1 endJob [{ id := 5, record := 3 }] ((wJobEnd.atp 0).jobRec 2) c4 c5 c6 c7 c8 c9 c10 c11 c12 c13).imp (fun _ e => e.1)) ?_
  decide +kernel

def wGate (v : Nat) : State := { wAppend.withAtp { atpAt (appendRec ++ [(96, 8, 0x7000), (104, 8, v)]) with gateFrom := some 5 } with mem := attnMem ++ fieldsAt 0x7000 [(0, 1, 9)] }

theorem test_gate_holds (h : Obligations.jobsEnd) : ∃ t, exec (.gatePoll (.atp 0)) (wGate 10) = .next t := by
  refine (given fun c1 => given fun c2 => given fun c3 => given fun c4 => given fun c5 => given fun c6 => given fun c7 => given fun c8 => given fun c9 => given fun c10 => given fun c11 => given fun c12 c13 => (((h (wGate 10) 0 1 c1 c2 c3).2.1 (((wGate 10).atp 0).jobRec 2) 5 c4 c5 c6 c7 c8 c9 c10 c11 c12).1 c13).imp (fun _ e => e.1)) ?_
  decide +kernel

theorem test_gate_opens (h : Obligations.jobsEnd) : ∃ t, exec (.gatePoll (.atp 0)) (wGate 9) = .next t := by
  refine (given fun c1 => given fun c2 => given fun c3 => given fun c4 => given fun c5 => given fun c6 => given fun c7 => given fun c8 => given fun c9 => given fun c10 => given fun c11 => given fun c12 => given fun c13 => given fun c14 => given fun c15 => given fun c16 c17 => (((h (wGate 9) 0 1 c1 c2 c3).2.1 (((wGate 9).atp 0).jobRec 2) 5 c4 c5 c6 c7 c8 c9 c10 c11 c12).2 c13 c14 c15 c16 c17).imp (fun _ e => e.1)) ?_
  decide +kernel

def gateColl : Coll := { pt := 1, seq := 6, fn := 1, slot := 1, stage := .gate }

def wCollGate : State :=
  ({ (wGate 10).modPart 1 (fun x => { x with colls := [gateColl] }) with fabric := { shape := 1, members := [(1, [0, 1])] } } : State).withRun 1 (cmdOf opCOLLECTIVE [(0, 1, 1), (48, 8, 0x7000), (56, 8, 9)])

theorem test_collective_gate (h : Obligations.jobsEnd) : ∃ t, exec (.gatePoll (.command 1 1)) wCollGate = .next t := by
  refine (given fun c1 => given fun c2 => given fun c3 => given fun c4 => given fun c5 => given fun c6 => given fun c7 => given fun c8 => given fun c9 => given fun c10 => given fun c11 => given fun c12 c13 => ((h wCollGate 0 1 c1 c2 c3).2.2.1 1 1 gateColl 0x7000 c4 c5 c6 c7 c8 c9 c10 c11 c12 c13).imp (fun _ e => e.1)) ?_
  decide +kernel

theorem test_gate_watchdog (h : Obligations.jobsEnd) : ∃ t, exec (.gateWatchdog 0) (wGate 10) = .next t := by
  refine (given fun c1 => given fun c2 => given fun c3 => given fun c4 => given fun c5 => given fun c6 c7 => ((h (wGate 10) 0 1 c1 c2 c3).2.2.2 5 1 c4 c5 c6 c7).imp (fun _ e => e.1)) ?_
  decide +kernel

/-- A context of partition 1 with three positions in page 2 of its pool. -/
def ctxMem : BMap := fieldsAt 0x80010 [(0, 2, 1)] ++ fieldsAt 0x90000 [(0, 8, 2 ^ 63 + 0x91000), (0x1000, 8, 2 ^ 63 + 2)]

def wCtxG (rec : List (Nat × Nat × Nat)) (j : Job) (m : BMap) : State :=
  { ((wProgs.withAtp { atpAt rec with active := [j], nextJob := 5, pc := 3 }).setPool 1 0 onePool) with ctxs := [(0, openCtx)], mem := m }

def pinJob : Job := { id := 4, record := 2, stage := .waiting }

def pinRec : List (Nat × Nat × Nat) := [(4, 2, 1), (84, 4, 9)]

theorem test_pin (h : Obligations.managerOperationsComplete) : ∃ t, exec (.pin 0) (wCtxG pinRec pinJob ctxMem) = .next t := by
  refine (given fun c1 => given fun c2 => given fun c3 => given fun c4 => given fun c5 => given fun c6 => given fun c7 => given fun c8 c9 => ((h (wCtxG pinRec pinJob ctxMem) 0 1 pinJob (((wCtxG pinRec pinJob ctxMem).atp 0).jobRec 2) c1 c2 c3).1 _ _ c4 c5 c6 c7 c8 rfl rfl c9).imp (fun _ e => e.1)) ?_
  decide +kernel

def unpinJob : Job := { id := 4, record := 2, stage := .finalised, pinned := true, length := 3, pages := [(0, 2)], ctx := openCtx, source := onePool.shape }

theorem test_unpin (h : Obligations.managerOperationsComplete) : ∃ t, exec (.unpin 0 4) (wCtxG pinRec unpinJob ctxMem) = .next t := by
  refine (given fun c1 => given fun c2 => given fun c3 => given fun c4 => given fun c5 => given fun c6 => given fun c7 => given fun c8 c9 => ((h (wCtxG pinRec unpinJob ctxMem) 0 1 unpinJob (((wCtxG pinRec pinJob ctxMem).atp 0).jobRec 2) c1 c2 c3).2.1 c4 c5 c6 c7 c8 c9).imp (fun _ e => e.1)) ?_
  decide +kernel

def rowRec : List (Nat × Nat × Nat) := [(0, 1, 1), (1, 1, 16), (4, 2, 1), (56, 8, 0x4000), (64, 8, 0x4040)]

theorem test_resolve (h : Obligations.managerOperationsComplete) : ∃ t, exec (.resolve 0 4) (wCtxG rowRec pinJob ctxMem) = .next t := by
  refine (given fun c1 => given fun c2 => given fun c3 => given fun c4 => given fun c5 => given fun c6 => given fun c7 => given fun c8 => given fun c9 c10 => ((h (wCtxG rowRec pinJob ctxMem) 0 1 pinJob (((wCtxG rowRec pinJob ctxMem).atp 0).jobRec 2) c1 c2 c3).2.2.1 _ c4 c5 c6 c7 c8 c9 rfl c10).imp (fun _ e => e.1)) ?_
  decide +kernel

def writeJob : Job := { id := 4, record := 2, stage := .keys, appends := true, length := 3, pages := [(0, 2)], ctx := openCtx, source := onePool.shape, inputs := attnMem.filter (fun e => e.1 < 0x6200) }

theorem test_append_write (h : Obligations.managerOperationsComplete) : ∃ t, exec (.append 0) (wCtxG rowRec writeJob ctxMem) = .next t := by
  refine (given fun c1 => given fun c2 => given fun c3 => given fun c4 => given fun c5 => given fun c6 => given fun c7 => given fun c8 => given fun c9 => given fun c10 => given fun c11 => given fun c12 => given fun c13 c14 => ((h (wCtxG rowRec writeJob ctxMem) 0 1 writeJob (((wCtxG rowRec writeJob ctxMem).atp 0).jobRec 2) c1 c2 c3).2.2.2.1 (bfRow 0x6000) (bfRow 0x6100) c4 c5 c6 c7 c8 c9 c10 c11 c12 c13 c14).imp (fun _ e => e.elim (fun _ e => e.1))) ?_
  decide +kernel

def oneCopy : PageCopy := { pt := 1, ctx := 0, pool := 0, page := 0, source := 2, target := 3, atp := 0, job := 4 }

def wSwitch : State :=
  { (wCtxG rowRec { writeJob with copies := 1 } (fieldsAt 0x80010 [(0, 2, 2), (8, 2, 1)] ++ fieldsAt 0x90000 [(0, 8, 2 ^ 63 + 0x91000), (0x1000, 8, 2 ^ 63 + 2)] ++ fieldsAt 0x101000 [(3, 1, 9)])).setPool 1 0 { onePool with pageBytes := 2048 } with copies := [oneCopy] }

theorem test_switch (h : Obligations.managerOperationsComplete) : ∃ t, exec (.switch 1 0 0) wSwitch = .next t := by
  refine (given fun c1 => given fun c2 => given fun c3 => given fun c4 => given fun c5 => given fun c6 => given fun c7 => given fun c8 => given fun c9 => given fun c10 c11 => ((h wSwitch 0 1 { writeJob with copies := 1 } (((wCtxG rowRec writeJob ctxMem).atp 0).jobRec 2) c1 c2 c3).2.2.2.2.1 oneCopy (wSwitch.poolOf 1 0) c4 c5 c6 c7 c8 c9 c10 c11).imp (fun _ e => e.1)) ?_
  decide +kernel

theorem test_advance (h : Obligations.managerOperationsComplete) : ∃ t, exec (.advance 0 4) (wCtxG rowRec { writeJob with stage := .finalised } ctxMem) = .next t := by
  refine (given fun c1 => given fun c2 => given fun c3 => given fun c4 => given fun c5 => given fun c6 => given fun c7 => given fun c8 c9 => ((h (wCtxG rowRec { writeJob with stage := .finalised } ctxMem) 0 1 { writeJob with stage := .finalised } (((wCtxG rowRec writeJob ctxMem).atp 0).jobRec 2) c1 c2 c3).2.2.2.2.2 c4 c5 c6 c7 c8 c9).imp (fun _ e => e.1)) ?_
  decide +kernel

/-! ## Witnesses, part H -/

/-- Partition 1 with a full bucket in stack 0, and bytes at 0x3000. -/
def hBlock : List Byte := List.replicate 2047 0#8 ++ [7#8]

def wBlocks (x : Stack) : State := { w0 with hbm := [(0, { x with mode := .service, spent := [(1, 2093056)] })], mem := fieldsAt 0x3000 [(0, 4, 0x3F800000), (9, 1, 3)], blocks := [(6, { sense := .corrected })] }

theorem test_block_read (h : Obligations.blockRequestsComplete) : ∃ t, exec (.memoryRead ⟨0x3000, 2, false⟩ ⟨5, true⟩ .eccBad) (wBlocks {}) = .next t := by
  refine (given fun c1 => given fun c2 c3 => ((h (wBlocks {}) 0x3000 1 0 2 c1).1 5 true .eccBad c2 c3).imp (fun _ e => e.1)) ?_
  decide +kernel

theorem test_block_write (h : Obligations.blockRequestsComplete) : ∃ t, exec (.memoryWrite ⟨0x3000, 3, false⟩ hBlock) (wBlocks {}) = .next t := by
  refine (given fun c1 c2 => (((h (wBlocks {}) 0x3000 1 0 3 c1).2.1 hBlock c2).1).imp (fun _ e => e.1)) ?_
  decide +kernel

theorem test_block_parity (h : Obligations.blockRequestsComplete) : ∃ t, exec (.memoryWrite ⟨0x3000, 0, true⟩ hBlock) (wBlocks {}) = .next t := by
  refine (given fun c1 c2 => (((h (wBlocks {}) 0x3000 1 0 0 c1).2.1 hBlock c2).2).imp (fun _ e => e.1)) ?_
  decide +kernel

theorem test_block_merge (h : Obligations.blockRequestsComplete) : ∃ t, exec (.partialWriteMerge ⟨0x3004, 2, false⟩ [1, 2, 3] .eccBad .good) (wBlocks {}) = .next t := by
  refine (given fun c1 => given fun c2 => given fun c3 c4 => (((h (wBlocks {}) 0x3004 1 0 2 c1).2.2.1 [1, 2, 3] .eccBad .good c2 c3).1 c4).imp (fun _ e => e.1)) ?_
  decide +kernel

theorem test_block_merge_bad (h : Obligations.blockRequestsComplete) : ∃ t, exec (.partialWriteMerge ⟨0x3004, 1, false⟩ [1, 2, 3] .eccBad .checkBad) (wBlocks {}) = .next t := by
  refine (given fun c1 => given fun c2 => given fun c3 => given fun c4 c5 => (((h (wBlocks {}) 0x3004 1 0 1 c1).2.2.1 [1, 2, 3] .eccBad .checkBad c2 c3).2 c4 c5).imp (fun _ e => e.1)) ?_
  decide +kernel

theorem test_block_add (h : Obligations.blockRequestsComplete) : ∃ t, exec (.memorySideAdd ⟨0x3000, 2, false⟩ 1 [0, 0, 0, 64] .good .good) (wBlocks {}) = .next t := by
  refine (given fun c1 => given fun c2 => given fun c3 c4 => ((h (wBlocks {}) 0x3000 1 0 2 c1).2.2.2.1 1 [0, 0, 0, 64] .good .good c2 c3 c4).imp (fun _ e => e.1)) ?_
  decide +kernel

theorem test_block_held_recovery (h : Obligations.blockRequestsComplete) : ∃ t, exec (.memoryWrite ⟨0x3000, 0, false⟩ hBlock) { wBlocks {} with hbm := [(0, { mode := .recovery })] } = .next t := by
  refine (given fun c1 => given fun c2 => given fun c3 => given fun c4 => given fun c5 => given fun c6 => given fun c7 c8 => ((h { wBlocks {} with hbm := [(0, { mode := .recovery })] } 0x3000 1 0 0 c1).2.2.2.2.1 hBlock _ c2 c3 c4 c5 c6 c7 c8 rfl).imp (fun _ e => e.1)) ?_
  decide +kernel

theorem test_block_admitted (h : Obligations.blockRequestsComplete) : ∃ t, exec (.regulatorAdmit 0 1) (wBlocks { held := [⟨1, 3, 2048, .write 0x3000 []⟩, ⟨1, 2, 2048, .write 0x3000 hBlock⟩] }) = .next t := by
  refine (given fun c1 => given fun c2 => given fun c3 => given fun c4 => given fun c5 => given fun c6 c7 => ((h (wBlocks { held := [⟨1, 3, 2048, .write 0x3000 []⟩, ⟨1, 2, 2048, .write 0x3000 hBlock⟩] }) 0x3000 1 0 2 c1).2.2.2.2.2.1 ⟨1, 2, 2048, .write 0x3000 hBlock⟩ hBlock c2 c3 c4 c5 c6 c7).imp (fun _ e => e.1)) ?_
  decide +kernel

theorem test_block_unowned (h : Obligations.blockRequestsComplete) : ∃ t, exec (.regulatorAdmit 0 2) (wBlocks { held := [⟨2, 0, 2048, .write 0x3000 hBlock⟩] }) = .next t := by
  refine (given fun c1 => given fun c2 => given fun c3 => given fun c4 => given fun c5 => given fun c6 c7 => ((h (wBlocks { held := [⟨2, 0, 2048, .write 0x3000 hBlock⟩] }) 0x3000 2 0 2 c1).2.2.2.2.2.1 ⟨2, 0, 2048, .write 0x3000 hBlock⟩ hBlock c2 c3 c4 c5 c6 c7).imp (fun _ e => e.1)) ?_
  decide +kernel

theorem test_block_reread (h : Obligations.blockRequestsComplete) : ∃ t, exec (.blockReread 0x3010 .good) (wBlocks { rereads := [(0x3000, true)] }) = .next t := by
  refine (given fun c1 => given fun c2 => given fun c3 c4 => ((h (wBlocks { rereads := [(0x3000, true)] }) 0x3010 1 0 1 c1).2.2.2.2.2.2 true .good c2 c3 c4).imp (fun _ e => e.1)) ?_
  decide +kernel

theorem test_block_reread_bad (h : Obligations.blockRequestsComplete) : ∃ t, exec (.blockReread 0x3010 .checkBad) (wBlocks { rereads := [(0x3000, true)] }) = .next t := by
  refine (given fun c1 => given fun c2 => given fun c3 c4 => ((h (wBlocks { rereads := [(0x3000, true)] }) 0x3010 1 0 1 c1).2.2.2.2.2.2 true .checkBad c2 c3 c4).imp (fun _ e => e.1)) ?_
  decide +kernel

theorem test_refresh (h : Obligations.stackEventsComplete) : ∃ t, exec (.refresh 0 63 63) (wBlocks { activations := [(4095, 96)] }) = .next t := by
  refine (given fun c1 => given fun c2 => given fun c3 c4 => (((h (wBlocks { activations := [(4095, 96)] }) 0 c1).1 63 63 c2 c3 c4).1).imp (fun _ e => e.1)) ?_
  decide +kernel

theorem test_rfm (h : Obligations.stackEventsComplete) : ∃ t, exec (.rfm 0 63 63) (wBlocks { activations := [(4095, 96)] }) = .next t := by
  refine (given fun c1 => given fun c2 => given fun c3 => given fun c4 c5 => (((h (wBlocks { activations := [(4095, 96)] }) 0 c1).1 63 63 c2 c3 c4).2 c5).imp (fun _ e => e.1)) ?_
  decide +kernel

theorem test_patrol_corrected (h : Obligations.stackEventsComplete) : ∃ t, exec (.patrol 0 .corrected .good) (wBlocks { patrolAt := 0x3000 }) = .next t := by
  refine (given fun c1 => given fun c2 => given fun c3 => given fun c4 => given fun c5 => given fun c6 c7 => ((h (wBlocks { patrolAt := 0x3000 }) 0 c1).2.1 0x3000 .corrected .good c2 c3 c4 c5 c6 c7).imp (fun _ e => e.1)) ?_
  decide +kernel

theorem test_patrol_bad (h : Obligations.stackEventsComplete) : ∃ t, exec (.patrol 0 .eccBad .checkBad) (wBlocks { patrolAt := 0x3000 }) = .next t := by
  refine (given fun c1 => given fun c2 => given fun c3 => given fun c4 => given fun c5 => given fun c6 c7 => ((h (wBlocks { patrolAt := 0x3000 }) 0 c1).2.1 0x3000 .eccBad .checkBad c2 c3 c4 c5 c6 c7).imp (fun _ e => e.1)) ?_
  decide +kernel

def wStarting : State := { wBlocks {} with power := { state := .starting }, hbm := [] }

theorem test_stack_startup (h : Obligations.stackEventsComplete) : ∃ t, exec (.stackStartup 0 ⟨2, 4, true⟩) wStarting = .next t := by
  refine (given fun c1 => given fun c2 => given fun c3 => given fun c4 => given fun c5 c6 => (((h wStarting 0 c1).2.2.1 ⟨2, 4, true⟩ c2 c3).1 c4 c5 c6).imp (fun _ e => e.1)) ?_
  decide +kernel

theorem test_stack_startup_fails (h : Obligations.stackEventsComplete) : ∃ t, exec (.stackStartup 0 ⟨2, 5, true⟩) wStarting = .next t := by
  refine (given fun c1 => given fun c2 => given fun c3 c4 => (((h wStarting 0 c1).2.2.1 ⟨2, 5, true⟩ c2 c3).2 c4).imp (fun _ e => e.1)) ?_
  decide +kernel

theorem test_stack_recovery (h : Obligations.stackEventsComplete) : ∃ t, exec (.stackRecovery 0 .parityStorm) (wBlocks {}) = .next t := by
  refine (given fun c1 c2 => ((h (wBlocks {}) 0 c1).2.2.2.1 .parityStorm c2).imp (fun _ e => e.1)) ?_
  decide +kernel

def wRecovering (n : Nat) : State := { wBlocks {} with hbm := [(0, { mode := .recovery, retrainFails := n, held := [⟨1, 2, 2048, .write 0x3000 hBlock⟩] })] }

theorem test_recovery_end (h : Obligations.stackEventsComplete) : ∃ t, exec (.stackRecoveryEnd 0 true) (wRecovering 1) = .next t := by
  refine (given fun c1 => given fun c2 c3 => (((h (wRecovering 1) 0 c1).2.2.2.2 c2).1 c3).imp (fun _ e => e.1)) ?_
  decide +kernel

theorem test_recovery_fails (h : Obligations.stackEventsComplete) : ∃ t, exec (.stackRecoveryEnd 0 false) (wRecovering 0) = .next t := by
  refine (given fun c1 => given fun c2 c3 => (((h (wRecovering 0) 0 c1).2.2.2.2 c2).2.1 c3).imp (fun _ e => e.1)) ?_
  decide +kernel

theorem test_recovery_fails_twice (h : Obligations.stackEventsComplete) : ∃ t, exec (.stackRecoveryEnd 0 false) (wRecovering 1) = .next t := by
  refine (given fun c1 => given fun c2 c3 => (((h (wRecovering 1) 0 c1).2.2.2.2 c2).2.2 c3).imp (fun _ e => e.1)) ?_
  decide +kernel

/-! ## Witnesses, part I -/

/-- A record that sets four FP32 elements from an address on to 1. -/
def setRec (dst : Nat) : List Byte := BMap.readBytes (fieldsAt 0 [(0, 1, 0x0A), (1, 1, 0x66), (4, 4, 0x3F800000), (16, 8, dst), (40, 8, 4)]) 0 64

def fenceRec : List Byte := BMap.readBytes (fieldsAt 0 [(0, 1, 0x0D)]) 0 64

def setSetup : ChiselSetup := { op := 0x0A, fmts := 0x66, ctl := 0, alpha := 0x3F800000, beta := 0, ea := 0, eb := 0, ed := 0, base := 0 }

def oneList (rs : List (List Byte)) : ChiselList := { id := 2, pt := 1, fn := 1, slot := 1, records := rs }

def wChisel (l : ChiselList) : State :=
  { w0.withRun 1 { cmdOf opCHISEL_RUN [(0, 8, 0x5000), (8, 4, 2)] with stage := 4 } with chisel := [l], hbm := [(0, { mode := .service, latch := [(0, setSetup)] })] }

theorem test_chset (h : Obligations.chiselsComplete) : ∃ t, exec (.chset 0 63 setSetup) (wChisel (oneList [setRec 0x1000000])) = .next t := by
  refine (given fun c1 => given fun c2 c3 => ((h.2.1 (wChisel (oneList [setRec 0x1000000])) 0 63 c1 c2).1 setSetup c3).imp (fun _ e => e.1)) ?_
  decide +kernel

def setRow : ChiselRow := { sidMask := 1, bankMask := 1, rowD := 2, rowA := 0, rowB := 0, colFirst := 0, enFirst := 15, colLast := 0, enLast := 15 }

def twoSets : ChiselList := oneList [setRec 0x1000000, setRec 0x1000800]

def setOp : RowOp := { dest := 0x1000000, lo := 0, hi := 16, readD := true }

theorem test_chrow (h : Obligations.chiselsComplete) : ∃ t, exec (.chrow 0 0 setRow) (wChisel twoSets) = .next t := by
  refine (given fun c1 => given fun c2 => given fun c3 => given fun c4 => given fun c5 c6 => ((h.2.1 (wChisel twoSets) 0 0 c1 c2).2.2.1 setRow twoSets 0 0 0 setOp _ c3 c4 c5 rfl c6).imp (fun _ e => e.1)) ?_
  decide +kernel

def wBatch : State := { wChisel (oneList [BMap.readBytes (fieldsAt 0 [(0, 1, 0x0A), (1, 1, 0x66), (2, 1, 2), (4, 4, 0x3F800000), (16, 8, 0x1000000), (40, 8, 4)]) 0 64]) with
  hbm := [(0, { mode := .service, latch := [(0, { setSetup with ctl := 2 })], held := [⟨1, 2, 32, .read 0 1 false .good⟩], batch := [(0, 7)] })] }

def batchList : ChiselList := oneList [BMap.readBytes (fieldsAt 0 [(0, 1, 0x0A), (1, 1, 0x66), (2, 1, 2), (4, 4, 0x3F800000), (16, 8, 0x1000000), (40, 8, 4)]) 0 64]

theorem test_chrow_batch (h : Obligations.chiselsComplete) : ∃ t, exec (.chrow 0 0 setRow) wBatch = .next t := by
  refine (given fun c1 => given fun c2 c3 => ((h.2.1 wBatch 0 0 c1 c2).2.1 setRow batchList 0 0 c3).imp (fun _ e => e.1)) ?_
  decide +kernel

def wAcc : State := { wChisel twoSets with mem := fieldsAt 0x1020060 [(0, 4, 0x3F800000), (4, 4, 0x3F800000)] }

theorem test_chacc (h : Obligations.chiselsComplete) : ∃ t, exec (.chacc 0 0 2 3 1 5 (List.replicate 32 0x40#8)) wAcc = .next t := by
  refine (given fun c1 => given fun c2 => given fun c3 => given fun c4 => given fun c5 => given fun c6 => given fun c7 => given fun c8 => given fun c9 => given fun c10 => given fun c11 => given fun c12 c13 => ((h.2.1 wAcc 0 0 c1 c2).2.2.2.1 2 3 1 5 (List.replicate 32 0x40#8) 0 0x1020060 4 c3 c4 c5 c6 c7 c8 c9 c10 c11 c12 c13).imp (fun _ e => e.1)) ?_
  decide +kernel

def fenceView : View := { fmt := 6, bs := 1, sd := 0, layout := 0, check := false, ts := false, base := 0x1000000, sbase := 0, off := 0, ext := [4, 1, 1, 1, 1], stride := [1, 0, 0, 0, 0], pstride := [0, 0, 0, 0, 0] }

def wChfnc : State :=
  (wChisel { twoSets with done := [(0, 1)] }).withTile ({ tile3 with s := { flights := [{ id := 1, word := word 0x63 3 0 0, src := some fenceView, marks := [(2, 0, 0), (2, 1, 1)] }, { id := 2 }] } })

theorem test_chfnc (h : Obligations.chiselsComplete) : ∃ t, exec (.chfnc 0 0) wChfnc = .next t := by
  refine (given fun c1 c2 => ((h.2.1 wChfnc 0 0 c1 c2).2.2.2.2).imp (fun _ e => e.1)) ?_
  decide +kernel

def fencedList : ChiselList := { oneList [setRec 0x1000000, fenceRec, setRec 0x1000800] with before := [(1, [(2, 0)])], done := [(0, 1)] }

theorem test_chisel_fence (h : Obligations.chiselsComplete) : ∃ t, exec (.fence 2) (wChisel fencedList) = .next t := by
  refine (given fun c1 => given fun c2 => given fun c3 => given fun c4 => given fun c5 c6 => (h.2.2 (wChisel fencedList) fencedList (1, [(2, 0)]) c1 c2 c3 c4 c5 c6).imp (fun _ e => e.1)) ?_
  decide +kernel

def lastFence : ChiselList := { oneList [fenceRec] with before := [(0, [(1, 0)])], failed := 1 }

theorem test_chisel_last_fence (h : Obligations.chiselsComplete) : ∃ t, exec (.fence 2) (wChisel lastFence) = .next t := by
  refine (given fun c1 => given fun c2 => given fun c3 => given fun c4 => given fun c5 c6 => (h.2.2 (wChisel lastFence) lastFence (0, [(1, 0)]) c1 c2 c3 c4 c5 c6).imp (fun _ e => e.1)) ?_
  decide +kernel

/-! ## Witnesses, part J -/

/-- Partition 1 with one extent and tier frames of `gib` GiB in stack 0. -/
def wTier (gib : Nat) (x : Part) : State := w0.setPart 1 { x with isPresent := true, sections := 1, hbm := 1, host := .attached, extents := [0], tierGib := [(0, gib)] }

def tierReq (k : TierKind) (o : Owner) : TierReq := { id := 9, pt := 1, page := 7, units := 3, whole := 0, kind := k, owner := o, since := 5 }

def wReq (gib : Nat) (x : Part) (k : TierKind) (o : Owner) : State := { wTier gib x with tierReqs := [tierReq k o] }

theorem test_read_through (h : Obligations.tiersComplete) : ∃ t, exec (.readThrough 1 7 0) (wReq 1 {} .read (.command 1 1)) = .next t := by
  refine (given fun c1 => given fun c2 => given fun c3 => given fun c4 => given fun c5 => given fun c6 => given fun c7 c8 => (((h.1 (wReq 1 {} .read (.command 1 1)) 1 7).2 c1).1 (tierReq .read (.command 1 1)) [] 1 1 _ 0 _ c2 c3 c4 c5 (Or.inl ⟨c6, c7, rfl, rfl, c8⟩)).imp (fun _ e => e.1)) ?_
  decide +kernel

theorem test_direct_write (h : Obligations.tiersComplete) : ∃ t, exec (.directWrite 1 7 0) (wReq 0 {} .write (.command 1 1)) = .next t := by
  refine (given fun c1 => given fun c2 => given fun c3 => given fun c4 => given fun c5 => given fun c6 => given fun c7 => given fun c8 c9 => (((h.1 (wReq 0 {} .write (.command 1 1)) 1 7).2 c1).1 (tierReq .write (.command 1 1)) [] 1 1 _ 0 _ c2 c3 c4 c5 (Or.inr ⟨c6, c7, c8, rfl, rfl, c9⟩)).imp (fun _ e => e.1)) ?_
  decide +kernel

theorem test_fill (h : Obligations.tiersComplete) : ∃ t, exec (.fill 1 7 2) (wReq 1 { pages := [(6, { state := .resident, frame := some 0 })] } .write .none) = .next t := by
  refine (given fun c1 => given fun c2 => given fun c3 c4 => (((h.1 (wReq 1 { pages := [(6, { state := .resident, frame := some 0 })] } .write .none) 1 7).2 c1).2.1 (tierReq .write .none) 1 2 c2 c3 c4).imp (fun _ e => e.1)) ?_
  decide +kernel

def fillingPage : Part := { pages := [(7, { state := .filling, frame := some 3, filled := 0xFFFFFFFE })], fills := 4 }

theorem test_fill_complete (h : Obligations.tiersComplete) : ∃ t, exec (.fillComplete 1 ⟨7, 0⟩) (wTier 1 fillingPage) = .next t := by
  refine (given fun c1 => given fun c2 => given fun c3 => given fun c4 c5 => (((h.1 (wTier 1 fillingPage) 1 7).2 c1).2.2.1 3 (71 * 2 ^ 30 + 3 * 2 ^ 21) 0 c2 c3 c4 c5).imp (fun _ e => e.1)) ?_
  decide +kernel

theorem test_fill_complete_bad (h : Obligations.tiersComplete) : ∃ t, exec (.fillComplete 1 ⟨7, 1⟩) (wTier 1 fillingPage) = .next t := by
  refine (given fun c1 => given fun c2 => given fun c3 => given fun c4 c5 => (((h.1 (wTier 1 fillingPage) 1 7).2 c1).2.2.1 3 (71 * 2 ^ 30 + 3 * 2 ^ 21) 1 c2 c3 c4 c5).imp (fun _ e => e.1)) ?_
  decide +kernel

def fullPart : Part := { pages := [(6, { state := .resident, frame := some 0, count := 2, dirty := 1 }), (8, { state := .resident, frame := some 1, count := 2 })] }

/-- Every frame of the partition is in use. -/
def usedPart : Part := { pages := (List.range 511).map (fun i => (i + 100, { frame := some (i + 1) })) ++ [(8, { state := .resident, frame := some 0, count := 2 })] }

theorem test_eviction (h : Obligations.tiersComplete) : ∃ t, exec (.eviction 1 8) (wReq 1 usedPart .add .none) = .next t := by
  refine (given fun c1 => given fun c2 => given fun c3 => given fun c4 c5 => (((h.1 (wReq 1 usedPart .add .none) 1 8).2 c1).2.2.2.1 7 c2 c3 c4 c5).imp (fun _ e => e.1)) ?_
  decide +kernel

def evictPart (h : Option Nat) : Part := { pages := [(8, { state := .evicting, frame := some 1, count := 2, heir := h })] }

theorem test_eviction_ends (h : Obligations.tiersComplete) : ∃ t, exec (.eviction 1 8) (wTier 1 (evictPart none)) = .next t := by
  refine (given fun c1 => given fun c2 => given fun c3 c4 => ((((h.1 (wTier 1 (evictPart none)) 1 8).2 c1).2.2.2.2.1 c2 c3).1 c4).imp (fun _ e => e.1)) ?_
  decide +kernel

theorem test_eviction_heir (h : Obligations.tiersComplete) : ∃ t, exec (.eviction 1 8) (wTier 1 (evictPart (some 7))) = .next t := by
  refine (given fun c1 => given fun c2 => given fun c3 => given fun c4 => given fun c5 => given fun c6 c7 => ((((h.1 (wTier 1 (evictPart (some 7))) 1 8).2 c1).2.2.2.2.1 c2 c3).2 7 1 c4 c5 c6 c7).imp (fun _ e => e.1)) ?_
  decide +kernel

def dirtyPart (n : Nat) : Part := { pages := (List.range n).map (fun i => (i, { state := .resident, frame := some i, dirty := 6, filled := 0xFFFFFFFF, count := if i = 7 then 1 else 5 })), tierCtl := 0 }

def wDirty : State := { wTier 1 { dirtyPart 9 with cleaning := true } with mem := fieldsAt (71 * 2 ^ 30 + 7 * 2 ^ 21 + 2 ^ 17) [(0, 4, 0x01020304)] }

theorem test_write_back (h : Obligations.tiersComplete) : ∃ t, exec (.writeBack 1 7 2) wDirty = .next t := by
  refine (given fun c1 => given fun c2 => given fun c3 => given fun c4 => given fun c5 => given fun c6 => given fun c7 => given fun c8 => given fun c9 c10 => (((h.1 wDirty 1 7).2 c1).2.2.2.2.2 2 7 (71 * 2 ^ 30 + 7 * 2 ^ 21) c2 c3 c4 (Or.inr c5) c6 c7 c8 c9 c10).imp (fun _ e => e.1)) ?_
  decide +kernel

theorem test_tier_timeout (h : Obligations.tiersComplete) : ∃ t, exec (.tierTimeout 9) (wReq 0 fullPart .add (.command 1 1)) = .next t := by
  refine (given fun c1 => given fun c2 => given fun c3 => given fun c4 c5 => ((h.1 (wReq 0 fullPart .add (.command 1 1)) 1 7).1 (tierReq .add (.command 1 1)) c1 c2 c3 c4 c5).imp (fun _ e => e.1)) ?_
  decide +kernel

theorem test_cleaning (h : Obligations.tiersComplete) : ∃ t, exec (.cleaning 1) (wTier 0 (dirtyPart 1)) = .next t := by
  refine (given fun c1 => given fun c2 c3 => ((h.2 (wTier 0 (dirtyPart 1)) 1).1 c1 c2 (Or.inr c3)).imp (fun _ e => e.1)) ?_
  decide +kernel

theorem test_age (h : Obligations.tiersComplete) : ∃ t, exec (.age 1) (wTier 1 (dirtyPart 2)) = .next t := by
  refine (given fun c1 c2 => ((h.2 (wTier 1 (dirtyPart 2)) 1).2.1 c1 c2).imp (fun _ e => e.1)) ?_
  decide +kernel

def hinted (k : HintKind) : Part := { fullPart with hints := [(k, 7), (.pin, 6)] }

theorem test_prefetch (h : Obligations.tiersComplete) : ∃ t, exec (.prefetch 1) (wTier 1 (hinted .prefetch)) = .next t := by
  refine (given fun c1 => given fun c2 => given fun c3 => given fun c4 c5 => ((h.2 (wTier 1 (hinted .prefetch)) 1).2.2.1 7 [(.pin, 6)] 2 c1 c2 c3 c4 c5).imp (fun _ e => e.1)) ?_
  decide +kernel

theorem test_pin_hint (h : Obligations.tiersComplete) : ∃ t, exec (.pinHint 1) (wTier 1 (hinted .pin)) = .next t := by
  refine (given fun c1 => given fun c2 => given fun c3 => given fun c4 => given fun c5 c6 => (((h.2 (wTier 1 (hinted .pin)) 1).2.2.2.1 7 [(.pin, 6)] c1 c2 c3).1 2 c4 c5 c6).imp (fun _ e => e.1)) ?_
  decide +kernel

theorem test_pin_hint_refused (h : Obligations.tiersComplete) : ∃ t, exec (.pinHint 1) (wTier 0 (hinted .pin)) = .next t := by
  refine (given fun c1 => given fun c2 => given fun c3 c4 => (((h.2 (wTier 0 (hinted .pin)) 1).2.2.2.1 7 [(.pin, 6)] c1 c2 c3).2 c4).imp (fun _ e => e.1)) ?_
  decide +kernel

theorem test_demote (h : Obligations.tiersComplete) : ∃ t, exec (.demote 1) (wTier 1 { fullPart with hints := [(.demote, 8)] }) = .next t := by
  refine (given fun c1 => given fun c2 => given fun c3 c4 => ((h.2 (wTier 1 { fullPart with hints := [(.demote, 8)] }) 1).2.2.2.2.1 8 [] c1 c2 c3 c4).imp (fun _ e => e.1)) ?_
  decide +kernel

/-- Channel 5 with a worn free block and one that holds a unit. -/
def wFlash : State := { wTier 1 {} with flash := { blocks := [(5 * 2 ^ 20 + 3, { cycles := 7, reads := 100000, next := 2, units := [⟨1, 0, 5, 16⟩] }), (5 * 2 ^ 20 + 8, { cycles := 508 })], map := [(5, some (5, 3, 1))], data := fieldsAt (5 * 65536) [(0, 2, 77)] } }

theorem test_collect (h : Obligations.tiersComplete) : ∃ t, exec (.garbageCollection 5 3) wFlash = .next t := by
  refine (given fun c1 => given fun c2 c3 => (((h.2 wFlash 1).2.2.2.2.2 5 3 c1 c2 c3).1).imp (fun _ e => e.1)) ?_
  decide +kernel

theorem test_relocate (h : Obligations.tiersComplete) : ∃ t, exec (.readRelocation 5 3) wFlash = .next t := by
  refine (given fun c1 => given fun c2 => given fun c3 c4 => (((h.2 wFlash 1).2.2.2.2.2 5 3 c1 c2 c3).2.1 c4).imp (fun _ e => e.1)) ?_
  decide +kernel

theorem test_retire (h : Obligations.tiersComplete) : ∃ t, exec (.blockRetire 5 3) wFlash = .next t := by
  refine (given fun c1 => given fun c2 c3 => (((h.2 wFlash 1).2.2.2.2.2 5 3 c1 c2 c3).2.2.1).imp (fun _ e => e.1)) ?_
  decide +kernel

theorem test_level (h : Obligations.tiersComplete) : ∃ t, exec (.wearLevelling 5) wFlash = .next t := by
  refine (given fun c1 => given fun c2 => given fun c3 => given fun c4 => given fun c5 => given fun c6 => given fun c7 => given fun c8 => given fun c9 c10 => (((h.2 wFlash 1).2.2.2.2.2 5 3 c1 c2 c3).2.2.2 _ 8 _ rfl c4 c5 c6 c7 c8 c9 c10).imp (fun _ e => e.1)) ?_
  decide +kernel

/-! ## Witnesses, part K -/

/-- The shard with an apply of step 4 in a phase. -/
def applyIn (k : Nat) : Apply := { shard := 0, step := 4, phase := k, decided := k != 1 }

def wApply (m : BMap) (a : Apply) : State :=
  { wTrain.modPart 1 (fun x => { x with train := { x.train with step := 5, closed := 5, applies := [a] } }) with mem := m }

/-- The step-4 gradient of the shard lies in the slot of R267; an infinite one. -/
def badGrad : BMap := fieldsAt 0x20000 shardFields ++ fieldsAt 0x30000 [(0, 4, 0x40007F80), (0x1000, 8, 0x3F8000003F000000), (0x2000, 8, 0x3E800000BF800000)]

theorem test_prepare (h : Obligations.appliesGoOn) : ∃ t, exec (.prepare 1 0) (wApply shardMem (applyIn 1)) = .next t := by
  refine (given fun c1 => given fun c2 => given fun c3 => given fun c4 => given fun c5 => given fun c6 c7 => (((h (wApply shardMem (applyIn 1)) 1 0 (applyIn 1) ((wApply shardMem (applyIn 1)).shard 1 0)).1 _ false _ c1 c2 c3 c4 rfl rfl c5 c6).1 c7).imp (fun _ e => e.1)) ?_
  decide +kernel

theorem test_prepare_skips (h : Obligations.appliesGoOn) : ∃ t, exec (.prepare 1 0) (wApply badGrad (applyIn 1)) = .next t := by
  refine (given fun c1 => given fun c2 => given fun c3 => given fun c4 => given fun c5 => given fun c6 c7 => (((h (wApply badGrad (applyIn 1)) 1 0 (applyIn 1) ((wApply badGrad (applyIn 1)).shard 1 0)).1 _ true _ c1 c2 c3 c4 rfl rfl c5 c6).2 c7).imp (fun _ e => e.1)) ?_
  decide +kernel

/-- The same shard with a scale record at 0x28000, which has been decided before. -/
def scaledFields : List (Nat × Nat × Nat) := shardFields.take 9 ++ [(40, 8, 0x28000)] ++ shardFields.drop 9

def scaledMem : BMap := fieldsAt 0x20000 scaledFields ++ fieldsAt 0x28000 [(72, 1, 3), (73, 1, 9), (74, 2, 4), (76, 2, 3)]

def scaled (bad : Bool) : Apply := { shard := 0, step := 4, phase := 2, nonFinite := bad }

def decidedMem : BMap := fieldsAt 0x20000 (scaledFields.dropLast ++ [(332, 4, 1916357792)]) ++ fieldsAt 0x30000 [(0, 4, 0x40003F80)]

def wDecided (bad : Bool) : State :=
  (wApply decidedMem (applyIn 1)).modPart 1 (fun x => { x with train := { x.train with lsDone := [(0x28000, 4, bad)] } })

theorem test_prepare_decided (h : Obligations.appliesGoOn) : ∃ t, exec (.prepare 1 0) (wDecided true) = .next t := by
  refine (given fun c1 => given fun c2 => given fun c3 => given fun c4 => given fun c5 => given fun c6 c7 => (((h (wDecided true) 1 0 (applyIn 1) ((wDecided true).shard 1 0)).1 _ false _ c1 c2 c3 c4 rfl rfl c5 c6).2 c7).imp (fun _ e => e.1)) ?_
  decide +kernel

theorem test_prepare_stands (h : Obligations.appliesGoOn) : ∃ t, exec (.prepare 1 0) (wDecided false) = .next t := by
  refine (given fun c1 => given fun c2 => given fun c3 => given fun c4 => given fun c5 => given fun c6 c7 => (((h (wDecided false) 1 0 (applyIn 1) ((wDecided false).shard 1 0)).1 _ false _ c1 c2 c3 c4 rfl rfl c5 c6).1 c7).imp (fun _ e => e.1)) ?_
  decide +kernel

theorem test_loss_scale (h : Obligations.appliesGoOn) : ∃ t, exec (.lossScaleUpdate 1 0x28000) (wApply scaledMem (scaled false)) = .next t := by
  refine (given fun c1 => given fun c2 => given fun c3 => given fun c4 => given fun c5 => given fun c6 => given fun c7 => given fun c8 => given fun c9 c10 => ((h (wApply scaledMem (scaled false)) 1 0 (scaled false) ((wApply scaledMem (scaled false)).shard 1 0)).2.1 0x28000 c1 rfl c2 c3 c4 c5 c6 c7 c8 c9 c10).imp (fun _ e => e.1)) ?_
  decide +kernel

theorem test_loss_scale_skips (h : Obligations.appliesGoOn) : ∃ t, exec (.lossScaleUpdate 1 0x28000) (wApply scaledMem (scaled true)) = .next t := by
  refine (given fun c1 => given fun c2 => given fun c3 => given fun c4 => given fun c5 => given fun c6 => given fun c7 => given fun c8 => given fun c9 c10 => ((h (wApply scaledMem (scaled true)) 1 0 (scaled true) ((wApply scaledMem (scaled true)).shard 1 0)).2.1 0x28000 c1 rfl c2 c3 c4 c5 c6 c7 c8 c9 c10).imp (fun _ e => e.1)) ?_
  decide +kernel

def kronMem : BMap := fieldsAt 0x20000 ((0, 1, 4) :: shardFields.tail)

theorem test_kron_state (h : Obligations.appliesGoOn) : ∃ t, exec (.applyState 1 0) (wApply kronMem (applyIn 2)) = .next t := by
  refine (given fun c1 => given fun c2 c3 => ((h (wApply kronMem (applyIn 2)) 1 0 (applyIn 2) ((wApply kronMem (applyIn 2)).shard 1 0)).2.2.1 c1 c2 c3).imp (fun _ e => e.1)) ?_
  decide +kernel

theorem test_commit (h : Obligations.appliesGoOn) : ∃ t, exec (.commit 1 0) (wApply shardMem (applyIn 5)) = .next t := by
  refine (given fun c1 => given fun c2 c3 => ((h (wApply shardMem (applyIn 5)) 1 0 (applyIn 5) ((wApply shardMem (applyIn 5)).shard 1 0)).2.2.2 c1 c2 c3).imp (fun _ e => e.1)) ?_
  decide +kernel

theorem test_momentum_state (h : Obligations.momentumAppliesRun) : ∃ t, exec (.applyState 1 0) (wApply shardMem (applyIn 2)) = .next t := by
  refine (given fun c1 => given fun c2 => given fun c3 => given fun c4 => given fun c5 => given fun c6 => given fun c7 => given fun c8 => given fun c9 => given fun c10 => given fun c11 c12 => ((h.1 (wApply shardMem (applyIn 2)) 1 0 (applyIn 2) ((wApply shardMem (applyIn 2)).shard 1 0) _ c1 c2 c3 c4 c5).1 _ _ c6 rfl c7 rfl c8 c9 c10 c11 rfl c12).imp (fun _ e => e.1)) ?_
  decide +kernel

theorem test_momentum_rule (h : Obligations.momentumAppliesRun) : ∃ t, exec (.applyRule 1 0) (wApply shardMem (applyIn 3)) = .next t := by
  refine (given fun c1 => given fun c2 => given fun c3 => given fun c4 => given fun c5 => given fun c6 => given fun c7 => given fun c8 => given fun c9 c10 => ((h.1 (wApply shardMem (applyIn 3)) 1 0 (applyIn 3) ((wApply shardMem (applyIn 3)).shard 1 0) w0 c1 c2 c3 c4 c5).2.1 _ _ c6 c7 c8 c9 c10 rfl rfl).imp (fun _ e => e.1)) ?_
  decide +kernel

theorem test_momentum_regenerate (h : Obligations.momentumAppliesRun) : ∃ t, exec (.regenerate 1 0) (wApply shardMem (applyIn 4)) = .next t := by
  refine (given fun c1 => given fun c2 => given fun c3 => given fun c4 => given fun c5 => given fun c6 => given fun c7 => given fun c8 c9 => ((h.1 (wApply shardMem (applyIn 4)) 1 0 (applyIn 4) ((wApply shardMem (applyIn 4)).shard 1 0) _ c1 c2 c3 c4 c5).2.2 c6 rfl c7 c8 c9).imp (fun _ e => e.1)) ?_
  decide +kernel

/-- A replica of that shard, without gradient, master and state, whose fence waits; its owner is shard 1 of the same table, or lies in
another module. -/
def ownerFields : List (Nat × Nat × Nat) := [(0, 1, 1), (264, 8, 4), (280, 8, 3), (288, 8, 4), (144, 8, 0x34000), (152, 8, 0x34800)]

def replicaFields (peer : Nat) : List (Nat × Nat × Nat) :=
  [(0, 1, 1), (1, 1, 8)] ++ (shardFields.drop 1).take 7 ++ [(64, 8, peer), (144, 8, 0x33000), (152, 8, 0x33800), (280, 8, 3), (288, 8, 2)]

def replicaMem (peer : Nat) : BMap := fieldsAt 0x20000 (replicaFields peer) ++ fieldsAt 0x20200 ownerFields

def waiting4 : FenceWait := { fn := 1, slot := 1, step := 4, since := 7 }

def withFetch (x : Tbl (Option Fetch)) (q : Part) : Part :=
  { q with domain := 6, train := { q.train with applies := [], shards := 2, fetches := x, fence := some waiting4 } }

def wReplica (peer : Nat) (x : Option Fetch) : State :=
  { (wApply (replicaMem peer) (applyIn 1)).modPart 1 (withFetch (x.toList.map (fun y => (0, some y)))) with
    fabric := { shape := 0, position := 0, members := [(6, List.range 16)], ports := [(0, { state := .up })] } }

def herePeer : Nat := 2 ^ 62 + 0x20200

def ownRecord (fs : List (Nat × Nat × Nat)) : BMap := fieldsAt herePeer fs

def read1 (fs : List (Nat × Nat × Nat)) : Fetch := { since := 2 ^ 60, buf := ownRecord fs }

def read3 (g : Nat) : Fetch := { stage := 3, buffer := 1, tag := 4, buf := fieldsAt (herePeer + 288) [(0, 8, g)] }

theorem test_replica_asks_here (h : Obligations.momentumAppliesRun) : ∃ t, exec (.replicaFetch 1 0 4) (wReplica herePeer none) = .next t := by
  refine (given fun c1 => given fun c2 => given fun c3 => given fun c4 => given fun c5 => given fun c6 => given fun c7 => given fun c8 c9 => ((h.2 (wReplica herePeer none) 1 0 waiting4 ((wReplica herePeer none).shard 1 0) default default _ c1 c2 rfl c3 c4 c5 rfl).1 c6 c7 |>.1 0x20200 c8 c9).imp (fun _ e => e.1)) ?_
  decide +kernel

theorem test_replica_asks (h : Obligations.momentumAppliesRun) : ∃ t, exec (.replicaFetch 1 0 4) (wReplica (2 ^ 62 + 2 ^ 48 + 0x24000) none) = .next t := by
  refine (given fun c1 => given fun c2 => given fun c3 => given fun c4 => given fun c5 => given fun c6 => given fun c7 => given fun c8 c9 => ((h.2 (wReplica (2 ^ 62 + 2 ^ 48 + 0x24000) none) 1 0 waiting4 ((wReplica (2 ^ 62 + 2 ^ 48 + 0x24000) none).shard 1 0) default default _ c1 c2 rfl c3 c4 c5 rfl).1 c6 c7 |>.2 1 0x24000 c8 c9).imp (fun _ e => e.1)) ?_
  decide +kernel

theorem test_replica_current (h : Obligations.momentumAppliesRun) : ∃ t, exec (.replicaFetch 1 0 4) (wReplica herePeer (some (read1 (ownerFields.take 3)))) = .next t := by
  refine (given fun c1 => given fun c2 => given fun c3 => given fun c4 => given fun c5 => given fun c6 => given fun c7 => given fun c8 => given fun c9 => given fun c10 => given fun c11 c12 => ((h.2 (wReplica herePeer (some (read1 (ownerFields.take 3)))) 1 0 waiting4 ((wReplica herePeer (some (read1 (ownerFields.take 3)))).shard 1 0) _ (read1 (ownerFields.take 3)) _ c1 c2 rfl c3 c4 c5 rfl).2 c6 c7 c8 |>.1 c9 rfl |>.2 0 3 c10 c11 |>.1 ⟨0, c12⟩).imp (fun _ e => e.1)) ?_
  decide +kernel

theorem test_replica_newer (h : Obligations.momentumAppliesRun) : ∃ t, exec (.replicaFetch 1 0 4) (wReplica herePeer (some (read1 ownerFields))) = .next t := by
  refine (given fun c1 => given fun c2 => given fun c3 => given fun c4 => given fun c5 => given fun c6 => given fun c7 => given fun c8 => given fun c9 => given fun c10 => given fun c11 c12 => ((h.2 (wReplica herePeer (some (read1 ownerFields))) 1 0 waiting4 ((wReplica herePeer (some (read1 ownerFields))).shard 1 0) _ (read1 ownerFields) _ c1 c2 rfl c3 c4 c5 rfl).2 c6 c7 c8 |>.1 c9 rfl |>.2 1 4 c10 c11 |>.2 c12).imp (fun _ e => e.elim (fun _ e => e.1))) ?_
  decide +kernel

theorem test_replica_writes (h : Obligations.momentumAppliesRun) : ∃ t, exec (.replicaFetch 1 0 4) (wReplica herePeer (some { read1 ownerFields with stage := 2, buffer := 1, tag := 4 })) = .next t := by
  refine (given fun c1 => given fun c2 => given fun c3 => given fun c4 => given fun c5 => given fun c6 => given fun c7 => given fun c8 => given fun c9 c10 => ((h.2 (wReplica herePeer (some { read1 ownerFields with stage := 2, buffer := 1, tag := 4 })) 1 0 waiting4 ((wReplica herePeer (some { read1 ownerFields with stage := 2, buffer := 1, tag := 4 })).shard 1 0) default { read1 ownerFields with stage := 2, buffer := 1, tag := 4 } _ c1 c2 rfl c3 c4 c5 rfl).2 c6 c7 c8 |>.2.1 _ _ c9 rfl rfl c10).imp (fun _ e => e.elim (fun _ e => e.1))) ?_
  decide +kernel

theorem test_replica_fetch (h : Obligations.momentumAppliesRun) : ∃ t, exec (.replicaFetch 1 0 4) (wReplica herePeer (some (read3 4))) = .next t := by
  refine (given fun c1 => given fun c2 => given fun c3 => given fun c4 => given fun c5 => given fun c6 => given fun c7 => given fun c8 => given fun c9 c10 => ((h.2 (wReplica herePeer (some (read3 4))) 1 0 waiting4 ((wReplica herePeer (some (read3 4))).shard 1 0) default (read3 4) _ c1 c2 rfl c3 c4 c5 rfl).2 c6 c7 c8 |>.2.2.1 c9 c10).imp (fun _ e => e.1)) ?_
  decide +kernel

theorem test_replica_fails (h : Obligations.momentumAppliesRun) : ∃ t, exec (.replicaFetch 1 0 4) (wReplica herePeer (some (read3 5))) = .next t := by
  refine (given fun c1 => given fun c2 => given fun c3 => given fun c4 => given fun c5 => given fun c6 => given fun c7 => given fun c8 => given fun c9 c10 => ((h.2 (wReplica herePeer (some (read3 5))) 1 0 waiting4 ((wReplica herePeer (some (read3 5))).shard 1 0) default (read3 5) _ c1 c2 rfl c3 c4 c5 rfl).2 c6 c7 c8 |>.2.2.2 c9 c10).imp (fun _ e => e.1)) ?_
  decide +kernel

/-! ## Witnesses, part L -/

/-- Position 17 of a 4 x 4 x 4 fabric, partition 1 in domain 3, with one port. -/
def wFab (q : Nat) (x : Port) : State :=
  { w0.setPart 1 { part1 with domain := 3, fabIndex := 0 } with fabric := { shape := 5, position := 17, ports := [(q, x)], members := [(3, [0, 5])] } }

def goodFind : PortFindings := { term := 2, lengthCm := 80, delayNs := 4, hasSpare := true, trained := true }

theorem test_port_presence (h : Obligations.portsComplete) : ∃ t, exec (.portPresence 3 goodFind) (wFab 3 {}) = .next t := by
  refine (given fun c1 => given fun c2 => given fun c3 => given fun c4 c5 => (((h.1 (wFab 3 {}) 3 c1 c2 c3).1 goodFind c4).1 c5).imp (fun _ e => e.elim (fun _ e => e.1))) ?_
  decide +kernel

theorem test_port_presence_fails (h : Obligations.portsComplete) : ∃ t, exec (.portPresence 3 { goodFind with trained := false }) (wFab 3 { fails := 7 }) = .next t := by
  refine (given fun c1 => given fun c2 => given fun c3 => given fun c4 c5 => (((h.1 (wFab 3 { fails := 7 }) 3 c1 c2 c3).1 { goodFind with trained := false } c4).2.1 c5).imp (fun _ e => e.1)) ?_
  decide +kernel

theorem test_port_retry (h : Obligations.portsComplete) : ∃ t, exec (.portRetry 3 goodFind) (wFab 3 { fails := 7 }) = .next t := by
  refine (given fun c1 => given fun c2 => given fun c3 => given fun c4 => given fun c5 => given fun c6 c7 => (((h.1 (wFab 3 { fails := 7 }) 3 c1 c2 c3).1 goodFind c4).2.2 c5 c6 c7).imp (fun _ e => e.1)) ?_
  decide +kernel

/-- A packet sent now, and the capabilities of the module beyond port 3. -/
def nowPacket (type cls : Nat) : Packet := { (default : Packet) with type := type, cls := cls, domain := 3, src := 5, dst := 17, low := 0xE800, epoch := 0x76, bchkOk := true }

def partnerCap : Capability := { identity := 8, position := 21, port := 2, configCrc := BitVec.ofNat 32 (wFab 3 {}).configCrc, firmware := 1, lanes := 8, fec := 1, spare := true }

theorem test_caps (h : Obligations.portsComplete) : ∃ t, exec (.caps 3 (nowPacket pkCAPS 1) partnerCap) (wFab 3 { state := .caps }) = .next t := by
  refine (given fun c1 => given fun c2 => given fun c3 => given fun c4 => given fun c5 => given fun c6 => given fun c7 c8 => (((h.1 (wFab 3 { state := .caps }) 3 c1 c2 c3).2.1 (nowPacket pkCAPS 1) partnerCap c4 c5 c6 c7).1 c8).imp (fun _ e => e.1)) ?_
  decide +kernel

theorem test_caps_miswired (h : Obligations.portsComplete) : ∃ t, exec (.caps 3 (nowPacket pkCAPS 1) { partnerCap with port := 3 }) (wFab 3 { state := .caps }) = .next t := by
  refine (given fun c1 => given fun c2 => given fun c3 => given fun c4 => given fun c5 => given fun c6 => given fun c7 c8 => (((h.1 (wFab 3 { state := .caps }) 3 c1 c2 c3).2.1 (nowPacket pkCAPS 1) { partnerCap with port := 3 } c4 c5 c6 c7).2 c8).imp (fun _ e => e.1)) ?_
  decide +kernel

theorem test_miswired_retry (h : Obligations.portsComplete) : ∃ t, exec (.miswiredRetry 3 partnerCap) (wFab 3 { state := .miswired, lanesBad := [4] }) = .next t := by
  refine (given fun c1 => given fun c2 => given fun c3 => given fun c4 => given fun c5 => given fun c6 => given fun c7 => given fun c8 => given fun c9 c10 => ((h.1 (wFab 3 { state := .miswired, lanesBad := [4] }) 3 c1 c2 c3).2.2 partnerCap c4 c5 c6 c7 c8 c9 c10).imp (fun _ e => e.1)) ?_
  decide +kernel

def armedPort : Port := { state := .up, hasSpare := true }

def sending : Packet := { (default : Packet) with type := pkWRITE, cls := 2, domain := 3, src := 17, dst := 21 }

def wSending : State :=
  { wFab 3 { armedPort with share := 7 } with fabric := { (wFab 3 { armedPort with share := 7 }).fabric with
      outbox := [(4, { sending with cls := 0 }), (3, sending), (3, { sending with cls := 3, seq := 8 }), (3, { sending with cls := 3, seq := 9 })] } }

theorem test_link_share (h : Obligations.portsComplete) : ∃ t, step wSending = .next t := by
  refine (given fun c1 => given fun c2 => given fun c3 => given fun c4 c5 => ((h.2 wSending 3 c1 c2).1 { sending with cls := 3, seq := 8 } c3 c4 c5).imp (fun _ e => e.1)) ?_
  decide +kernel

theorem test_lane_spare (h : Obligations.portsComplete) : ∃ t, exec (.laneFail 3 7) (wFab 3 armedPort) = .next t := by
  refine (given fun c1 => given fun c2 => given fun c3 => given fun c4 => given fun c5 => given fun c6 c7 => (((h.2 (wFab 3 armedPort) 3 c1 c2).2.1 7 c3 c4 c5 c6).1 c7).imp (fun _ e => e.1)) ?_
  decide +kernel

def wSmall (x : Port) : State := { wFab 3 x with fabric := { (wFab 3 x).fabric with shape := 0, position := 9 } }

theorem test_lane_unarmed (h : Obligations.portsComplete) : ∃ t, exec (.laneFail 3 7) (wSmall armedPort) = .next t := by
  refine (given fun c1 => given fun c2 => given fun c3 => given fun c4 => given fun c5 => given fun c6 c7 => (((h.2 (wSmall armedPort) 3 c1 c2).2.1 7 c3 c4 c5 c6).2 c7).imp (fun _ e => e.1)) ?_
  decide +kernel

theorem test_lane_second (h : Obligations.portsComplete) : ∃ t, exec (.laneFail 3 7) (wFab 3 { armedPort with spareUsed := true, lanesBad := [2] }) = .next t := by
  refine (given fun c1 => given fun c2 => given fun c3 => given fun c4 => given fun c5 c6 => ((h.2 (wFab 3 { armedPort with spareUsed := true, lanesBad := [2] }) 3 c1 c2).2.2.1 7 2 c3 c4 c5 c6).imp (fun _ e => e.1)) ?_
  decide +kernel

theorem test_lane_third (h : Obligations.portsComplete) : ∃ t, exec (.laneFail 3 7) (wFab 3 { armedPort with spareUsed := true, lanesBad := [2, 5] }) = .next t := by
  refine (given fun c1 => given fun c2 => given fun c3 => given fun c4 => given fun c5 => given fun c6 c7 => ((h.2 (wFab 3 { armedPort with spareUsed := true, lanesBad := [2, 5] }) 3 c1 c2).2.2.2.1 7 2 5 c3 c4 c5 c6 c7).imp (fun _ e => e.1)) ?_
  decide +kernel

theorem test_replay_counts (h : Obligations.portsComplete) : ∃ t, exec (.linkReplay 3 16) (wFab 3 armedPort) = .next t := by
  refine (given fun c1 => given fun c2 c3 => ((h.2 (wFab 3 armedPort) 3 c1 c2).2.2.2.2.1 16 c3).imp (fun _ e => e.1)) ?_
  decide +kernel

def runColl : Coll := { pt := 1, seq := 6, fn := 1, slot := 1, stage := .run }

theorem test_replay_down (h : Obligations.portsComplete) : ∃ t, exec (.linkReplay 3 17) ((wFab 3 armedPort).modPart 1 (fun x => { x with colls := [runColl] })) = .next t := by
  refine (given fun c1 => given fun c2 c3 => ((h.2 ((wFab 3 armedPort).modPart 1 (fun x => { x with colls := [runColl] })) 3 c1 c2).2.2.2.2.2 17 c3).imp (fun _ e => e.1)) ?_
  decide +kernel

def wFabConfig : State := { w0.withCmd 0 (cmdOf opFAB_CONFIG [(0, 1, 5), (1, 1, 63)]) with fabric := { shape := 0, position := 9, ports := [(3, armedPort), (4, { state := .failed })] } }

theorem test_fab_config (h : Obligations.fabricTimeComplete) : ∃ t, exec (.fabConfig 0 1) wFabConfig = .next t := by
  refine (given fun c1 => given fun c2 => given fun c3 => given fun c4 => given fun c5 => given fun c6 => given fun c7 c8 => ((h wFabConfig).1 1 5 63 (4, 4, 4) c1 c2 c3 c4 c5 c6 c7 c8).imp (fun _ e => e.1)) ?_
  decide +kernel

theorem test_sync_exchange (h : Obligations.fabricTimeComplete) : ∃ t, exec (.syncExchange) (wFab 4 armedPort) = .next t := by
  refine (given fun c1 => given fun c2 c3 => (((h (wFab 4 armedPort)).2.1 4 c1 c2).1 c3).imp (fun _ e => e.elim (fun _ e => e.1))) ?_
  decide +kernel

theorem test_parent_lost (h : Obligations.fabricTimeComplete) : ∃ t, exec (.parentLost) (wFab 4 {}) = .next t := by
  refine (given fun c1 => given fun c2 c3 => (((h (wFab 4 {})).2.1 4 c1 c2).2 c3).imp (fun _ e => e.1)) ?_
  decide +kernel

def syncPacket (tag : BitVec 16) : Packet := { nowPacket pkSYNC 1 with tag := tag, payload := natLe 99999999990 8 ++ natLe 100000000040 8 ++ natLe 100000000050 8 ++ List.replicate 8 0 }

theorem test_sync (h : Obligations.fabricTimeComplete) : ∃ t, exec (.sync 4 (syncPacket 0)) (wFab 4 armedPort) = .next t := by
  refine (given fun c1 => given fun c2 => given fun c3 => given fun c4 c5 => (((h (wFab 4 armedPort)).2.2.1 4 (syncPacket 0) c1 c2 c3 c4).1 c5).imp (fun _ e => e.elim (fun _ e => e.1))) ?_
  decide +kernel

def wSynced : State := { wFab 4 armedPort with fabric := { (wFab 4 armedPort).fabric with syncSent := some 99999999990 } }

theorem test_sync_answer (h : Obligations.fabricTimeComplete) : ∃ t, exec (.sync 4 (syncPacket 1)) wSynced = .next t := by
  refine (given fun c1 => given fun c2 => given fun c3 => given fun c4 => given fun c5 => given fun c6 => given fun c7 c8 => (((h wSynced).2.2.1 4 (syncPacket 1) c1 c2 c3 c4).2 99999999990 c5 c6 c7 c8).imp (fun _ e => e.1)) ?_
  decide +kernel

theorem test_realign (h : Obligations.fabricTimeComplete) : ∃ t, exec (.caliperRealign) (wFab 4 armedPort) = .next t :=
  ((h (wFab 4 armedPort)).2.2.2).imp (fun _ e => e.1)

def addrPacket (type n : Nat) : Packet := { nowPacket type 2 with addr := 0x37FC, payload := (List.range n).map (fun i => BitVec.ofNat 8 (i + 64)), seq := 6 }

def wTarget : State := { wFab 4 armedPort with mem := fieldsAt 0x37F0 [(0, 16, 0x3F8000003F8000003F8000003F800000)], fabric := { (wFab 4 armedPort).fabric with rxSeq := [(22, 6)], members := [(3, [5, 17])] } }

theorem test_packet_write (h : Obligations.requestsAtTheirTarget) : ∃ t, exec (.fabWrite 4 (addrPacket pkWRITE 4)) wTarget = .next t := by
  refine (given fun c1 => given fun c2 => given fun c3 => given fun c4 => given fun c5 => given fun c6 => given fun c7 => given fun c8 => given fun c9 => given fun c10 => given fun c11 c12 => (((h wTarget 4 (addrPacket pkWRITE 4) 4 c1).1 c2 c3 c4 c5 c6 c7 c8 c9 c10).1 c11 c12).imp (fun _ e => e.elim (fun _ e => e.1))) ?_
  decide +kernel

theorem test_packet_add (h : Obligations.requestsAtTheirTarget) : ∃ t, exec (.fabAdd 4 (addrPacket pkADD 4)) wTarget = .next t := by
  refine (given fun c1 => given fun c2 => given fun c3 => given fun c4 => given fun c5 => given fun c6 => given fun c7 => given fun c8 => given fun c9 => given fun c10 => given fun c11 c12 => (((h wTarget 4 (addrPacket pkADD 4) 4 c1).1 c2 c3 c4 c5 c6 c7 c8 c9 c10).2.1 c11 c12).imp (fun _ e => e.elim (fun _ e => e.1))) ?_
  decide +kernel

theorem test_packet_read (h : Obligations.requestsAtTheirTarget) : ∃ t, exec (.fabRead 4 { addrPacket pkREAD 0 with want := 4 }) wTarget = .next t := by
  refine (given fun c1 => given fun c2 => given fun c3 => given fun c4 => given fun c5 => given fun c6 => given fun c7 => given fun c8 => given fun c9 => given fun c10 => given fun c11 c12 => (((h wTarget 4 { addrPacket pkREAD 0 with want := 4 } 0 c1).1 c2 c3 c4 c5 c6 c7 c8 c9 c10).2.2 c11 c12).imp (fun _ e => e.elim (fun _ e => e.1))) ?_
  decide +kernel

theorem test_packet_again (h : Obligations.requestsAtTheirTarget) : ∃ t, exec (.fabWrite 4 { addrPacket pkWRITE 4 with seq := 5 }) wTarget = .next t := by
  refine (given fun c1 => given fun c2 => given fun c3 => given fun c4 => given fun c5 c6 => ((h wTarget 4 { addrPacket pkWRITE 4 with seq := 5 } 4 c1).2.1 c2 c3 c4 c5 c6).imp (fun _ e => e.1)) ?_
  decide +kernel

theorem test_packet_stale (h : Obligations.requestsAtTheirTarget) : ∃ t, exec (.fabWrite 4 { addrPacket pkWRITE 4 with epoch := 0x30 }) wTarget = .next t := by
  refine (given fun c1 => given fun c2 => given fun c3 c4 => ((h wTarget 4 { addrPacket pkWRITE 4 with epoch := 0x30 } 4 c1).2.2.1 c2 c3 c4).imp (fun _ e => e.1)) ?_
  decide +kernel

theorem test_packet_transit (h : Obligations.requestsAtTheirTarget) : ∃ t, exec (.fabWrite 4 { addrPacket pkWRITE 4 with dst := 33 }) wTarget = .next t := by
  refine (given fun c1 => given fun c2 => given fun c3 => given fun c4 => given fun c5 => given fun c6 => given fun c7 c8 => ((h wTarget 4 { addrPacket pkWRITE 4 with dst := 33 } 4 c1).2.2.2 c2 c3 c4 c5 c6 c7 c8).imp (fun _ e => e.1)) ?_
  decide +kernel

def asked (type : Nat) : Unacked := { id := 7, packet := { nowPacket type 2 with src := 17, dst := 5, seq := 9, addr := 0x4000, want := 4, payload := if type = pkREAD then [] else [1, 2] }, owner := .command 1 1, first := 99 * 10 ^ 9, last := 99 * 10 ^ 9 }

def wAsked (type : Nat) : State :=
  { (wFab 4 armedPort).withRun 1 { cmdOf opTRAIN_SETUP [] with reads := 1, writes := 2 } with fabric := { (wFab 4 armedPort).fabric with unacked := [asked type], nextId := 8 } }

def answer (type : Nat) (xs : List Byte) : Packet := { nowPacket type 2 with seq := 9, payload := xs }

theorem test_read_data (h : Obligations.answersComplete) : ∃ t, exec (.fabReadData 4 (answer pkREAD_DATA [1, 2, 3, 4])) (wAsked pkREAD) = .next t := by
  refine (given fun c1 => given fun c2 => given fun c3 => given fun c4 => given fun c5 => given fun c6 => given fun c7 => given fun c8 c9 => (((h (wAsked pkREAD) 4 (answer pkREAD_DATA [1, 2, 3, 4])).1 c1 c2 c3).1 (asked pkREAD) 1 1 c4 c5 c6 c7 c8 c9).imp (fun _ e => e.1)) ?_
  decide +kernel

theorem test_read_data_late (h : Obligations.answersComplete) : ∃ t, exec (.fabReadData 4 (answer pkREAD_DATA [1, 2, 3, 4])) (wAsked pkWRITE) = .next t := by
  refine (given fun c1 => given fun c2 => given fun c3 c4 => (((h (wAsked pkWRITE) 4 (answer pkREAD_DATA [1, 2, 3, 4])).1 c1 c2 c3).2 c4).imp (fun _ e => e.1)) ?_
  decide +kernel

theorem test_ack (h : Obligations.answersComplete) : ∃ t, exec (.fabAck 4 (answer pkACK [])) (wAsked pkWRITE) = .next t := by
  refine (given fun c1 => given fun c2 => given fun c3 => given fun c4 => given fun c5 => given fun c6 => given fun c7 c8 => (((h (wAsked pkWRITE) 4 (answer pkACK [])).2.1 c1 c2 c3).1 (asked pkWRITE) 1 1 c4 c5 c6 c7 c8).imp (fun _ e => e.1)) ?_
  decide +kernel

theorem test_ack_stale (h : Obligations.answersComplete) : ∃ t, exec (.fabAck 4 { answer pkACK [] with stale := true }) (wAsked pkWRITE) = .next t := by
  refine (given fun c1 => given fun c2 => given fun c3 => given fun c4 c5 => (((h (wAsked pkWRITE) 4 { answer pkACK [] with stale := true }).2.1 c1 c2 c3).2 (asked pkWRITE) c4 c5).imp (fun _ e => e.1)) ?_
  decide +kernel

theorem test_resend (h : Obligations.answersComplete) : ∃ t, exec (.resendTimeout 7) (wAsked pkWRITE) = .next t := by
  refine (given fun c1 => given fun c2 => given fun c3 c4 => (((h (wAsked pkWRITE) 4 (answer pkACK [])).2.2 (asked pkWRITE) c1).1 c2 c3 c4).imp (fun _ e => e.1)) ?_
  decide +kernel

theorem test_request_timeout (h : Obligations.answersComplete) : ∃ t, exec (.remoteRequestTimeout 7) (wAsked pkWRITE) = .next t := by
  refine (given fun c1 => given fun c2 => given fun c3 c4 => (((h (wAsked pkWRITE) 4 (answer pkACK [])).2.2 (asked pkWRITE) c1).2 1 1 c2 c3 c4).imp (fun _ e => e.1)) ?_
  decide +kernel

/-! ## Witnesses, part L2 -/

/-- Position `pos` of a 4 x 2 x 2 fabric whose domain 3 has every member, partition 1 in it, one collective in slot 1. -/
def wDomain (pos : Nat) (xs : List Coll) : State :=
  { w0.setPart 1 { part1 with domain := 3, colls := xs } with
    fabric := { shape := 0, position := pos, ports := [(0, { state := .up }), (1, { state := .up })], members := [(3, List.range 16)] } }

/-- Records of a REDUCE_SCATTER or ALL_REDUCE of FP32 elements, an ALL_GATHER, a BROADCAST from position 3 and a PERMUTE. -/
def reduceCmd (op n : Nat) : Cmd := cmdOf opCOLLECTIVE [(0, 1, op), (1, 1, 0x66), (4, 4, 6), (8, 8, n), (16, 8, 0x100000), (24, 8, 0x140000), (32, 8, 0x200000)]

def gatherCmd : Cmd := cmdOf opCOLLECTIVE [(0, 1, 2), (4, 4, 6), (8, 8, 4096), (16, 8, 0x100000), (24, 8, 0x140000)]

def broadcastCmd : Cmd := cmdOf opCOLLECTIVE [(0, 1, 4), (3, 1, 3), (4, 4, 6), (8, 8, 4096), (16, 8, 0x100000), (24, 8, 0x140000)]

def permuteCmd : Cmd := cmdOf opCOLLECTIVE [(0, 1, 5), (4, 4, 6), (8, 8, 1), (16, 8, 0x100000)]

def wColl (c : Cmd) : State := (wDomain 9 []).withCmd 1 c

theorem test_reduce_scatter (h : Obligations.collectivesComplete) : ∃ t, exec (.reduceScatter 1 1) (wColl (reduceCmd 1 4)) = .next t := by
  refine (given fun c1 => given fun c2 => given fun c3 => given fun c4 => given fun c5 => given fun c6 => given fun c7 c8 => ((h.1 (wColl (reduceCmd 1 4)) 1 1 1 (.reduceScatter 1 1) c1 c2 c3 c4 c5 c6).1 c7 c8).imp (fun _ e => e.1)) ?_
  decide +kernel

theorem test_all_reduce (h : Obligations.collectivesComplete) : ∃ t, exec (.allReduce 1 1) (wColl (reduceCmd 3 4)) = .next t := by
  refine (given fun c1 => given fun c2 => given fun c3 => given fun c4 => given fun c5 => given fun c6 => given fun c7 c8 => ((h.1 (wColl (reduceCmd 3 4)) 1 1 3 (.allReduce 1 1) c1 c2 c3 c4 c5 c6).1 c7 c8).imp (fun _ e => e.1)) ?_
  decide +kernel

theorem test_all_gather (h : Obligations.collectivesComplete) : ∃ t, exec (.allGather 1 1) (wColl gatherCmd) = .next t := by
  refine (given fun c1 => given fun c2 => given fun c3 => given fun c4 => given fun c5 => given fun c6 => given fun c7 c8 => ((h.1 (wColl gatherCmd) 1 1 2 (.allGather 1 1) c1 c2 c3 c4 c5 c6).1 c7 c8).imp (fun _ e => e.1)) ?_
  decide +kernel

theorem test_broadcast (h : Obligations.collectivesComplete) : ∃ t, exec (.broadcast 1 1) (wColl broadcastCmd) = .next t := by
  refine (given fun c1 => given fun c2 => given fun c3 => given fun c4 => given fun c5 => given fun c6 => given fun c7 c8 => ((h.1 (wColl broadcastCmd) 1 1 4 (.broadcast 1 1) c1 c2 c3 c4 c5 c6).1 c7 c8).imp (fun _ e => e.1)) ?_
  decide +kernel

theorem test_permute (h : Obligations.collectivesComplete) : ∃ t, exec (.permute 1 1) (wColl permuteCmd) = .next t := by
  refine (given fun c1 => given fun c2 => given fun c3 => given fun c4 => given fun c5 => given fun c6 => given fun c7 c8 => ((h.1 (wColl permuteCmd) 1 1 5 (.permute 1 1) c1 c2 c3 c4 c5 c6).1 c7 c8).imp (fun _ e => e.1)) ?_
  decide +kernel

def busyColls : List Coll := (List.range 8).map (fun i => { pt := 1, seq := i + 20, fn := 1, slot := i + 2, stage := .compare })

theorem test_permute_waits (h : Obligations.collectivesComplete) : ∃ t, exec (.permute 1 1) ((wDomain 9 busyColls).withCmd 1 permuteCmd) = .next t := by
  refine (given fun c1 => given fun c2 => given fun c3 => given fun c4 => given fun c5 => given fun c6 => given fun c7 c8 => ((h.1 ((wDomain 9 busyColls).withCmd 1 permuteCmd) 1 1 5 (.permute 1 1) c1 c2 c3 c4 c5 c6).1 c7 c8).imp (fun _ e => e.1)) ?_
  decide +kernel

theorem test_inactive_domain (h : Obligations.collectivesComplete) : ∃ t, exec (.broadcast 1 1) { wColl broadcastCmd with fabric := {} } = .next t := by
  refine (given fun c1 => given fun c2 => given fun c3 => given fun c4 => given fun c5 => given fun c6 c7 => ((h.1 { wColl broadcastCmd with fabric := {} } 1 1 4 (.broadcast 1 1) c1 c2 c3 c4 c5 c6).2 c7).imp (fun _ e => e.1)) ?_
  decide +kernel

def coll6 (st : CollStage) : Coll := { pt := 1, seq := 6, fn := 1, slot := 1, stage := st }

def wCompare : State := (wDomain 9 [coll6 .compare]).withRun 1 broadcastCmd

theorem test_phase_differs (h : Obligations.collectivesComplete) : ∃ t, exec (.collectivePhase 1 6 false) wCompare = .next t := by
  refine (given fun c1 => given fun c2 => given fun c3 c4 => ((h.2 wCompare 1 6 (coll6 .compare) c1 c2 c3).1 c4).imp (fun _ e => e.1)) ?_
  decide +kernel

theorem test_phase_agrees (h : Obligations.collectivesComplete) : ∃ t, exec (.collectivePhase 1 6 true) wCompare = .next t := by
  refine (given fun c1 => given fun c2 => given fun c3 => given fun c4 c5 => ((h.2 wCompare 1 6 (coll6 .compare) c1 c2 c3).2 c4 c5).imp (fun _ e => e.1)) ?_
  decide +kernel

/-- A packet of collective 6 from position 3, sent now. -/
def collPacket (type a : Nat) (xs : List Byte) : Packet :=
  { (default : Packet) with type := type, cls := 2, domain := 3, src := 3, dst := 9, low := 0xE800, epoch := 0x76, tag := 6, addr := a, payload := xs, bchkOk := true }

def wRunning (c : Cmd) (x : Coll) : State := (wDomain 9 [x]).withRun 1 c

theorem test_copy (h : Obligations.collectiveDataArrive) : ∃ t, exec (.copy 0 (collPacket pkCOPY 2040 [1, 2, 3])) (wRunning broadcastCmd (coll6 .run)) = .next t := by
  refine (given fun c1 => given fun c2 => given fun c3 => given fun c4 => given fun c5 => given fun c6 => given fun c7 => given fun c8 => given fun c9 => given fun c10 => given fun c11 => given fun c12 => given fun c13 => given fun c14 => given fun c15 => given fun c16 => given fun c17 c18 => ((h.1 (wRunning broadcastCmd (coll6 .run)) 0 1 6 (collPacket pkCOPY 2040 [1, 2, 3]) (coll6 .run) c1 c2 c3 c4 c5 c6 c7 c8 c9 c10).1 c11 c12 c13 c14 c15 c16 c17 c18).imp (fun _ e => e.1)) ?_
  decide +kernel

def brokenColl : Coll := { coll6 .run with broken := true, brkStamp := 100 * 10 ^ 9, brkPos := 5, noticeAt := 5 }

theorem test_chain_discarded (h : Obligations.collectiveDataArrive) : ∃ t, exec (.chain 0 (collPacket pkCHAIN 0 [1, 2, 3, 4, 5, 6])) (wRunning (reduceCmd 1 16384) brokenColl) = .next t := by
  refine (given fun c1 => given fun c2 => given fun c3 => given fun c4 => given fun c5 => given fun c6 => given fun c7 => given fun c8 => given fun c9 => given fun c10 => given fun c11 => given fun c12 => given fun c13 c14 => ((h.1 (wRunning (reduceCmd 1 16384) brokenColl) 0 1 6 (collPacket pkCHAIN 0 [1, 2, 3, 4, 5, 6]) brokenColl c1 c2 c3 c4 c5 c6 c7 c8 c9 c10).2.1 c11 c12 c13 c14).imp (fun _ e => e.1)) ?_
  decide +kernel

theorem test_partial (h : Obligations.collectiveDataArrive) : ∃ t, exec (.partialSum 0 (collPacket pkPARTIAL 9217 [1, 2, 3, 4, 5, 6, 7, 8])) (wRunning (reduceCmd 1 16384) brokenColl) = .next t := by
  refine (given fun c1 => given fun c2 => given fun c3 => given fun c4 => given fun c5 => given fun c6 => given fun c7 => given fun c8 => given fun c9 => given fun c10 => given fun c11 => given fun c12 => given fun c13 => given fun c14 => given fun c15 => given fun c16 => given fun c17 => given fun c18 => given fun c19 c20 => ((h.1 (wRunning (reduceCmd 1 16384) brokenColl) 0 1 6 (collPacket pkPARTIAL 9217 [1, 2, 3, 4, 5, 6, 7, 8]) brokenColl c1 c2 c3 c4 c5 c6 c7 c8 c9 c10).2.2 c11 c12 c13 c14 c15 c16 c17 c18 c19 c20).imp (fun _ e => e.1)) ?_
  decide +kernel

def wChain : State := { wRunning (reduceCmd 1 16384) (coll6 .run) with mem := fieldsAt 0x101004 [(0, 4, 0x3F800000), (4, 4, 0x40000000)] }

def sumPacket : Packet := collPacket pkCHAIN 1025 [0, 0, 1, 0, 0, 0, 7, 0, 0, 0, 0, 0]

theorem test_chain (h : Obligations.collectiveDataArrive) : ∃ t, exec (.chain 0 sumPacket) wChain = .next t := by
  refine (given fun c1 => given fun c2 => given fun c3 => given fun c4 => given fun c5 => given fun c6 => given fun c7 => given fun c8 => given fun c9 => given fun c10 => given fun c11 => given fun c12 => given fun c13 => given fun c14 => given fun c15 => given fun c16 => given fun c17 => given fun c18 => given fun c19 => given fun c20 => given fun c21 => given fun c22 => given fun c23 c24 => (h.2 wChain 0 1 0 6 sumPacket (coll6 .run) wChain (wChain.contribution 1 (wChain.collCmd (coll6 .run)) 0 1025 2).1 (wChain.contribution 1 (wChain.collCmd (coll6 .run)) 0 1025 2).2.1 (wChain.contribution 1 (wChain.collCmd (coll6 .run)) 0 1025 2).2.2 c1 c2 c3 c4 c5 c6 c7 c8 c9 c10 c11 c12 c13 c14 c15 c16 c17 c18 c19 c20 c21 rfl c22 c23 c24).imp (fun _ e => e.1)) ?_
  decide +kernel

theorem test_notice (h : Obligations.breaksComplete) : ∃ t, exec (.notice 0 { collPacket pkNOTICE 0 [] with low := 0xE700 }) (wRunning (reduceCmd 1 16384) brokenColl) = .next t := by
  refine (given fun c1 => given fun c2 => given fun c3 => given fun c4 => given fun c5 => given fun c6 => given fun c7 => given fun c8 => given fun c9 => given fun c10 c11 => ((h (wRunning (reduceCmd 1 16384) brokenColl) 1 6 brokenColl c1 c2 c3 c4 c5).1 0 { collPacket pkNOTICE 0 [] with low := 0xE700 } c6 c7 c8 c9 c10 c11).imp (fun _ e => e.1)) ?_
  decide +kernel

theorem test_partials_missing (h : Obligations.breaksComplete) : ∃ t, exec (.fallbackSum 1 6) (wRunning (reduceCmd 1 16384) brokenColl) = .next t := by
  refine (given fun c1 => given fun c2 => given fun c3 => given fun c4 => given fun c5 c6 => ((h (wRunning (reduceCmd 1 16384) brokenColl) 1 6 brokenColl c1 c2 c3 c4 c5).2.1 c6).imp (fun _ e => e.1)) ?_
  decide +kernel

def allPartials : Coll := { brokenColl with partials := (List.range 16).map (fun i => (i, 32)) }

def wFallback : State := { (wDomain 0 [allPartials]).withRun 1 (reduceCmd 1 4) with mem := fieldsAt 0x200000 [(0, 8, 0x3FF0000000000000), (0x2000, 8, 0x4000000000000000), (0x2008, 8, 0x8000000000000000)] }

theorem test_fallback (h : Obligations.breaksComplete) : ∃ t, exec (.fallbackSum 1 6) wFallback = .next t := by
  refine (given fun c1 => given fun c2 => given fun c3 => given fun c4 => given fun c5 => given fun c6 => given fun c7 => given fun c8 => given fun c9 => given fun c10 => given fun c11 => given fun c12 => given fun c13 => given fun c14 => given fun c15 => given fun c16 c17 => ((h wFallback 1 6 allPartials c1 c2 c3 c4 c5).2.2.1 4 0x140000 c6 c7 c8 c9 c10 c11 c12 c13 c14 c15 c16 c17).imp (fun _ e => e.1)) ?_
  decide +kernel

theorem test_chain_break (h : Obligations.breaksComplete) : ∃ t, exec (.chainBreak 1 6) (wRunning (reduceCmd 1 4) { coll6 .run with cut := true }) = .next t := by
  refine (given fun c1 => given fun c2 => given fun c3 => given fun c4 => given fun c5 => given fun c6 => given fun c7 c8 => ((h (wRunning (reduceCmd 1 4) { coll6 .run with cut := true }) 1 6 { coll6 .run with cut := true } c1 c2 c3 c4 c5).2.2.2.1 c6 c7 c8).imp (fun _ e => e.1)) ?_
  decide +kernel

theorem test_member_lost (h : Obligations.breaksComplete) : ∃ t, exec (.memberLost 1 5) (wRunning (reduceCmd 1 16384) brokenColl) = .next t := by
  refine (given fun c1 => given fun c2 => given fun c3 => given fun c4 => given fun c5 => given fun c6 => given fun c7 => given fun c8 => given fun c9 => given fun c10 c11 => (((h (wRunning (reduceCmd 1 16384) brokenColl) 1 6 brokenColl c1 c2 c3 c4 c5).2.2.2.2 5 c6 c7 c8 c9 c10 c11).1).imp (fun _ e => e.1)) ?_
  decide +kernel

theorem test_partial_timeout (h : Obligations.breaksComplete) : ∃ t, exec (.partialTimeout 1 6 5) (wRunning (reduceCmd 1 16384) brokenColl) = .next t := by
  refine (given fun c1 => given fun c2 => given fun c3 => given fun c4 => given fun c5 => given fun c6 => given fun c7 => given fun c8 => given fun c9 => given fun c10 => given fun c11 => given fun c12 => given fun c13 => given fun c14 c15 => (((h (wRunning (reduceCmd 1 16384) brokenColl) 1 6 brokenColl c1 c2 c3 c4 c5).2.2.2.2 5 c6 c7 c8 c9 c10 c11).2 c12 c13 c14 c15).imp (fun _ e => e.1)) ?_
  decide +kernel

/-! ## Witnesses, part M -/

def wHeat (x : Stack) : State := { w0 with hbm := [(7, { x with mode := .service })] }

theorem test_reading (h : Obligations.heatAndPowerComplete) : ∃ t, exec (.temperatureReading 7 0 1520) (wHeat {}) = .next t := by
  refine (given fun c1 => given fun c2 c3 => ((h.1 (wHeat {}) 7 c1).1 0 1520 c2 c3).imp (fun _ e => e.1)) ?_
  decide +kernel

theorem test_reading_l2 (h : Obligations.heatAndPowerComplete) : ∃ t, exec (.temperatureReading 7 17 1408) (wHeat {}) = .next t := by
  refine (given fun c1 => given fun c2 c3 => ((h.1 (wHeat {}) 7 c1).1 17 1408 c2 c3).imp (fun _ e => e.1)) ?_
  decide +kernel

theorem test_reading_l1 (h : Obligations.heatAndPowerComplete) : ∃ t, exec (.temperatureReading 7 1 1360) (wHeat {}) = .next t := by
  refine (given fun c1 => given fun c2 c3 => ((h.1 (wHeat {}) 7 c1).1 1 1360 c2 c3).imp (fun _ e => e.1)) ?_
  decide +kernel

theorem test_reading_cool (h : Obligations.heatAndPowerComplete) : ∃ t, exec (.temperatureReading 7 1 1359) (wHeat {}) = .next t := by
  refine (given fun c1 => given fun c2 c3 => ((h.1 (wHeat {}) 7 c1).1 1 1359 c2 c3).imp (fun _ e => e.1)) ?_
  decide +kernel

def wCooled : State := wHeat { level := 3, below := [(3, some (99 * 10 ^ 9))], readings := [(0, 1400)] }

theorem test_level_exit (h : Obligations.heatAndPowerComplete) : ∃ t, exec (.throttleLevelExit 7) wCooled = .next t := by
  refine (given fun c1 => given fun c2 => given fun c3 => given fun c4 c5 => ((h.1 wCooled 7 c1).2 (99 * 10 ^ 9) c2 c3 c4 c5).imp (fun _ e => e.1)) ?_
  decide +kernel

def hotDies : Tbl Die := (List.range 4).map (fun d => (d, { coreMhz := 600, hot := d == 2, coolFrom := some 0, overload := true, preClamp := 1500 }))

def wClamped : State := { w0 with dies := hotDies, power := { w0.power with thermal := true, overPower := true, hubCool := some 0, lowFrom := some 0 }, side := { thermLow := true, alertLow := true } }

theorem test_clamp_diode (h : Obligations.heatAndPowerComplete) : ∃ t, exec (.emergencyClamp (.dieDiode 3 1680)) w0 = .next t := by
  refine (given fun c1 => given fun c2 c3 => (((h.2.1 w0).1 c1).1 3 1680 c2 c3).imp (fun _ e => e.1)) ?_
  decide +kernel

theorem test_clamp_power (h : Obligations.heatAndPowerComplete) : ∃ t, exec (.emergencyClamp (.inletPower 2400001)) w0 = .next t := by
  refine (given fun c1 c2 => (((h.2.1 w0).1 c1).2 2400001 c2).imp (fun _ e => e.1)) ?_
  decide +kernel

theorem test_release_thermal (h : Obligations.heatAndPowerComplete) : ∃ t, exec (.clampRelease .thermal) wClamped = .next t := by
  refine (given fun c1 => given fun c2 c3 => (((h.2.1 wClamped).2 c1).1 c2 c3).imp (fun _ e => e.1)) ?_
  decide +kernel

theorem test_release_power (h : Obligations.heatAndPowerComplete) : ∃ t, exec (.clampRelease .power) wClamped = .next t := by
  refine (given fun c1 => given fun c2 c3 => (((h.2.1 wClamped).2 c1).2 c2 c3).imp (fun _ e => e.1)) ?_
  decide +kernel

def wLimited : State := { w0 with dies := [(0, { limitMhz := 1650, coreMhz := 1650, fwCeiling := some 1575 }), (1, { limitMhz := 640 })] }

theorem test_limit_step (h : Obligations.heatAndPowerComplete) : ∃ t, exec (.powerLimitStep 2400001) wLimited = .next t := by
  refine (given fun c1 => given fun c2 c3 => ((h.2.2 wLimited 2400001 c1 c2).1 c3).imp (fun _ e => e.1)) ?_
  decide +kernel

theorem test_ceiling_raise (h : Obligations.heatAndPowerComplete) : ∃ t, exec (.ceilingRaise 2199999) wLimited = .next t := by
  refine (given fun c1 => given fun c2 c3 => ((h.2.2 wLimited 2199999 c1 c2).2 c3).imp (fun _ e => e.1)) ?_
  decide +kernel

theorem test_ceiling_holds (h : Obligations.heatAndPowerComplete) : ∃ t, exec (.ceilingRaise 2200000) wLimited = .next t := by
  refine (given fun c1 => given fun c2 c3 => ((h.2.2 wLimited 2200000 c1 c2).2 c3).imp (fun _ e => e.1)) ?_
  decide +kernel

/-! ## Witnesses, part N -/

def wIn (x : ModuleState) (r : PowerRegs) : State := { w0 with power := { w0.power with state := x, regs := r } }

theorem test_inlet (h : Obligations.powerCyclesComplete) : ∃ t, exec (.inletConnect 60000) (wIn .unpowered {}) = .next t := by
  refine (given fun c1 => given fun c2 c3 => ((h.1 (wIn .unpowered {})).1 60000 c1 c2 c3).imp (fun _ e => e.1)) ?_
  decide +kernel

def goodStart : StartUpFindings := { straps := 5, currentBad := [], previousBad := [2], stackOutcomes := [], failedTiles := [(1, 65)], failedDies := [], latchTripped := false }

theorem test_start_up (h : Obligations.powerCyclesComplete) : ∃ t, exec (.startUp goodStart) (wIn .starting {}) = .next t := by
  refine (given fun c1 => given fun c2 => given fun c3 c4 => ((h.1 (wIn .starting {})).2.1 goodStart c1 c2 c3 c4).imp (fun _ e => e.1)) ?_
  decide +kernel

theorem test_power_fail (h : Obligations.powerCyclesComplete) : ∃ t, exec (.powerFailStop (.inletVoltage 37999)) w0 = .next t := by
  refine (given fun c1 c2 => ((h.1 w0).2.2.1 (.inletVoltage 37999) c1 c2).imp (fun _ e => e.1)) ?_
  decide +kernel

theorem test_withdrawal (h : Obligations.powerCyclesComplete) : ∃ t, exec (.inletWithdrawal) w0 = .next t :=
  ((h.1 w0).2.2.2.1 (by decide +kernel)).imp (fun _ e => e.1)

def wStandby : State := { wIn .ms3 {} with power := { (wIn .ms3 {}).power with winFrom := some (100 * 10 ^ 9 - 60) } }

theorem test_wake_n (h : Obligations.powerCyclesComplete) : ∃ t, exec (.wakeN true) wStandby = .next t := by
  refine (given fun c1 c2 => (((h.2 wStandby).1 c1 c2).1).imp (fun _ e => e.1)) ?_
  decide +kernel

theorem test_wake_l1 (h : Obligations.powerCyclesComplete) : ∃ t, exec (.l1Exit) wStandby = .next t := by
  refine (given fun c1 c2 => (((h.2 wStandby).1 c1 c2).2.1).imp (fun _ e => e.1)) ?_
  decide +kernel

theorem test_wake_address (h : Obligations.powerCyclesComplete) : ∃ t, exec (.smbusAddressMatch 0x58) wStandby = .next t := by
  refine (given fun c1 => given fun c2 => given fun c3 c4 => (((h.2 wStandby).1 c1 c2).2.2.1 0x58 c3 c4).imp (fun _ e => e.1)) ?_
  decide +kernel

def wWindow : State := { wIn .ms3 {} with power := { (wIn .ms3 {}).power with winFrom := some (100 * 10 ^ 9 - 59) } }

theorem test_wake_window (h : Obligations.powerCyclesComplete) : ∃ t, exec (.smbusAddressMatch 0x58) wWindow = .next t := by
  refine (given fun c1 => given fun c2 => given fun c3 c4 => (((h.2 wWindow).1 c1 c2).2.2.2 0x58 (100 * 10 ^ 9 - 59) c3 c4).imp (fun _ e => e.1)) ?_
  decide +kernel

theorem test_wake_ends (h : Obligations.powerCyclesComplete) : ∃ t, exec (.wakeFromStandby) (wIn .ms3 { phase := 2 }) = .next t := by
  refine (given fun c1 => given fun c2 c3 => ((h.2 (wIn .ms3 { phase := 2 })).2.1 c1 c2 c3).imp (fun _ e => e.1)) ?_
  decide +kernel

theorem test_wake_ms4 (h : Obligations.powerCyclesComplete) : ∃ t, exec (.wakeN true) (wIn .ms4 {}) = .next t :=
  (((h.2 (wIn .ms4 {})).2.2 (by decide +kernel)).1).imp (fun _ e => e.1)

theorem test_wake_ms4_address (h : Obligations.powerCyclesComplete) : ∃ t, exec (.smbusAddressMatch 0x58) (wIn .ms4 {}) = .next t := by
  refine (given fun c1 c2 => (((h.2 (wIn .ms4 {})).2.2 c1).2.1 0x58 c2).imp (fun _ e => e.1)) ?_
  decide +kernel

theorem test_wake_ms4_l1 (h : Obligations.powerCyclesComplete) : ∃ t, exec (.l1Exit) (wIn .ms4 {}) = .next t :=
  (((h.2 (wIn .ms4 {})).2.2 (by decide +kernel)).2.2).imp (fun _ e => e.1)

def wSide : State := { w0 with side := { slotId := 5, alertLow := true, alertAt := some (99 * 10 ^ 9), busy := true }, power := { w0.power with thermal := true, inletMv := 48123 } }

theorem test_read_byte (h : Obligations.sidebandComplete) : ∃ t, exec (.readByte 6) wSide = .next t :=
  ((h wSide (by decide +kernel)).1 6).imp (fun _ e => e.1)

theorem test_read_word (h : Obligations.sidebandComplete) : ∃ t, exec (.readWord 6) wSide = .next t :=
  ((h wSide (by decide +kernel)).2.1 6).imp (fun _ e => e.1)

theorem test_read_state (h : Obligations.sidebandComplete) : ∃ t, exec (.readByte 1) wSide = .next t :=
  ((h wSide (by decide +kernel)).2.2.1).imp (fun _ e => e.1)

theorem test_read_slot (h : Obligations.sidebandComplete) : ∃ t, exec (.readByte 3) wSide = .next t :=
  ((h wSide (by decide +kernel)).2.2.2.1).imp (fun _ e => e.1)

theorem test_read_inlet (h : Obligations.sidebandComplete) : ∃ t, exec (.readWord 6) wSide = .next t :=
  ((h wSide (by decide +kernel)).2.2.2.2.1).imp (fun _ e => e.1)

theorem test_smbus_write (h : Obligations.sidebandComplete) : ∃ t, exec (.smbusWrite 9) wSide = .next t :=
  ((h wSide (by decide +kernel)).2.2.2.2.2.1 9).imp (fun _ e => e.1)

theorem test_address_match (h : Obligations.sidebandComplete) : ∃ t, exec (.smbusAddressMatch 0x5D) wSide = .next t := by
  refine (given fun c1 c2 => ((h wSide c1).2.2.2.2.2.2.1 0x5D c2).imp (fun _ e => e.1)) ?_
  decide +kernel

theorem test_address_other (h : Obligations.sidebandComplete) : ∃ t, exec (.smbusAddressMatch 0x58) wSide = .next t := by
  refine (given fun c1 c2 => ((h wSide c1).2.2.2.2.2.2.2.1 0x58 c2).imp (fun _ e => e.1)) ?_
  decide +kernel

theorem test_alert_response (h : Obligations.sidebandComplete) : ∃ t, exec (.alertResponseAddress) wSide = .next t := by
  refine (given fun c1 c2 => ((h wSide c1).2.2.2.2.2.2.2.2.1 c2).imp (fun _ e => e.1)) ?_
  decide +kernel

theorem test_alert_again (h : Obligations.sidebandComplete) : ∃ t, exec (.alertReassert) wSide = .next t := by
  refine (given fun c1 => given fun c2 c3 => ((h wSide c1).2.2.2.2.2.2.2.2.2.1 (99 * 10 ^ 9) c2 c3).imp (fun _ e => e.1)) ?_
  decide +kernel

theorem test_clock_low (h : Obligations.sidebandComplete) : ∃ t, exec (.clockLowTimeout 35000) wSide = .next t := by
  refine (given fun c1 => given fun c2 c3 => ((h wSide c1).2.2.2.2.2.2.2.2.2.2.1 35000 c2 c3).imp (fun _ e => e.1)) ?_
  decide +kernel

theorem test_clock_short (h : Obligations.sidebandComplete) : ∃ t, exec (.clockLowTimeout 24999) wSide = .next t := by
  refine (given fun c1 c2 => ((h wSide c1).2.2.2.2.2.2.2.2.2.2.2 24999 c2).imp (fun _ e => e.1)) ?_
  decide +kernel

/-! ## Witnesses, part O -/

def wProc (c : Nat) (x : Proc) : State := { w0 with procs := [(c, x)] }

theorem test_processor_restart (h : Obligations.firmwareComplete) : ∃ t, exec (.processorRestart 4 true) (wProc 4 { restart := some (1, 5) }) = .next t := by
  refine (given fun c1 => given fun c2 => given fun c3 => given fun c4 => given fun c5 => given fun c6 c7 => ((h.1 (wProc 4 { restart := some (1, 5) }) 4 c1 c2).1 1 5 c3 c4 c5 c6 c7).imp (fun _ e => e.1)) ?_
  decide +kernel

theorem test_processor_watchdog (h : Obligations.firmwareComplete) : ∃ t, exec (.processorWatchdog 10) (wProc 10 { ready := true, resets := [5, 6] }) = .next t := by
  refine (given fun c1 => given fun c2 => given fun c3 c4 => ((h.1 (wProc 10 { ready := true, resets := [5, 6] }) 10 c1 c2).2.1 c3 c4).imp (fun _ e => e.1)) ?_
  decide +kernel

theorem test_swap_back (h : Obligations.firmwareComplete) : ∃ t, exec (.swapBack 4) (wProc 4 { restart := some (2, 5), probation := some 4, previous := some { svn := 2 } }) = .next t := by
  refine (given fun c1 => given fun c2 => given fun c3 => given fun c4 => given fun c5 => given fun c6 => given fun c7 c8 => ((h.1 (wProc 4 { restart := some (2, 5), probation := some 4, previous := some { svn := 2 } }) 4 c1 c2).2.2.1 5 { svn := 2 } c3 c4 c5 c6 c7 c8).imp (fun _ e => e.1)) ?_
  decide +kernel

def wUnstable : State := { wProc 3 { unstable := true, resets := [400 * 10 ^ 9, 5] } with time := { counter := 1000 * 10 ^ 9 * 2 ^ 32 } }

theorem test_unstable_clear (h : Obligations.firmwareComplete) : ∃ t, exec (.fwUnstableClear 3) wUnstable = .next t := by
  refine (given fun c1 => given fun c2 => given fun c3 c4 => ((h.1 wUnstable 3 c1 c2).2.2.2 c3 c4).imp (fun _ e => e.1)) ?_
  decide +kernel

/-- Every bank runs an image of SVN 3; bank 7 is on probation. -/
def wProbation : State := { w0 with procs := (List.range 8).map (fun c => (c, { current := some { svn := 3 + c / 7 }, probation := if c = 7 then some 5 else none })), sec := { rollback := 1 } }

theorem test_probation_end (h : Obligations.firmwareComplete) : ∃ t, exec (.probationEnd 9 false) wProbation = .next t := by
  refine (given fun c1 => given fun c2 => given fun c3 => given fun c4 c5 => (((h.2.1 wProbation c1).1 9 5 c2 c3 c4 c5).1).imp (fun _ e => e.1)) ?_
  decide +kernel

theorem test_probation_burn_fails (h : Obligations.firmwareComplete) : ∃ t, exec (.probationEnd 9 true) wProbation = .next t := by
  refine (given fun c1 => given fun c2 => given fun c3 => given fun c4 => given fun c5 c6 => (((h.2.1 wProbation c1).1 9 5 c2 c3 c4 c5).2 c6).imp (fun _ e => e.1)) ?_
  decide +kernel

def wPersist : State := { w0 with log := { entries := [{ seq := 7, body := .error { status := 3 } }], toPersist := [6, 7, 9] } }

theorem test_persistent_copy (h : Obligations.firmwareComplete) : ∃ t, exec (.persistentCopy 7) wPersist = .next t := by
  refine (given fun c1 => given fun c2 c3 => ((h.2.1 wPersist c1).2 7 c2 c3).imp (fun _ e => e.1)) ?_
  decide +kernel

def wFw (op : Nat) (ps : List (Nat × Nat × Nat)) (x : Proc) : State := { w0.withCmd 0 (cmdOf op ps) with procs := [(4, x)] }

def stagePs : List (Nat × Nat × Nat) := [(0, 8, 4), (8, 8, 0x7000), (16, 4, 320)]

theorem test_fw_stage (h : Obligations.firmwareComplete) : ∃ t, exec (.fwStage 0 1) (wFw opFW_STAGE stagePs {}) = .next t := by
  refine (given fun c1 => given fun c2 => given fun c3 c4 => ((h.2.2 (wFw opFW_STAGE stagePs {}) 1 c1).1 c2 c3 c4).imp (fun _ e => e.1)) ?_
  decide +kernel

theorem test_fw_activate_unstaged (h : Obligations.firmwareComplete) : ∃ t, exec (.fwActivate 0 1) (wFw opFW_ACTIVATE [(0, 8, 16)] {}) = .next t := by
  refine (given fun c1 => given fun c2 => given fun c3 => given fun c4 => given fun c5 => given fun c6 c7 => (((h.2.2 (wFw opFW_ACTIVATE [(0, 8, 16)] {}) 1 c1).2.2.1 16 c2 c3 c4 c5).1 ⟨4, c6, c7⟩).imp (fun _ e => e.1)) ?_
  decide +kernel

def stagedProc : Proc := { staged := some { svn := 4, version := 9 } }

def wHot : State := { wFw opFW_ACTIVATE [(0, 8, 16)] stagedProc with power := { w0.power with thermal := true } }

theorem test_fw_activate_hot (h : Obligations.firmwareComplete) : ∃ t, exec (.fwActivate 0 1) wHot = .next t := by
  refine (given fun c1 => given fun c2 => given fun c3 => given fun c4 => given fun c5 => given fun c6 => given fun c7 c8 => (((h.2.2 wHot 1 c1).2.2.1 16 c2 c3 c4 c5).2.1 c6 c7 c8).imp (fun _ e => e.1)) ?_
  decide +kernel

theorem test_fw_activate (h : Obligations.firmwareComplete) : ∃ t, exec (.fwActivate 0 1) (wFw opFW_ACTIVATE [(0, 8, 16)] stagedProc) = .next t := by
  refine (given fun c1 => given fun c2 => given fun c3 => given fun c4 => given fun c5 => given fun c6 => given fun c7 => given fun c8 => given fun c9 => given fun c10 => given fun c11 c12 => (((h.2.2 (wFw opFW_ACTIVATE [(0, 8, 16)] stagedProc) 1 c1).2.2.1 16 c2 c3 c4 c5).2.2 4 [] c6 c7 c8 c9 c10 c11 c12).imp (fun _ e => e.1)) ?_
  decide +kernel

theorem test_fw_restart (h : Obligations.firmwareComplete) : ∃ t, exec (.fwRestart 0 1) (wFw opFW_RESTART [(0, 8, 0x411)] stagedProc) = .next t := by
  refine (given fun c1 => given fun c2 => given fun c3 => given fun c4 => given fun c5 => given fun c6 => given fun c7 => given fun c8 c9 => ((h.2.2 (wFw opFW_RESTART [(0, 8, 0x411)] stagedProc) 1 c1).2.2.2.1 0x411 4 [10, 0] c2 c3 c4 c5 c6 c7 c8 c9).imp (fun _ e => e.1)) ?_
  decide +kernel

theorem test_armed_activation (h : Obligations.firmwareComplete) : ∃ t, exec (.armedActivation) (wProc 4 { stagedProc with armed := true }) = .next t := by
  refine (given fun c1 => given fun c2 => given fun c3 => given fun c4 => given fun c5 => given fun c6 => given fun c7 => given fun c8 => given fun c9 c10 => ((h.2.2 (wProc 4 { stagedProc with armed := true }) 1 c1).2.2.2.2 4 [] c2 c3 c4 c5 c6 c7 c8 c9 c10).imp (fun _ e => e.1)) ?_
  decide +kernel

/-! ## Witnesses, part PW -/

def wSpdm (x : Spdm) : State := { w0.modFn 1 (fun f => { f with spdm := x }) with sec := { cdi := some 5 } }

def linked : Spdm := { version := true, caps := true, algs := true, sessions := [(0, 1)], keyGen := [(1, 4)] }

theorem test_get_version (h : Obligations.attestationRequestsAnswer) : ∃ t, exec (.getVersion 1) (wSpdm linked) = .next t :=
  ((h.1 (wSpdm linked) 1 (by decide +kernel)).1).imp (fun _ e => e.1)

theorem test_get_capabilities (h : Obligations.attestationRequestsAnswer) : ∃ t, exec (.getCapabilities 1) (wSpdm { version := true }) = .next t := by
  refine (given fun c1 => given fun c2 c3 => ((h.1 (wSpdm { version := true }) 1 c1).2.1 c2 c3).imp (fun _ e => e.1)) ?_
  decide +kernel

theorem test_negotiate (h : Obligations.attestationRequestsAnswer) : ∃ t, exec (.negotiateAlgorithms 1) (wSpdm { version := true, caps := true }) = .next t := by
  refine (given fun c1 => given fun c2 c3 => ((h.1 (wSpdm { version := true, caps := true }) 1 c1).2.2.1 c2 c3).imp (fun _ e => e.1)) ?_
  decide +kernel

theorem test_get_digests (h : Obligations.attestationRequestsAnswer) : ∃ t, exec (.getDigests 1) (wSpdm linked) = .next t := by
  refine (given fun c1 => given fun c2 c3 => (((h.1 (wSpdm linked) 1 c1).2.2.2 c2 c3).1).imp (fun _ e => e.1)) ?_
  decide +kernel

theorem test_get_certificate (h : Obligations.attestationRequestsAnswer) : ∃ t, exec (.getCertificate 1) (wSpdm linked) = .next t := by
  refine (given fun c1 => given fun c2 c3 => (((h.1 (wSpdm linked) 1 c1).2.2.2 c2 c3).2.1).imp (fun _ e => e.1)) ?_
  decide +kernel

theorem test_challenge (h : Obligations.attestationRequestsAnswer) : ∃ t, exec (.challenge 1) (wSpdm linked) = .next t := by
  refine (given fun c1 => given fun c2 => given fun c3 c4 => (((h.1 (wSpdm linked) 1 c1).2.2.2 c2 c3).2.2.1 c4).imp (fun _ e => e.1)) ?_
  decide +kernel

theorem test_measurement_10 (h : Obligations.attestationRequestsAnswer) : ∃ t, exec (.getMeasurements 1 10) (wSpdm linked) = .next t := by
  refine (given fun c1 => given fun c2 c3 => (((h.1 (wSpdm linked) 1 c1).2.2.2 c2 c3).2.2.2.1).imp (fun _ e => e.1)) ?_
  decide +kernel

theorem test_measurement_12 (h : Obligations.attestationRequestsAnswer) : ∃ t, exec (.getMeasurements 1 12) (wSpdm linked) = .next t := by
  refine (given fun c1 => given fun c2 => given fun c3 c4 => (((h.1 (wSpdm linked) 1 c1).2.2.2 c2 c3).2.2.2.2 12 [0, 0, 0, 0] c4).imp (fun _ e => e.1)) ?_
  decide +kernel

def wAbsent : State := { wSpdm linked with parts := [] }

theorem test_absent_digests (h : Obligations.attestationRequestsAnswer) : ∃ t, exec (.getDigests 1) wAbsent = .next t := by
  refine (given fun c1 => given fun c2 => given fun c3 c4 => ((h.2 wAbsent 1 1 c1 c2 c3 c4).1).imp (fun _ e => e.1)) ?_
  decide +kernel

theorem test_absent_challenge (h : Obligations.attestationRequestsAnswer) : ∃ t, exec (.challenge 1) wAbsent = .next t := by
  refine (given fun c1 => given fun c2 => given fun c3 c4 => ((h.2 wAbsent 1 1 c1 c2 c3 c4).2.1).imp (fun _ e => e.1)) ?_
  decide +kernel

theorem test_absent_measurement (h : Obligations.attestationRequestsAnswer) : ∃ t, exec (.getMeasurements 1 1) wAbsent = .next t := by
  refine (given fun c1 => given fun c2 => given fun c3 c4 => ((h.2 wAbsent 1 1 c1 c2 c3 c4).2.2).imp (fun _ e => e.1)) ?_
  decide +kernel

theorem test_key_exchange (h : Obligations.sessionsComplete) : ∃ t, exec (.keyExchange 1) (wSpdm linked) = .next t := by
  refine (given fun c1 => given fun c2 => given fun c3 => given fun c4 c5 => (((h (wSpdm linked) 1 1 c1).1 c2 c3 c4).1 c5).imp (fun _ e => e.1)) ?_
  decide +kernel

def full : Spdm := { linked with sessions := [(0, 1), (1, 2)] }

theorem test_key_exchange_full (h : Obligations.sessionsComplete) : ∃ t, exec (.keyExchange 1) (wSpdm full) = .next t := by
  refine (given fun c1 => given fun c2 => given fun c3 => given fun c4 c5 => (((h (wSpdm full) 1 0 c1).1 c2 c3 c4).2 c5).imp (fun _ e => e.1)) ?_
  decide +kernel

theorem test_finish (h : Obligations.sessionsComplete) : ∃ t, exec (.finish 1 0 true) (wSpdm full) = .next t := by
  refine (given fun c1 c2 => ((h (wSpdm full) 1 0 c1).2.1 c2 true).imp (fun _ e => e.1)) ?_
  decide +kernel

theorem test_finish_bad (h : Obligations.sessionsComplete) : ∃ t, exec (.finish 1 0 false) (wSpdm full) = .next t := by
  refine (given fun c1 c2 => ((h (wSpdm full) 1 0 c1).2.1 c2 false).imp (fun _ e => e.1)) ?_
  decide +kernel

theorem test_heartbeat (h : Obligations.sessionsComplete) : ∃ t, exec (.heartbeat 1 1) (wSpdm full) = .next t := by
  refine (given fun c1 c2 => (((h (wSpdm full) 1 1 c1).2.2 c2).1).imp (fun _ e => e.1)) ?_
  decide +kernel

theorem test_key_update (h : Obligations.sessionsComplete) : ∃ t, exec (.keyUpdate 1 1) (wSpdm full) = .next t := by
  refine (given fun c1 c2 => (((h (wSpdm full) 1 1 c1).2.2 c2).2.1).imp (fun _ e => e.1)) ?_
  decide +kernel

theorem test_end_session (h : Obligations.sessionsComplete) : ∃ t, exec (.endSession 1 1) (wSpdm full) = .next t := by
  refine (given fun c1 c2 => (((h (wSpdm full) 1 1 c1).2.2 c2).2.2).imp (fun _ e => e.1)) ?_
  decide +kernel

theorem test_svc_challenge (h : Obligations.servicePortComplete) : ∃ t, exec (.svcChallenge) w0 = .next t :=
  (((h w0).1 (by decide +kernel)).1).imp (fun _ e => e.elim (fun _ e => e.1))

def wService (x : Security) : State := { w0 with sec := { x with coverOpen := true, openSince := true }, power := { w0.power with fatal := true } }

def thirdTry : Security := { failures := 2, nonce := some (7, 5), unlocked := some 1 }

theorem test_unlock_refused (h : Obligations.servicePortComplete) : ∃ t, exec (.svcUnlock 1 [1] [2]) (wService thirdTry) = .next t := by
  refine (given fun c1 => given fun c2 c3 => ((((h (wService thirdTry)).1 c1).2.1 1 [1] [2] c2).2 c3).imp (fun _ e => e.1)) ?_
  decide +kernel

def lockedOut : Security := { failures := 3, lockout := some (40 * 10 ^ 9), nonce := some (7, 5) }

theorem test_unlock_locked (h : Obligations.servicePortComplete) : ∃ t, exec (.svcUnlock 1 [1] [2]) (wService lockedOut) = .next t := by
  refine (given fun c1 c2 => (((h (wService lockedOut)).1 c1).2.2 1 [1] [2] c2).imp (fun _ e => e.1)) ?_
  decide +kernel

theorem test_lockout_end (h : Obligations.servicePortComplete) : ∃ t, exec (.unlockLockoutEnd) (wService lockedOut) = .next t := by
  refine (given fun c1 c2 => ((h (wService lockedOut)).2.1 (40 * 10 ^ 9) c1 c2).imp (fun _ e => e.1)) ?_
  decide +kernel

theorem test_cover_close (h : Obligations.servicePortComplete) : ∃ t, exec (.coverClose) (wService thirdTry) = .next t :=
  ((h (wService thirdTry)).2.2).imp (fun _ e => e.1)

def wWorking : State :=
  { wTrain.withRun 1 (cmdOf opSTEP_FENCE []) with
    sec := { hasSrk := true, hibKey := true, rollback := 3, revoked := 2, unlocked := some 1 }, tiles := [(3, { tile3 with store := [(5, 1)], vregs := [(1, 7)] })] }

theorem test_module_fatal (h : Obligations.moduleFaultsComplete) : ∃ t, exec (.moduleFatal none) wWorking = .next t := by
  refine (given fun c1 c2 => ((h wWorking c1).1 c2).imp (fun _ e => e.1)) ?_
  decide +kernel

theorem test_checker_corrected (h : Obligations.moduleFaultsComplete) : ∃ t, exec (.checkerCompare 5 true false) wWorking = .next t := by
  refine (given fun c1 => given fun c2 c3 => (((h wWorking c1).2.1 c2 c3).1 5).imp (fun _ e => e.1)) ?_
  decide +kernel

theorem test_checker_uncorrectable (h : Obligations.moduleFaultsComplete) : ∃ t, exec (.checkerCompare 5 true true) wWorking = .next t := by
  refine (given fun c1 => given fun c2 c3 => (((h wWorking c1).2.1 c2 c3).2 5 true).imp (fun _ e => e.1)) ?_
  decide +kernel

theorem test_latch_trip (h : Obligations.moduleFaultsComplete) : ∃ t, exec (.serviceLatchTrip) wWorking = .next t := by
  refine (given fun c1 c2 => ((h wWorking c1).2.2 c2).imp (fun _ e => e.1)) ?_
  decide +kernel

/-- A key of P-384, as the bytes of its two coordinates, and its hash. -/
def keyNum : Nat := 438944056427589636187811836046047063954672689758441222949235126316036564904545230729132235610450206753787120113546545432089568648573323227932142421611254183144919002758421147756852764526318536131946030484740618120873507768424295400

def keyBytes : List Byte := natLe keyNum 96

def keyHash : Nat := 19634450236186874983131315612691891932794691362053244363355458280264646278788940155824948644297047330999251066685013

/-- An image of 64 bytes and its trailer with that key's signature, read whole by an FW_STAGE in slot 1. -/
def imageBuf : BMap :=
  fieldsAt 0 [(0, 4, 0x4D524157), (4, 1, 4), (5, 1, 4), (8, 4, 9), (12, 4, 64), (18, 2, 7), (64, 4, 0x52544753), (80, 96, keyNum),
    (176, 96, 37234466445580606003741693771136204210465969400705989798435518199330982724022501629796426354161954191470796328896190882162390118162920425120759233894566932851349696159881805329976118557035277459915642372729017468553646759231035240)]

def wStaged : State :=
  { w0.withRun 0 { cmdOf opFW_STAGE [(0, 8, 4), (8, 8, 0x7000), (16, 4, 320)] with stage := 2, buf := imageBuf } with
    sec := { vendorHash := [(0, keyHash)], rollback := 4 }, staging := [(4, 0, 1)] }

theorem test_fw_staged (h : Obligations.firmwareComplete) : ∃ t, exec (.fwStage 0 1) wStaged = .next t := by
  refine (given fun c1 => given fun c2 => given fun c3 => given fun c4 => given fun c5 => given fun c6 c7 => ((h.2.2 wStaged 1 c1).2.1 c2 c3 c4 c5 c6 c7).imp (fun _ e => e.1)) ?_
  decide +kernel

/-- What an unlock of scope 1 signs while the nonce is 7. -/
def unlockSig : List Byte := natLe 57174488785293410304245973865396027489483770864908775135190266734476991410994735409227871259688460923838033137295707833814376860543803918424544017440457396069918576378521978440684670565046647097393046074511230037801055768783417415 96

def svcOpen : Security := { nonce := some (7, 99 * 10 ^ 9), serviceHash := [(0, keyHash)] }

theorem test_unlock (h : Obligations.servicePortComplete) : ∃ t, exec (.svcUnlock 1 keyBytes unlockSig) (wService svcOpen) = .next t := by
  refine (given fun c1 => given fun c2 => given fun c3 c4 => ((((h (wService svcOpen)).1 c1).2.1 1 keyBytes unlockSig c2).1 c3 c4).imp (fun _ e => e.1)) ?_
  decide +kernel

/-! ## Witnesses, part Q -/

/-- That module with commands waiting. -/
def State.waiting (s : State) (cs : List Instr) : State := { s with pending := cs }

theorem test_step_runs (h : Obligations.stepRunsTheFrontCommand) :
    step (w0.waiting [.unlockLockoutEnd, .coverClose]) = exec .unlockLockoutEnd (w0.waiting [.coverClose]) := h.1 _ _ _

theorem test_step_idles (h : Obligations.stepRunsTheFrontCommand) : ∃ t, step w0 = .next t ∧ t.time.counter = w0.time.counter + w0.time.increment :=
  (h.2 w0 rfl).imp fun _ x => ⟨x.1, x.2.2.1 (by decide +kernel)⟩

theorem test_reset_values (h : Obligations.resetValuesStand) : State.reset.power.limitW = 2400 := h.2.2.2.1

theorem test_reset_memory (h : Obligations.resetMemoryHasItsForm) : MemoryOk State.reset := h

theorem test_memory_form (h : Obligations.stepsKeepMemoryForm) : ∃ t, step (wTrain.waiting [.unlockLockoutEnd]) = .next t ∧ MemoryOk t :=
  ⟨_, rfl, h (wTrain.waiting [.unlockLockoutEnd]) _ ⟨by decide +kernel, by decide +kernel⟩ rfl⟩

theorem test_footprint (h : Obligations.commandsStayWithinTheirFootprint) :
    ∃ t, exec .unlockLockoutEnd w0 = .next t ∧ Same (Instr.touches .unlockLockoutEnd) w0 t := h _ _

theorem test_fuses (h : Obligations.fusesOnlyEverBlow) : ∃ t, step (w0.waiting [.coverClose]) = .next t ∧ t.sec.vendorHash = w0.sec.vendorHash :=
  ⟨_, rfl, (h (w0.waiting [.coverClose]) _ rfl).1⟩

theorem test_grants (h : Obligations.grantsStayDisjoint) : ∃ t, step (w0.waiting [.coverClose]) = .next t ∧ GrantsDisjoint t :=
  ⟨_, rfl, h (w0.waiting [.coverClose]) _ (by unfold GrantsDisjoint; decide +kernel) rfl⟩

theorem test_isolation (h : Obligations.functionsAreIsolated) : ∃ t, exec (.hostAlive 1 9) w0 = .next t ∧ t.fn 2 = w0.fn 2 :=
  ⟨_, rfl, ((h w0 _ (.hostAlive 1 9) 1 rfl (by decide) rfl).1 2 (by decide)).1⟩

/-- Slot 1 of function 1 is queued. -/
def wBusy : State := w0.withCmd 1 (cmdOf opCTX_QUERY [])

theorem test_busy_write (h : Obligations.busySlotsDiscardWrites) : ∃ t, exec (.registerWrite 1 0x21FC [1, 2, 3, 4]) wBusy = .next t :=
  ((h wBusy 1 1 252 [1, 2, 3, 4] (by decide +kernel) (by decide +kernel) (by decide) (by decide) (by decide) (.inl (by decide +kernel))).1).imp fun _ x => x.1

theorem test_busy_submit (h : Obligations.busySlotsDiscardWrites) : ∃ t, exec (.slotSubmit 1 1 false 1) wBusy = .next t :=
  ((h wBusy 1 1 0 [0] (by decide +kernel) (by decide +kernel) (by decide) (by decide) (by decide) (.inl (by decide +kernel))).2 false 1).imp fun _ x => x.1

theorem test_conversion (h : Obligations.blockConversionsWriteNoNegativeZero) :
    (convertBlock 0 .rne (some 254) [.fin true 0 0, .fin true 1 7] 1).q.length = 2 := (h 0 .rne (some 254) [.fin true 0 0, .fin true 1 7] 1 (by decide) (by decide)).1

theorem test_conversion_zero (h : Obligations.blockConversionsWriteNoNegativeZero) : ∀ q, (convertBlock 2 .rne none [.fin true 0 0] 1).q[0]? = some q → q = 0 :=
  fun q e => ((h 2 .rne none [.fin true 0 0] 1 (by decide) (by decide)).2.2.2 0 q true 0 rfl e (by decide +kernel)).1

theorem test_block_scale (h : Obligations.blockScalesGiveValues) : elemVal 0 0x80 0xFE = .fin true 128 127 := (h 0 0x80 0xFE (by decide)).2.2 (by decide) (by decide)

theorem test_stamp (h : Obligations.stampsExtendToTheNearest) : w0.sendStamp { (default : Packet) with low := 5 } % 2 ^ 24 = 5 :=
  (h w0 { (default : Packet) with low := 5 } (by decide +kernel)).1

def reduceCmdQ : Cmd := cmdOf opCOLLECTIVE [(0, 1, 1), (1, 1, 6), (8, 8, 4097)]

theorem test_chunks (h : Obligations.chunksDivideTheElements) : 1024 ∣ reduceCmdQ.cChunk 4 := (h reduceCmdQ 4 (by decide) (by decide +kernel)).1

theorem test_chunk_of (h : Obligations.chunksDivideTheElements) :
    ∃ k, k < 4 ∧ (reduceCmdQ.cSpan 4 k).1 ≤ 4096 ∧ 4096 < (reduceCmdQ.cSpan 4 k).2 :=
  ((h reduceCmdQ 4 (by decide) (by decide +kernel)).2.2.2.1 4096 (by decide +kernel)).imp fun _ x => ⟨x.1, x.2.1, x.2.2.1⟩

end Sys2Proof.Machine
end

/-! ## O3: memory and flash at reset -/

namespace Sys2Proof.Machine

/-- Settles O3: both are empty tables at reset. -/
theorem resetMemoryHasItsForm : Obligations.resetMemoryHasItsForm := ⟨rfl, rfl⟩

end Sys2Proof.Machine

/-! ## O7: grants stay disjoint (R28, R365, R366)

What a partition table grants is `grantsOf`; `Apart` says that no two partitions share a unit of it. Below stands one rule for
each function of the model that a command reaches, in the model's own order: `f_parts` where `f` leaves the partition table as
it is, `f_grantsOf` where it changes entries but grants what was granted, `execF_keeps` for a command that does either. The
functions that can change what is granted, PART_SET and the ways into darkness, have `f_apart` and `execF_endsApart`. -/

namespace Sys2Proof.Machine
open Sys2Proof

/-- The sections and stacks that a partition table grants to each partition (R28, R365). -/
def grantsOf (ps : Tbl Part) (p : Nat) : BitVec 16 × BitVec 20 := ((Tbl.get {} ps p).sections, (Tbl.get {} ps p).hbm)

@[simp] theorem part_grantsOf (s : State) (p : Nat) : ((s.part p).sections, (s.part p).hbm) = grantsOf s.parts p := rfl

/-- A command's outcome grants what the state before it granted. -/
def Keeps (s : State) (o : Out) : Prop := ∀ t, o = .next t → grantsOf t.parts = grantsOf s.parts

@[simp] theorem keeps_next (s t : State) : Keeps s (.next t) ↔ grantsOf t.parts = grantsOf s.parts :=
  ⟨fun h => h t rfl, fun h u hu => by cases hu; exact h⟩

@[simp] theorem parts_ite (c : Prop) [Decidable c] (a b : State) : (if c then a else b).parts = if c then a.parts else b.parts := by split <;> rfl
@[simp] theorem grantsOf_ite (c : Prop) [Decidable c] (a b : Tbl Part) : grantsOf (if c then a else b) = if c then grantsOf a else grantsOf b := by split <;> rfl

theorem grantsOf_setPart (s : State) (p : Nat) (x : Part) :
    grantsOf (s.setPart p x).parts = fun q => if q = p then (x.sections, x.hbm) else grantsOf s.parts q := by
  funext q
  simp only [grantsOf, State.setPart, Tbl.get_set]
  split <;> rfl

@[simp] theorem setPart_grantsOf (s : State) (p : Nat) (x : Part) (h : (x.sections, x.hbm) = grantsOf s.parts p) :
    grantsOf (s.setPart p x).parts = grantsOf s.parts := by
  funext q
  by_cases hq : q = p <;> simp [grantsOf_setPart, hq, h]

@[simp] theorem modPart_grantsOf (s : State) (p : Nat) (g : Part → Part) (h : ∀ x, (g x).sections = x.sections ∧ (g x).hbm = x.hbm) :
    grantsOf (s.modPart p g).parts = grantsOf s.parts :=
  setPart_grantsOf s p _ (by rw [(h _).1, (h _).2]; rfl)

@[simp] theorem forEach_parts {α : Type} (xs : List α) (s : State) (f : α → State → State) (h : ∀ x st, (f x st).parts = st.parts) :
    (forEach xs s f).parts = s.parts := by
  induction xs generalizing s with
  | nil => rfl
  | cons x xs ih => exact (ih (f x s)).trans (h x s)

@[simp] theorem forEach_grantsOf {α : Type} (xs : List α) (s : State) (f : α → State → State)
    (h : ∀ x st, grantsOf (f x st).parts = grantsOf st.parts) : grantsOf (forEach xs s f).parts = grantsOf s.parts := by
  induction xs generalizing s with
  | nil => rfl
  | cons x xs ih => exact (ih (f x s)).trans (h x s)

@[simp] theorem got_st_ite (c : Prop) [Decidable c] (a b : Got) : (if c then a else b).st = if c then a.st else b.st := by split <;> rfl

@[simp] theorem mgr_st_ite (c : Prop) [Decidable c] (a b : Mgr) : (if c then a else b).st = if c then a.st else b.st := by split <;> rfl

@[simp] theorem need_st_ite (c : Prop) [Decidable c] (a b : Need) : (if c then a else b).st = if c then a.st else b.st := by split <;> rfl

@[simp] theorem snd_state_ite {α : Type} (c : Prop) [Decidable c] (a b : α × State) : (if c then a else b).2 = if c then a.2 else b.2 := by split <;> rfl

/-- What an invariant of one turn of a loop gives for the whole loop. -/
theorem foldl_keeps {α β γ : Type} (π : β → γ) (f : β → α → β) (h : ∀ b a, π (f b a) = π b) (xs : List α) (b : β) :
    π (xs.foldl f b) = π b := by
  induction xs generalizing b with
  | nil => rfl
  | cons x xs ih => exact (ih (f b x)).trans (h b x)

@[simp] theorem foldl_got_parts {α : Type} (xs : List α) (f : Got → α → Got) (g : Got) (h : ∀ g x, (f g x).st.parts = g.st.parts) :
    (xs.foldl f g).st.parts = g.st.parts := foldl_keeps (fun g => g.st.parts) f h xs g

@[simp] theorem foldl_got_grantsOf {α : Type} (xs : List α) (f : Got → α → Got) (g : Got)
    (h : ∀ g x, grantsOf (f g x).st.parts = grantsOf g.st.parts) : grantsOf (xs.foldl f g).st.parts = grantsOf g.st.parts :=
  foldl_keeps (fun g => grantsOf g.st.parts) f h xs g

@[simp] theorem foldl_snd_parts {α β : Type} (xs : List α) (f : β × State → α → β × State) (g : β × State)
    (h : ∀ g x, (f g x).2.parts = g.2.parts) : (xs.foldl f g).2.parts = g.2.parts := foldl_keeps (fun g => g.2.parts) f h xs g

@[simp] theorem foldl_snd_grantsOf {α β : Type} (xs : List α) (f : β × State → α → β × State) (g : β × State)
    (h : ∀ g x, grantsOf (f g x).2.parts = grantsOf g.2.parts) : grantsOf (xs.foldl f g).2.parts = grantsOf g.2.parts :=
  foldl_keeps (fun g => grantsOf g.2.parts) f h xs g

@[simp] theorem foldl_state_grantsOf {α : Type} (xs : List α) (f : State → α → State) (g : State)
    (h : ∀ g x, grantsOf (f g x).parts = grantsOf g.parts) : grantsOf (xs.foldl f g).parts = grantsOf g.parts :=
  foldl_keeps (fun g => grantsOf g.parts) f h xs g

@[simp] theorem foldl_mgr_grantsOf {α : Type} (xs : List α) (f : Mgr → α → Mgr) (g : Mgr)
    (h : ∀ g x, grantsOf (f g x).st.parts = grantsOf g.st.parts) : grantsOf (xs.foldl f g).st.parts = grantsOf g.st.parts :=
  foldl_keeps (fun g => grantsOf g.st.parts) f h xs g

@[simp] theorem foldl_need_grantsOf {α : Type} (xs : List α) (f : Need → α → Need) (g : Need)
    (h : ∀ g x, grantsOf (f g x).st.parts = grantsOf g.st.parts) : grantsOf (xs.foldl f g).st.parts = grantsOf g.st.parts :=
  foldl_keeps (fun g => grantsOf g.st.parts) f h xs g

@[simp] theorem foldl_snd_snd_parts {α β γ : Type} (xs : List α) (f : β × γ × State → α → β × γ × State) (g : β × γ × State)
    (h : ∀ g x, (f g x).2.2.parts = g.2.2.parts) : (xs.foldl f g).2.2.parts = g.2.2.parts :=
  foldl_keeps (fun g => g.2.2.parts) f h xs g

/-- Grants of which no two overlap (R28): `GrantsDisjoint` as a property of what is granted. -/
def Apart (g : Nat → BitVec 16 × BitVec 20) : Prop :=
  ∀ p ∈ allParts, ∀ q ∈ allParts, p ≠ q → (g p).1 &&& (g q).1 = 0 ∧ (g p).2 &&& (g q).2 = 0

theorem grantsDisjoint_iff (s : State) : GrantsDisjoint s ↔ Apart (grantsOf s.parts) := Iff.rfl

@[simp] theorem apart_ite (c : Prop) [Decidable c] (a b : Nat → BitVec 16 × BitVec 20) :
    Apart (if c then a else b) ↔ if c then Apart a else Apart b := by split <;> rfl

@[simp] theorem forEach_apart {α : Type} (xs : List α) (s : State) (f : α → State → State) (hs : Apart (grantsOf s.parts))
    (h : ∀ x st, Apart (grantsOf st.parts) → Apart (grantsOf (f x st).parts)) : Apart (grantsOf (forEach xs s f).parts) := by
  induction xs generalizing s with
  | nil => exact hs
  | cons x xs ih => exact ih (f x s) (h x s hs)

/-- A command's outcome grants no section and no stack twice. -/
def EndsApart (o : Out) : Prop := ∀ t, o = .next t → Apart (grantsOf t.parts)

@[simp] theorem endsApart_next (t : State) : EndsApart (.next t) ↔ Apart (grantsOf t.parts) :=
  ⟨fun h => h t rfl, fun h u hu => by cases hu; exact h⟩

theorem Keeps.endsApart {s : State} {o : Out} (h : Keeps s o) (hs : Apart (grantsOf s.parts)) : EndsApart o :=
  fun t ht => (h t ht).symm ▸ hs

@[simp] theorem fst_got_ite {α : Type} (c : Prop) [Decidable c] (a b : Got × α) : (if c then a else b).1 = if c then a.1 else b.1 := by split <;> rfl
@[simp] theorem sections_ite (c : Prop) [Decidable c] (a b : Part) : (if c then a else b).sections = if c then a.sections else b.sections := by split <;> rfl
@[simp] theorem hbm_ite (c : Prop) [Decidable c] (a b : Part) : (if c then a else b).hbm = if c then a.hbm else b.hbm := by split <;> rfl
@[simp] theorem foldl_got_fst_parts {α β : Type} (xs : List α) (f : Got × β → α → Got × β) (g : Got × β)
    (h : ∀ g x, (f g x).1.st.parts = g.1.st.parts) : (xs.foldl f g).1.st.parts = g.1.st.parts :=
  foldl_keeps (fun g => g.1.st.parts) f h xs g

/-! ### Ops -/

@[simp] theorem State.stamp_parts (s : State) (p : Stamper) : (s.stamp p).2.parts = s.parts := rfl

@[simp] theorem State.append_parts (s : State) (src pt : Nat) (body : LogBody) : (s.append src pt body).parts = s.parts := rfl

@[simp] theorem State.event_parts (s : State) (src pt code unitId a0 a1 a2 a3 : Nat) :
    (s.event src pt code unitId a0 a1 a2 a3).parts = s.parts := rfl

@[simp] theorem State.eventAll_parts (s : State) (src : Nat) (pts : List Nat) (code unitId a0 a1 a2 a3 : Nat) :
    (s.eventAll src pts code unitId a0 a1 a2 a3).parts = s.parts := by simp -implicitDefEqProofs [State.eventAll]

@[simp] theorem State.setMode_parts (s : State) (k : Nat) (m : StackMode) :
    (s.setMode k m).parts = s.parts := by simp [State.setMode]

@[simp] theorem State.trace_parts (s : State) (proc point a0 a1 a2 : Nat) :
    (s.trace proc point a0 a1 a2).parts = s.parts := by simp [State.trace]

@[simp] theorem State.alert_parts (s : State) : (s.alert).parts = s.parts := rfl

@[simp] theorem State.error_parts (s : State) (src : Nat) (r : ErrorRecord) : (s.error src r).parts = s.parts := by
  simp only [State.error]
  split <;> simp

@[simp] theorem State.finishCmd_parts (s : State) (f n status : Nat) :
    (s.finishCmd f n status).parts = s.parts := by simp [State.finishCmd]

@[simp] theorem State.endAt_parts (s : State) (f n : Nat) (t : Option Nat) : (s.endAt f n t).parts = s.parts := rfl

@[simp] theorem State.replyOk_parts (s : State) (f n : Nat) (rs : List Nat) :
    (s.replyOk f n rs).parts = s.parts := by simp [State.replyOk]

@[simp] theorem State.startCmd_parts (s : State) (f n : Nat) : (s.startCmd f n).parts = s.parts := rfl

@[simp] theorem State.send_parts (s : State) (port : Nat) (p : Packet) : (s.send port p).parts = s.parts := rfl

@[simp] theorem State.modJob_parts (s : State) (n id : Nat) (g : Job → Job) : (s.modJob n id g).parts = s.parts := rfl

@[simp] theorem State.ownWrites_parts (s : State) (o : Owner) (up : Nat → Nat) : (s.ownWrites o up).parts = s.parts := by
  unfold State.ownWrites
  split <;> simp

@[simp] theorem State.hostWrite_parts (s : State) (f addr : Nat) (bytes : List Byte) (o : Owner) (nibble : Option Nat) :
    (s.hostWrite f addr bytes o nibble).parts = s.parts := by
  simp only [State.hostWrite]
  (repeat' split) <;> simp

@[simp] theorem State.modFetch_grantsOf (s : State) (p i : Nat) (g : Fetch → Fetch) :
    grantsOf (s.modFetch p i g).parts = grantsOf s.parts := by simp [State.modFetch]

@[simp] theorem State.ownReads_grantsOf (s : State) (o : Owner) (up : Nat → Nat) :
    grantsOf (s.ownReads o up).parts = grantsOf s.parts := by
  unfold State.ownReads
  split <;> simp

@[simp] theorem State.hostRead_grantsOf (s : State) (f addr len : Nat) (o : Owner) (base : Nat) :
    grantsOf (s.hostRead f addr len o base).parts = grantsOf s.parts := by simp [State.hostRead]

@[simp] theorem State.orphanRequests_parts (s : State) (q : Owner → Bool) (heir : Owner) :
    (s.orphanRequests q heir).parts = s.parts := rfl

@[simp] theorem State.stopTile_parts (s : State) (t : Nat) : (s.stopTile t).parts = s.parts := by
  simp only [State.stopTile]
  (repeat' split) <;> simp

@[simp] theorem State.endAppend_parts (s : State) (j : Job) : (s.endAppend j).parts = s.parts := by simp [State.endAppend]

@[simp] theorem State.stopAtp_parts (s : State) (n : Nat) : (s.stopAtp n).parts = s.parts := by simp [State.stopAtp]

@[simp] theorem State.setProgram_grantsOf (s : State) (p g : Nat) (x : Program) :
    grantsOf (s.setProgram p g x).parts = grantsOf s.parts := by simp [State.setProgram]

@[simp] theorem State.traceDies_parts (s : State) (q : Program) (point a0 : Nat) (a1 : Nat → Nat) :
    (s.traceDies q point a0 a1).parts = s.parts := by simp [State.traceDies]

@[simp] theorem State.noteStop_grantsOf (s : State) (p g : Nat) (x : Stop) :
    grantsOf (s.noteStop p g x).parts = grantsOf s.parts := by simp [State.noteStop]

@[simp] theorem State.stopProgram_grantsOf (s : State) (p g status : Nat) :
    grantsOf (s.stopProgram p g status).parts = grantsOf s.parts := by simp [State.stopProgram]

@[simp] theorem State.stopAtBoundary_parts (s : State) (p g status : Nat) :
    (s.stopAtBoundary p g status).parts = s.parts := by simp -implicitDefEqProofs [State.stopAtBoundary]

@[simp] theorem State.tileFault_grantsOf (s : State) (t : Nat) (e : Engine) (status addr : Nat) (detail : Option Nat) (ofStore : Bool) (names : Option FaultName) :
    grantsOf (s.tileFault t e status addr detail ofStore names).parts = grantsOf s.parts := by
  unfold State.tileFault
  split <;> simp

@[simp] theorem State.groupFault_grantsOf (s : State) (t g : Nat) (f : GroupFault) :
    grantsOf (s.groupFault t g f).parts = grantsOf s.parts := by simp [State.groupFault]

@[simp] theorem State.vectorFault_grantsOf (s : State) (t : Nat) (f : VectorFault) :
    grantsOf (s.vectorFault t f).parts = grantsOf s.parts := by simp [State.vectorFault]

@[simp] theorem State.programFault_grantsOf (s : State) (t : Nat) (e : Engine) (f : TileFault) :
    grantsOf (s.programFault t e f).parts = grantsOf s.parts := by simp [State.programFault]

@[simp] theorem State.atpFault_grantsOf (s : State) (n job status addr detail : Nat) :
    grantsOf (s.atpFault n job status addr detail).parts = grantsOf s.parts := by
  unfold State.atpFault
  split <;> simp

@[simp] theorem State.arrive_grantsOf (s : State) (o : Owner) (off : Nat) (bytes : List Byte) :
    grantsOf (s.arrive o off bytes).parts = grantsOf s.parts := by
  unfold State.arrive
  split <;> simp

@[simp] theorem State.endColl_grantsOf (s : State) (p : Nat) (q : Coll → Bool) :
    grantsOf (s.endColl p q).parts = grantsOf s.parts := by simp -implicitDefEqProofs [State.endColl]

@[simp] theorem State.failColl_grantsOf (s : State) (p seq status : Nat) :
    grantsOf (s.failColl p seq status).parts = grantsOf s.parts := by
  unfold State.failColl
  split <;> simp

@[simp] theorem State.failOwner_grantsOf (s : State) (o : Owner) (status addr : Nat) :
    grantsOf (s.failOwner o status addr).parts = grantsOf s.parts := by
  unfold State.failOwner
  (repeat' split) <;> simp

@[simp] theorem State.stopChisel_parts (s : State) (q : ChiselList → Bool) : (s.stopChisel q).parts = s.parts := rfl

@[simp] theorem State.unload_grantsOf (s : State) (p g : Nat) :
    grantsOf (s.unload p g).parts = grantsOf s.parts := by simp -implicitDefEqProofs [State.unload]

@[simp] theorem State.closeFence_grantsOf (s : State) (p : Nat) (g : Train → Train) :
    grantsOf (s.closeFence p g).parts = grantsOf s.parts := by simp [State.closeFence]

@[simp] theorem State.stopFence_grantsOf (s : State) (f n : Nat) : grantsOf (s.stopFence f n).parts = grantsOf s.parts := by
  unfold State.stopFence
  split <;> simp

@[simp] theorem State.stopCommand_grantsOf (s : State) (f n status : Nat) :
    grantsOf (s.stopCommand f n status).parts = grantsOf s.parts := by simp [State.stopCommand]

@[simp] theorem State.pauseDeadlines_parts (s : State) (f d : Nat) : (s.pauseDeadlines f d).parts = s.parts := rfl

/-! ### Fabric -/

@[simp] theorem State.dispatch_parts (s : State) (k : Packet) : (s.dispatch k).parts = s.parts := rfl

@[simp] theorem State.sendNext_parts (s : State) (q : Nat) : (s.sendNext q).parts = s.parts := by
  unfold State.sendNext
  split <;> simp

@[simp] theorem State.countFec_parts (s : State) (q : Nat) : (s.countFec q).parts = s.parts := by simp [State.countFec]

@[simp] theorem State.clockTraces_parts (s : State) (t : Nat) : (s.clockTraces t).parts = s.parts := by simp [State.clockTraces]

@[simp] theorem State.idle_parts (s : State) : (s.idle).parts = s.parts := by simp [State.idle]

@[simp] theorem State.packet_parts (s : State) (type cls dom dst addr : Nat) (payload : List Byte) :
    (s.packet type cls dom dst addr payload).2.parts = s.parts := rfl

@[simp] theorem State.request_parts (s : State) (k : Packet) (o : Owner) (verify : Bool) :
    (s.request k o verify).parts = s.parts := rfl

@[simp] theorem State.remoteRead_grantsOf (s : State) (dom pos a n : Nat) (o : Owner) (verify : Bool) :
    grantsOf (s.remoteRead dom pos a n o verify).parts = grantsOf s.parts := by simp [State.remoteRead]

@[simp] theorem State.remoteWrite_parts (s : State) (dom pos a : Nat) (bytes : List Byte) (o : Owner) (nibble : Option Nat) :
    (s.remoteWrite dom pos a bytes o nibble).parts = s.parts := by simp [State.remoteWrite]

@[simp] theorem State.remoteAdd_parts (s : State) (dom pos a addfmt : Nat) (bytes : List Byte) (o : Owner) (acc : Bool) :
    (s.remoteAdd dom pos a addfmt bytes o acc).parts = s.parts := by simp [State.remoteAdd]

/-! ### Mem -/

@[simp] theorem State.setPage_grantsOf (s : State) (p g : Nat) (x : TierPage) :
    grantsOf (s.setPage p g x).parts = grantsOf s.parts := by simp [State.setPage]

@[simp] theorem State.deduct_parts (s : State) (k p n : Nat) : (s.deduct k p n).parts = s.parts := rfl

@[simp] theorem State.charge_parts (s : State) (a n : Nat) : (s.charge a n).parts = s.parts := rfl

@[simp] theorem State.poison_parts (s : State) (a cause : Nat) : (s.poison a cause).parts = s.parts := by
  unfold State.poison
  rw [State.modStack_parts, State.setBlock_parts]

@[simp] theorem State.activate_parts (s : State) (a : Nat) : (s.activate a).parts = s.parts := rfl

@[simp] theorem State.countRetry_parts (s : State) (a : Nat) (ok : Bool) : (s.countRetry a ok).parts = s.parts := rfl

@[simp] theorem State.senseBlock_parts (s : State) (a n : Nat) (verify : Bool) (cause : Option Nat) (bond : Bool) :
    (s.senseBlock a n verify cause bond).2.2.parts = s.parts := by
  simp only [State.senseBlock]
  (repeat' split) <;> simp

@[simp] theorem State.readStack_parts (s : State) (a n : Nat) (verify : Bool) :
    (s.readStack a n verify).st.parts = s.parts := by simp [State.readStack]

@[simp] theorem State.changeBlock_parts (s : State) (a n cause : Nat) (whole : Bool) (f : List Byte → List Byte × BitVec 6) (bond : Bool) :
    (s.changeBlock a n cause whole f bond).2.2.2.parts = s.parts := by
  simp only [State.changeBlock]
  (repeat' split) <;> simp

@[simp] theorem State.writeStack_parts (s : State) (a : Nat) (bytes : List Byte) :
    (s.writeStack a bytes).st.parts = s.parts := by simp [State.writeStack]

@[simp] theorem State.setEraseBlock_parts (s : State) (ch b : Nat) (x : EraseBlock) :
    (s.setEraseBlock ch b x).parts = s.parts := rfl

@[simp] theorem State.pickBlock_parts (s : State) (ch : Nat) : (s.pickBlock ch).2.parts = s.parts := rfl

@[simp] theorem State.mapInto_parts (s : State) (key ch b : Nat) : (s.mapInto key ch b).parts = s.parts := rfl

@[simp] theorem State.remap_parts (s : State) (k : Nat) : (s.remap k).parts = s.parts := rfl

@[simp] theorem State.retryRead_parts (s : State) (ch b : Nat) : (s.retryRead ch b).parts = s.parts := by simp [State.retryRead]

@[simp] theorem State.countFlashRead_parts (s : State) (k : Nat) : (s.countFlashRead k).parts = s.parts := by
  unfold State.countFlashRead
  split <;> simp

@[simp] theorem State.programUnit_parts (s : State) (k : Nat) (bytes : List Byte) :
    (s.programUnit k bytes).parts = s.parts := by simp [State.programUnit]

@[simp] theorem State.tierPageEvent_parts (s : State) (p page unit kind : Nat) :
    (s.tierPageEvent p page unit kind).parts = s.parts := rfl

@[simp] theorem State.failUnit_grantsOf (s : State) (p g u : Nat) :
    grantsOf (s.failUnit p g u).parts = grantsOf s.parts := by simp [State.failUnit]

@[simp] theorem State.mendUnit_grantsOf (s : State) (p g u : Nat) :
    grantsOf (s.mendUnit p g u).parts = grantsOf s.parts := by simp [State.mendUnit]

@[simp] theorem State.readDev_parts (s : State) (p a n : Nat) (verify : Bool) : (s.readDev p a n verify).st.parts = s.parts := by
  unfold State.readDev
  split
  · simp
  · refine foldl_got_parts _ _ _ (fun g sp => ?_)
    (repeat' split) <;> simp

@[simp] theorem writeUnit_grantsOf (p : Nat) (g : Got) (c : Nat × List Byte) :
    grantsOf (writeUnit p g c).st.parts = grantsOf g.st.parts := by
  simp only [writeUnit]
  (repeat' split) <;> simp

@[simp] theorem State.writeDev_grantsOf (s : State) (p a : Nat) (bytes : List Byte) :
    grantsOf (s.writeDev p a bytes).st.parts = grantsOf s.parts := by simp [State.writeDev]

@[simp] theorem State.writeNibble_grantsOf (s : State) (p a sh v : Nat) :
    grantsOf (s.writeNibble p a sh v).st.parts = grantsOf s.parts := by simp [State.writeNibble]

@[simp] theorem State.touchPages_grantsOf (s : State) (p : Nat) (ranges : List (Nat × Nat)) :
    grantsOf (s.touchPages p ranges).parts = grantsOf s.parts := by simp [State.touchPages]

@[simp] theorem State.addStack_parts (s : State) (a addfmt : Nat) (z : Bool) (bytes : List Byte) (cause : Nat) :
    (s.addStack a addfmt z bytes cause).st.parts = s.parts := by simp [State.addStack]

@[simp] theorem State.addDev_grantsOf (s : State) (p a addfmt : Nat) (z : Bool) (bytes : List Byte) (cause : Nat) :
    grantsOf (s.addDev p a addfmt z bytes cause).st.parts = grantsOf s.parts := by
  unfold State.addDev
  split
  · simp
  · refine foldl_got_grantsOf _ _ _ (fun g c => ?_)
    dsimp only
    (repeat' split) <;> simp

@[simp] theorem State.addGate_grantsOf (s : State) (p gate : Nat) :
    grantsOf (s.addGate p gate).st.parts = grantsOf s.parts := by simp [State.addGate]

@[simp] theorem State.writeBackUnit_grantsOf (s : State) (p g u : Nat) :
    grantsOf (s.writeBackUnit p g u).2.parts = grantsOf s.parts := by
  simp only [State.writeBackUnit]
  (repeat' split) <;> simp

@[simp] theorem State.writeBackPage_grantsOf (s : State) (p g : Nat) :
    grantsOf (s.writeBackPage p g).2.parts = grantsOf s.parts := by simp [State.writeBackPage]

/-! ### Window -/

@[simp] theorem State.access_parts (s : State) (f : Nat) : (s.access f).parts = s.parts := rfl

@[simp] theorem State.barDiscard_parts (s : State) (f offset value : Nat) : (s.barDiscard f offset value).parts = s.parts := rfl

@[simp] theorem State.barHold_parts (s : State) (f off : Nat) (data : List Byte) : (s.barHold f off data).parts = s.parts := rfl

@[simp] theorem State.barRun_grantsOf (s : State) (f off : Nat) (data : List Byte) (go : State → State)
    (h : ∀ st, grantsOf (go st).parts = grantsOf st.parts) : grantsOf (s.barRun f off data go).parts = grantsOf s.parts := by
  simp [State.barRun, h]

theorem State.barRun_apart (s : State) (f off : Nat) (data : List Byte) (go : State → State) (hs : Apart (grantsOf s.parts))
    (h : ∀ st, Apart (grantsOf st.parts) → Apart (grantsOf (go st).parts)) : Apart (grantsOf (s.barRun f off data go).parts) := by
  unfold State.barRun
  split
  · exact h _ (by simpa using hs)
  · simpa using hs

@[simp] theorem State.powerEvent_parts (s : State) (p new old agent reason requested result : Nat) :
    (s.powerEvent p new old agent reason requested result).parts = s.parts := rfl

@[simp] theorem State.wakePart_grantsOf (s : State) (p : Nat) :
    grantsOf (s.wakePart p).parts = grantsOf s.parts := by simp [State.wakePart]

@[simp] theorem State.wakeModule_parts (s : State) :
    (s.wakeModule).parts = s.parts := by simp -implicitDefEqProofs [State.wakeModule]

@[simp] theorem State.wakeRequest_parts (s : State) (agent : Nat) :
    (s.wakeRequest agent).parts = s.parts := by simp [State.wakeRequest]

@[simp] theorem State.classZero_parts (s : State) (c alert : Nat) (urgent : Bool) :
    (s.classZero c alert urgent).parts = s.parts := by simp [State.classZero]

@[simp] theorem State.submit_parts (s : State) (f n : Nat) (bytes : List Byte) : (s.submit f n bytes).parts = s.parts := by
  simp only [State.submit]
  (repeat' split) <;> simp

@[simp] theorem execSlotSubmit_keeps (fn slot : Nat) (wide : Bool) (value : BitVec 64) (s : State) :
    Keeps s (execSlotSubmit fn slot wide value s) := by simp [execSlotSubmit]

@[simp] theorem State.releaseSlot_parts (s : State) (f n : Nat) : (s.releaseSlot f n).parts = s.parts := rfl

@[simp] theorem execSlotRelease_keeps (fn slot : Nat) (s : State) :
    Keeps s (execSlotRelease fn slot s) := by simp -implicitDefEqProofs [execSlotRelease]

@[simp] theorem State.beat_parts (s : State) (f : Nat) (v : BitVec 32) : (s.beat f v).parts = s.parts := by simp [State.beat]

@[simp] theorem execHostAlive_keeps (fn : Nat) (value : BitVec 32) (s : State) :
    Keeps s (execHostAlive fn value s) := by simp [execHostAlive]

@[simp] theorem State.accept_parts (s : State) (f n : Nat) : (s.accept f n).parts = s.parts := rfl

@[simp] theorem State.relay_parts (s : State) (f n : Nat) :
    (s.relay f n).parts = s.parts := by simp -implicitDefEqProofs [State.relay]

@[simp] theorem State.take_parts (s : State) (f n : Nat) : (s.take f n).parts = s.parts := rfl

@[simp] theorem State.beginCmd_grantsOf (s : State) (f n : Nat) :
    grantsOf (s.beginCmd f n).parts = grantsOf s.parts := by simp [State.beginCmd]

@[simp] theorem takeOp_keeps (s : State) (f n op : Nat) (body : State → State) (h : ∀ st, grantsOf (body st).parts = grantsOf st.parts) :
    Keeps s (takeOp s f n op body) := by
  simp [takeOp, h]

theorem takeOp_endsApart (s : State) (f n op : Nat) (body : State → State) (hs : Apart (grantsOf s.parts))
    (h : ∀ st, Apart (grantsOf st.parts) → Apart (grantsOf (body st).parts)) : EndsApart (takeOp s f n op body) := by
  unfold takeOp
  refine (endsApart_next _).2 ?_
  split
  · exact h _ (by simpa using hs)
  · exact hs

@[simp] theorem State.msix_parts (s : State) (f n : Nat) : (s.msix f n).parts = s.parts := by simp [State.msix]

@[simp] theorem State.complete_grantsOf (s : State) (f n : Nat) (flushed : Bool) :
    grantsOf (s.complete f n flushed).parts = grantsOf s.parts := by simp [State.complete]

@[simp] theorem State.report_parts (s : State) (f n issuer : Nat) : (s.report f n issuer).parts = s.parts := rfl

@[simp] theorem execCommandComplete_keeps (fn slot : Nat) (s : State) : Keeps s (execCommandComplete fn slot s) := by
  simp only [execCommandComplete]
  (repeat' split) <;> simp

@[simp] theorem State.flushDone_grantsOf (s : State) (f n : Nat) :
    grantsOf (s.flushDone f n).parts = grantsOf s.parts := by simp [State.flushDone]

@[simp] theorem execFlushReadComplete_keeps (fn slot : Nat) (s : State) :
    Keeps s (execFlushReadComplete fn slot s) := by simp [execFlushReadComplete]

@[simp] theorem execDeadlineExpire_keeps (fn slot : Nat) (s : State) :
    Keeps s (execDeadlineExpire fn slot s) := by simp [execDeadlineExpire]

@[simp] theorem State.loseMember_grantsOf (s : State) (p : Nat) :
    grantsOf (s.loseMember p).parts = grantsOf s.parts := by simp [State.loseMember]

@[simp] theorem State.orphan_grantsOf (s : State) (p cause : Nat) :
    grantsOf (s.orphan p cause).parts = grantsOf s.parts := by simp [State.orphan]

@[simp] theorem execHeartbeatTimeout_keeps (fn : Nat) (s : State) :
    Keeps s (execHeartbeatTimeout fn s) := by simp [execHeartbeatTimeout]

@[simp] theorem State.endSpdm_parts (s : State) (f : Nat) : (s.endSpdm f).parts = s.parts := rfl

@[simp] theorem State.loseHost_grantsOf (s : State) (f n status : Nat) :
    grantsOf (s.loseHost f n status).parts = grantsOf s.parts := by simp [State.loseHost]

@[simp] theorem State.loseLink_grantsOf (s : State) : grantsOf (s.loseLink).parts = grantsOf s.parts := by simp [State.loseLink]

@[simp] theorem execHostLinkLost_keeps (cause : LinkLoss) (s : State) :
    Keeps s (execHostLinkLost cause s) := by simp [execHostLinkLost]

@[simp] theorem execHostLinkUp_keeps (s : State) : Keeps s (execHostLinkUp s) := by simp -implicitDefEqProofs [execHostLinkUp]

@[simp] theorem execLinkRecovery_keeps (s : State) : Keeps s (execLinkRecovery s) := by simp [execLinkRecovery]

@[simp] theorem execLinkRecoveryEnd_keeps (gts width : Nat) (s : State) : Keeps s (execLinkRecoveryEnd gts width s) := by
  unfold execLinkRecoveryEnd
  split <;> simp

@[simp] theorem State.dropHost_parts (s : State) (f : Nat) : (s.dropHost f).parts = s.parts := rfl

@[simp] theorem execFlr_keeps (fn : Nat) (s : State) : Keeps s (execFlr fn s) := by simp [execFlr]

@[simp] theorem execFlrComplete_keeps (fn : Nat) (s : State) : Keeps s (execFlrComplete fn s) := by
  unfold execFlrComplete
  split <;> simp

@[simp] theorem execBusMasterDisable_keeps (fn : Nat) (s : State) :
    Keeps s (execBusMasterDisable fn s) := by simp [execBusMasterDisable]

@[simp] theorem execBusMasterEnable_keeps (fn : Nat) (s : State) :
    Keeps s (execBusMasterEnable fn s) := by simp [execBusMasterEnable]

@[simp] theorem State.lateDiscard_parts (s : State) (src unit unitId pt : Nat) :
    (s.lateDiscard src unit unitId pt).parts = s.parts := by simp [State.lateDiscard]

@[simp] theorem State.deliver_grantsOf (s : State) (r : HostRead) (bytes : List Byte) :
    grantsOf (s.deliver r bytes).parts = grantsOf s.parts := by
  unfold State.deliver
  split <;> simp

@[simp] theorem State.failRead_grantsOf (s : State) (r : HostRead) (status : Nat) :
    grantsOf (s.failRead r status).parts = grantsOf s.parts := by
  unfold State.failRead
  split <;> simp

@[simp] theorem State.dropRead_parts (s : State) (tag : Nat) : (s.dropRead tag).parts = s.parts := rfl

@[simp] theorem execHostReadCompletion_keeps (tag : Nat) (result : HostReadResult) (s : State) :
    Keeps s (execHostReadCompletion tag result s) := by
  unfold execHostReadCompletion
  (repeat' split) <;> simp

@[simp] theorem execHostReadTimeout_keeps (tag : Nat) (s : State) : Keeps s (execHostReadTimeout tag s) := by
  unfold execHostReadTimeout
  split <;> simp

@[simp] theorem execHostWriteAck_keeps (id : Nat) (s : State) : Keeps s (execHostWriteAck id s) := by
  unfold execHostWriteAck
  split
  · simp
  · split <;> simp

@[simp] theorem State.pathError_parts (s : State) (p n i : Nat) : (s.pathError p n i).parts = s.parts := by simp [State.pathError]

@[simp] theorem execDomainRelay_keeps (fn issuer : Nat) (packet : List Byte) (s : State) :
    Keeps s (execDomainRelay fn issuer packet s) := by
  unfold execDomainRelay
  split
  · split <;> simp
  · simp

@[simp] theorem execDomainReport_keeps (fn slot position status : Nat) (s : State) :
    Keeps s (execDomainReport fn slot position status s) := by simp [execDomainReport]

/-! ### Regs -/

@[simp] theorem State.takeLogWindow_parts (s : State) (f start : Nat) : (s.takeLogWindow f start).parts = s.parts := rfl

@[simp] theorem State.takeSurvey_parts (s : State) (f : Nat) : (s.takeSurvey f).2.2.parts = s.parts := rfl

@[simp] theorem State.readReg64_parts (s : State) (f off : Nat) : (s.readReg64 f off).2.parts = s.parts := by
  unfold State.readReg64
  split <;> simp

@[simp] theorem execLowHalfRead_keeps (fn offset : Nat) (s : State) :
    Keeps s (execLowHalfRead fn offset s) := by simp [execLowHalfRead]

@[simp] theorem execLogCursor_keeps (fn : Nat) (value : BitVec 64) (s : State) :
    Keeps s (execLogCursor fn value s) := by simp -implicitDefEqProofs [execLogCursor]

@[simp] theorem State.snapSurvey_parts (s : State) (f : Nat) : (s.snapSurvey f).parts = s.parts := by simp [State.snapSurvey]

@[simp] theorem execSnap_keeps (fn : Nat) (s : State) : Keeps s (execSnap fn s) := by simp [execSnap]

@[simp] theorem State.unmask_parts (s : State) (f n : Nat) : (s.unmask f n).parts = s.parts := by simp [State.unmask]

@[simp] theorem State.writeMsix_parts (s : State) (f off v : Nat) :
    (s.writeMsix f off v).parts = s.parts := by simp [State.writeMsix]

@[simp] theorem State.writeTierCtl_grantsOf (s : State) (f v : Nat) :
    grantsOf (s.writeTierCtl f v).parts = grantsOf s.parts := by simp [State.writeTierCtl]

@[simp] theorem State.writeJournal_grantsOf (s : State) (f v : Nat) :
    grantsOf (s.writeJournal f v).parts = grantsOf s.parts := by simp [State.writeJournal]

@[simp] theorem State.write64_grantsOf (s : State) (f off v : Nat) :
    grantsOf (s.write64 f off v).parts = grantsOf s.parts := by simp [State.write64]

@[simp] theorem State.writeSlot_parts (s : State) (f off : Nat) (data : List Byte) :
    (s.writeSlot f off data).parts = s.parts := by simp [State.writeSlot]

/-! ### Power -/

@[simp] theorem State.clearSection_parts (s : State) (i : Nat) :
    (s.clearSection i).parts = s.parts := by simp -implicitDefEqProofs [State.clearSection]

@[simp] theorem State.clearSections_parts (s : State) (m : BitVec 16) :
    (s.clearSections m).parts = s.parts := by simp [State.clearSections]

@[simp] theorem State.refusePower_grantsOf (s : State) (f target reason agent : Nat) (aborted : Bool) :
    grantsOf (s.refusePower f target reason agent aborted).parts = grantsOf s.parts := by simp [State.refusePower]

@[simp] theorem State.sleepStacks_parts (s : State) (ks : List Nat) :
    (s.sleepStacks ks).parts = s.parts := by simp [State.sleepStacks]

@[simp] theorem State.sleepPart_grantsOf (s : State) (p : Nat) :
    grantsOf (s.sleepPart p).parts = grantsOf s.parts := by simp [State.sleepPart]

@[simp] theorem State.enterStandby_grantsOf (s : State) :
    grantsOf (s.enterStandby).parts = grantsOf s.parts := by simp -implicitDefEqProofs [State.enterStandby]

@[simp] theorem State.persistAll_parts (s : State) : (s.persistAll).parts = s.parts := by simp [State.persistAll]

/-- A hibernation image carries a partition's grants (R453). -/
theorem grantsOf_imaged (ps : Tbl Part) : grantsOf (Tbl.mapV {} Part.imaged ps) = grantsOf ps := by
  funext p
  unfold grantsOf
  rw [Tbl.get_mapV]
  split
  · rfl
  · rename_i hp
    rw [Tbl.get_absent {} ps p (fun e he hk => hp (hk ▸ List.mem_map_of_mem he))]

/-- Darkness takes every grant away, or with a hibernation image none (R453). -/
theorem State.dark_grantsOf (s : State) (m : ModuleState) (clean : Bool) :
    grantsOf (s.dark m clean).parts = if s.power.image.isSome then grantsOf s.parts else grantsOf [] := by
  simp only [State.dark, grantsOf_ite, grantsOf_imaged]

theorem apart_none : Apart (grantsOf []) := fun _ _ _ _ _ => ⟨BitVec.and_self, BitVec.and_self⟩

@[simp] theorem State.dark_apart (s : State) (m : ModuleState) (clean : Bool) (h : Apart (grantsOf s.parts)) :
    Apart (grantsOf (s.dark m clean).parts) := by
  rw [State.dark_grantsOf]
  split
  · exact h
  · exact apart_none

@[simp] theorem State.flushPages_grantsOf (s : State) (p : Nat) :
    grantsOf (s.flushPages p).parts = grantsOf s.parts := by simp [State.flushPages]

@[simp] theorem State.readImage_parts (s : State) : (s.readImage).parts = s.parts := by simp [State.readImage]

@[simp] theorem State.enterHibernate_apart (s : State) (h : Apart (grantsOf s.parts)) :
    Apart (grantsOf (s.enterHibernate).parts) := by simp [State.enterHibernate, h]

@[simp] theorem State.storeRequest_grantsOf (s : State) (f v : Nat) :
    grantsOf (s.storeRequest f v).parts = grantsOf s.parts := by simp [State.storeRequest]

@[simp] theorem State.powerRequest_apart (s : State) (f target : Nat) (event : Option EntryEvent) (h : Apart (grantsOf s.parts)) :
    Apart (grantsOf (s.powerRequest f target event).parts) := by
  simp only [State.powerRequest]
  (repeat' split) <;> simp [h]

@[simp] theorem State.askPower_apart (s : State) (f target : Nat) (event : Option EntryEvent) (h : Apart (grantsOf s.parts)) :
    Apart (grantsOf (s.askPower f target event).parts) := by simp [State.askPower, h]

@[simp] theorem execEnterMs2_endsApart (fn : Nat) (event : Option EntryEvent) (s : State) (h : Apart (grantsOf s.parts)) :
    EndsApart (execEnterMs2 fn event s) := by
  unfold execEnterMs2
  refine (endsApart_next _).2 ?_
  split
  · exact State.barRun_apart _ _ _ _ _ h (fun st hst => State.askPower_apart _ _ _ _ hst)
  · exact h

@[simp] theorem execEnterMs3_endsApart (event : Option EntryEvent) (s : State) (h : Apart (grantsOf s.parts)) :
    EndsApart (execEnterMs3 event s) := by
  unfold execEnterMs3
  refine (endsApart_next _).2 ?_
  split
  · exact State.barRun_apart _ _ _ _ _ h (fun st hst => State.askPower_apart _ _ _ _ hst)
  · exact h

@[simp] theorem execEnterMs4_endsApart (event : Option EntryEvent) (s : State) (h : Apart (grantsOf s.parts)) :
    EndsApart (execEnterMs4 event s) := by
  unfold execEnterMs4
  refine (endsApart_next _).2 ?_
  split
  · exact State.barRun_apart _ _ _ _ _ h (fun st hst => State.askPower_apart _ _ _ _ hst)
  · exact h

@[simp] theorem State.wakeWrite_grantsOf (s : State) (f : Nat) : grantsOf (s.wakeWrite f).parts = grantsOf s.parts := by
  simp only [State.wakeWrite]
  (repeat' split) <;> simp

@[simp] theorem execPowerWake_keeps (fn : Nat) (s : State) : Keeps s (execPowerWake fn s) := by simp [execPowerWake]

@[simp] theorem execWakeFromStandby_keeps (s : State) : Keeps s (execWakeFromStandby s) := by simp [execWakeFromStandby]

@[simp] theorem State.wakeSource_apart (s : State) (agent : Nat) (h : Apart (grantsOf s.parts)) :
    Apart (grantsOf (s.wakeSource agent).parts) := by simp [State.wakeSource, h]

@[simp] theorem execWakeN_endsApart (low : Bool) (s : State) (h : Apart (grantsOf s.parts)) :
    EndsApart (execWakeN low s) := by simp [execWakeN, h]

@[simp] theorem execL1Exit_keeps (s : State) : Keeps s (execL1Exit s) := by simp [execL1Exit]

@[simp] theorem State.writePowerCtl_apart (s : State) (f v : Nat) (h : Apart (grantsOf s.parts)) :
    Apart (grantsOf (s.writePowerCtl f v).parts) := by simp [State.writePowerCtl, h]

@[simp] theorem State.write32_apart (s : State) (f off v : Nat) (h : Apart (grantsOf s.parts)) :
    Apart (grantsOf (s.write32 f off v).parts) := by simp [State.write32, h]

@[simp] theorem State.barWrite_apart (s : State) (f off : Nat) (data : List Byte) (h : Apart (grantsOf s.parts)) :
    Apart (grantsOf (s.barWrite f off data).parts) := by simp [State.barWrite, h]

@[simp] theorem execRegisterWrite_endsApart (fn offset : Nat) (data : List Byte) (s : State) (h : Apart (grantsOf s.parts)) :
    EndsApart (execRegisterWrite fn offset data s) := by
  unfold execRegisterWrite
  refine (endsApart_next _).2 ?_
  split
  · exact State.barRun_apart _ _ _ _ _ h (fun st hst => State.barWrite_apart _ _ _ _ hst)
  · exact h

/-! ### Context -/

@[simp] theorem State.mgrStamp_parts (s : State) : (s.mgrStamp).2.parts = s.parts := rfl

@[simp] theorem State.setPool_grantsOf (s : State) (p k : Nat) (x : Pool) :
    grantsOf (s.setPool p k x).parts = grantsOf s.parts := by simp [State.setPool]

@[simp] theorem State.mgrRead_parts (s : State) (a n : Nat) : (s.mgrRead a n).2.2.parts = s.parts := by simp [State.mgrRead]

@[simp] theorem State.mgrWrite_parts (s : State) (a n v : Nat) : (s.mgrWrite a n v).2.parts = s.parts := by simp [State.mgrWrite]

@[simp] theorem State.walk_parts (s : State) (q : Pool) (root p : Nat) : (s.walk q root p).2.2.2.parts = s.parts := by
  simp only [State.walk]
  (repeat' split) <;> simp

@[simp] theorem State.adjust_grantsOf (s : State) (p k i : Nat) (dRef dPin : Int) (mapped : Bool) :
    grantsOf (s.adjust p k i dRef dPin mapped).2.2.parts = grantsOf s.parts := by
  simp only [State.adjust]
  (repeat' split) <;> simp

@[simp] theorem State.takePage_grantsOf (s : State) (p k : Nat) : grantsOf (s.takePage p k).2.2.parts = grantsOf s.parts := by
  simp only [State.takePage]
  (repeat' split) <;> simp

theorem State.setPool_writeStack_grantsOf (s : State) (p k a : Nat) (q : Pool) (bytes : List Byte) :
    grantsOf ((s.setPool p k q).writeStack a bytes).st.parts = grantsOf s.parts := by simp

@[simp] theorem State.takeFrame_grantsOf (s : State) (p k : Nat) : grantsOf (s.takeFrame p k).2.parts = grantsOf s.parts := by
  unfold State.takeFrame
  dsimp only
  split
  · rfl
  · rw [State.setPool_writeStack_grantsOf]
    rfl

@[simp] theorem State.freeFrame_grantsOf (s : State) (p k a : Nat) :
    grantsOf (s.freeFrame p k a).parts = grantsOf s.parts := by simp [State.freeFrame]

@[simp] theorem State.mapPage_grantsOf (s : State) (p k root g i : Nat) :
    grantsOf (s.mapPage p k root g i).2.parts = grantsOf s.parts := by
  have frame := State.takeFrame_grantsOf (s.mgrRead (root + 8 * (g / 512)) 8).2.2 p k
  unfold State.mapPage
  dsimp only
  split
  · simp
  · simp
  · split <;> simp_all

@[simp] theorem State.unmapEntry_grantsOf (s : State) (p k a : Nat) :
    grantsOf (s.unmapEntry p k a).st.parts = grantsOf s.parts := by
  simp only [State.unmapEntry]
  (repeat' split) <;> simp

@[simp] theorem State.unmapFrom_grantsOf (s : State) (p k root first : Nat) :
    grantsOf (s.unmapFrom p k root first).st.parts = grantsOf s.parts := by
  unfold State.unmapFrom
  dsimp only
  generalize 512 = w
  refine foldl_mgr_grantsOf _ _ _ (fun m i => ?_)
  split
  · rfl
  · split
    · simp
    · simp
    · split
      · simp
      · split
        · simp
        · split <;> simp

@[simp] theorem State.faultCtx_parts (s : State) (c : Nat) : (s.faultCtx c).parts = s.parts := by simp [State.faultCtx]

@[simp] theorem State.pinPages_grantsOf (s : State) (c lo hi : Nat) :
    grantsOf (s.pinPages c lo hi).st.parts = grantsOf s.parts := by
  unfold State.pinPages
  refine foldl_mgr_grantsOf _ _ _ (fun m j => ?_)
  dsimp only
  (repeat' split) <;> simp

@[simp] theorem State.unpinPages_grantsOf (s : State) (p k : Nat) (pages : List (Nat × Nat)) :
    grantsOf (s.unpinPages p k pages).st.parts = grantsOf s.parts := by
  simp [State.unpinPages]

@[simp] theorem State.stampCtx_parts (s : State) (c : Nat) (g : Ctx → Ctx) : (s.stampCtx c g).parts = s.parts := rfl

@[simp] theorem State.unpinJob_grantsOf (s : State) (j : Job) (done : Bool) :
    grantsOf (s.unpinJob j done).2.parts = grantsOf s.parts := by
  simp only [State.unpinJob]
  (repeat' split) <;> simp

@[simp] theorem State.newPage_grantsOf (s : State) (p k : Nat) : grantsOf (s.newPage p k).2.2.parts = grantsOf s.parts := by
  have h := State.takePage_grantsOf s p k
  unfold State.newPage
  split <;> simp_all

@[simp] theorem State.resolvePages_grantsOf (s : State) (c rows atp job : Nat) :
    grantsOf (s.resolvePages c rows atp job).st.parts = grantsOf s.parts := by
  unfold State.resolvePages
  dsimp only
  generalize (if rows = 0 then 0 else ((s.ctx c).pos + rows - 1) / 256 + 1 - (s.ctx c).pos / 256) = n
  split
  · rfl
  · refine foldl_mgr_grantsOf _ _ _ (fun m j => ?_)
    (repeat' split) <;> simp

@[simp] theorem State.copyPage_parts (s : State) (src dst n : Nat) :
    (s.copyPage src dst n).parts = s.parts := by simp [State.copyPage]

@[simp] theorem State.dropCopy_grantsOf (s : State) (cp : PageCopy) :
    grantsOf (s.dropCopy cp).2.parts = grantsOf s.parts := by simp [State.dropCopy]

@[simp] theorem State.switchPage_grantsOf (s : State) (cp : PageCopy) :
    grantsOf (s.switchPage cp).parts = grantsOf s.parts := by simp [State.switchPage]

@[simp] theorem State.mgrWait_parts (s : State) (me : Owner) : (s.mgrWait me).parts = s.parts := by simp [State.mgrWait]

@[simp] theorem State.mgrBegin_parts (s : State) (me : Owner) : (s.mgrBegin me).parts = s.parts := rfl

@[simp] theorem State.finishAt_parts (s : State) (f n status v : Nat) :
    (s.finishAt f n status v).parts = s.parts := by simp [State.finishAt]

@[simp] theorem State.replyAt_parts (s : State) (f n w v : Nat) : (s.replyAt f n w v).parts = s.parts := by simp [State.replyAt]

@[simp] theorem State.refuseCtx_parts (s : State) (f n status : Nat) :
    (s.refuseCtx f n status).parts = s.parts := by simp [State.refuseCtx]

@[simp] theorem takeWaiting_keeps (s : State) (f n op : Nat) (check : State → Nat) (wait : State → Bool) (body : State → State)
    (refuse : State → Nat → State) (stand : State → State) (hb : ∀ st, grantsOf (body st).parts = grantsOf st.parts)
    (hr : ∀ st r, grantsOf (refuse st r).parts = grantsOf st.parts) (hs : ∀ st, grantsOf (stand st).parts = grantsOf st.parts) :
    Keeps s (takeWaiting s f n op check wait body refuse stand) := by
  simp [takeWaiting, hb, hr, hs]

@[simp] theorem takeCtx_keeps (s : State) (f n op : Nat) (check : State → Nat) (body : State → State)
    (h : ∀ st, grantsOf (body st).parts = grantsOf st.parts) : Keeps s (takeCtx s f n op check body) := by
  unfold takeCtx
  exact takeWaiting_keeps _ _ _ _ _ _ _ _ _ (fun st => by simp [h]) (fun st r => by simp) (fun st => by simp)

@[simp] theorem State.clearMem_parts (s : State) (a n : Nat) : (s.clearMem a n).parts = s.parts := rfl

@[simp] theorem execCtxPool_keeps (fn slot : Nat) (s : State) : Keeps s (execCtxPool fn slot s) := by
  unfold execCtxPool
  refine takeCtx_keeps _ _ _ _ _ _ (fun st => ?_)
  dsimp only
  (repeat' split) <;> simp

theorem State.newEntry_grantsOf {s t : State} {p k e a : Nat} (h : s.newEntry p k = some (e, a, t)) :
    grantsOf t.parts = grantsOf s.parts := by
  have frame := State.takeFrame_grantsOf s p k
  unfold State.newEntry at h
  split at h
  · cases h
  · split at h
    · cases h
    · split at h <;> simp_all

@[simp] theorem execCtxOpen_keeps (fn slot : Nat) (s : State) : Keeps s (execCtxOpen fn slot s) := by
  unfold execCtxOpen
  refine takeCtx_keeps _ _ _ _ _ _ (fun st => ?_)
  dsimp only
  split
  · simp
  · rename_i h
    simp [State.newEntry_grantsOf h]

theorem State.forkCtx_grantsOf {s t : State} {f src n seg e v : Nat} (h : s.forkCtx f src n seg = some (e, v, t)) :
    grantsOf t.parts = grantsOf s.parts := by
  have mapped : ∀ (xs : List Nat) (m : Mgr) (q : Pool) (k root a : Nat), grantsOf (xs.foldl (fun (m : Mgr) g =>
      if m.status ≠ 0 then m
      else match m.st.walk q root g with
        | (st, w, _, t1) =>
          if st ≠ 0 then { m with status := st, st := t1 }
          else match w with
            | none => { m with st := t1 }
            | some i =>
              let (st2, _, t2) := t1.adjust f k i 1 0 true
              if st2 ≠ 0 then { m with status := st2, st := t2 }
              else
                let (st3, t3) := t2.mapPage f k a g i
                if st3 ≠ 0 then { m with status := st3, st := (t3.adjust f k i (-1) 0 true).2.2 }
                else { m with pages := m.pages ++ [(g, i)], st := t3 }) m).st.parts = grantsOf m.st.parts := by
    intro xs m q k root a
    refine foldl_mgr_grantsOf _ _ _ (fun m g => ?_)
    dsimp only
    split
    · rfl
    · split
      · simp
      · split
        · simp
        · split
          · simp
          · split <;> simp
  unfold State.forkCtx at h
  dsimp only at h mapped
  split at h
  · cases h
  · rename_i hs
    have entry := State.newEntry_grantsOf hs
    split at h
    · cases h
    · split at h
      · cases h
        simp only [State.faultCtx_parts, State.setCtx_parts, State.freeFrame_grantsOf, State.unmapFrom_grantsOf]
        exact (mapped _ _ _ _ _ _).trans ((congrArg grantsOf (State.mgrStamp_parts _)).trans entry)
      · cases h
        simp only [State.setCtx_parts]
        exact (mapped _ _ _ _ _ _).trans ((congrArg grantsOf (State.mgrStamp_parts _)).trans entry)

@[simp] theorem execCtxFork_keeps (fn slot : Nat) (s : State) : Keeps s (execCtxFork fn slot s) := by
  unfold execCtxFork
  refine takeCtx_keeps _ _ _ _ _ _ (fun st => ?_)
  dsimp only
  split
  · simp
  · rename_i h
    split <;> simp [State.forkCtx_grantsOf h]

@[simp] theorem State.truncateCtx_grantsOf (s : State) (c n : Nat) :
    grantsOf (s.truncateCtx c n).2.2.parts = grantsOf s.parts := by
  simp only [State.truncateCtx]
  split <;> simp

@[simp] theorem execCtxTruncate_keeps (fn slot : Nat) (s : State) : Keeps s (execCtxTruncate fn slot s) := by
  unfold execCtxTruncate
  refine takeCtx_keeps _ _ _ _ _ _ (fun st => ?_)
  simp

@[simp] theorem State.freeCtx_grantsOf (s : State) (c : Nat) : grantsOf (s.freeCtx c).2.2.2.parts = grantsOf s.parts := by
  simp only [State.freeCtx]
  split <;> simp

@[simp] theorem execCtxFree_keeps (fn slot : Nat) (s : State) : Keeps s (execCtxFree fn slot s) := by
  unfold execCtxFree
  refine takeCtx_keeps _ _ _ _ _ _ (fun st => ?_)
  dsimp only
  split
  · simp
  · rw [State.replyAt_parts]
    refine (forEach_grantsOf _ _ _ (fun a t => ?_)).trans (by simp)
    split <;> simp

@[simp] theorem execCtxQuery_keeps (fn slot : Nat) (s : State) : Keeps s (execCtxQuery fn slot s) := by simp [execCtxQuery]

@[simp] theorem State.freeAll_grantsOf (s : State) (p : Nat) :
    grantsOf (s.freeAll p).2.2.parts = grantsOf s.parts := by simp [State.freeAll]

/-! ### Frames -/

@[simp] theorem State.beginEvict_grantsOf (s : State) (p g : Nat) (heir : Option Nat) :
    grantsOf (s.beginEvict p g heir).parts = grantsOf s.parts := by simp [State.beginEvict]

@[simp] theorem State.expelPage_grantsOf (s : State) (p g : Nat) :
    grantsOf (s.expelPage p g).2.parts = grantsOf s.parts := by simp [State.expelPage]

@[simp] theorem State.expelPages_grantsOf (s : State) (p : Nat) (gs : List Nat) :
    grantsOf (s.expelPages p gs).2.parts = grantsOf s.parts := by simp [State.expelPages]

@[simp] theorem State.endExtent_parts (s : State) (e : Nat) : (s.endExtent e).parts = s.parts := rfl

@[simp] theorem State.newKey_parts (s : State) : (s.newKey).2.parts = s.parts := rfl

@[simp] theorem State.releaseExtent_parts (s : State) (p e : Nat) : (s.releaseExtent p e).parts = s.parts := rfl

@[simp] theorem State.rekeyExtent_parts (s : State) (p e : Nat) : (s.rekeyExtent p e).parts = s.parts := rfl

@[simp] theorem State.pickExtents_parts (s : State) (n : Nat) : (s.pickExtents n).2.parts = s.parts := by
  induction n generalizing s with
  | zero => rfl
  | succ n ih =>
    unfold State.pickExtents
    dsimp only
    split
    · rfl
    · simp [ih]

@[simp] theorem State.setExtents_grantsOf (s : State) (p n : Nat) : grantsOf (s.setExtents p n).2.parts = grantsOf s.parts := by
  unfold State.setExtents
  dsimp only
  split
  · simp
  · dsimp only
    refine (modPart_grantsOf _ _ _ (fun x => by exact ⟨rfl, rfl⟩)).trans ?_
    refine (forEach_grantsOf _ _ _ (fun i st => ?_)).trans ((forEach_grantsOf _ _ _ (fun e st => ?_)).trans ?_)
    · split <;> rfl
    · rfl
    · simp

/-! ### Control -/

@[simp] theorem execNop_keeps (fn slot : Nat) (s : State) : Keeps s (execNop fn slot s) := by simp [execNop]

@[simp] theorem State.endCommands_grantsOf (s : State) (f status : Nat) (q : Nat → Cmd → Bool) :
    grantsOf (s.endCommands f status q).2.parts = grantsOf s.parts := by simp [State.endCommands]

@[simp] theorem State.haltApplies_grantsOf (s : State) (p : Nat) :
    grantsOf (s.haltApplies p).parts = grantsOf s.parts := by simp [State.haltApplies]

@[simp] theorem State.haltWork_grantsOf (s : State) (scope : List Nat) :
    grantsOf (s.haltWork scope).2.parts = grantsOf s.parts := by simp [State.haltWork]

@[simp] theorem execHalt_keeps (fn slot : Nat) (s : State) : Keeps s (execHalt fn slot s) := by simp [execHalt]

@[simp] theorem State.attachNow_grantsOf (s : State) (f n : Nat) :
    grantsOf (s.attachNow f n).parts = grantsOf s.parts := by simp -implicitDefEqProofs [State.attachNow]

@[simp] theorem State.attachRefused_parts (s : State) (f n : Nat) :
    (s.attachRefused f n).parts = s.parts := by simp [State.attachRefused]

@[simp] theorem execAttach_keeps (fn slot : Nat) (s : State) : Keeps s (execAttach fn slot s) := by simp [execAttach]

@[simp] theorem execAttachResume_keeps (fn slot : Nat) (s : State) :
    Keeps s (execAttachResume fn slot s) := by simp [execAttachResume]

@[simp] theorem execAttachLockoutEnd_keeps (fn : Nat) (s : State) : Keeps s (execAttachLockoutEnd fn s) := by
  unfold execAttachLockoutEnd
  split <;> simp

@[simp] theorem State.scrub_parts (s : State) (k : Nat) : (s.scrub k).parts = s.parts := by simp [State.scrub]

@[simp] theorem State.unloadIf_grantsOf (s : State) (p : Nat) (q : Program → Bool) :
    grantsOf (s.unloadIf p q).parts = grantsOf s.parts := by simp [State.unloadIf]

@[simp] theorem State.clearingSections_grantsOf (s : State) (p : Nat) (m : BitVec 16) :
    grantsOf (s.clearingSections p m).parts = grantsOf s.parts := by simp [State.clearingSections]

@[simp] theorem execClearingEnd_keeps (resource : Resource) (s : State) : Keeps s (execClearingEnd resource s) := by
  unfold execClearingEnd
  split <;> simp

@[simp] theorem State.newTenant_parts (s : State) (p : Nat) : (s.newTenant p).parts = s.parts := rfl

@[simp] theorem State.resetPart_grantsOf (s : State) (p f n : Nat) :
    grantsOf (s.resetPart p f n).2.2.2.parts = grantsOf s.parts := by simp -implicitDefEqProofs [State.resetPart]

@[simp] theorem execResetPartition_keeps (fn slot : Nat) (s : State) :
    Keeps s (execResetPartition fn slot s) := by simp [execResetPartition]

@[simp] theorem State.meetDomain_parts (s : State) (dom : Nat) : (s.meetDomain dom).parts = s.parts := rfl

theorem State.writeGrant_grantsOf (s : State) (g : Grant) (x w : Part) :
    grantsOf (s.writeGrant g x w).parts = grantsOf (s.setPart g.pt w).parts := by
  unfold State.writeGrant
  dsimp only
  (repeat' split) <;> simp -implicitDefEqProofs

@[simp] theorem State.settleGrant_grantsOf (s : State) (p : Nat) (was : Bool) :
    grantsOf (s.settleGrant p was).parts = grantsOf s.parts := by
  unfold State.settleGrant
  split
  · split <;> simp
  · rename_i h
    have none : grantsOf s.parts p = (0, 0) := by
      simp only [Part.holdsAny, Bool.or_eq_true, bne_iff_ne, ne_eq, not_or, not_not] at h
      exact Prod.ext h.1.1 h.1.2
    have kept : grantsOf ((s.freeAll p).2.2.setPart p {}).parts = grantsOf s.parts := by
      rw [setPart_grantsOf _ _ _ (by rw [State.freeAll_grantsOf, none]), State.freeAll_grantsOf]
    dsimp only
    split
    · rw [State.newTenant_parts, kept]
    · exact kept

theorem State.setGrant_grantsOf (s : State) (g : Grant) :
    grantsOf (s.setGrant g).2.parts = fun q => if q = g.pt then (g.sections, g.hbm) else grantsOf s.parts q := by
  unfold State.setGrant
  dsimp only
  rw [State.settleGrant_grantsOf, State.writeGrant_grantsOf, grantsOf_setPart, State.expelPages_grantsOf]
  split <;> simp

theorem and_foldl_or {n : Nat} {α : Type} (f : α → BitVec n) (a x : BitVec n) (qs : List α) (h : x &&& qs.foldl (fun m q => m ||| f q) a = 0) :
    x &&& a = 0 ∧ ∀ q ∈ qs, x &&& f q = 0 := by
  induction qs generalizing a with
  | nil => exact ⟨h, by simp⟩
  | cons q qs ih =>
    obtain ⟨hq, hqs⟩ := ih (a ||| f q) h
    rw [BitVec.and_or_distrib_left] at hq
    have both := BitVec.or_eq_zero_iff.1 hq
    exact ⟨both.1, by simpa [both.2] using hqs⟩

/-- R366: a PART_SET that passes its checks names no section and no stack of another partition. -/
theorem State.grantCheck_free (s : State) (c : Cmd) (h : s.grantCheck c = 0) (q : Nat) (hq : q ∈ allParts) (hne : q ≠ (s.grantParams c).pt) :
    (s.grantParams c).sections &&& (grantsOf s.parts q).1 = 0 ∧ (s.grantParams c).hbm &&& (grantsOf s.parts q).2 = 0 := by
  have other : q ∈ allParts.filter (fun q => q != (s.grantParams c).pt) := by simp [hq, hne]
  unfold State.grantCheck at h
  dsimp only at h
  split at h
  · cases h
  · split at h
    · cases h
    · rename_i h2
      simp only [not_or, ne_eq, not_not] at h2
      exact ⟨(and_foldl_or _ _ _ _ h2.1).2 q other, (and_foldl_or _ _ _ _ h2.2.1).2 q other⟩

theorem Apart.update {g : Nat → BitVec 16 × BitVec 20} (h : Apart g) (p : Nat) (x : BitVec 16 × BitVec 20)
    (free : ∀ q ∈ allParts, q ≠ p → x.1 &&& (g q).1 = 0 ∧ x.2 &&& (g q).2 = 0) : Apart (fun q => if q = p then x else g q) := by
  intro a ha b hb hne
  by_cases hap : a = p
  · have hbp : b ≠ p := fun e => hne (hap.trans e.symm)
    simpa [hap, hbp] using free b hb hbp
  · by_cases hbp : b = p
    · simpa [hap, hbp, BitVec.and_comm] using free a ha hap
    · simpa [hap, hbp] using h a ha b hb hne

@[simp] theorem execPartSet_endsApart (fn slot : Nat) (s : State) (h : Apart (grantsOf s.parts)) :
    EndsApart (execPartSet fn slot s) := by
  unfold execPartSet
  refine takeOp_endsApart _ _ _ _ _ h (fun st hst => ?_)
  dsimp only
  split
  · simpa using hst
  · rename_i ok
    rw [State.replyOk_parts, State.setGrant_grantsOf, State.beginCmd_grantsOf]
    exact hst.update _ _ (fun q hq hne => State.grantCheck_free st _ (not_not.1 ok) q hq hne)

@[simp] theorem State.substitute_parts (s : State) (d nn : Nat) : (s.substitute d nn).2.parts = s.parts := by
  simp only [State.substitute]
  split <;> simp

@[simp] theorem State.disableNow_grantsOf (s : State) (d : Drain) :
    grantsOf (s.disableNow d).parts = grantsOf s.parts := by simp [State.disableNow]

@[simp] theorem State.drainOn_grantsOf (s : State) (f n : Nat) : grantsOf (s.drainOn f n).parts = grantsOf s.parts := by
  unfold State.drainOn
  split <;> simp

@[simp] theorem disableOp_keeps (s : State) (f n op limit : Nat) (tiles atps : Nat → List Nat) (whole : Bool) :
    Keeps s (disableOp s f n op limit tiles atps whole) := by simp [disableOp]

@[simp] theorem execTileDisable_keeps (fn slot : Nat) (s : State) :
    Keeps s (execTileDisable fn slot s) := by simp [execTileDisable]

@[simp] theorem execSectionDisable_keeps (fn slot : Nat) (s : State) :
    Keeps s (execSectionDisable fn slot s) := by simp [execSectionDisable]

@[simp] theorem execDrainExpire_keeps (fn slot : Nat) (s : State) : Keeps s (execDrainExpire fn slot s) := by
  unfold execDrainExpire
  split <;> simp

@[simp] theorem execGetSurvey_keeps (fn slot : Nat) (s : State) : Keeps s (execGetSurvey fn slot s) := by simp [execGetSurvey]

@[simp] theorem execLogRead_keeps (fn slot : Nat) (s : State) : Keeps s (execLogRead fn slot s) := by simp [execLogRead]

@[simp] theorem execTraceSet_keeps (fn slot : Nat) (s : State) : Keeps s (execTraceSet fn slot s) := by simp [execTraceSet]

/-! ### Flags -/

@[simp] theorem State.markFailing_parts (s : State) (t : Nat) : (s.markFailing t).parts = s.parts := by simp [State.markFailing]

@[simp] theorem State.fixWord_parts (s : State) (t : Nat) : (s.fixWord t).parts = s.parts := by simp [State.fixWord]

@[simp] theorem State.loseWord_parts (s : State) (t : Nat) (zero : Tile → Tile) :
    (s.loseWord t zero).parts = s.parts := by simp [State.loseWord]

@[simp] theorem State.withSoft_grantsOf (s : State) (t : Nat) (e : Engine) (soft : Soft) (zero : Nat → Tile → Tile) (work : State → State)
    (h : ∀ st, grantsOf (work st).parts = grantsOf st.parts) : grantsOf (s.withSoft t e soft zero work).parts = grantsOf s.parts := by
  unfold State.withSoft
  split <;> simp [h]

/-! ### Engine -/

@[simp] theorem State.watch_parts (s : State) (t : Nat) : (s.watch t).parts = s.parts := rfl

@[simp] theorem State.signal_grantsOf (s : State) (t : Nat) (e : Engine) (k : Nat) :
    grantsOf (s.signal t e k).parts = grantsOf s.parts := by simp [State.signal]

@[simp] theorem State.waitSteps_grantsOf (s : State) (t : Nat) (e : Engine) :
    grantsOf (s.waitSteps t e).2.parts = grantsOf s.parts := by
  simp only [State.waitSteps]
  (repeat' split) <;> simp

@[simp] theorem State.modFlight_parts (s : State) (t : Nat) (e : Engine) (id : Nat) (g : Flight → Flight) :
    (s.modFlight t e id g).parts = s.parts := rfl

@[simp] theorem State.issue_keeps (s : State) (t : Nat) (e : Engine) (opc : Nat) (ready : BitVec 128 → State → Bool)
    (work : BitVec 128 → Nat → State → State) (move : EngineState → EngineState)
    (h : ∀ w id st, grantsOf (work w id st).parts = grantsOf st.parts) : Keeps s (s.issue t e opc ready work move) := by
  simp [State.issue, h]

@[simp] theorem State.atOnce_parts (s : State) (t : Nat) (e : Engine) (id : Nat) : (s.atOnce t e id).parts = s.parts := rfl

@[simp] theorem execNopInstruction_keeps (tile : Nat) (eng : Engine) (s : State) :
    Keeps s (execNopInstruction tile eng s) := by simp -implicitDefEqProofs [execNopInstruction]

@[simp] theorem execSeg_keeps (tile : Nat) (eng : Engine) (s : State) : Keeps s (execSeg tile eng s) := by
  unfold execSeg
  split <;> simp -implicitDefEqProofs

@[simp] theorem execLoop_keeps (tile : Nat) (eng : Engine) (s : State) :
    Keeps s (execLoop tile eng s) := by simp -implicitDefEqProofs [execLoop]

@[simp] theorem execReplay_keeps (tile : Nat) (eng : Engine) (s : State) :
    Keeps s (execReplay tile eng s) := by simp -implicitDefEqProofs [execReplay]

@[simp] theorem execEndStream_keeps (tile : Nat) (eng : Engine) (s : State) :
    Keeps s (execEndStream tile eng s) := by simp -implicitDefEqProofs [execEndStream]

@[simp] theorem execStepBoundary_keeps (tile : Nat) (s : State) : Keeps s (execStepBoundary tile s) := by
  simp only [execStepBoundary]
  (repeat' split) <;> simp

@[simp] theorem execWatchdog_keeps (tile : Nat) (s : State) : Keeps s (execWatchdog tile s) := by
  simp only [execWatchdog]
  split <;> simp

@[simp] theorem execRemoteSignal_keeps (tile token : Nat) (s : State) : Keeps s (execRemoteSignal tile token s) := by
  unfold execRemoteSignal
  split <;> simp

/-! ### Matrix -/

@[simp] theorem execMopen_keeps (tile : Nat) (s : State) : Keeps s (execMopen tile s) := by
  unfold execMopen
  refine State.issue_keeps _ _ _ _ _ _ _ (fun w id st => ?_)
  dsimp only
  (repeat' split) <;> simp

@[simp] theorem execMmask_keeps (tile : Nat) (s : State) : Keeps s (execMmask tile s) := by simp -implicitDefEqProofs [execMmask]

@[simp] theorem execMacc_keeps (tile : Nat) (soft : Soft) (s : State) : Keeps s (execMacc tile soft s) := by
  unfold execMacc
  refine State.issue_keeps _ _ _ _ _ _ _ (fun w id st => ?_)
  dsimp only
  split
  · split
    · simp
    · split
      · simp
      · split
        · simp
        · exact State.withSoft_grantsOf _ _ _ _ _ _ (fun st1 => by simp)
  · simp

@[simp] theorem execMclose_keeps (tile : Nat) (s : State) : Keeps s (execMclose tile s) := by simp [execMclose]

/-! ### Transfer -/

@[simp] theorem State.askTier_grantsOf (s : State) (p : Nat) (rs : List (Nat × Nat)) (kind : TierKind) (o : Owner) :
    grantsOf (s.askTier p rs kind o).2.parts = grantsOf s.parts := by simp [State.askTier]

@[simp] theorem State.endGrants_parts (s : State) (o : Owner) : (s.endGrants o).parts = s.parts := rfl

@[simp] theorem State.ready_grantsOf (s : State) (p : Nat) (rs ws : List (Nat × Nat)) (kind : TierKind) (o : Owner) :
    grantsOf (s.ready p rs ws kind o).2.parts = grantsOf s.parts := by
  simp only [State.ready]
  (repeat' split) <;> simp

@[simp] theorem State.whenServed_grantsOf (s : State) (p : Nat) (rs ws : List (Nat × Nat)) (kind : TierKind) (o : Owner)
    (body : State → State) (h : ∀ st, grantsOf (body st).parts = grantsOf st.parts) : grantsOf (s.whenServed p rs ws kind o body).parts = grantsOf s.parts := by
  simp [State.whenServed, h]

@[simp] theorem State.gather_parts (s : State) (p : Nat) (rs : List (Nat × Nat)) (verify : Bool) (buf : BMap) :
    (s.gather p rs verify buf).st.parts = s.parts := by
  unfold State.gather
  refine foldl_got_parts _ _ _ (fun g x => ?_)
  (repeat' split) <;> simp

@[simp] theorem State.putRun_grantsOf (s : State) (p : Nat) (o : Owner) (w : Nat) (bytes : List Byte) :
    grantsOf (s.putRun p o w bytes).st.parts = grantsOf s.parts := by
  unfold State.putRun
  split <;> simp

@[simp] theorem State.putNibble_grantsOf (s : State) (p : Nat) (o : Owner) (w sh v : Nat) :
    grantsOf (s.putNibble p o w sh v).st.parts = grantsOf s.parts := by
  unfold State.putNibble
  split <;> simp

@[simp] theorem State.addRunAt_grantsOf (s : State) (p : Nat) (o : Owner) (addfmt : Nat) (acc : Bool) (w : Nat) (bytes : List Byte) :
    grantsOf (s.addRunAt p o addfmt acc w bytes).st.parts = grantsOf s.parts := by
  unfold State.addRunAt
  split <;> simp

@[simp] theorem Got.andThen_grantsOf (g : Got) (f : State → Got) (h : ∀ st, grantsOf (f st).st.parts = grantsOf st.parts) :
    grantsOf (g.andThen f).st.parts = grantsOf g.st.parts := by
  simp [Got.andThen, h]

@[simp] theorem Got.andThen_parts (g : Got) (f : State → Got) (h : ∀ st, (f st).st.parts = st.parts) :
    (g.andThen f).st.parts = g.st.parts := by
  simp [Got.andThen, h]

@[simp] theorem State.ranFlight_parts (s : State) (t : Nat) (e : Engine) (id : Nat) : (s.ranFlight t e id).parts = s.parts := rfl

@[simp] theorem State.makeWrites_grantsOf (s : State) (p : Nat) (o : Owner) (f : Flight) :
    grantsOf (s.makeWrites p o f).st.parts = grantsOf s.parts := by simp [State.makeWrites]

@[simp] theorem State.runLoose_grantsOf (s : State) (p : Nat) :
    grantsOf (s.runLoose p).parts = grantsOf s.parts := by simp [State.runLoose]

@[simp] theorem State.runFlight_grantsOf (s : State) (t : Nat) (e : Engine) (id : Nat) :
    grantsOf (s.runFlight t e id).parts = grantsOf s.parts := by
  unfold State.runFlight
  (repeat' split) <;> simp

@[simp] theorem State.fetchElsewhere_grantsOf (s : State) (p : Nat) (v : View) (o : Owner) :
    grantsOf (s.fetchElsewhere p v o).parts = grantsOf s.parts := by
  unfold State.fetchElsewhere
  refine forEach_grantsOf _ _ _ (fun x st => ?_)
  (repeat' split) <;> simp

@[simp] theorem State.startLoad_grantsOf (s : State) (t : Nat) (e : Engine) (id : Nat) (src : View) (dst : Option View) :
    grantsOf (s.startLoad t e id src dst).parts = grantsOf s.parts := by
  simp only [State.startLoad]
  split <;> simp

@[simp] theorem State.startStore_grantsOf (s : State) (t : Nat) (e : Engine) (id : Nat) (dst : Option View) (out : List (Nat × List Byte)) (halves : List (Nat × Nat × Nat)) :
    grantsOf (s.startStore t e id dst out halves).parts = grantsOf s.parts := by
  simp only [State.startStore]
  split <;> simp

@[simp] theorem execFload_keeps (tile : Nat) (soft : Soft) (s : State) : Keeps s (execFload tile soft s) := by
  unfold execFload
  refine State.issue_keeps _ _ _ _ _ _ _ (fun w id st => State.withSoft_grantsOf _ _ _ _ _ _ (fun st => ?_))
  dsimp only
  (repeat' split) <;> simp

@[simp] theorem execFrecv_keeps (tile : Nat) (s : State) : Keeps s (execFrecv tile s) := by
  unfold execFrecv
  refine State.issue_keeps _ _ _ _ _ _ _ (fun w id st => ?_)
  dsimp only
  (repeat' split) <;> simp

@[simp] theorem execFhint_keeps (tile : Nat) (s : State) : Keeps s (execFhint tile s) := by
  unfold execFhint
  refine State.issue_keeps _ _ _ _ _ _ _ (fun w id st => ?_)
  dsimp only
  (repeat' split) <;> simp

@[simp] theorem execFmcast_keeps (tile : Nat) (s : State) : Keeps s (execFmcast tile s) := by
  unfold execFmcast
  refine State.issue_keeps _ _ _ _ _ _ _ (fun w id st => ?_)
  dsimp only
  (repeat' split) <;> simp

@[simp] theorem State.deliverTo_grantsOf (s : State) (t : Nat) (r : Receipt) (src : View) (m : BMap) :
    grantsOf (s.deliverTo t r src m).parts = grantsOf s.parts := by
  simp only [State.deliverTo]
  split <;> simp

@[simp] theorem execMulticastDeliver_keeps (tile : Nat) (s : State) : Keeps s (execMulticastDeliver tile s) := by
  have sent : ∀ (xs : List Nat) (st : State) (p set tag : Nat) (v : View) (m : BMap),
      grantsOf (forEach xs st (fun t st => match st.receiptOf p t set tag with
        | some r => st.deliverTo t r v m
        | none => st)).parts = grantsOf st.parts :=
    fun xs st p set tag v m => forEach_grantsOf _ _ _ (fun t st => by split <;> simp)
  unfold execMulticastDeliver
  refine (keeps_next _ _).2 ?_
  split
  · rfl
  · split
    · rfl
    · dsimp only
      split
      · simp
      · split
        · simp
        · split
          all_goals
            split
            · exact State.askTier_grantsOf _ _ _ _ _
            · split
              · simp
              · split
                all_goals
                  simp only [State.watch_parts, State.ranFlight_parts, State.modTile_parts]
                  exact (sent _ _ _ _ _ _ _).trans (by simp)

@[simp] theorem execSstore_keeps (tile : Nat) (s : State) : Keeps s (execSstore tile s) := by
  unfold execSstore
  refine State.issue_keeps _ _ _ _ _ _ _ (fun w id st => ?_)
  dsimp only
  (repeat' split) <;> simp

@[simp] theorem State.startAdd_grantsOf (s : State) (t id addfmt : Nat) (w : BitVec 128) (src dst : View) (bad : Nat → Bool) :
    grantsOf (s.startAdd t id addfmt w src dst bad).parts = grantsOf s.parts := by simp [State.startAdd]

@[simp] theorem execSadd_keeps (tile : Nat) (s : State) : Keeps s (execSadd tile s) := by
  unfold execSadd
  refine State.issue_keeps _ _ _ _ _ _ _ (fun w id st => ?_)
  dsimp only
  (repeat' split) <;> simp

@[simp] theorem execSaccw_keeps (tile : Nat) (s : State) : Keeps s (execSaccw tile s) := by
  unfold execSaccw
  refine State.issue_keeps _ _ _ _ _ _ _ (fun w id st => ?_)
  dsimp only
  (repeat' split) <;> simp

@[simp] theorem execTileGate_keeps (unit : GatedUnit) (s : State) : Keeps s (execTileGate unit s) := by
  unfold execTileGate
  split <;> simp

/-! ### Vector -/

@[simp] theorem execVop_keeps (tile : Nat) (soft : Soft) (s : State) : Keeps s (execVop tile soft s) := by simp [execVop]

@[simp] theorem execVlut_keeps (tile : Nat) (s : State) : Keeps s (execVlut tile s) := by simp [execVlut]

@[simp] theorem execVmode_keeps (tile : Nat) (s : State) : Keeps s (execVmode tile s) := by simp [execVmode]

@[simp] theorem execVseed_keeps (tile : Nat) (s : State) : Keeps s (execVseed tile s) := by simp -implicitDefEqProofs [execVseed]

@[simp] theorem State.vFault_grantsOf (s : State) (t : Nat) (f : FaultName) :
    grantsOf (s.vFault t f).parts = grantsOf s.parts := by simp [State.vFault]

@[simp] theorem execVld_keeps (tile : Nat) (s : State) : Keeps s (execVld tile s) := by
  unfold execVld
  refine State.issue_keeps _ _ _ _ _ _ _ (fun w id st => ?_)
  dsimp only
  (repeat' split) <;> simp

@[simp] theorem execVst_keeps (tile : Nat) (s : State) : Keeps s (execVst tile s) := by
  unfold execVst
  refine State.issue_keeps _ _ _ _ _ _ _ (fun w id st => ?_)
  dsimp only
  (repeat' split) <;> simp

@[simp] theorem execVtload_keeps (tile : Nat) (s : State) : Keeps s (execVtload tile s) := by simp [execVtload]

@[simp] theorem execVredOpen_keeps (tile : Nat) (s : State) : Keeps s (execVredOpen tile s) := by simp [execVredOpen]

@[simp] theorem execVredPut_keeps (tile : Nat) (s : State) : Keeps s (execVredPut tile s) := by
  unfold execVredPut
  refine State.issue_keeps _ _ _ _ _ _ _ (fun w id st => ?_)
  dsimp only
  (repeat' split) <;> simp

@[simp] theorem execVredClose_keeps (tile : Nat) (s : State) : Keeps s (execVredClose tile s) := by
  unfold execVredClose
  refine State.issue_keeps _ _ _ _ _ _ _ (fun w id st => ?_)
  dsimp only
  (repeat' split) <;> simp

@[simp] theorem execVpsum_keeps (tile : Nat) (s : State) : Keeps s (execVpsum tile s) := by
  unfold execVpsum
  refine State.issue_keeps _ _ _ _ _ _ _ (fun w id st => ?_)
  dsimp only
  (repeat' split) <;> simp

@[simp] theorem State.readHistory_parts (s : State) (p a : Nat) : (s.readHistory p a).2.2.2.parts = s.parts := by
  unfold State.readHistory
  split
  · simp
  · split <;> simp

@[simp] theorem State.vstreamRun_grantsOf (tile : Nat) (w : BitVec 128) (id : Nat) (st : State) :
    grantsOf (State.vstreamRun tile w id st).parts = grantsOf st.parts := by
  unfold State.vstreamRun
  extract_lets t a r name bad view p j0 fmt
  split
  · simp
  · split
    · simp
    · split
      · simp
      · split
        · simp
        · simp
        · split <;> simp

@[simp] theorem execVstream_keeps (tile : Nat) (s : State) : Keeps s (execVstream tile s) := by simp [execVstream]

/-! ### Loader -/

@[simp] theorem State.writeImage_grantsOf (s : State) (p g : Nat) (m : Image2) :
    grantsOf (s.writeImage p g m).parts = grantsOf s.parts := by simp -implicitDefEqProofs [State.writeImage]

@[simp] theorem State.clearFor_grantsOf (s : State) (p g : Nat) (m : Image2) :
    grantsOf (s.clearFor p g m).parts = grantsOf s.parts := by simp [State.clearFor]

@[simp] theorem State.loadEnd_grantsOf (s : State) (f n g total : Nat) (bytes : BMap) :
    grantsOf (s.loadEnd f n g total bytes).parts = grantsOf s.parts := by simp [State.loadEnd]

@[simp] theorem State.loadDev_grantsOf (s : State) (f n a total : Nat) :
    grantsOf (s.loadDev f n a total).parts = grantsOf s.parts := by simp [State.loadDev]

@[simp] theorem State.loadOn_grantsOf (s : State) (f n : Nat) :
    grantsOf (s.loadOn f n).parts = grantsOf s.parts := by simp [State.loadOn]

@[simp] theorem execLoadProgram_keeps (fn slot : Nat) (s : State) : Keeps s (execLoadProgram fn slot s) := by
  simp only [execLoadProgram]
  (repeat' split) <;> simp

/-! ### Chisel -/

@[simp] theorem State.seeGate_grantsOf (s : State) (p w : Nat) (o : Owner) (asked : Bool) (waits : Nat) (buf : BMap) :
    grantsOf (s.seeGate p w o asked waits buf).st.parts = grantsOf s.parts := by
  simp only [State.seeGate]
  (repeat' split) <;> simp

@[simp] theorem State.raiseGate_grantsOf (s : State) (p w : Nat) (o away : Owner) :
    grantsOf (s.raiseGate p w o away).2.st.parts = grantsOf s.parts := by
  unfold State.raiseGate
  split
  · dsimp only
    split <;> simp
  · simp
  · rfl

@[simp] theorem State.readRow_parts (s : State) (a : Nat) : (s.readRow a).2.2.parts = s.parts := by simp [State.readRow]

@[simp] theorem State.doRow_parts (s : State) (o : OpRec) (z : Bool) (x : RowOp) : (s.doRow o z x).st.parts = s.parts := by
  unfold State.doRow
  have rowA : (x.rowsA.foldl (fun (acc : Bool × List Byte × State) r =>
      let g := acc.2.2.readRow r
      (acc.1 || g.1, acc.2.1 ++ g.2.1, g.2.2)) (false, [], s)).2.2.parts = s.parts := by simp
  dsimp only at rowA ⊢
  (repeat' split) <;> simp [rowA]

@[simp] theorem State.modList_parts (s : State) (id : Nat) (g : ChiselList → ChiselList) : (s.modList id g).parts = s.parts := rfl

@[simp] theorem State.reachFence_parts (s : State) (id : Nat) : (s.reachFence id).parts = s.parts := by
  unfold State.reachFence
  split <;> simp

@[simp] theorem State.closeList_grantsOf (s : State) (id : Nat) : grantsOf (s.closeList id).parts = grantsOf s.parts := by
  unfold State.closeList
  split
  · rfl
  · dsimp only
    (repeat' split) <;> simp

@[simp] theorem State.beginList_grantsOf (s : State) (f n : Nat) : grantsOf (s.beginList f n).parts = grantsOf s.parts := by
  simp only [State.beginList]
  (repeat' split) <;> simp

@[simp] theorem State.pollChisel_grantsOf (s : State) (f n : Nat) : grantsOf (s.pollChisel f n).parts = grantsOf s.parts := by
  simp only [State.pollChisel]
  (repeat' split) <;> simp

@[simp] theorem execChiselRun_keeps (fn slot : Nat) (s : State) : Keeps s (execChiselRun fn slot s) := by
  unfold execChiselRun
  (repeat' split) <;> simp

@[simp] theorem execChset_keeps (stack pc : Nat) (setup : ChiselSetup) (s : State) :
    Keeps s (execChset stack pc setup s) := by simp [execChset]

@[simp] theorem State.runRow_parts (s : State) (k pc id i r slot : Nat) : (s.runRow k pc id i r slot).parts = s.parts := by
  unfold State.runRow
  split
  · simp
  · split <;> simp

@[simp] theorem execChrow_keeps (stack pc : Nat) (row : ChiselRow) (s : State) : Keeps s (execChrow stack pc row s) := by
  unfold execChrow
  (repeat' split) <;> simp

@[simp] theorem execChacc_keeps (stack pc row col bank : Nat) (enable : BitVec 16) (data : List Byte) (s : State) :
    Keeps s (execChacc stack pc row col bank enable data s) := by
  unfold execChacc
  split <;> simp

@[simp] theorem execScfence_keeps (tile : Nat) (s : State) : Keeps s (execScfence tile s) := by
  unfold execScfence
  refine State.issue_keeps _ _ _ _ _ _ _ (fun w id st => ?_)
  dsimp only
  (repeat' split) <;> simp

@[simp] theorem execChfnc_keeps (stack pc : Nat) (s : State) : Keeps s (execChfnc stack pc s) := by simp [execChfnc]

@[simp] theorem execFence_keeps (list : Nat) (s : State) : Keeps s (execFence list s) := by
  unfold execFence
  split
  · simp
  · split <;> simp

/-! ### Complete -/

@[simp] theorem State.retryFlights_grantsOf (s : State) (t : Nat) (e : Engine) :
    grantsOf (s.retryFlights t e).parts = grantsOf s.parts := by simp [State.retryFlights]

@[simp] theorem State.settleFlight_grantsOf (s : State) (t : Nat) (e : Engine) (f : Flight) :
    grantsOf (s.settleFlight t e f).parts = grantsOf s.parts := by simp [State.settleFlight]

@[simp] theorem execInstructionComplete_keeps (tile : Nat) (eng : Engine) (s : State) :
    Keeps s (execInstructionComplete tile eng s) := by
  simp only [execInstructionComplete]
  (repeat' split) <;> simp

/-! ### Shards -/

@[simp] theorem State.putShard_parts (s : State) (p i o n v : Nat) :
    (s.putShard p i o n v).parts = s.parts := by simp [State.putShard]

@[simp] theorem State.readElems_parts (s : State) (p a w n : Nat) :
    (s.readElems p a w n).1.st.parts = s.parts := by simp [State.readElems]

@[simp] theorem State.writeElems_grantsOf (s : State) (p a w : Nat) (xs : List Nat) :
    grantsOf (s.writeElems p a w xs).st.parts = grantsOf s.parts := by simp [State.writeElems]

@[simp] theorem State.writeView_grantsOf (s : State) (p : Nat) (v : View) (m : BMap) :
    grantsOf (s.writeView p v m).st.parts = grantsOf s.parts := by simp [State.writeView]

@[simp] theorem State.journalAdd_grantsOf (s : State) (p kind sst wbuf shard : Nat) (step : Int) (version aux : Nat) :
    grantsOf (s.journalAdd p kind sst wbuf shard step version aux).parts = grantsOf s.parts := by simp [State.journalAdd]

@[simp] theorem State.copyLs_parts (s : State) (p : Nat) : (s.copyLs p).parts = s.parts := by simp [State.copyLs]

@[simp] theorem State.keepHistory_parts (s : State) (p a : Nat) (x : BitVec 32) : (s.keepHistory p a x).2.parts = s.parts := by
  simp only [State.keepHistory]
  (repeat' split) <;> simp

@[simp] theorem State.historyUpdate_parts (s : State) (p : Nat) :
    (s.historyUpdate p).2.parts = s.parts := by simp -implicitDefEqProofs [State.historyUpdate]

@[simp] theorem State.regenInto_grantsOf (s : State) (p : Nat) (r : Shard) (master k : Nat) :
    grantsOf (s.regenInto p r master k).1.st.parts = grantsOf s.parts := by
  unfold State.regenInto
  dsimp only
  split <;> simp

@[simp] theorem State.initShard_grantsOf (s : State) (p i : Nat) : grantsOf (s.initShard p i).2.parts = grantsOf s.parts := by
  unfold State.initShard
  dsimp only
  (repeat' split) <;> simp

@[simp] theorem State.sealShard_parts (s : State) (p i : Nat) : (s.sealShard p i).parts = s.parts := by simp [State.sealShard]

@[simp] theorem State.reviveShard_grantsOf (s : State) (p i : Nat) :
    grantsOf (s.reviveShard p i).parts = grantsOf s.parts := by simp [State.reviveShard]

@[simp] theorem State.setUp_grantsOf (s : State) (f n : Nat) :
    grantsOf (s.setUp f n).parts = grantsOf s.parts := by simp [State.setUp]

@[simp] theorem State.setUpOn_grantsOf (s : State) (f n : Nat) :
    grantsOf (s.setUpOn f n).parts = grantsOf s.parts := by simp [State.setUpOn]

@[simp] theorem execTrainSetup_keeps (fn slot : Nat) (s : State) : Keeps s (execTrainSetup fn slot s) := by simp [execTrainSetup]

/-! ### Apply -/

@[simp] theorem State.gradient_parts (s : State) (p : Nat) (r : Shard) (step : Nat) :
    (s.gradient p r step).1.st.parts = s.parts := by
  unfold State.gradient
  refine foldl_got_fst_parts _ _ _ (fun a j => ?_)
  split <;> simp

@[simp] theorem State.runRecord_parts (s : State) (p : Nat) (o : OpRec) : (s.runRecord p o).st.parts = s.parts := by
  unfold State.runRecord
  refine foldl_got_parts _ _ _ (fun g r => foldl_got_parts _ _ _ (fun g b => ?_))
  split
  · rfl
  · simp

@[simp] theorem State.modTrain_grantsOf (s : State) (p : Nat) (g : Train → Train) :
    grantsOf (s.modTrain p g).parts = grantsOf s.parts := by simp [State.modTrain]

@[simp] theorem State.modApply_grantsOf (s : State) (p i step : Nat) (g : Apply → Apply) :
    grantsOf (s.modApply p i step g).parts = grantsOf s.parts := by simp [State.modApply]

@[simp] theorem State.upuBegin_parts (s : State) (d p : Nat) : (s.upuBegin d p).parts = s.parts := by simp [State.upuBegin]

@[simp] theorem State.upuHold_parts (s : State) (d : Nat) (xs : List Nat) : (s.upuHold d xs).parts = s.parts := rfl

@[simp] theorem State.noteMet_grantsOf (s : State) (p : Nat) : grantsOf (s.noteMet p).parts = grantsOf s.parts := by
  unfold State.noteMet
  split <;> simp

@[simp] theorem State.endApply_grantsOf (s : State) (p i step : Nat) :
    grantsOf (s.endApply p i step).parts = grantsOf s.parts := by simp [State.endApply]

@[simp] theorem State.faultApply_grantsOf (s : State) (p i step status addr : Nat) :
    grantsOf (s.faultApply p i step status addr).parts = grantsOf s.parts := by simp [State.faultApply]

@[simp] theorem State.skipApply_grantsOf (s : State) (p i step : Nat) :
    grantsOf (s.skipApply p i step).parts = grantsOf s.parts := by simp [State.skipApply]

@[simp] theorem State.withShard_grantsOf (s : State) (p i step : Nat) (body : Shard → State → State)
    (h : ∀ r st, grantsOf (body r st).parts = grantsOf st.parts) : grantsOf (s.withShard p i step body).parts = grantsOf s.parts := by
  simp [State.withShard, h]

/-- The step of a phase that first judges its shard, whatever the test: the kernel never has to run the CRC of a test it compares. -/
theorem State.withJudgedShard_grantsOf (s : State) (p i step : Nat) (q : Shard → Prop) [DecidablePred q] (bad good : Shard → State → State)
    (hb : ∀ r st, grantsOf (bad r st).parts = grantsOf st.parts) (hg : ∀ r st, grantsOf (good r st).parts = grantsOf st.parts) :
    grantsOf (s.withShard p i step (fun r st => if q r then bad r st else good r st)).parts = grantsOf s.parts :=
  State.withShard_grantsOf _ _ _ _ _ (fun r st => by split <;> simp [hb, hg])

@[simp] theorem Got.orFault_grantsOf (g : Got) (p i step : Nat) (next : State → State)
    (h : ∀ st, grantsOf (next st).parts = grantsOf st.parts) : grantsOf (g.orFault p i step next).parts = grantsOf g.st.parts := by
  simp [Got.orFault, h]

theorem Got.orFault_grantsOf_of (g : Got) (p i step : Nat) (next : State → State) {r : Nat → BitVec 16 × BitVec 20}
    (hg : grantsOf g.st.parts = r) (h : ∀ st, grantsOf (next st).parts = grantsOf st.parts) : grantsOf (g.orFault p i step next).parts = r :=
  (Got.orFault_grantsOf _ _ _ _ _ h).trans hg

@[simp] theorem State.servePhase_grantsOf (s : State) (p i : Nat) (a : Apply) (r : Shard) (phase : Nat) (body : State → State) (h : ∀ st, grantsOf (body st).parts = grantsOf st.parts) :
    grantsOf (s.servePhase p i a r phase body).parts = grantsOf s.parts := by
  unfold State.servePhase
  dsimp only
  split
  · simp
  · split <;> simp [h]

@[simp] theorem execPrepare_keeps (pt shard : Nat) (s : State) : Keeps s (execPrepare pt shard s) := by
  unfold execPrepare
  refine (keeps_next _ _).2 ?_
  split
  · rfl
  · split
    · rfl
    · refine State.withJudgedShard_grantsOf _ _ _ _ _ _ _ (fun r st => by simp) (fun r st => ?_)
      refine State.servePhase_grantsOf _ _ _ _ _ _ _ (fun s2 => ?_)
      simp -implicitDefEqProofs

@[simp] theorem execLossScaleUpdate_keeps (pt record : Nat) (s : State) : Keeps s (execLossScaleUpdate pt record s) := by
  simp only [execLossScaleUpdate]
  (repeat' split) <;> simp

@[simp] theorem State.phase_grantsOf (s : State) (p i phase : Nat) (body : Apply → Shard → State → State)
    (h : ∀ a r st, grantsOf (body a r st).parts = grantsOf st.parts) : grantsOf (s.phase p i phase body).parts = grantsOf s.parts := by
  unfold State.phase
  split <;> simp [h]

@[simp] theorem State.nextPhase_grantsOf (s : State) (p i step : Nat) :
    grantsOf (s.nextPhase p i step).parts = grantsOf s.parts := by simp [State.nextPhase]

@[simp] theorem execApplyState_keeps (pt shard : Nat) (s : State) : Keeps s (execApplyState pt shard s) := by
  unfold execApplyState
  rw [keeps_next]
  refine State.phase_grantsOf _ _ _ _ _ (fun a r st => ?_)
  dsimp only
  (repeat' split) <;> simp

@[simp] theorem execApplyRule_keeps (pt shard : Nat) (s : State) : Keeps s (execApplyRule pt shard s) := by
  unfold execApplyRule
  refine (keeps_next _ _).2 (State.phase_grantsOf _ _ _ _ _ (fun a r st => ?_))
  dsimp only
  refine Got.orFault_grantsOf_of _ _ _ _ _ (by simp) (fun s2 => ?_)
  split
  · refine Got.orFault_grantsOf_of _ _ _ _ _ (by simp) (fun s3 => ?_)
    split <;> simp -implicitDefEqProofs
  · split
    · refine Got.orFault_grantsOf_of _ _ _ _ _ (by simp) (fun s3 => ?_)
      simp -implicitDefEqProofs
    · split
      · refine Got.orFault_grantsOf_of _ _ _ _ _ (by simp) (fun s3 => ?_)
        simp -implicitDefEqProofs
      · refine Got.orFault_grantsOf_of _ _ _ _ _ (by simp) (fun s3 => ?_)
        simp -implicitDefEqProofs

@[simp] theorem execRegenerate_keeps (pt shard : Nat) (s : State) : Keeps s (execRegenerate pt shard s) := by
  unfold execRegenerate
  rw [keeps_next]
  refine State.phase_grantsOf _ _ _ _ _ (fun a r st => ?_)
  dsimp only
  (repeat' split) <;> simp

@[simp] theorem execCommit_keeps (pt shard : Nat) (s : State) : Keeps s (execCommit pt shard s) := by simp [execCommit]

/-! ### Steps -/

@[simp] theorem State.resumeApplies_grantsOf (s : State) (p : Nat) :
    grantsOf (s.resumeApplies p).parts = grantsOf s.parts := by simp [State.resumeApplies]

@[simp] theorem State.queueApplies_grantsOf (s : State) (p step : Nat) :
    grantsOf (s.queueApplies p step).parts = grantsOf s.parts := by simp [State.queueApplies]

@[simp] theorem State.closeStep_grantsOf (s : State) (p : Nat) : grantsOf (s.closeStep p).2.parts = grantsOf s.parts := by
  simp only [State.closeStep]
  split <;> simp

@[simp] theorem execStepFence_keeps (fn slot : Nat) (s : State) : Keeps s (execStepFence fn slot s) := by simp [execStepFence]

@[simp] theorem State.endFence_grantsOf (s : State) (p : Nat) (w : FenceWait) (status stall : Nat) :
    grantsOf (s.endFence p w status stall).parts = grantsOf s.parts := by simp [State.endFence]

@[simp] theorem State.noteStall_parts (s : State) (p stall : Nat) : (s.noteStall p stall).parts = s.parts := by
  unfold State.noteStall
  split <;> simp

@[simp] theorem execStepFenceComplete_keeps (fn slot : Nat) (s : State) : Keeps s (execStepFenceComplete fn slot s) := by
  unfold execStepFenceComplete
  (repeat' split) <;> simp

@[simp] theorem State.writeReplica_grantsOf (s : State) (p : Nat) (r : Shard) (k : Nat) (data scales : List Byte) :
    grantsOf (s.writeReplica p r k data scales).st.parts = grantsOf s.parts := by simp [State.writeReplica]

@[simp] theorem State.failFence_grantsOf (s : State) (p i status : Nat) :
    grantsOf (s.failFence p i status).parts = grantsOf s.parts := by simp [State.failFence]

@[simp] theorem State.fetchRuns_grantsOf (s : State) (p i : Nat) (x : Fetch) (rs : List (Nat × Nat)) :
    grantsOf (s.fetchRuns p i x rs).parts = grantsOf s.parts := by
  unfold State.fetchRuns
  refine (forEach_grantsOf _ _ _ (fun r st => ?_)).trans (by simp)
  dsimp only
  (repeat' split) <;> simp

@[simp] theorem execReplicaFetch_keeps (pt shard step : Nat) (s : State) : Keeps s (execReplicaFetch pt shard step s) := by
  simp only [execReplicaFetch]
  (repeat' split) <;> simp

@[simp] theorem State.bindAll_parts (s : State) (p g : Nat) (bs : List Nat) (buf : BMap) :
    (s.bindAll p g bs buf).parts = s.parts := by simp -implicitDefEqProofs [State.bindAll]

@[simp] theorem State.launch_grantsOf (s : State) (p g f n : Nat) :
    grantsOf (s.launch p g f n).parts = grantsOf s.parts := by simp -implicitDefEqProofs [State.launch]

@[simp] theorem State.runNow_grantsOf (s : State) (f n : Nat) :
    grantsOf (s.runNow f n).parts = grantsOf s.parts := by simp [State.runNow]

@[simp] theorem execRun_keeps (fn slot : Nat) (s : State) : Keeps s (execRun fn slot s) := by
  have reads : ∀ (xs : List Nat) (st : State), grantsOf (forEach xs st (fun a st' => match engineAddr a with
      | .remote i d => st'.remoteRead (st'.part fn).domain i d 512 (.command fn slot) true
      | _ => st')).parts = grantsOf st.parts := fun xs st => forEach_grantsOf _ _ _ (fun a st' => by split <;> simp)
  unfold execRun
  refine (keeps_next _ _).2 ?_
  dsimp only
  split
  · split
    · simp
    · split
      · rfl
      · refine (State.runNow_grantsOf _ _ _).trans ((reads _ _).trans ?_)
        simp
  · split <;> simp

@[simp] theorem execRunComplete_keeps (fn slot : Nat) (s : State) :
    Keeps s (execRunComplete fn slot s) := by simp -implicitDefEqProofs [execRunComplete]

/-! ### Attention -/

@[simp] theorem State.countJob_grantsOf (s : State) (n id : Nat) (rs : List (Nat × Nat)) :
    grantsOf (s.countJob n id rs).parts = grantsOf s.parts := by simp [State.countJob]

@[simp] theorem State.need_grantsOf (s : State) (n id : Nat) (runs : List (Nat × Nat)) (follows : Bool) :
    grantsOf (s.need n id runs follows).st.parts = grantsOf s.parts := by
  have asks : ∀ away : List (Nat × Nat), grantsOf (forEach away s (fun r st => match engineAddr r.1 with
      | .remote i a => st.remoteRead (st.part (s.atpPart n)).domain i a r.2 (.atp n id) true
      | _ => st)).parts = grantsOf s.parts := fun away => forEach_grantsOf _ _ _ (fun r st => by split <;> simp)
  unfold State.need
  dsimp only at asks ⊢
  split
  · rfl
  · split
    · rfl
    · split
      · rw [State.modJob_parts]
        exact asks _
      · split
        · rfl
        · split
          · simp
          · refine (foldl_need_grantsOf _ _ _ (fun g r => ?_)).trans (by simp)
            simp

@[simp] theorem Need.andThen_grantsOf (g : Need) (n record : Nat) (k : BMap → State → State)
    (h : ∀ m st, grantsOf (k m st).parts = grantsOf st.parts) : grantsOf (g.andThen n record k).parts = grantsOf g.st.parts := by
  simp [Need.andThen, h]

@[simp] theorem State.writeOut_grantsOf (s : State) (n id : Nat) (out : OutRuns) (follows : Bool) :
    grantsOf (s.writeOut n id out follows).parts = grantsOf s.parts := by
  simp only [State.writeOut]
  (repeat' split) <;> simp

@[simp] theorem State.prepareAttend_grantsOf (s : State) (n id : Nat) (r : JobRec) (j : Job) :
    grantsOf (s.prepareAttend n id r j).parts = grantsOf s.parts := by
  unfold State.prepareAttend
  refine (Need.andThen_grantsOf _ _ _ _ (fun m st => ?_)).trans (by simp)
  dsimp only
  split
  · split <;> simp -implicitDefEqProofs
  · simp

@[simp] theorem State.prepareAppend_grantsOf (s : State) (n id : Nat) (r : JobRec) (j : Job) :
    grantsOf (s.prepareAppend n id r j).parts = grantsOf s.parts := by
  unfold State.prepareAppend
  refine (Need.andThen_grantsOf _ _ _ _ (fun m st => ?_)).trans (by simp)
  dsimp only
  (repeat' split) <;> simp -implicitDefEqProofs

@[simp] theorem State.runCombine_grantsOf (s : State) (n id : Nat) (r : JobRec) (j : Job) :
    grantsOf (s.runCombine n id r j).parts = grantsOf s.parts := by
  unfold State.runCombine
  refine (Need.andThen_grantsOf _ _ _ _ (fun m st => ?_)).trans (by simp)
  (repeat' split) <;> simp

@[simp] theorem State.prepareJob_grantsOf (s : State) (n id : Nat) :
    grantsOf (s.prepareJob n id).parts = grantsOf s.parts := by simp [State.prepareJob]

@[simp] theorem State.startJob_grantsOf (s : State) (n : Nat) :
    grantsOf (s.startJob n).parts = grantsOf s.parts := by simp [State.startJob]

@[simp] theorem State.pollAtp_grantsOf (s : State) (n : Nat) : grantsOf (s.pollAtp n).parts = grantsOf s.parts := by
  simp only [State.pollAtp]
  (repeat' split) <;> simp

@[simp] theorem State.atRecord_grantsOf (s : State) (n kind : Nat) (body : JobRec → State → State)
    (h : ∀ r st, grantsOf (body r st).parts = grantsOf st.parts) : grantsOf (s.atRecord n kind body).parts = grantsOf s.parts := by
  simp [State.atRecord, h]

@[simp] theorem State.tryStart_grantsOf (s : State) (n : Nat) (r : JobRec) :
    grantsOf (s.tryStart n r).parts = grantsOf s.parts := by simp [State.tryStart]

@[simp] theorem execAttend_keeps (atp : Nat) (s : State) : Keeps s (execAttend atp s) := by
  unfold execAttend
  split <;> simp

@[simp] theorem State.takeBlock_grantsOf (s : State) (n id : Nat) (r : JobRec) (accs : Tbl RowAcc) (f : BitVec 6) (follows : Bool) :
    grantsOf (s.takeBlock n id r accs f follows).parts = grantsOf s.parts := by
  simp only [State.takeBlock]
  (repeat' split) <;> simp

@[simp] theorem execKeyBlock_keeps (atp job : Nat) (s : State) : Keeps s (execKeyBlock atp job s) := by
  unfold execKeyBlock
  rw [keeps_next]
  dsimp only
  split
  · rfl
  · split
    · split <;> simp
    · split
      · rfl
      · split
        · refine (Need.andThen_grantsOf _ _ _ _ (fun m st => ?_)).trans (by simp)
          split
          · split <;> simp
          · rfl
        · (repeat' split) <;> simp -implicitDefEqProofs

@[simp] theorem State.mgrJob_grantsOf (s : State) (n : Nat) (j : Job) (body : JobRec → State → State)
    (h : ∀ r st, grantsOf (body r st).parts = grantsOf st.parts) : grantsOf (s.mgrJob n j body).parts = grantsOf s.parts := by
  simp [State.mgrJob, h]

@[simp] theorem execPin_keeps (atp : Nat) (s : State) : Keeps s (execPin atp s) := by
  unfold execPin
  split <;> simp

@[simp] theorem execUnpin_keeps (atp job : Nat) (s : State) : Keeps s (execUnpin atp job s) := by
  unfold execUnpin
  split
  · simp
  · split <;> simp

@[simp] theorem State.writePosition_parts (s : State) (c : Ctx) (base pos : Nat) (x : List Nat) :
    (s.writePosition c base pos x).st.parts = s.parts := by simp [State.writePosition]

@[simp] theorem State.writeAppend_grantsOf (s : State) (n id : Nat) (r : JobRec) (j : Job) (k v : View) :
    grantsOf (s.writeAppend n id r j k v).parts = grantsOf s.parts := by simp [State.writeAppend]

@[simp] theorem execAppend_keeps (atp : Nat) (s : State) : Keeps s (execAppend atp s) := by
  simp only [execAppend]
  (repeat' split) <;> simp

@[simp] theorem execResolve_keeps (atp job : Nat) (s : State) : Keeps s (execResolve atp job s) := by
  unfold execResolve
  split <;> simp

@[simp] theorem execSwitch_keeps (pt ctx page : Nat) (s : State) : Keeps s (execSwitch pt ctx page s) := by
  unfold execSwitch
  split <;> simp

@[simp] theorem State.appended_parts (s : State) (j : Job) (rows : Nat) : (s.appended j rows).parts = s.parts := rfl

@[simp] theorem execAdvance_keeps (atp job : Nat) (s : State) : Keeps s (execAdvance atp job s) := by
  unfold execAdvance
  split <;> simp

@[simp] theorem execCombine_keeps (atp : Nat) (s : State) : Keeps s (execCombine atp s) := by
  unfold execCombine
  split <;> simp

@[simp] theorem execAtpLoop_keeps (atp : Nat) (s : State) : Keeps s (execAtpLoop atp s) := by simp [execAtpLoop]

@[simp] theorem execAtpEnd_keeps (atp : Nat) (s : State) : Keeps s (execAtpEnd atp s) := by simp -implicitDefEqProofs [execAtpEnd]

@[simp] theorem State.retireJob_parts (s : State) (n id : Nat) : (s.retireJob n id).parts = s.parts := by simp [State.retireJob]

@[simp] theorem execJobComplete_keeps (atp : Nat) (s : State) : Keeps s (execJobComplete atp s) := by
  unfold execJobComplete
  rw [keeps_next]
  split
  · rfl
  · dsimp only
    (repeat' split) <;> simp

@[simp] theorem execGateWatchdog_keeps (atp : Nat) (s : State) : Keeps s (execGateWatchdog atp s) := by
  simp only [execGateWatchdog]
  split <;> simp

/-! ### Thermal -/

@[simp] theorem State.settleCore_parts (s : State) (d : Nat) : (s.settleCore d).parts = s.parts := by simp [State.settleCore]

@[simp] theorem State.enterLevel_parts (s : State) (k l : Nat) : (s.enterLevel k l).parts = s.parts := by simp [State.enterLevel]

@[simp] theorem State.clampDie_parts (s : State) (heat : Bool) (d : Nat) : (s.clampDie heat d).parts = s.parts := rfl

@[simp] theorem State.clamp_parts (s : State) (heat : Bool) (dies units : List Nat) (reading : Nat) :
    (s.clamp heat dies units reading).parts = s.parts := by simp -implicitDefEqProofs [State.clamp]

@[simp] theorem State.readStackPoint_parts (s : State) (k point reading : Nat) :
    (s.readStackPoint k point reading).parts = s.parts := rfl

@[simp] theorem State.clampBy_parts (s : State) (t : ClampTrigger) : (s.clampBy t).parts = s.parts := by
  unfold State.clampBy
  split <;> simp

@[simp] theorem execEmergencyClamp_keeps (trigger : ClampTrigger) (s : State) :
    Keeps s (execEmergencyClamp trigger s) := by simp [execEmergencyClamp]

@[simp] theorem State.unclampDie_parts (s : State) (d : Nat) : (s.unclampDie d).parts = s.parts := by simp [State.unclampDie]

@[simp] theorem execClampRelease_keeps (flag : EmergencyFlag) (s : State) : Keeps s (execClampRelease flag s) := by
  unfold execClampRelease
  split <;> simp -implicitDefEqProofs

@[simp] theorem execTemperatureReading_keeps (stack point reading : Nat) (s : State) :
    Keeps s (execTemperatureReading stack point reading s) := by simp [execTemperatureReading]

@[simp] theorem execThrottleLevelExit_keeps (stack : Nat) (s : State) : Keeps s (execThrottleLevelExit stack s) := by
  simp only [execThrottleLevelExit]
  (repeat' split) <;> simp

@[simp] theorem execPowerLimitStep_keeps (mW100 : Nat) (s : State) :
    Keeps s (execPowerLimitStep mW100 s) := by simp [execPowerLimitStep]

@[simp] theorem execCeilingRaise_keeps (mW100 : Nat) (s : State) :
    Keeps s (execCeilingRaise mW100 s) := by simp [execCeilingRaise]

/-! ### Controller -/

@[simp] theorem State.blockError_parts (s : State) (p a cause : Nat) :
    (s.blockError p a cause).parts = s.parts := by simp [State.blockError]

@[simp] theorem State.readHalf_parts (s : State) (p a cause : Nat) (first second : Sense) :
    (s.readHalf p a cause first second).2.parts = s.parts := by
  unfold State.readHalf
  (repeat' split) <;> simp

@[simp] theorem State.doRequest_parts (s : State) (p : Nat) (o : MemOp) : (s.doRequest p o).parts = s.parts := by
  unfold State.doRequest
  split <;> simp

@[simp] theorem State.parityError_parts (s : State) (k a : Nat) :
    (s.parityError k a).parts = s.parts := by simp [State.parityError]

@[simp] theorem State.request'_parts (s : State) (cls : Nat) (parity : Bool) (o : MemOp) :
    (s.request' cls parity o).parts = s.parts := by simp [State.request']

@[simp] theorem execMemoryRead_keeps (req : BlockRequest) (span : BlockRead) (sensed : Sense) (s : State) :
    Keeps s (execMemoryRead req span sensed s) := by simp [execMemoryRead]

@[simp] theorem execMemoryWrite_keeps (req : BlockRequest) (data : List Byte) (s : State) :
    Keeps s (execMemoryWrite req data s) := by simp [execMemoryWrite]

@[simp] theorem execPartialWriteMerge_keeps (req : BlockRequest) (data : List Byte) (first second : Sense) (s : State) :
    Keeps s (execPartialWriteMerge req data first second s) := by simp [execPartialWriteMerge]

@[simp] theorem execMemorySideAdd_keeps (req : BlockRequest) (addfmt : Nat) (data : List Byte) (first second : Sense) (s : State) :
    Keeps s (execMemorySideAdd req addfmt data first second s) := by simp [execMemorySideAdd]

@[simp] theorem execBlockReread_keeps (addr : Nat) (sensed : Sense) (s : State) : Keeps s (execBlockReread addr sensed s) := by
  simp only [execBlockReread]
  split <;> simp

@[simp] theorem execRegulatorAdmit_keeps (stack pt : Nat) (s : State) : Keeps s (execRegulatorAdmit stack pt s) := by
  unfold execRegulatorAdmit
  split
  · simp
  · split <;> simp

@[simp] theorem State.refreshBank_parts (s : State) (k pc bank : Nat) : (s.refreshBank k pc bank).parts = s.parts := rfl

@[simp] theorem execRefresh_keeps (stack pc bank : Nat) (s : State) :
    Keeps s (execRefresh stack pc bank s) := by simp [execRefresh]

@[simp] theorem execRfm_keeps (stack pc bank : Nat) (s : State) : Keeps s (execRfm stack pc bank s) := by simp [execRfm]

@[simp] theorem execPatrol_keeps (stack : Nat) (first second : Sense) (s : State) :
    Keeps s (execPatrol stack first second s) := by simp [execPatrol]

@[simp] theorem State.startStack_parts (s : State) (k : Nat) (o : StackBringUp) (restored : Bool) :
    (s.startStack k o restored).parts = s.parts := by simp [State.startStack]

@[simp] theorem execStackStartup_keeps (stack : Nat) (outcome : StackBringUp) (s : State) :
    Keeps s (execStackStartup stack outcome s) := by simp [execStackStartup]

@[simp] theorem execStackRecovery_keeps (stack : Nat) (cause : RecoveryCause) (s : State) :
    Keeps s (execStackRecovery stack cause s) := by simp [execStackRecovery]

@[simp] theorem State.failStack_grantsOf (s : State) (k : Nat) :
    grantsOf (s.failStack k).parts = grantsOf s.parts := by simp [State.failStack]

@[simp] theorem State.pausePart_parts (s : State) (p d : Nat) : (s.pausePart p d).parts = s.parts := rfl

@[simp] theorem execStackRecoveryEnd_keeps (stack : Nat) (retrained : Bool) (s : State) :
    Keeps s (execStackRecoveryEnd stack retrained s) := by simp [execStackRecoveryEnd]

/-! ### Tier -/

@[simp] theorem State.grantReq_grantsOf (s : State) (r : TierReq) (direct : Bool) :
    grantsOf (s.grantReq r direct).parts = grantsOf s.parts := by
  simp only [State.grantReq]
  split <;> simp

@[simp] theorem State.failReq_grantsOf (s : State) (r : TierReq) (status : Nat) :
    grantsOf (s.failReq r status).parts = grantsOf s.parts := by simp [State.failReq]

@[simp] theorem State.servePage_grantsOf (s : State) (p page : Nat) :
    grantsOf (s.servePage p page).parts = grantsOf s.parts := by simp [State.servePage]

@[simp] theorem State.badUnits_grantsOf (s : State) (p page : Nat) (bad : BitVec 32) :
    grantsOf (s.badUnits p page bad).parts = grantsOf s.parts := by
  unfold State.badUnits
  refine forEach_grantsOf _ _ _ (fun x st => ?_)
  dsimp only
  (repeat' split) <;> simp

@[simp] theorem State.probe_grantsOf (s : State) (p page : Nat) (units bad : BitVec 32) :
    grantsOf (s.probe p page units bad).parts = grantsOf s.parts := by simp [State.probe]

@[simp] theorem State.fillUnits_grantsOf (s : State) (p page : Nat) (units : BitVec 32) :
    grantsOf (s.fillUnits p page units).parts = grantsOf s.parts := by
  unfold State.fillUnits
  split <;> simp

@[simp] theorem State.fetchUnits_grantsOf (s : State) (p page : Nat) (units bad : BitVec 32) :
    grantsOf (s.fetchUnits p page units bad).parts = grantsOf s.parts := by simp [State.fetchUnits]

@[simp] theorem State.beginFill_grantsOf (s : State) (p page f : Nat) :
    grantsOf (s.beginFill p page f).parts = grantsOf s.parts := by simp [State.beginFill]

@[simp] theorem execReadThrough_keeps (pt page : Nat) (bad : BitVec 32) (s : State) :
    Keeps s (execReadThrough pt page bad s) := by
  unfold execReadThrough
  split <;> simp

@[simp] theorem execFill_keeps (pt page : Nat) (bad : BitVec 32) (s : State) : Keeps s (execFill pt page bad s) := by
  unfold execFill
  (repeat' split) <;> simp

@[simp] theorem execFillComplete_keeps (pt : Nat) (found : FillFindings) (s : State) :
    Keeps s (execFillComplete pt found s) := by simp [execFillComplete]

@[simp] theorem execDirectWrite_keeps (pt page : Nat) (bad : BitVec 32) (s : State) :
    Keeps s (execDirectWrite pt page bad s) := by
  unfold execDirectWrite
  split <;> simp

@[simp] theorem State.endEvict_grantsOf (s : State) (p g : Nat) : grantsOf (s.endEvict p g).parts = grantsOf s.parts := by
  simp only [State.endEvict]
  (repeat' split) <;> simp

@[simp] theorem execEviction_keeps (pt page : Nat) (s : State) : Keeps s (execEviction pt page s) := by
  unfold execEviction
  (repeat' split) <;> simp

@[simp] theorem State.settleCleaning_grantsOf (s : State) (p : Nat) :
    grantsOf (s.settleCleaning p).parts = grantsOf s.parts := by simp [State.settleCleaning]

@[simp] theorem execWriteBack_keeps (pt page unit : Nat) (s : State) :
    Keeps s (execWriteBack pt page unit s) := by simp [execWriteBack]

@[simp] theorem State.clean_grantsOf (s : State) (p fuel : Nat) : grantsOf (s.clean p fuel).parts = grantsOf s.parts := by
  induction fuel generalizing s with
  | zero => rfl
  | succ fuel ih =>
    unfold State.clean
    split
    · rfl
    · split
      · rfl
      · simp [ih]

@[simp] theorem execCleaning_keeps (pt : Nat) (s : State) : Keeps s (execCleaning pt s) := by
  simp [execCleaning]

@[simp] theorem execAge_keeps (pt : Nat) (s : State) : Keeps s (execAge pt s) := by simp -implicitDefEqProofs [execAge]

@[simp] theorem execTierTimeout_keeps (request : Nat) (s : State) : Keeps s (execTierTimeout request s) := by
  unfold execTierTimeout
  split <;> simp

@[simp] theorem State.nextHint_grantsOf (s : State) (p : Nat) (kind : HintKind) (body : Nat → State → State)
    (h : ∀ g st, grantsOf (body g st).parts = grantsOf st.parts) : grantsOf (s.nextHint p kind body).parts = grantsOf s.parts := by
  unfold State.nextHint
  split <;> simp [h]

@[simp] theorem execPrefetch_keeps (pt : Nat) (s : State) : Keeps s (execPrefetch pt s) := by
  unfold execPrefetch
  rw [keeps_next]
  refine State.nextHint_grantsOf _ _ _ _ (fun g st => ?_)
  (repeat' split) <;> simp

@[simp] theorem execPinHint_keeps (pt : Nat) (s : State) : Keeps s (execPinHint pt s) := by
  unfold execPinHint
  simp only [keeps_next, parts_ite, grantsOf_ite]
  rw [State.nextHint_grantsOf _ _ _ _ (fun g st => by (repeat' split) <;> simp), ite_self]

@[simp] theorem execDemote_keeps (pt : Nat) (s : State) : Keeps s (execDemote pt s) := by
  unfold execDemote
  split <;> simp

@[simp] theorem State.moveUnits_parts (s : State) (ch b : Nat) :
    (s.moveUnits ch b).parts = s.parts := by simp -implicitDefEqProofs [State.moveUnits]

@[simp] theorem State.eraseFlash_parts (s : State) (ch b : Nat) : (s.eraseFlash ch b).parts = s.parts := rfl

@[simp] theorem execWearLevelling_keeps (channel : Nat) (s : State) : Keeps s (execWearLevelling channel s) := by
  unfold execWearLevelling
  rw [keeps_next]
  split
  · simp -implicitDefEqProofs
  · rfl

@[simp] theorem execReadRelocation_keeps (channel block : Nat) (s : State) :
    Keeps s (execReadRelocation channel block s) := by simp [execReadRelocation]

@[simp] theorem execBlockRetire_keeps (channel block : Nat) (s : State) :
    Keeps s (execBlockRetire channel block s) := by simp [execBlockRetire]

@[simp] theorem execGarbageCollection_keeps (channel block : Nat) (s : State) :
    Keeps s (execGarbageCollection channel block s) := by simp [execGarbageCollection]

@[simp] theorem State.queueHints_grantsOf (s : State) (f n : Nat) :
    grantsOf (s.queueHints f n).parts = grantsOf s.parts := by simp [State.queueHints]

@[simp] theorem execTierHint_keeps (fn slot : Nat) (s : State) : Keeps s (execTierHint fn slot s) := by simp [execTierHint]

@[simp] theorem execTierStatus_keeps (fn slot : Nat) (s : State) : Keeps s (execTierStatus fn slot s) := by simp [execTierStatus]

/-! ### Links -/

@[simp] theorem State.countStale_parts (s : State) : (s.countStale).parts = s.parts := rfl

@[simp] theorem State.setPortState_parts (s : State) (q : Nat) (x : PortState) :
    (s.setPortState q x).parts = s.parts := by simp [State.setPortState]

@[simp] theorem State.resend_parts (s : State) (id : Nat) : (s.resend id).parts = s.parts := by
  unfold State.resend
  split <;> simp

@[simp] theorem State.dropWrite_parts (s : State) (id q : Nat) : (s.dropWrite id q).parts = s.parts := by
  unfold State.dropWrite
  split <;> simp

@[simp] theorem State.beginReroute_parts (s : State) (ids : List Nat) : (s.beginReroute ids).parts = s.parts := rfl

@[simp] theorem State.dropWaiting_grantsOf (s : State) (q : Nat) : grantsOf (s.dropWaiting q).parts = grantsOf s.parts := by
  unfold State.dropWaiting
  simp

@[simp] theorem State.linkDown_grantsOf (s : State) (q : Nat) (x : PortState) :
    grantsOf (s.linkDown q x).parts = grantsOf s.parts := by simp [State.linkDown]

@[simp] theorem State.attemptFailed_grantsOf (s : State) (q : Nat) :
    grantsOf (s.attemptFailed q).parts = grantsOf s.parts := by simp [State.attemptFailed]

@[simp] theorem State.sendCaps_parts (s : State) (q : Nat) : (s.sendCaps q).parts = s.parts := by simp [State.sendCaps]

@[simp] theorem State.judge_grantsOf (s : State) (q : Nat) (c : Capability) :
    grantsOf (s.judge q c).parts = grantsOf s.parts := by simp [State.judge]

@[simp] theorem State.bringUp_grantsOf (s : State) (q : Nat) (f : PortFindings) :
    grantsOf (s.bringUp q f).parts = grantsOf s.parts := by simp [State.bringUp]

@[simp] theorem execPortPresence_keeps (port : Nat) (found : PortFindings) (s : State) :
    Keeps s (execPortPresence port found s) := by simp [execPortPresence]

@[simp] theorem execPortRetry_keeps (port : Nat) (found : PortFindings) (s : State) :
    Keeps s (execPortRetry port found s) := by simp [execPortRetry]

@[simp] theorem execCaps_keeps (port : Nat) (packet : Packet) (capability : Capability) (s : State) :
    Keeps s (execCaps port packet capability s) := by simp [execCaps]

@[simp] theorem execMiswiredRetry_keeps (port : Nat) (capability : Capability) (s : State) :
    Keeps s (execMiswiredRetry port capability s) := by simp [execMiswiredRetry]

@[simp] theorem execLaneFail_keeps (port lane : Nat) (s : State) : Keeps s (execLaneFail port lane s) := by simp [execLaneFail]

@[simp] theorem execLinkReplay_keeps (port replays : Nat) (s : State) :
    Keeps s (execLinkReplay port replays s) := by simp [execLinkReplay]

@[simp] theorem State.configure_grantsOf (s : State) (shape position : Nat) :
    grantsOf (s.configure shape position).parts = grantsOf s.parts := by simp [State.configure]

@[simp] theorem execFabConfig_keeps (fn slot : Nat) (s : State) : Keeps s (execFabConfig fn slot s) := by simp [execFabConfig]

@[simp] theorem State.holdoverEvent_parts (s : State) (enter : Bool) (offset : Int) :
    (s.holdoverEvent enter offset).parts = s.parts := by simp [State.holdoverEvent]

@[simp] theorem State.slew_parts (s : State) (offset : Int) : (s.slew offset).parts = s.parts := rfl

@[simp] theorem State.settleOffset_parts (s : State) (offset : Int) :
    (s.settleOffset offset).parts = s.parts := by simp [State.settleOffset]

@[simp] theorem execSyncExchange_keeps (s : State) : Keeps s (execSyncExchange s) := by
  unfold execSyncExchange
  split <;> simp

@[simp] theorem execParentLost_keeps (s : State) : Keeps s (execParentLost s) := by
  unfold execParentLost
  split <;> simp

@[simp] theorem execSync_keeps (port : Nat) (packet : Packet) (s : State) : Keeps s (execSync port packet s) := by
  simp only [execSync]
  (repeat' split) <;> simp

@[simp] theorem execCaliperRealign_keeps (s : State) : Keeps s (execCaliperRealign s) := by simp [execCaliperRealign]

/-! ### Collective -/

@[simp] theorem State.modColl_grantsOf (s : State) (p seq : Nat) (g : Coll → Coll) :
    grantsOf (s.modColl p seq g).parts = grantsOf s.parts := by simp [State.modColl]

@[simp] theorem State.withColl_grantsOf (s : State) (p seq : Nat) (body : Coll → Cmd → State → State)
    (h : ∀ x c st, grantsOf (body x c st).parts = grantsOf st.parts) : grantsOf (s.withColl p seq body).parts = grantsOf s.parts := by
  unfold State.withColl
  split <;> simp [h]

@[simp] theorem State.collFault_grantsOf (s : State) (p seq status addr cause : Nat) :
    grantsOf (s.collFault p seq status addr cause).parts = grantsOf s.parts := by
  unfold State.collFault
  split <;> simp

@[simp] theorem State.collServed_grantsOf (s : State) (p seq : Nat) (rs ws : List (Nat × Nat)) (kind : TierKind)
    (body : State → State) (h : ∀ st, grantsOf (body st).parts = grantsOf st.parts) : grantsOf (s.collServed p seq rs ws kind body).parts = grantsOf s.parts :=
  State.whenServed_grantsOf _ _ _ _ _ _ _ h

@[simp] theorem State.contribution_parts (s : State) (p : Nat) (c : Cmd) (d a n : Nat) :
    (s.contribution p c d a n).1.st.parts = s.parts := by simp [State.contribution]

@[simp] theorem State.partialOf_parts (s : State) (p : Nat) (c : Cmd) (a n : Nat) :
    (s.partialOf p c a n).1.st.parts = s.parts := by simp [State.partialOf]

@[simp] theorem State.sendChain_grantsOf (s : State) (p seq dst port a : Nat) (sums : List Nat) :
    grantsOf (s.sendChain p seq dst port a sums).parts = grantsOf s.parts := by simp [State.sendChain]

@[simp] theorem State.sendRuns_grantsOf (s : State) (p seq type dst addr per w : Nat) (bytes : List Byte) :
    grantsOf (s.sendRuns p seq type dst addr per w bytes).parts = grantsOf s.parts := by simp [State.sendRuns]

@[simp] theorem State.spreadAlong_grantsOf (s : State) (p seq d a w : Nat) (bytes : List Byte) :
    grantsOf (s.spreadAlong p seq d a w bytes).parts = grantsOf s.parts := by simp [State.spreadAlong]

@[simp] theorem State.whenLanding_grantsOf (s : State) (p seq : Nat) (rs : List (Nat × Nat)) (body : State → State) (h : ∀ st, grantsOf (body st).parts = grantsOf st.parts) :
    grantsOf (s.whenLanding p seq rs body).parts = grantsOf s.parts := by
  simp [State.whenLanding, h]

@[simp] theorem State.landFinal_grantsOf (s : State) (p seq : Nat) (sums : List Nat) (fall : Bool) :
    grantsOf (s.landFinal p seq sums fall).parts = grantsOf s.parts := by simp [State.landFinal]

@[simp] theorem State.finishColl_grantsOf (s : State) (p seq : Nat) : grantsOf (s.finishColl p seq).parts = grantsOf s.parts := by
  unfold State.finishColl
  refine State.withColl_grantsOf _ _ _ _ (fun x c st => ?_)
  (repeat' split) <;> simp

@[simp] theorem State.settleColl_grantsOf (s : State) (p seq : Nat) : grantsOf (s.settleColl p seq).parts = grantsOf s.parts := by
  unfold State.settleColl
  refine (State.withColl_grantsOf _ _ _ _ (fun x c st => by split <;> simp)).trans (State.withColl_grantsOf _ _ _ _ (fun x c st => ?_))
  split
  · refine State.whenLanding_grantsOf _ _ _ _ _ (fun t => ?_)
    simp
  · rfl

@[simp] theorem State.beginRun_grantsOf (s : State) (p seq d port dst a n : Nat) :
    grantsOf (s.beginRun p seq d port dst a n).parts = grantsOf s.parts := by
  unfold State.beginRun
  refine State.withColl_grantsOf _ _ _ _ (fun x c st => ?_)
  simp

@[simp] theorem State.runChain_grantsOf (s : State) (p seq port : Nat) (k : Packet) :
    grantsOf (s.runChain p seq port k).parts = grantsOf s.parts := by
  unfold State.runChain
  refine State.withColl_grantsOf _ _ _ _ (fun x c st => ?_)
  (repeat' split) <;> simp

@[simp] theorem State.takeChain_grantsOf (s : State) (p seq port : Nat) (k : Packet) :
    grantsOf (s.takeChain p seq port k).parts = grantsOf s.parts := by
  unfold State.takeChain
  split <;> simp

@[simp] theorem State.unpark_grantsOf (s : State) (p seq : Nat) : grantsOf (s.unpark p seq).parts = grantsOf s.parts := by
  unfold State.unpark
  split <;> simp

@[simp] theorem State.startPhase_grantsOf (s : State) (p seq : Nat) : grantsOf (s.startPhase p seq).parts = grantsOf s.parts := by
  unfold State.startPhase
  simp only [State.settleColl_grantsOf, State.unpark_grantsOf]
  refine State.withColl_grantsOf _ _ _ _ (fun x c st => State.collServed_grantsOf _ _ _ _ _ _ _ (fun t => ?_))
  refine (forEach_grantsOf _ _ _ (fun r st => ?_)).trans ?_ <;> simp

@[simp] theorem State.sendPartial_grantsOf (s : State) (p seq k : Nat) :
    grantsOf (s.sendPartial p seq k).parts = grantsOf s.parts := by
  unfold State.sendPartial
  refine State.withColl_grantsOf _ _ _ _ (fun x c st => ?_)
  simp

@[simp] theorem State.payPartials_grantsOf (s : State) (p seq : Nat) :
    grantsOf (s.payPartials p seq).parts = grantsOf s.parts := by
  unfold State.payPartials
  refine State.withColl_grantsOf _ _ _ _ (fun x c st => ?_)
  (repeat' split) <;> simp

@[simp] theorem State.dropChains_parts (s : State) (p seq : Nat) : (s.dropChains p seq).parts = s.parts := rfl

@[simp] theorem State.onBreak_grantsOf (s : State) (p seq : Nat) :
    grantsOf (s.onBreak p seq).parts = grantsOf s.parts := by simp [State.onBreak]

@[simp] theorem State.noteBreak_grantsOf (s : State) (p seq stamp pos : Nat) :
    grantsOf (s.noteBreak p seq stamp pos).parts = grantsOf s.parts := by
  unfold State.noteBreak
  split <;> simp

@[simp] theorem State.findBreak_grantsOf (s : State) (p seq : Nat) :
    grantsOf (s.findBreak p seq).parts = grantsOf s.parts := by simp -implicitDefEqProofs [State.findBreak]

@[simp] theorem execChainBreak_keeps (pt seq : Nat) (s : State) : Keeps s (execChainBreak pt seq s) := by simp [execChainBreak]

@[simp] theorem execFallbackSum_keeps (pt seq : Nat) (s : State) : Keeps s (execFallbackSum pt seq s) := by
  unfold execFallbackSum
  rw [keeps_next]
  refine State.withColl_grantsOf _ _ _ _ (fun x c st => ?_)
  split
  · rfl
  · simp -implicitDefEqProofs

@[simp] theorem State.memberLost_grantsOf (s : State) (p i : Nat) :
    grantsOf (s.memberLost p i).parts = grantsOf s.parts := by simp [State.memberLost]

@[simp] theorem execMemberLost_keeps (pt position : Nat) (s : State) :
    Keeps s (execMemberLost pt position s) := by simp [execMemberLost]

@[simp] theorem execPartialTimeout_keeps (pt seq position : Nat) (s : State) :
    Keeps s (execPartialTimeout pt seq position s) := by simp [execPartialTimeout]

@[simp] theorem Got.permute_grantsOf (g : Got) (p seq : Nat) (c : Cmd) :
    grantsOf (g.permute p seq c).parts = grantsOf g.st.parts := by
  unfold Got.permute
  dsimp only
  split
  · simp
  · split
    · simp
    · refine State.collServed_grantsOf _ _ _ _ _ _ _ (fun t0 => ?_)
      simp -implicitDefEqProofs

@[simp] theorem State.startPermute_grantsOf (s : State) (p seq : Nat) :
    grantsOf (s.startPermute p seq).parts = grantsOf s.parts := by simp [State.startPermute]

@[simp] theorem State.takeCopy_grantsOf (s : State) (p seq : Nat) (k : Packet) :
    grantsOf (s.takeCopy p seq k).parts = grantsOf s.parts := by simp [State.takeCopy]

@[simp] theorem State.startGather_grantsOf (s : State) (p seq : Nat) :
    grantsOf (s.startGather p seq).parts = grantsOf s.parts := by
  unfold State.startGather
  refine State.withColl_grantsOf _ _ _ _ (fun x c st => ?_)
  (repeat' split) <;> simp

@[simp] theorem State.startBroadcast_grantsOf (s : State) (p seq : Nat) :
    grantsOf (s.startBroadcast p seq).parts = grantsOf s.parts := by
  unfold State.startBroadcast
  refine State.withColl_grantsOf _ _ _ _ (fun x c st => ?_)
  simp

@[simp] theorem State.beginWork_grantsOf (s : State) (p seq : Nat) :
    grantsOf (s.beginWork p seq).parts = grantsOf s.parts := by simp [State.beginWork]

@[simp] theorem State.runColl_grantsOf (s : State) (p seq : Nat) :
    grantsOf (s.runColl p seq).parts = grantsOf s.parts := by simp [State.runColl]

@[simp] theorem State.pollColl_grantsOf (s : State) (p seq : Nat) : grantsOf (s.pollColl p seq).parts = grantsOf s.parts := by
  simp only [State.pollColl]
  (repeat' split) <;> simp

@[simp] theorem State.roomColl_grantsOf (s : State) (p seq : Nat) : grantsOf (s.roomColl p seq).parts = grantsOf s.parts := by
  unfold State.roomColl
  split <;> simp

@[simp] theorem execCollectivePhase_keeps (pt seq : Nat) (agree : Bool) (s : State) :
    Keeps s (execCollectivePhase pt seq agree s) := by
  unfold execCollectivePhase
  split <;> simp

@[simp] theorem State.collective_keeps (s : State) (f n op : Nat) : Keeps s (s.collective f n op) := by simp [State.collective]

@[simp] theorem execReduceScatter_keeps (fn slot : Nat) (s : State) :
    Keeps s (execReduceScatter fn slot s) := by simp [execReduceScatter]

@[simp] theorem execAllGather_keeps (fn slot : Nat) (s : State) : Keeps s (execAllGather fn slot s) := by simp [execAllGather]

@[simp] theorem execAllReduce_keeps (fn slot : Nat) (s : State) : Keeps s (execAllReduce fn slot s) := by simp [execAllReduce]

@[simp] theorem execBroadcast_keeps (fn slot : Nat) (s : State) : Keeps s (execBroadcast fn slot s) := by simp [execBroadcast]

@[simp] theorem execPermute_keeps (fn slot : Nat) (s : State) : Keeps s (execPermute fn slot s) := by simp [execPermute]

/-! ### Packets -/

@[simp] theorem State.meet_parts (s : State) (k : Packet) : (s.meet k).parts = s.parts := by simp [State.meet]

@[simp] theorem State.ack_parts (s : State) (k : Packet) (stale : Bool) : (s.ack k stale).parts = s.parts := rfl

@[simp] theorem State.verdict_parts (s : State) (k : Packet) (status : Nat) (flags : BitVec 6) :
    (s.verdict k status flags).parts = s.parts := rfl

@[simp] theorem State.receive_keeps (s : State) (port : Nat) (k : Packet) (type : Nat) (stale body : State → State)
    (hs : ∀ st, grantsOf (stale st).parts = grantsOf st.parts) (h : ∀ st, grantsOf (body st).parts = grantsOf st.parts) : Keeps s (s.receive port k type stale body) := by
  simp [State.receive, hs, h]

@[simp] theorem State.endPacket_parts (s : State) (k : Packet) : (s.endPacket k).parts = s.parts := rfl

@[simp] theorem State.serveRead_parts (s : State) (k : Packet) : (s.serveRead k).parts = s.parts := by
  simp only [State.serveRead]
  (repeat' split) <;> simp

@[simp] theorem State.canDeliver_grantsOf (s : State) (k : Packet) : grantsOf (s.canDeliver k).2.parts = grantsOf s.parts := by
  simp only [State.canDeliver]
  (repeat' split) <;> simp

@[simp] theorem State.takePartial_grantsOf (s : State) (p seq : Nat) (k : Packet) :
    grantsOf (s.takePartial p seq k).parts = grantsOf s.parts := by simp [State.takePartial]

@[simp] theorem State.deliverPacket_grantsOf (s : State) (k : Packet) :
    grantsOf (s.deliverPacket k).parts = grantsOf s.parts := by
  simp only [State.deliverPacket]
  (repeat' split) <;> simp

@[simp] theorem State.drain_grantsOf (s : State) (stream fuel : Nat) :
    grantsOf (s.drain stream fuel).parts = grantsOf s.parts := by
  induction fuel generalizing s with
  | zero => rfl
  | succ fuel ih =>
    unfold State.drain
    dsimp only
    split
    · rfl
    · split <;> simp [ih]

@[simp] theorem State.inOrder_grantsOf (s : State) (port : Nat) (k : Packet) :
    grantsOf (s.inOrder port k).parts = grantsOf s.parts := by
  simp only [State.inOrder]
  (repeat' split) <;> simp

@[simp] theorem execFabRead_keeps (port : Nat) (packet : Packet) (s : State) :
    Keeps s (execFabRead port packet s) := by simp -implicitDefEqProofs [execFabRead]

@[simp] theorem execFabWrite_keeps (port : Nat) (packet : Packet) (s : State) :
    Keeps s (execFabWrite port packet s) := by simp -implicitDefEqProofs [execFabWrite]

@[simp] theorem execFabAdd_keeps (port : Nat) (packet : Packet) (s : State) :
    Keeps s (execFabAdd port packet s) := by simp -implicitDefEqProofs [execFabAdd]

@[simp] theorem execCopy_keeps (port : Nat) (packet : Packet) (s : State) :
    Keeps s (execCopy port packet s) := by simp -implicitDefEqProofs [execCopy]

@[simp] theorem execPartialSum_keeps (port : Nat) (packet : Packet) (s : State) :
    Keeps s (execPartialSum port packet s) := by simp -implicitDefEqProofs [execPartialSum]

@[simp] theorem State.dropUnacked_parts (s : State) (id : Nat) : (s.dropUnacked id).parts = s.parts := by
  unfold State.dropUnacked
  split
  · simp
  · split <;> simp

@[simp] theorem State.failRequest_grantsOf (s : State) (u : Unacked) (status : Nat) :
    grantsOf (s.failRequest u status).parts = grantsOf s.parts := by simp [State.failRequest]

@[simp] theorem execFabReadData_keeps (port : Nat) (packet : Packet) (s : State) : Keeps s (execFabReadData port packet s) := by
  unfold execFabReadData
  refine State.receive_keeps _ _ _ _ _ _ (fun st => ?_) (fun st => ?_)
  dsimp only
  (repeat' split) <;> simp

@[simp] theorem State.raiseOwner_parts (s : State) (o : Owner) (f : BitVec 6) : (s.raiseOwner o f).parts = s.parts := by
  unfold State.raiseOwner
  split <;> simp

@[simp] theorem execFabAck_keeps (port : Nat) (packet : Packet) (s : State) : Keeps s (execFabAck port packet s) := by
  unfold execFabAck
  refine State.receive_keeps _ _ _ _ _ _ (fun st => ?_) (fun st => ?_)
  dsimp only
  (repeat' split) <;> simp

@[simp] theorem execChain_keeps (port : Nat) (packet : Packet) (s : State) : Keeps s (execChain port packet s) := by
  unfold execChain
  refine State.receive_keeps _ _ _ _ _ _ (fun st => ?_) (fun st => ?_)
  · dsimp only
    split
    · rfl
    · split <;> simp
  · dsimp only
    split <;> simp

@[simp] theorem execNotice_keeps (port : Nat) (packet : Packet) (s : State) : Keeps s (execNotice port packet s) := by
  unfold execNotice
  refine State.receive_keeps _ _ _ _ _ _ (fun st => ?_) (fun st => ?_)
  dsimp only
  (repeat' split) <;> simp

@[simp] theorem State.reformPartial_grantsOf (s : State) (u : Unacked) :
    grantsOf (s.reformPartial u).parts = grantsOf s.parts := by
  unfold State.reformPartial
  split
  · split
    · rfl
    · simp -implicitDefEqProofs
  · rfl

@[simp] theorem execResendTimeout_keeps (request : Nat) (s : State) : Keeps s (execResendTimeout request s) := by
  unfold execResendTimeout
  split <;> simp

@[simp] theorem execRemoteRequestTimeout_keeps (request : Nat) (s : State) : Keeps s (execRemoteRequestTimeout request s) := by
  unfold execRemoteRequestTimeout
  split <;> simp

@[simp] theorem execGatePoll_keeps (waiter : Waiter) (s : State) : Keeps s (execGatePoll waiter s) := by
  unfold execGatePoll
  (repeat' split) <;> simp

/-! ### Maquette -/

@[simp] theorem State.putDesc_grantsOf (s : State) (p k : Nat) (d : SlotDesc) :
    grantsOf (s.putDesc p k d).st.parts = grantsOf s.parts := by simp [State.putDesc]

@[simp] theorem State.agreedSlot_parts (s : State) (p : Nat) (domain : Bool) : (s.agreedSlot p domain).2.parts = s.parts := by
  unfold State.agreedSlot
  split
  · simp
  · split <;> simp

@[simp] theorem State.image_parts (s : State) (p : Nat) : (s.image p).st.parts = s.parts := by simp [State.image]

@[simp] theorem State.putImage_grantsOf (s : State) (p k : Nat) (d : SlotDesc) (img : List Byte) :
    grantsOf (s.putImage p k d img).st.parts = grantsOf s.parts := by
  unfold State.putImage
  refine foldl_got_grantsOf _ _ _ (fun g x => ?_)
  (repeat' split) <;> simp

@[simp] theorem Got.readOn_parts (g : Got) (p a : Nat) : (Got.readOn g p a).st.parts = g.st.parts := by
  unfold Got.readOn
  split <;> simp

@[simp] theorem State.getImage_parts (s : State) (p k : Nat) (d : SlotDesc) :
    (s.getImage p k d).st.parts = s.parts := by simp [State.getImage]

@[simp] theorem State.flushStore_grantsOf (s : State) (p : Nat) :
    grantsOf (s.flushStore p).parts = grantsOf s.parts := by simp [State.flushStore]

@[simp] theorem State.maqServed_grantsOf (s : State) (f n : Nat) (runs : List (Nat × Nat) × List (Nat × Nat)) (lost body : State → State)
    (hl : ∀ st, grantsOf (lost st).parts = grantsOf st.parts) (h : ∀ st, grantsOf (body st).parts = grantsOf st.parts) : grantsOf (s.maqServed f n runs lost body).parts = grantsOf s.parts := by
  simp [State.maqServed, hl, h]

@[simp] theorem State.maqLost_parts (s : State) (f n : Nat) : (s.maqLost f n).parts = s.parts := by simp [State.maqLost]

theorem State.maquette_grantsOf (s t : State) (f n action : Nat) (check : State → Cmd → Nat) (body : State → State) (h : ∀ st, grantsOf (body st).parts = grantsOf st.parts)
    (ht : s.maquette f n action check body = some t) : grantsOf t.parts = grantsOf s.parts := by
  unfold State.maquette at ht
  split at ht
  · obtain rfl := Option.some.inj ht
    simp [h]
  · split at ht
    · obtain rfl := Option.some.inj ht
      exact h s
    · cases ht

theorem State.maquette_getD_grantsOf (s : State) (f n action : Nat) (check : State → Cmd → Nat) (body : State → State)
    (h : ∀ st, grantsOf (body st).parts = grantsOf st.parts) : grantsOf ((s.maquette f n action check body).getD s).parts = grantsOf s.parts := by
  cases ht : s.maquette f n action check body with
  | none => rfl
  | some t => exact State.maquette_grantsOf s t f n action check body h ht

@[simp] theorem State.writeSlotImage_grantsOf (s : State) (f k : Nat) (d : SlotDesc) (bytes : List Byte) :
    grantsOf (s.writeSlotImage f k d bytes).st.parts = grantsOf s.parts := by simp [State.writeSlotImage]

@[simp] theorem State.slotWritten_grantsOf (s : State) (f n k : Nat) :
    grantsOf (s.slotWritten f n k).parts = grantsOf s.parts := by
  simp only [State.slotWritten]
  split <;> simp

@[simp] theorem State.extraUnits_parts (s : State) (dom : Bool) : (s.extraUnits dom).2.parts = s.parts := by
  unfold State.extraUnits
  split <;> simp

@[simp] theorem State.fillOther_grantsOf (s : State) (f n : Nat) (dom : Bool) (bytes : List Byte) :
    grantsOf (s.fillOther f n dom bytes).parts = grantsOf s.parts := by simp [State.fillOther]

@[simp] theorem State.fillSlot_grantsOf (s : State) (f n : Nat) :
    grantsOf (s.fillSlot f n).parts = grantsOf s.parts := by simp [State.fillSlot]

@[simp] theorem State.commitSlot_grantsOf (s : State) (f n : Nat) :
    grantsOf (s.commitSlot f n).parts = grantsOf s.parts := by simp [State.commitSlot]

@[simp] theorem execMaquetteTake_keeps (fn slot : Nat) (s : State) : Keeps s (execMaquetteTake fn slot s) := by
  unfold execMaquetteTake
  refine (keeps_next _ _).2 ?_
  split
  · rename_i h
    exact State.maquette_grantsOf _ _ _ _ _ _ _ (fun st => by simp) h
  · dsimp only
    (repeat' split) <;> simp

@[simp] theorem State.writesStand_parts (s : State) (p since : Nat) :
    (s.writesStand p since).parts = s.parts := by simp [State.writesStand]

@[simp] theorem State.rebuilt_parts (s : State) (p : Nat) : (s.rebuilt p).2.2.parts = s.parts := by simp [State.rebuilt]

@[simp] theorem judgeImage_parts (d : SlotDesc) (g : Got) : (judgeImage d g).2.2.2.parts = g.st.parts := rfl

@[simp] theorem State.soundSlot_parts (s : State) (p k : Nat) : (s.soundSlot p k).2.2.2.parts = s.parts := by
  unfold State.soundSlot
  split
  · simp
  · split <;> simp

@[simp] theorem State.restore_grantsOf (s : State) (p : Nat) (d : SlotDesc) (img : List Byte) :
    grantsOf (s.restore p d img).st.parts = grantsOf s.parts := by simp [State.restore]

@[simp] theorem State.rollTo_grantsOf (s : State) (f n : Nat) (d : SlotDesc) (img : List Byte) :
    grantsOf (s.rollTo f n d img).parts = grantsOf s.parts := by simp [State.rollTo]

@[simp] theorem State.findSlot_parts (s : State) (f : Nat) : (s.findSlot f).2.2.2.2.parts = s.parts := by
  unfold State.findSlot
  split
  · simp
  · split <;> simp

@[simp] theorem State.putRebuilt_grantsOf (s : State) (f k : Nat) (d : SlotDesc) (img : List Byte) :
    grantsOf (s.putRebuilt f k d img).st.parts = grantsOf s.parts := by simp [State.putRebuilt]

@[simp] theorem Got.rollOn_grantsOf (g : Got) (f n : Nat) (d : SlotDesc) (img : List Byte) :
    grantsOf (Got.rollOn g f n d img).parts = grantsOf g.st.parts := by simp [Got.rollOn]

@[simp] theorem State.rollRebuilt_grantsOf (s : State) (f n k : Nat) :
    grantsOf (s.rollRebuilt f n k).parts = grantsOf s.parts := by simp [State.rollRebuilt]

@[simp] theorem State.rollBack_grantsOf (s : State) (f n : Nat) :
    grantsOf (s.rollBack f n).parts = grantsOf s.parts := by simp [State.rollBack]

@[simp] theorem State.rollLost_grantsOf (s : State) (f n : Nat) :
    grantsOf (s.rollLost f n).parts = grantsOf s.parts := by simp [State.rollLost]

@[simp] theorem execRollback_keeps (fn slot : Nat) (s : State) : Keeps s (execRollback fn slot s) := by
  unfold execRollback
  rw [keeps_next]
  refine State.maquette_getD_grantsOf _ _ _ _ _ _ (fun st => ?_)
  simp

@[simp] theorem State.journalAfter_parts (s : State) (p jseq : Nat) : (s.journalAfter p jseq).2.parts = s.parts := by
  unfold State.journalAfter
  dsimp only
  split
  · rfl
  · refine foldl_snd_snd_parts _ _ _ (fun g i => ?_)
    simp

@[simp] theorem State.checkActive_parts (s : State) (f : Nat) (r : Replayed) :
    (s.checkActive f r).st.parts = s.parts := by simp [State.checkActive]

@[simp] theorem State.writeReplayed_parts (s : State) (f : Nat) (r : Replayed) :
    (s.writeReplayed f r).st.parts = s.parts := by simp [State.writeReplayed]

@[simp] theorem State.replayDone_grantsOf (s : State) (f n : Nat) (d : SlotDesc) (r : Replayed) (k : Nat) :
    grantsOf (s.replayDone f n d r k).parts = grantsOf s.parts := by simp [State.replayDone]

@[simp] theorem State.stepsDiffer_parts (s : State) (f : Nat) : (s.stepsDiffer f).2.parts = s.parts := rfl

@[simp] theorem State.takeReplay_grantsOf (s : State) (f n : Nat) (d : SlotDesc) (r : Replayed) (k : Nat) :
    grantsOf (s.takeReplay f n d r k).parts = grantsOf s.parts := by simp [State.takeReplay]

@[simp] theorem State.rollForward_grantsOf (s : State) (f n : Nat) (d : SlotDesc) (img : List Byte) :
    grantsOf (s.rollForward f n d img).parts = grantsOf s.parts := by
  have journal := State.journalAfter_parts s f d.jseq
  unfold State.rollForward
  dsimp only
  split
  · simp_all
  · split <;> simp_all

@[simp] theorem State.replayFrom_grantsOf (s : State) (f n : Nat) : grantsOf (s.replayFrom f n).parts = grantsOf s.parts := by
  unfold State.replayFrom
  split <;> simp

@[simp] theorem execRollforward_keeps (fn slot : Nat) (s : State) : Keeps s (execRollforward fn slot s) := by
  unfold execRollforward
  rw [keeps_next]
  refine State.maquette_getD_grantsOf _ _ _ _ _ _ (fun st => ?_)
  simp

/-! ### Boot -/

@[simp] theorem State.abortAll_grantsOf (s : State) (f : Nat) (n : Option Nat) :
    grantsOf (s.abortAll f n).parts = grantsOf s.parts := by simp [State.abortAll]

@[simp] theorem State.enterFatal_grantsOf (s : State) (src unit unitId : Nat) :
    grantsOf (s.enterFatal src unit unitId).parts = grantsOf s.parts := by simp [State.enterFatal]

@[simp] theorem execModuleFatal_keeps (processor : Option Nat) (s : State) : Keeps s (execModuleFatal processor s) := by
  unfold execModuleFatal
  split
  · simp
  · split <;> simp

@[simp] theorem execCheckerCompare_keeps (_checker : Nat) (corrected uncorrectable : Bool) (s : State) :
    Keeps s (execCheckerCompare _checker corrected uncorrectable s) := by simp [execCheckerCompare]

@[simp] theorem State.zeroise_parts (s : State) : (s.zeroise).parts = s.parts := rfl

@[simp] theorem State.endStages_grantsOf (s : State) :
    grantsOf (s.endStages).parts = grantsOf s.parts := by simp [State.endStages]

@[simp] theorem State.tripLatch_grantsOf (s : State) :
    grantsOf (s.tripLatch).parts = grantsOf s.parts := by simp -implicitDefEqProofs [State.tripLatch]

@[simp] theorem execServiceLatchTrip_endsApart (s : State) (h : Apart (grantsOf s.parts)) :
    EndsApart (execServiceLatchTrip s) := by
  unfold execServiceLatchTrip
  refine (endsApart_next _).2 ?_
  split
  · exact h
  · simpa using h
  · simpa using h
  · dsimp only
    exact State.dark_apart _ _ _ (by simpa using h)

@[simp] theorem execCoverClose_keeps (s : State) : Keeps s (execCoverClose s) := by simp [execCoverClose]

@[simp] theorem execResetModule_endsApart (fn slot : Nat) (s : State) (h : Apart (grantsOf s.parts)) :
    EndsApart (execResetModule fn slot s) := by simp [execResetModule, h]

@[simp] theorem State.powerLost_apart (s : State) (h : Apart (grantsOf s.parts)) :
    Apart (grantsOf (s.powerLost).parts) := by simp [State.powerLost, h]

@[simp] theorem execPowerFailStop_endsApart (cause : PowerFail) (s : State) (h : Apart (grantsOf s.parts)) :
    EndsApart (execPowerFailStop cause s) := by simp [execPowerFailStop, h]

@[simp] theorem execInletWithdrawal_endsApart (s : State) (h : Apart (grantsOf s.parts)) :
    EndsApart (execInletWithdrawal s) := by simp [execInletWithdrawal, h]

@[simp] theorem execInletConnect_keeps (mV : Nat) (s : State) : Keeps s (execInletConnect mV s) := by simp [execInletConnect]

@[simp] theorem State.fallBack_parts (s : State) (c : Nat) : (s.fallBack c).parts = s.parts := by simp [State.fallBack]

@[simp] theorem State.bootImage_parts (s : State) (f : StartUpFindings) (c : Nat) : (s.bootImage f c).parts = s.parts := by
  unfold State.bootImage
  split <;> simp

@[simp] theorem State.freeReplicas_parts (s : State) : (s.freeReplicas).parts = s.parts := by simp [State.freeReplicas]

@[simp] theorem State.bootBegin_apart (s : State) (f : StartUpFindings) (h : Apart (grantsOf s.parts)) :
    Apart (grantsOf (s.bootBegin f).parts) := by simp [State.bootBegin, h]

@[simp] theorem State.bootMarks_parts (s : State) :
    (s.bootMarks).parts = s.parts := by simp -implicitDefEqProofs [State.bootMarks]

@[simp] theorem State.bootDies_parts (s : State) (f : StartUpFindings) :
    (s.bootDies f).parts = s.parts := by simp -implicitDefEqProofs [State.bootDies]

@[simp] theorem State.bootStacks_parts (s : State) (f : StartUpFindings) (restored : Bool) :
    (s.bootStacks f restored).parts = s.parts := by simp [State.bootStacks]

@[simp] theorem State.bootAll_apart (s : State) (f : StartUpFindings) (h : Apart (grantsOf s.parts)) :
    Apart (grantsOf (s.bootAll f).parts) := by simp -implicitDefEqProofs [State.bootAll, h]

@[simp] theorem execStartUp_endsApart (found : StartUpFindings) (s : State) (h : Apart (grantsOf s.parts)) :
    EndsApart (execStartUp found s) := by simp [execStartUp, h]

/-! ### Firmware -/

@[simp] theorem State.beginRestart_grantsOf (s : State) (c cause start : Nat) :
    grantsOf (s.beginRestart c cause start).parts = grantsOf s.parts := by simp [State.beginRestart]

@[simp] theorem State.pauseCmds_parts (s : State) (q : Nat → Bool) (d : Nat) : (s.pauseCmds q d).parts = s.parts := rfl

@[simp] theorem State.pauseFor_parts (s : State) (c d : Nat) :
    (s.pauseFor c d).parts = s.parts := by simp -implicitDefEqProofs [State.pauseFor]

@[simp] theorem State.drainBar_apart (s : State) (h : Apart (grantsOf s.parts)) : Apart (grantsOf s.drainBar.parts) := by
  unfold State.drainBar
  refine forEach_apart _ _ _ h (fun w st hst => ?_)
  split
  · exact State.barWrite_apart _ _ _ _ (by simpa using hst)
  · exact hst

@[simp] theorem State.endSeq_parts (s : State) (q : FwSequence) (status : Nat) :
    (s.endSeq q status).parts = s.parts := by simp [State.endSeq]

@[simp] theorem State.swapIn_parts (s : State) (b mode : Nat) : (s.swapIn b mode).parts = s.parts := by simp [State.swapIn]

@[simp] theorem State.pump_grantsOf (s : State) : grantsOf s.pump.parts = grantsOf s.parts := by
  unfold State.pump
  split
  · rfl
  · split
    · rfl
    · split
      · simp
      · dsimp only
        (repeat' split) <;> simp -implicitDefEqProofs

@[simp] theorem State.seqDone_parts (s : State) (c : Nat) : (s.seqDone c).parts = s.parts := by
  unfold State.seqDone
  split <;> simp

@[simp] theorem State.readyNow_apart (s : State) (c cause start : Nat) (h : Apart (grantsOf s.parts)) :
    Apart (grantsOf (s.readyNow c cause start).parts) := by simp [State.readyNow, h]

@[simp] theorem State.swapBackNow_grantsOf (s : State) (b : Nat) : grantsOf (s.swapBackNow b).parts = grantsOf s.parts := by
  simp only [State.swapBackNow]
  split <;> simp

@[simp] theorem execProcessorRestart_endsApart (code : Nat) (verified : Bool) (s : State) (h : Apart (grantsOf s.parts)) :
    EndsApart (execProcessorRestart code verified s) := by
  unfold execProcessorRestart
  split <;> simp [h]

@[simp] theorem execSwapBack_keeps (code : Nat) (s : State) : Keeps s (execSwapBack code s) := by
  unfold execSwapBack
  split <;> simp

@[simp] theorem execProcessorWatchdog_keeps (code : Nat) (s : State) :
    Keeps s (execProcessorWatchdog code s) := by simp [execProcessorWatchdog]

@[simp] theorem execFwUnstableClear_keeps (code : Nat) (s : State) :
    Keeps s (execFwUnstableClear code s) := by simp [execFwUnstableClear]

@[simp] theorem State.stageOn_parts (s : State) (f n : Nat) : (s.stageOn f n).parts = s.parts := by simp [State.stageOn]

@[simp] theorem execFwStage_keeps (fn slot : Nat) (s : State) : Keeps s (execFwStage fn slot s) := by simp [execFwStage]

@[simp] theorem execFwActivate_keeps (fn slot : Nat) (s : State) :
    Keeps s (execFwActivate fn slot s) := by simp -implicitDefEqProofs [execFwActivate]

@[simp] theorem execFwRestart_keeps (fn slot : Nat) (s : State) : Keeps s (execFwRestart fn slot s) := by simp [execFwRestart]

@[simp] theorem execArmedActivation_keeps (s : State) : Keeps s (execArmedActivation s) := by simp [execArmedActivation]

@[simp] theorem execProbationEnd_keeps (code : Nat) (burnFails : Bool) (s : State) :
    Keeps s (execProbationEnd code burnFails s) := by
  simp only [execProbationEnd]
  (repeat' split) <;> simp

@[simp] theorem execPersistentCopy_keeps (seq : Nat) (s : State) :
    Keeps s (execPersistentCopy seq s) := by simp [execPersistentCopy]

/-! ### Spdm -/

@[simp] theorem State.modSpdm_parts (s : State) (f : Nat) (g : Spdm → Spdm) : (s.modSpdm f g).parts = s.parts := rfl

@[simp] theorem State.respond_parts (s : State) (f : Nat) (r : List Nat) : (s.respond f r).parts = s.parts := rfl

@[simp] theorem State.respondError_parts (s : State) (f code : Nat) : (s.respondError f code).parts = s.parts := rfl

@[simp] theorem State.respondFresh_parts (s : State) (f : Nat) (r : List Nat) : (s.respondFresh f r).parts = s.parts := rfl

@[simp] theorem State.respondSigned_parts (s : State) (f : Nat) (r : List Nat) :
    (s.respondSigned f r).parts = s.parts := by simp [State.respondSigned]

@[simp] theorem doeOp_keeps (s : State) (f code : Nat) (body : State → State) (h : ∀ st, grantsOf (body st).parts = grantsOf st.parts) :
    Keeps s (doeOp s f code body) := by
  simp [doeOp, h]

@[simp] theorem connectedOp_keeps (s : State) (f code : Nat) (body : State → State) (h : ∀ st, grantsOf (body st).parts = grantsOf st.parts) :
    Keeps s (connectedOp s f code body) := by
  simp [connectedOp, h]

@[simp] theorem execGetVersion_keeps (fn : Nat) (s : State) :
    Keeps s (execGetVersion fn s) := by simp -implicitDefEqProofs [execGetVersion]

@[simp] theorem execGetCapabilities_keeps (fn : Nat) (s : State) :
    Keeps s (execGetCapabilities fn s) := by simp [execGetCapabilities]

@[simp] theorem execNegotiateAlgorithms_keeps (fn : Nat) (s : State) :
    Keeps s (execNegotiateAlgorithms fn s) := by simp [execNegotiateAlgorithms]

@[simp] theorem execGetDigests_keeps (fn : Nat) (s : State) : Keeps s (execGetDigests fn s) := by simp [execGetDigests]

@[simp] theorem execGetCertificate_keeps (fn : Nat) (s : State) :
    Keeps s (execGetCertificate fn s) := by simp [execGetCertificate]

@[simp] theorem execChallenge_keeps (fn : Nat) (s : State) : Keeps s (execChallenge fn s) := by simp [execChallenge]

@[simp] theorem execGetMeasurements_keeps (fn index : Nat) (s : State) : Keeps s (execGetMeasurements fn index s) := by
  unfold execGetMeasurements
  refine connectedOp_keeps _ _ _ _ (fun st => ?_)
  (repeat' split) <;> simp

@[simp] theorem execKeyExchange_keeps (fn : Nat) (s : State) : Keeps s (execKeyExchange fn s) := by
  unfold execKeyExchange
  refine connectedOp_keeps _ _ _ _ (fun st => ?_)
  dsimp only
  (repeat' split) <;> simp

@[simp] theorem sessionOp_keeps (s : State) (f session code : Nat) (body : State → State) (h : ∀ st, grantsOf (body st).parts = grantsOf st.parts) :
    Keeps s (sessionOp s f session code body) := by
  simp [sessionOp, h]

@[simp] theorem execFinish_keeps (fn session : Nat) (macOk : Bool) (s : State) :
    Keeps s (execFinish fn session macOk s) := by simp [execFinish]

@[simp] theorem execHeartbeat_keeps (fn session : Nat) (s : State) :
    Keeps s (execHeartbeat fn session s) := by simp -implicitDefEqProofs [execHeartbeat]

@[simp] theorem execKeyUpdate_keeps (fn session : Nat) (s : State) :
    Keeps s (execKeyUpdate fn session s) := by simp -implicitDefEqProofs [execKeyUpdate]

@[simp] theorem execEndSession_keeps (fn session : Nat) (s : State) :
    Keeps s (execEndSession fn session s) := by simp -implicitDefEqProofs [execEndSession]

@[simp] theorem execSvcChallenge_keeps (s : State) :
    Keeps s (execSvcChallenge s) := by simp -implicitDefEqProofs [execSvcChallenge]

@[simp] theorem execSvcUnlock_keeps (scope : BitVec 8) (publicKey signature : List Byte) (s : State) :
    Keeps s (execSvcUnlock scope publicKey signature s) := by simp [execSvcUnlock]

@[simp] theorem execUnlockLockoutEnd_keeps (s : State) : Keeps s (execUnlockLockoutEnd s) := by
  unfold execUnlockLockoutEnd
  split <;> simp

/-! ### Sideband -/

@[simp] theorem State.smbRead_parts (s : State) (v : Nat) : (s.smbRead v).parts = s.parts := rfl

@[simp] theorem execReadByte_keeps (code : BitVec 8) (s : State) : Keeps s (execReadByte code s) := by simp [execReadByte]

@[simp] theorem execReadWord_keeps (code : BitVec 8) (s : State) : Keeps s (execReadWord code s) := by simp [execReadWord]

@[simp] theorem execSmbusWrite_keeps (_command : BitVec 8) (s : State) :
    Keeps s (execSmbusWrite _command s) := by simp [execSmbusWrite]

@[simp] theorem execSmbusAddressMatch_endsApart (address : BitVec 7) (s : State) (h : Apart (grantsOf s.parts)) :
    EndsApart (execSmbusAddressMatch address s) := by
  unfold execSmbusAddressMatch
  (repeat' split) <;> simp [h]

@[simp] theorem execAlertResponseAddress_keeps (s : State) :
    Keeps s (execAlertResponseAddress s) := by simp [execAlertResponseAddress]

@[simp] theorem execAlertReassert_keeps (s : State) : Keeps s (execAlertReassert s) := by
  unfold execAlertReassert
  split <;> simp

@[simp] theorem execClockLowTimeout_keeps (heldUs : Nat) (s : State) :
    Keeps s (execClockLowTimeout heldUs s) := by simp [execClockLowTimeout]

/-! ### Every command, every step -/

/-- Only PART_SET writes grants, and it passes its checks only for units that no other partition holds (R366); a command that
can take the module down may clear the partition table. Every other command leaves the grants as they are. -/
theorem exec_endsApart (i : Instr) (s : State) (h : Apart (grantsOf s.parts)) : EndsApart (exec i s) := by
  cases i
  case partSet => exact execPartSet_endsApart _ _ _ h
  case registerWrite => exact execRegisterWrite_endsApart _ _ _ _ h
  case enterMs2 => exact execEnterMs2_endsApart _ _ _ h
  case enterMs3 => exact execEnterMs3_endsApart _ _ h
  case enterMs4 => exact execEnterMs4_endsApart _ _ h
  case resetModule => exact execResetModule_endsApart _ _ _ h
  case powerFailStop => exact execPowerFailStop_endsApart _ _ h
  case inletWithdrawal => exact execInletWithdrawal_endsApart _ h
  case startUp => exact execStartUp_endsApart _ _ h
  case smbusAddressMatch => exact execSmbusAddressMatch_endsApart _ _ h
  case wakeN => exact execWakeN_endsApart _ _ h
  case processorRestart => exact execProcessorRestart_endsApart _ _ _ h
  case serviceLatchTrip => exact execServiceLatchTrip_endsApart _ h
  all_goals
    refine Keeps.endsApart ?_ h
    simp [exec]

theorem step_endsApart (s : State) (h : Apart (grantsOf s.parts)) : EndsApart (step s) := by
  unfold step
  split
  · exact (endsApart_next _).2 ((State.idle_parts s).symm ▸ h)
  · exact exec_endsApart _ _ h

/-- Settles O7: a step changes grants only through a PART_SET that checked them or by clearing the whole table. -/
theorem grantsStayDisjoint : Obligations.grantsStayDisjoint := by
  unfold Obligations.grantsStayDisjoint
  intro s t h ht
  exact (grantsDisjoint_iff t).2 (step_endsApart s ((grantsDisjoint_iff s).1 h) t ht)

end Sys2Proof.Machine

/-! ## O23: units taken out of service, drains and clearings (R32, R368, R413)

What a function leaves as it is stands as a `Same` lemma of its own, `f_changes`, which names the components it may change. How far
the commands are is `State.progress`, and a command that is ended changes it as `endedAt` says. -/

namespace Sys2Proof.Machine
open Sys2Proof

/-! ### Components a function leaves as they are -/

theorem Same.refl (l : List Component) (s : State) : Same l s s := ⟨fun c _ => by cases c <;> rfl⟩

theorem Component.agree.trans {c : Component} {s t u : State} (h : c.agree s t) (h' : c.agree t u) : c.agree s u := by
  cases c <;> exact Eq.trans h' h

theorem Same.trans {l : List Component} {s t u : State} (h : Same l s t) (h' : Same l t u) : Same l s u :=
  ⟨fun c hc => (h.agrees c hc).trans (h'.agrees c hc)⟩

theorem Same.mono {l l' : List Component} {s t : State} (h : Same l s t) (hl : l ⊆ l') : Same l' s t :=
  ⟨fun c hc => h.agrees c (fun hm => hc (hl hm))⟩

theorem Same.forEach {α : Type} {l : List Component} (xs : List α) (s : State) (f : α → State → State)
    (h : ∀ x st, Same l st (f x st)) : Same l s (forEach xs s f) := by
  induction xs generalizing s with
  | nil => exact Same.refl l s
  | cons x xs ih => exact (h x s).trans (ih (f x s))

theorem Same.ite {l : List Component} {s t u : State} {c : Prop} [Decidable c] (ht : Same l s t) (hu : Same l s u) :
    Same l s (if c then t else u) := by split <;> assumption

theorem Same.cmd {l : List Component} {s t : State} (h : Same l s t) (f n : Nat) (hl : .slots ∉ l := by simp) : t.cmd f n = s.cmd f n :=
  congrArg (fun x => (Tbl.get {} x (slotKey f n)).cmd) (h.agrees .slots hl)

theorem Same.part {l : List Component} {s t : State} (h : Same l s t) (p : Nat) (hl : .parts ∉ l := by simp) : t.part p = s.part p := by
  unfold State.part
  rw [show t.parts = s.parts from h.agrees .parts hl]

theorem Same.tile {l : List Component} {s t : State} (h : Same l s t) (v : Nat) (hl : .tiles ∉ l := by simp) : t.tile v = s.tile v := by
  unfold State.tile
  rw [show t.tiles = s.tiles from h.agrees .tiles hl]

theorem Same.atp {l : List Component} {s t : State} (h : Same l s t) (n : Nat) (hl : .atps ∉ l := by simp) : t.atp n = s.atp n := by
  unfold State.atp
  rw [show t.atps = s.atps from h.agrees .atps hl]

theorem Same.stack {l : List Component} {s t : State} (h : Same l s t) (k : Nat) (hl : .hbm ∉ l := by simp) : t.stack k = s.stack k := by
  unfold State.stack
  rw [show t.hbm = s.hbm from h.agrees .hbm hl]

theorem State.fresh_changes (s : State) : Same [.free] s s.fresh.2 :=
  ⟨fun c hc => by cases c <;> simp at hc <;> rfl⟩

theorem State.stamp_changes (s : State) (p : Stamper) : Same [.free, .time] s (s.stamp p).2 :=
  ⟨fun c hc => by cases c <;> simp at hc <;> rfl⟩

theorem State.append_changes (s : State) (src pt : Nat) (body : LogBody) : Same [.free, .time, .log] s (s.append src pt body) :=
  ⟨fun c hc => by cases c <;> simp at hc <;> rfl⟩

theorem State.event_changes (s : State) (src pt code u a0 a1 a2 a3 : Nat) : Same [.free, .time, .log] s (s.event src pt code u a0 a1 a2 a3) :=
  s.append_changes src pt _

theorem State.trace_changes (s : State) (proc point a0 a1 a2 : Nat) : Same [.free, .time, .log] s (s.trace proc point a0 a1 a2) :=
  Same.ite (s.append_changes _ _ _) (Same.refl _ s)

theorem State.powerEvent_changes (s : State) (p new old agent reason requested result : Nat) :
    Same [.free, .time, .log] s (s.powerEvent p new old agent reason requested result) :=
  (s.fresh_changes.mono (by simp)).trans (State.event_changes _ _ _ _ _ _ _ _ _)

theorem State.modPart_changes (s : State) (p : Nat) (g : Part → Part) : Same [.parts] s (s.modPart p g) :=
  ⟨fun c hc => by cases c <;> simp at hc <;> rfl⟩

theorem State.modSlot_changes (s : State) (f n : Nat) (g : Slot → Slot) : Same [.slots] s (s.modSlot f n g) :=
  ⟨fun c hc => by cases c <;> simp at hc <;> rfl⟩

theorem State.modTile_changes (s : State) (t : Nat) (g : Tile → Tile) : Same [.tiles] s (s.modTile t g) :=
  ⟨fun c hc => by cases c <;> simp at hc <;> rfl⟩

theorem State.modAtp_changes (s : State) (n : Nat) (g : Atp → Atp) : Same [.atps] s (s.modAtp n g) :=
  ⟨fun c hc => by cases c <;> simp at hc <;> rfl⟩

theorem State.setMode_changes (s : State) (k : Nat) (m : StackMode) : Same [.free, .time, .log, .hbm] s (s.setMode k m) := by
  unfold State.setMode
  refine Same.ite (Same.refl _ s) (Same.trans (t := s.modStack k (fun x => { x with mode := m, modeRegs := some m })) ?_
    ((State.event_changes _ _ _ _ _ _ _ _ _).mono (by simp)))
  exact ⟨fun c hc => by cases c <;> simp at hc <;> rfl⟩

theorem State.take_changes (s : State) (f n : Nat) : Same [.fns] s (s.take f n) :=
  ⟨fun c hc => by cases c <;> simp at hc <;> rfl⟩

theorem State.wakePart_changes (s : State) (p : Nat) : Same [.free, .time, .log, .hbm, .parts] s (s.wakePart p) := by
  unfold State.wakePart
  refine Same.ite (Same.trans (Same.forEach (s.part p).stackList s _ (fun k st => ?_))
    (((State.modPart_changes _ _ _).mono (by simp)).trans ((State.powerEvent_changes _ _ _ _ _ _ _ _).mono (by simp)))) (Same.refl _ s)
  exact Same.ite ((State.setMode_changes _ _ _).mono (by simp)) (Same.refl _ st)

theorem State.dispatch_changes (s : State) (k : Packet) : Same [.fabric] s (s.dispatch k) :=
  ⟨fun c hc => by cases c <;> simp at hc <;> rfl⟩

theorem State.relay_changes (s : State) (f n : Nat) : Same [.free, .time, .fabric] s (s.relay f n) := by
  unfold State.relay
  refine Same.ite (Same.forEach _ s _ (fun i st => ?_)) (Same.refl _ s)
  exact ((State.stamp_changes _ _).mono (by simp)).trans ((State.dispatch_changes _ _).mono (by simp))

theorem State.startCmd_changes (s : State) (f n : Nat) : Same [.free, .time, .slots] s (s.startCmd f n) := by
  unfold State.startCmd
  exact ((s.stamp_changes .hub).mono (by simp)).trans ((State.modSlot_changes _ _ _ _).mono (by simp))

theorem State.finishCmd_changes (s : State) (f n status : Nat) : Same [.free, .time, .slots] s (s.finishCmd f n status) :=
  Same.ite (((s.stamp_changes .hub).mono (by simp)).trans ((State.modSlot_changes _ _ _ _).mono (by simp))) (Same.refl _ s)

theorem State.replyOk_changes (s : State) (f n : Nat) (rs : List Nat) : Same [.free, .time, .slots] s (s.replyOk f n rs) :=
  ((s.modSlot_changes f n _).mono (by simp)).trans (State.finishCmd_changes _ _ _ _)

theorem State.beginCmd_changes (s : State) (f n : Nat) : Same [.free, .time, .log, .fabric, .hbm, .parts, .slots] s (s.beginCmd f n) := by
  unfold State.beginCmd
  exact (Same.ite ((s.wakePart_changes f).mono (by simp)) (Same.refl _ s)).trans
    (((State.relay_changes _ _ _).mono (by simp)).trans ((State.startCmd_changes _ _ _).mono (by simp)))

/-! ### A command that runs and answers -/

theorem Cmd.live_of_running {c : Cmd} (h : c.phase = .running) : c.live = true := by simp [Cmd.live, h]

theorem State.replyOk_finished (s : State) (f n : Nat) (rs : List Nat) (h : (s.cmd f n).live = true) :
    Finished (s.replyOk f n rs) f n stOK rs := by
  have live : ((s.modCmd f n (fun c => { c with result := rs.map (BitVec.ofNat 64) })).cmd f n).live = true := by
    rw [State.modCmd_same]
    exact h
  unfold State.replyOk State.finishCmd
  rw [if_pos live]
  refine ⟨?_, ?_, ?_⟩ <;> rw [State.modCmd_same]
  rw [(State.stamp_changes _ _).cmd, State.modCmd_same]

theorem State.modPart_programs (s : State) (p q : Nat) (g : Part → Part) (h : ∀ x, (g x).programs = x.programs) :
    ((s.modPart p g).part q).programs = (s.part q).programs := by
  by_cases hq : q = p
  · subst hq
    rw [State.modPart_same, h]
  · rw [State.modPart_other _ _ _ _ hq]

theorem State.wakePart_programs (s : State) (p q : Nat) : ((s.wakePart p).part q).programs = (s.part q).programs := by
  unfold State.wakePart
  split
  · have woken := Same.forEach (l := [.free, .time, .log, .hbm]) (s.part p).stackList s
      (fun k st => if (st.stack k).mode == .selfRefresh then st.setMode k .service else st)
      (fun k st => Same.ite (State.setMode_changes _ _ _) (Same.refl _ st))
    dsimp only
    rw [(State.powerEvent_changes _ _ _ _ _ _ _ _).part,
      State.modPart_programs _ _ _ _ (fun _ => by rfl), woken.part]
  · rfl

theorem State.beginCmd_programs (s : State) (f n q : Nat) : ((s.beginCmd f n).part q).programs = (s.part q).programs := by
  unfold State.beginCmd
  dsimp only
  rw [(State.startCmd_changes _ _ _).part,
    (State.relay_changes _ _ _).part]
  split
  · rw [State.wakePart_programs]
  · rfl

theorem State.programsOn_congr {s t : State} (h : ∀ p, (t.part p).programs = (s.part p).programs) (tiles atps : List Nat) :
    t.programsOn tiles atps = s.programsOn tiles atps := by
  simp only [State.programsOn, h]

/-- A command that has begun runs, and what it asked for is as it was. -/
theorem State.beginCmd_cmd (s : State) (f n : Nat) :
    ((s.beginCmd f n).cmd f n).phase = .running ∧ ((s.beginCmd f n).cmd f n).note = (s.cmd f n).note := by
  have woken : Same [.free, .time, .log, .hbm, .parts] s (if f ≠ 0 ∧ !quietOp (s.cmd f n).opcode then s.wakePart f else s) :=
    Same.ite (s.wakePart_changes f) (Same.refl _ s)
  have kept : ∀ u : State, (((u.relay f n).stamp .hub).2.cmd f n) = u.cmd f n := fun u => by
    rw [(State.stamp_changes _ _).cmd,
      (State.relay_changes _ _ _).cmd]
  unfold State.beginCmd State.startCmd
  generalize (if f ≠ 0 ∧ !quietOp (s.cmd f n).opcode then s.wakePart f else s) = u at woken
  dsimp only
  rw [← woken.cmd f n, ← kept u]
  simp [State.cmd]

/-! ### Programs taken off a tile or an attention pipeline -/

theorem State.setProgram_changes (s : State) (p g : Nat) (x : Program) : Same [.parts] s (s.setProgram p g x) :=
  s.modPart_changes p _

theorem State.unload_changes (s : State) (p g : Nat) : Same [.tiles, .atps, .parts] s (s.unload p g) := by
  unfold State.unload
  exact ((Same.forEach _ s _ (fun t st => (st.modTile_changes t _).mono (by simp))).trans
    (Same.forEach _ _ _ (fun n st => (st.modAtp_changes n _).mono (by simp)))).trans ((State.modPart_changes _ _ _).mono (by simp))

theorem State.unloadIf_changes (s : State) (p : Nat) (q : Program → Bool) : Same [.tiles, .atps, .parts] s (s.unloadIf p q) :=
  Same.forEach _ s _ (fun g st => st.unload_changes p g)

theorem State.modTile_store (s : State) (t v : Nat) (g : Tile → Tile) (h : ∀ x, (g x).store = x.store) :
    ((s.modTile t g).tile v).store = (s.tile v).store := by
  by_cases hv : v = t
  · subst hv
    rw [State.modTile_same, h]
  · rw [State.modTile_other _ _ _ _ hv]

theorem forEach_keeps {α β : Type} (π : State → β) (xs : List α) (s : State) (f : α → State → State)
    (h : ∀ x st, π (f x st) = π st) : π (forEach xs s f) = π s := by
  induction xs generalizing s with
  | nil => rfl
  | cons x xs ih => exact (ih (f x s)).trans (h x s)

theorem State.unload_store (s : State) (p g v : Nat) : ((s.unload p g).tile v).store = (s.tile v).store := by
  unfold State.unload
  have rest : ∀ u : State, Same [.atps, .parts] u ((forEach (s.program p g).atps u
      (fun n st => st.modAtp n (fun x => { x with program := none }))).setProgram p g {}) := fun u =>
    (Same.forEach _ u _ (fun n st => (st.modAtp_changes n _).mono (by simp))).trans ((State.setProgram_changes _ _ _ _).mono (by simp))
  dsimp only
  rw [(rest _).tile]
  exact forEach_keeps (fun st => (st.tile v).store) _ _ _ (fun t st => st.modTile_store t v _ (fun x => rfl))

theorem State.unloadIf_store (s : State) (p : Nat) (q : Program → Bool) (v : Nat) : ((s.unloadIf p q).tile v).store = (s.tile v).store :=
  forEach_keeps (fun st => (st.tile v).store) _ _ _ (fun g st => st.unload_store p g v)

/-! ### Clearing a section -/

theorem State.orphanRequests_changes (s : State) (q : Owner → Bool) (heir : Owner) :
    Same [.link, .tierReqs, .grants, .mgrQueue, .fabric] s (s.orphanRequests q heir) :=
  ⟨fun c hc => by cases c <;> simp at hc <;> rfl⟩

theorem State.setAtp_changes (s : State) (n : Nat) (x : Atp) : Same [.atps] s (s.setAtp n x) :=
  ⟨fun c hc => by cases c <;> simp at hc <;> rfl⟩

theorem State.clearSection_changes (s : State) (i : Nat) :
    Same [.link, .tierReqs, .grants, .mgrQueue, .fabric, .tiles, .atps] s (s.clearSection i) := by
  unfold State.clearSection
  refine (Same.forEach _ s _ (fun k st => ?_)).trans
    (((State.orphanRequests_changes _ _ _).mono (by simp)).trans ((State.setAtp_changes _ _ _).mono (by simp)))
  exact ((st.orphanRequests_changes _ _).mono (by simp)).trans ((State.modTile_changes _ _ _).mono (by simp))

theorem forEach_concat {α : Type} (xs : List α) (x : α) (s : State) (f : α → State → State) :
    forEach (xs ++ [x]) s f = f x (forEach xs s f) := by
  simp [forEach]

/-- A loop that clears the tiles of a section one by one leaves each of them cleared. -/
theorem State.clearTiles_tile (i : Nat) (n : Nat) (s : State) (v : Nat) :
    (forEach (List.range n) s (fun k st => (st.orphanRequests (fun o => o.isTile (16 * i + k))).modTile (16 * i + k) Tile.cleared)).tile v =
      if 16 * i ≤ v ∧ v < 16 * i + n then (s.tile v).cleared else s.tile v := by
  induction n with
  | zero =>
    rw [if_neg (by omega)]
    rfl
  | succ n ih =>
    rw [List.range_succ, forEach_concat]
    by_cases hv : v = 16 * i + n
    · subst hv
      rw [State.modTile_same, (State.orphanRequests_changes _ _ _).tile, ih, if_neg (by omega), if_pos (by omega)]
    · rw [State.modTile_other _ _ _ _ hv, (State.orphanRequests_changes _ _ _).tile, ih]
      exact if_congr (by omega) rfl rfl

theorem State.clearSection_tile (s : State) (i k : Nat) (hk : k < 16) : (s.clearSection i).tile (16 * i + k) = (s.tile (16 * i + k)).cleared := by
  have rest : ∀ (u : State) (x : Atp), Same [.link, .tierReqs, .grants, .mgrQueue, .fabric, .atps] u
      ((u.orphanRequests (fun o => o.isAtp i)).setAtp i x) := fun u x =>
    ((State.orphanRequests_changes _ _ _).mono (by simp)).trans ((State.setAtp_changes _ _ _).mono (by simp))
  unfold State.clearSection
  dsimp only
  rw [(rest _ _).tile, State.clearTiles_tile, if_pos (by omega)]

theorem State.clearSection_atp (s : State) (i : Nat) : ((s.clearSection i).atp i).program = none := by
  unfold State.clearSection
  rw [State.setAtp_same]

/-! ### A unit taken out of service -/

theorem State.substitute_changes (s : State) (d nn : Nat) : Same [.dies, .free, .time, .log] s (s.substitute d nn).2 := by
  have die : ∀ x, Same [.dies, .free, .time, .log] s (s.setDie d x) := fun x => ⟨fun c hc => by cases c <;> simp at hc <;> rfl⟩
  unfold State.substitute
  dsimp only
  split
  · exact (die _).trans ((State.trace_changes _ _ _ _ _ _).mono (by simp))
  · exact die _

theorem Same.die {l : List Component} {s t : State} (h : Same l s t) (d : Nat) (hl : .dies ∉ l := by simp) : t.die d = s.die d := by
  unfold State.die
  rw [show t.dies = s.dies from h.agrees .dies hl]

/-- The name of a substituted tile passes to the physical tile that is returned. -/
theorem State.substitute_physicalOf (s : State) (d nn : Nat) : ((s.substitute d nn).2.die d).physicalOf nn = (s.substitute d nn).1 := by
  unfold State.substitute
  dsimp only
  split
  · rename_i k hk
    have present : (s.die d).absent.contains nn = false := by
      by_contra h
      have := List.find?_some hk
      simp_all [Die.physicalOf]
    rw [(State.trace_changes _ _ _ _ _ _).die, State.setDie_same]
    simp_all [Die.physicalOf]
  · rw [State.setDie_same]
    by_cases h : nn ∈ (s.die d).absent <;> simp [Die.physicalOf, h]


/-- A disable that may act: its programs unloaded and the drain taken off the list, with nothing else of a command or a store changed. -/
def State.unloaded (s : State) (d : Drain) : State :=
  let s1 := forEach allParts s (fun p st => st.unloadIf p (fun g => g.tiles.any d.tiles.contains || g.atps.any d.atps.contains))
  { s1 with drains := s1.drains.filter (fun e => e.fn != d.fn || e.slot != d.slot) }

theorem State.setDrains_changes (s : State) (ds : List Drain) : Same [.drains] s { s with drains := ds } :=
  ⟨fun c hc => by cases c <;> simp at hc <;> rfl⟩

theorem State.unloaded_changes (s : State) (d : Drain) : Same [.tiles, .atps, .parts, .drains] s (s.unloaded d) := by
  unfold State.unloaded
  exact (Same.forEach _ s _ (fun p st => (st.unloadIf_changes p _).mono (by simp))).trans ((State.setDrains_changes _ _).mono (by simp))

theorem State.unloaded_store (s : State) (d : Drain) (v : Nat) : ((s.unloaded d).tile v).store = (s.tile v).store := by
  unfold State.unloaded
  dsimp only
  rw [(State.setDrains_changes _ _).tile]
  exact forEach_keeps (fun st => (st.tile v).store) _ s _ (fun p st => st.unloadIf_store p _ v)

/-- What disabling a tile does, once its programs are unloaded. -/
theorem State.disableNow_tile (s : State) (d : Drain) (h : d.whole = false) : s.disableNow d =
    (((s.unloaded d).setTile d.name {}).substitute (d.name / 64) (d.name % 64)).2.replyOk d.fn d.slot
      [((s.unloaded d).cmd d.fn d.slot).note, (((s.unloaded d).setTile d.name {}).substitute (d.name / 64) (d.name % 64)).1] := by
  unfold State.disableNow State.unloaded
  dsimp only
  rw [if_neg (by simp [h])]

/-- What disabling a section does, once its programs are unloaded. -/
theorem State.disableNow_section (s : State) (d : Drain) (h : d.whole = true) : s.disableNow d =
    ({ ((s.unloaded d).clearSection d.name) with secOut := (s.unloaded d).secOut ||| (1#16 <<< d.name) } : State).replyOk d.fn d.slot
      [((s.unloaded d).cmd d.fn d.slot).note, 0] := by
  unfold State.disableNow State.unloaded
  dsimp only
  rw [if_pos h]

/-- A drain on whose unit nothing runs, of a command that ended no program, ends at once. -/
theorem State.drainOn_now (s : State) (f n : Nat) (d : Drain) (listed : s.drains.find? (fun e => e.fn == f && e.slot == n) = some d)
    (idle : s.programsOn d.tiles d.atps = []) (note : (s.cmd f n).note = 0) : s.drainOn f n = s.disableNow d := by
  unfold State.drainOn
  rw [listed]
  simp [idle, note]

/-- A disable whose operands are well formed and on whose unit no program runs acts at once. -/
theorem disableOp_now (s : State) (f n op limit u : Nat) (tiles atps : Nat → List Nat) (whole : Bool)
    (free : ∀ d ∈ s.drains, ¬(d.fn = f ∧ d.slot = n)) (take : s.canTake f n op = true) (unit : (s.cmd f n).param 0 1 = u) (hu : u < limit)
    (zero : (s.cmd f n).param 1 3 = 0) (wait : (s.cmd f n).param 4 4 ≤ 1000000) (note : (s.cmd f n).note = 0)
    (idle : s.programsOn (tiles u) (atps u) = []) :
    ∃ (t : State) (d : Drain), disableOp s f n op limit tiles atps whole = .next (t.disableNow d) ∧
      d.fn = f ∧ d.slot = n ∧ d.name = u ∧ d.whole = whole ∧
      Same [.fns, .drains, .free, .time, .log, .fabric, .hbm, .parts, .slots] s t ∧ (t.cmd f n).phase = .running ∧ (t.cmd f n).note = 0 := by
  obtain ⟨d, hd⟩ : ∃ d : Drain, d = ⟨f, n, tiles u, atps u, u, whole, (s.take f n).now + 1000 * (s.cmd f n).param 4 4⟩ := ⟨_, rfl⟩
  have listing : Same [.fns, .drains] s { s.take f n with drains := (s.take f n).drains ++ [d] } :=
    ((s.take_changes f n).mono (by simp)).trans ((State.setDrains_changes _ _).mono (by simp))
  generalize hl : ({ s.take f n with drains := (s.take f n).drains ++ [d] } : State) = l at listing
  have begun := State.beginCmd_cmd l f n
  rw [listing.cmd, note] at begun
  have drains : (l.beginCmd f n).drains = s.drains ++ [d] := by
    rw [(State.beginCmd_changes l f n).agrees .drains (by simp), ← hl]
    rfl
  refine ⟨l.beginCmd f n, d, ?_, by simp [hd], by simp [hd], by simp [hd], by simp [hd],
    (listing.mono (by simp)).trans ((State.beginCmd_changes l f n).mono (by simp)), begun.1, begun.2⟩
  unfold disableOp
  rw [if_pos take]
  dsimp only
  rw [(s.take_changes f n).cmd, unit, if_neg (by omega), ← hd, hl]
  refine congrArg Host.Outcome.next (State.drainOn_now _ f n d ?_ ?_ begun.2)
  · have absent : s.drains.find? (fun e => e.fn == f && e.slot == n) = none :=
      List.find?_eq_none.2 (fun e he hm => free e he (by simpa using hm))
    rw [drains, List.find?_append, absent, hd]
    simp
  · rw [State.programsOn_congr (s := s) (fun p => (State.beginCmd_programs l f n p).trans (by rw [listing.part])), hd]
    exact idle

theorem State.setSecClear_changes (s : State) (x : BitVec 16) : Same [.secClear] s { s with secClear := x } :=
  ⟨fun c hc => by cases c <;> simp at hc <;> rfl⟩

theorem State.setSecOut_changes (s : State) (x : BitVec 16) : Same [.secOut] s { s with secOut := x } :=
  ⟨fun c hc => by cases c <;> simp at hc <;> rfl⟩

theorem State.setTile_changes (s : State) (v : Nat) (x : Tile) : Same [.tiles] s (s.setTile v x) :=
  ⟨fun c hc => by cases c <;> simp at hc <;> rfl⟩

/-- R368: a tile out of service is cleared, its name passed on, the reply names the substitute, and no other store is touched. -/
theorem State.disableNow_tile_done (s : State) (d : Drain) (h : d.whole = false) (run : (s.cmd d.fn d.slot).phase = .running)
    (note : (s.cmd d.fn d.slot).note = 0) :
    ∃ k, (s.disableNow d).tile d.name = {} ∧ ((s.disableNow d).die (d.name / 64)).physicalOf (d.name % 64) = k ∧
      Finished (s.disableNow d) d.fn d.slot stOK [0, k] ∧ ∀ v, v ≠ d.name → ((s.disableNow d).tile v).store = (s.tile v).store := by
  rw [State.disableNow_tile s d h, (s.unloaded_changes d).cmd, note]
  have cleared := State.setTile_changes (s.unloaded d) d.name {}
  have named := State.substitute_changes ((s.unloaded d).setTile d.name {}) (d.name / 64) (d.name % 64)
  have replied := State.replyOk_changes (((s.unloaded d).setTile d.name {}).substitute (d.name / 64) (d.name % 64)).2 d.fn d.slot
    [0, (((s.unloaded d).setTile d.name {}).substitute (d.name / 64) (d.name % 64)).1]
  refine ⟨_, ?_, (by rw [replied.die]; exact State.substitute_physicalOf _ _ _), State.replyOk_finished _ _ _ _ ?_, fun v hv => ?_⟩
  · rw [replied.tile, named.tile, State.setTile_same]
  · rw [named.cmd, cleared.cmd, (s.unloaded_changes d).cmd]
    exact Cmd.live_of_running run
  · rw [replied.tile, named.tile, State.setTile_other _ _ _ _ hv, State.unloaded_store]

/-- R368: a section out of service, its tiles and its attention pipeline cleared. -/
theorem State.disableNow_section_done (s : State) (d : Drain) (h : d.whole = true) (hd : d.name < 16)
    (run : (s.cmd d.fn d.slot).phase = .running) (note : (s.cmd d.fn d.slot).note = 0) :
    (s.disableNow d).secOut.getLsbD d.name = true ∧ ((s.disableNow d).atp d.name).program = none ∧
      (∀ k, k < 16 → (s.disableNow d).tile (16 * d.name + k) = (((s.unloaded d).tile (16 * d.name + k)).cleared)) ∧
      Finished (s.disableNow d) d.fn d.slot stOK [0, 0] := by
  rw [State.disableNow_section s d h, (s.unloaded_changes d).cmd, note]
  have cleared := State.clearSection_changes (s.unloaded d) d.name
  have taken := State.setSecOut_changes ((s.unloaded d).clearSection d.name) ((s.unloaded d).secOut ||| (1#16 <<< d.name))
  have replied := fun u : State => State.replyOk_changes u d.fn d.slot [0, 0]
  refine ⟨?_, ?_, fun k hk => ?_, State.replyOk_finished _ _ _ _ ?_⟩
  · rw [show (State.replyOk _ d.fn d.slot [0, 0]).secOut = _ from (replied _).agrees .secOut (by simp)]
    simp [hd]
  · rw [(replied _).atp, taken.atp]
    exact State.clearSection_atp _ _
  · rw [(replied _).tile, taken.tile]
    exact State.clearSection_tile _ _ _ hk
  · rw [taken.cmd, cleared.cmd, (s.unloaded_changes d).cmd]
    exact Cmd.live_of_running run

/-! ### How far each command is -/

/-- The phase and status of a function's command. -/
def State.progress (s : State) (r : Nat × Nat) : CmdPhase × Nat := ((s.cmd r.1 r.2).phase, (s.cmd r.1 r.2).status)

/-- Whether a phase is of a command that may still be stopped. -/
def CmdPhase.live (p : CmdPhase) : Bool := p == .accepted || p == .running

theorem State.cmd_live (s : State) (r : Nat × Nat) : (s.cmd r.1 r.2).live = (s.progress r).1.live := rfl

theorem Same.progress {l : List Component} {s t : State} (h : Same l s t) (hl : .slots ∉ l := by simp) : t.progress = s.progress := by
  funext r
  unfold State.progress
  rw [h.cmd r.1 r.2 hl]

theorem State.cmd_of_key (s : State) {f n a m : Nat} (h : slotKey a m = slotKey f n) : s.cmd a m = s.cmd f n := by
  unfold State.cmd State.slot
  rw [h]

theorem State.modCmd_other (s : State) (f n : Nat) (g : Cmd → Cmd) (a m : Nat) (h : slotKey a m ≠ slotKey f n) :
    (s.modCmd f n g).cmd a m = s.cmd a m :=
  congrArg Slot.cmd (State.modSlot_other _ _ _ _ _ _ h)

theorem State.modCmd_progress (s : State) (f n : Nat) (g : Cmd → Cmd) (h : ∀ x, (g x).phase = x.phase ∧ (g x).status = x.status) :
    (s.modCmd f n g).progress = s.progress := by
  funext r
  unfold State.progress
  by_cases hk : slotKey r.1 r.2 = slotKey f n
  · rw [State.cmd_of_key _ hk, State.cmd_of_key _ hk, State.modCmd_same, (h _).1, (h _).2]
  · rw [State.modCmd_other _ _ _ _ _ _ hk]

/-- How far the commands are once one of them is ended: it keeps its status if it was over before. -/
def endedAt (x : Nat × Nat → CmdPhase × Nat) (r : Nat × Nat) (status : Nat) : Nat × Nat → CmdPhase × Nat :=
  fun q => if slotKey q.1 q.2 = slotKey r.1 r.2 ∧ (x q).1.live = true then (.finished, status) else x q

theorem State.endedAt_of_not_live (s : State) (r : Nat × Nat) (h : (s.cmd r.1 r.2).live = false) (status : Nat) :
    endedAt s.progress r status = s.progress := by
  funext q
  refine if_neg (fun hq => ?_)
  rw [← State.cmd_live, State.cmd_of_key _ hq.1, h] at hq
  exact absurd hq.2 (by decide)

theorem State.finishCmd_progress (s : State) (f n status : Nat) :
    (s.finishCmd f n status).progress = endedAt s.progress (f, n) status := by
  unfold State.finishCmd
  split
  · rename_i live
    funext q
    by_cases hk : slotKey q.1 q.2 = slotKey f n
    · have hq : (s.progress q).1.live = true := by rw [← State.cmd_live, State.cmd_of_key _ hk, live]
      rw [endedAt, if_pos ⟨hk, hq⟩]
      simp [State.progress, State.cmd_of_key _ hk]
    · rw [endedAt, if_neg (fun h => hk h.1)]
      unfold State.progress
      dsimp only
      rw [State.modCmd_other _ _ _ _ _ _ hk, (State.stamp_changes _ _).cmd]
  · rename_i ended
    rw [s.endedAt_of_not_live (f, n) (by simpa using ended)]

theorem State.traceDies_changes (s : State) (q : Program) (point a0 : Nat) (a1 : Nat → Nat) :
    Same [.free, .time, .log] s (s.traceDies q point a0 a1) :=
  Same.forEach _ s _ (fun _ st => st.trace_changes _ _ _ _ _)

theorem State.noteStop_changes (s : State) (p g : Nat) (x : Stop) : Same [.parts, .free, .time, .log] s (s.noteStop p g x) := by
  unfold State.noteStop
  exact Same.ite (Same.refl _ s)
    (((State.setProgram_changes _ _ _ _).mono (by simp)).trans ((State.traceDies_changes _ _ _ _ _).mono (by simp)))

theorem State.stopTile_progress (s : State) (t : Nat) : (s.stopTile t).progress = s.progress := by
  unfold State.stopTile
  split
  · dsimp only
    split
    · exact State.modCmd_progress _ _ _ _ (fun x => by exact ⟨rfl, rfl⟩)
    · rfl
  · rfl

theorem State.endAppend_changes (s : State) (j : Job) : Same [.ctxs] s (s.endAppend j) := by
  unfold State.endAppend
  exact Same.ite ⟨fun c hc => by cases c <;> simp at hc <;> rfl⟩ (Same.refl _ s)

theorem State.stopAtp_changes (s : State) (n : Nat) :
    Same [.ctxs, .atps, .link, .tierReqs, .grants, .mgrQueue, .fabric] s (s.stopAtp n) := by
  unfold State.stopAtp
  exact Same.ite (((Same.forEach _ s _ (fun j st => (st.endAppend_changes j).mono (by simp))).trans
    ((State.modAtp_changes _ _ _).mono (by simp))).trans ((State.orphanRequests_changes _ _ _).mono (by simp))) (Same.refl _ s)

theorem State.stopProgram_progress (s : State) (p g status : Nat) : (s.stopProgram p g status).progress = s.progress := by
  unfold State.stopProgram
  dsimp only
  split
  · rw [(State.noteStop_changes _ _ _ _).progress, (Same.forEach _ _ _ (fun n st => st.stopAtp_changes n)).progress]
    exact forEach_keeps State.progress _ _ _ (fun t st => st.stopTile_progress t)
  · rfl

theorem State.endColl_progress (s : State) (p : Nat) (q : Coll → Bool) : (s.endColl p q).progress = s.progress := by
  unfold State.endColl
  dsimp only
  rw [(State.modPart_changes _ _ _).progress]
  refine forEach_keeps State.progress _ _ _ (fun x st => ?_)
  rw [(State.orphanRequests_changes _ _ _).progress]
  exact State.modCmd_progress _ _ _ _ (fun x => by exact ⟨rfl, rfl⟩)

theorem State.stopFence_progress (s : State) (f n : Nat) : (s.stopFence f n).progress = s.progress := by
  unfold State.stopFence
  split
  · rfl
  · split
    · rfl
    · exact State.modCmd_progress _ _ _ _ (fun x => by exact ⟨rfl, rfl⟩)

/-- A stopped command ends with the status given, if it was not over; of the others none goes on or ends. -/
theorem State.stopCommand_progress (s : State) (f n status : Nat) :
    (s.stopCommand f n status).progress = endedAt s.progress (f, n) status := by
  unfold State.stopCommand
  dsimp only
  split
  · rename_i ended
    rw [s.endedAt_of_not_live (f, n) (by simpa using ended)]
  · have results : ∀ (t : State) (c : Prop) [Decidable c] (ws : List (BitVec 64)) (x : Program),
        (if c then (t.modCmd f n (fun y => { y with result := ws })).setProgram f ((s.cmd f n).param 0 1) x else t).progress = t.progress := by
      intro t c _ ws x
      split
      · rw [(State.setProgram_changes _ _ _ _).progress]
        exact State.modCmd_progress _ _ _ _ (fun x => ⟨rfl, rfl⟩)
      · rfl
    refine (State.modCmd_progress _ _ _ _ (fun x => by exact ⟨rfl, rfl⟩)).trans ?_
    rw [State.finishCmd_progress]
    refine congrArg (fun x => endedAt x (f, n) status) ((results _ _ _ _).trans ?_)
    rw [(State.orphanRequests_changes _ _ _).progress]
    split
    · exact State.stopProgram_progress _ _ _ _
    · split
      · exact (State.unload_changes _ _ _).progress
      · split
        · rfl
        · split
          · exact State.endColl_progress _ _ _
          · split
            · exact State.stopFence_progress _ _ _
            · rfl

theorem endedAt_of_over (x : Nat × Nat → CmdPhase × Nat) (r q : Nat × Nat) (status : Nat) (h : (x q).1.live = false) :
    endedAt x r status q = x q :=
  if_neg (fun hq => by rw [h] at hq; exact absurd hq.2 (by decide))

/-- Of commands that are stopped in turn, each that was live ends with the status given. -/
theorem forEach_stopCommand_ends (status : Nat) (runs : List (Nat × Nat)) (s : State) (r : Nat × Nat)
    (h : s.progress r = (.finished, status) ∨ r ∈ runs ∧ (s.progress r).1.live = true) :
    (forEach runs s (fun r st => st.stopCommand r.1 r.2 status)).progress r = (.finished, status) := by
  induction runs generalizing s with
  | nil => exact h.resolve_right (fun hr => absurd hr.1 List.not_mem_nil)
  | cons x xs ih =>
    refine ih (s.stopCommand x.1 x.2 status) ?_
    rw [State.stopCommand_progress]
    rcases h with ended | ⟨mem, live⟩
    · exact Or.inl ((endedAt_of_over _ _ _ _ (by rw [ended]; rfl)).trans ended)
    · by_cases key : slotKey r.1 r.2 = slotKey x.1 x.2
      · exact Or.inl (if_pos ⟨key, live⟩)
      · have other : endedAt s.progress x status r = s.progress r := if_neg (fun hq => key hq.1)
        rw [other]
        exact Or.inr ⟨(List.mem_cons.1 mem).resolve_left (fun e => key (by rw [e])), live⟩

theorem State.replyOk_progress (s : State) (f n : Nat) (rs : List Nat) : (s.replyOk f n rs).progress = endedAt s.progress (f, n) stOK := by
  unfold State.replyOk
  rw [State.finishCmd_progress]
  exact congrArg (fun x => endedAt x (f, n) stOK) (State.modCmd_progress _ _ _ _ (fun x => by exact ⟨rfl, rfl⟩))

/-- Disabling a unit leaves a command that is over as it is. -/
theorem State.disableNow_progress (s : State) (d : Drain) (r : Nat × Nat) (h : (s.progress r).1.live = false) :
    (s.disableNow d).progress r = s.progress r := by
  have before := (s.unloaded_changes d).progress
  cases hw : d.whole with
  | false =>
    rw [State.disableNow_tile s d hw, State.replyOk_progress, (State.substitute_changes _ _ _).progress,
      (State.setTile_changes _ _ _).progress, before, endedAt_of_over _ _ _ _ h]
  | true =>
    have cleared := (State.clearSection_changes (s.unloaded d) d.name).progress
    rw [State.disableNow_section s d hw, State.replyOk_progress, (State.setSecOut_changes _ _).progress, cleared, before,
      endedAt_of_over _ _ _ _ h]

/-- The end of a drain leaves a command that is over as it is. -/
theorem State.drainOn_progress (s : State) (f n : Nat) (r : Nat × Nat) (h : (s.progress r).1.live = false) :
    (s.drainOn f n).progress r = s.progress r := by
  unfold State.drainOn
  split
  · rfl
  · dsimp only
    generalize s.sectionOwner _ = owner
    split
    · exact s.disableNow_progress _ r h
    · rfl

/-- R32: a program that still runs on the unit when its drain expires ends with ABORTED. -/
theorem execDrainExpire_aborts (s : State) (d : Drain) (p g f n : Nat)
    (listed : s.drains.find? (fun e => e.fn == d.fn && e.slot == d.slot) = some d) (expired : d.expiry ≤ s.now)
    (runs : (p, g) ∈ s.programsOn d.tiles d.atps) (owner : (s.program p g).cmd = some (f, n)) (live : (s.cmd f n).live = true) :
    ∃ t, exec (.drainExpire d.fn d.slot) s = .next t ∧ (t.cmd f n).phase = .finished ∧ (t.cmd f n).status = stABORTED := by
  obtain ⟨rs, listing⟩ : ∃ rs, (s.programsOn d.tiles d.atps).filterMap (fun e => (s.program e.1 e.2).cmd) = rs := ⟨_, rfl⟩
  have mem : (f, n) ∈ rs := listing ▸ List.mem_filterMap.2 ⟨(p, g), runs, owner⟩
  have stopped := forEach_stopCommand_ends stABORTED rs s (f, n) (Or.inr ⟨mem, live⟩)
  have noted := State.modCmd_progress (forEach rs s (fun r st => st.stopCommand r.1 r.2 stABORTED)) d.fn d.slot
    (fun c => { c with note := c.note + rs.length }) (fun x => ⟨rfl, rfl⟩)
  have ended := State.drainOn_progress _ d.fn d.slot (f, n) (by rw [noted, stopped]; rfl)
  rw [noted, stopped] at ended
  refine ⟨_, rfl, ?_⟩
  rw [listed]
  dsimp only
  rw [if_neg (by omega), listing]
  exact Prod.ext_iff.1 ended

/-! ### The end of a clearing -/

theorem clearingEnd_section (s : State) (i : Nat) (clearing : s.secClear.getLsbD i = true) :
    ∃ t, exec (.clearingEnd (.tileSection i)) s = .next t ∧ t.secClear = s.secClear &&& ~~~(1#16 <<< i) ∧
      ∀ k, k < 16 → (t.tile (16 * i + k)).store = [] ∧ (t.tile (16 * i + k)).groups = [] := by
  refine ⟨{ (s.clearSection i) with secClear := s.secClear &&& ~~~(1#16 <<< i) }, ?_, rfl, fun k hk => ?_⟩
  · show execClearingEnd (.tileSection i) s = _
    unfold execClearingEnd
    dsimp only
    rw [if_pos clearing]
  · rw [(State.setSecClear_changes _ _).tile, State.clearSection_tile s i k hk]
    exact ⟨rfl, rfl⟩

theorem clearingEnd_stack (s : State) (k : Nat) (scrubbing : (s.stack k).mode = .scrubbing) (cool : (s.stack k).level < 2) :
    ∃ t, exec (.clearingEnd (.stack k)) s = .next t ∧ (t.stack k).mode = .service ∧
      (∀ a, a < windowBytes → BMap.read t.mem (k * 2 ^ 37 + a) = 0) ∧ OnlyWrites s t (k * 2 ^ 37) windowBytes := by
  have moved := State.setMode_changes (s.clearMem (k * 2 ^ 37) windowBytes) k .service
  have mem : ((s.clearMem (k * 2 ^ 37) windowBytes).setMode k .service).mem = BMap.clear s.mem (k * 2 ^ 37) windowBytes :=
    moved.agrees .mem (by simp)
  refine ⟨(s.clearMem (k * 2 ^ 37) windowBytes).setMode k .service, ?_, ?_, fun a ha => ?_, fun c hc => ?_⟩
  · exact congrArg Host.Outcome.next (if_pos (by simp [scrubbing, cool]))
  · have kept : (s.clearMem (k * 2 ^ 37) windowBytes).stack k = s.stack k := rfl
    unfold State.setMode
    rw [kept, if_neg (by rw [scrubbing]; decide), (State.event_changes _ _ _ _ _ _ _ _ _).stack, State.modStack_same]
  · rw [mem, BMap.read_clear, if_pos (by omega)]
  · rw [mem, BMap.read_clear, if_neg (by omega)]

theorem clearingEnd_extent (s : State) (e : Nat) (trimming : (s.extent e).trimming ≠ 0) :
    ∃ t, exec (.clearingEnd (.extent e)) s = .next t ∧ t.extent e = { s.extent e with trimming := 0 } ∧
      (∀ x, x ≠ e → t.extent x = s.extent x) ∧ t.flash.data = s.flash.data :=
  ⟨s.setExtent e { (s.extent e) with trimming := 0 }, congrArg Host.Outcome.next (if_neg trimming), State.setExtent_same _ _ _,
    fun _ hx => State.setExtent_other _ _ _ _ hx, rfl⟩

/-- Settles O23: a disable acts at once on an idle unit, an expired drain stops what still runs, a clearing frees its unit. -/
theorem disablesAndClearingsComplete : Obligations.disablesAndClearingsComplete := by
  refine ⟨fun s fn slot u free => ⟨?_, ?_⟩, fun s => ⟨?_, ?_, ?_, ?_⟩⟩
  · intro take unit hu zero wait note idle
    obtain ⟨t, d, run, hf, hn, name, whole, same, running, noted⟩ :=
      disableOp_now s fn slot opTILE_DISABLE 256 u (fun t => [t]) (fun _ => []) false free take unit hu zero wait note idle
    subst hf hn name
    obtain ⟨k, cleared, named, finished, stores⟩ := State.disableNow_tile_done t d whole running noted
    exact ⟨t.disableNow d, k, run, cleared, named, finished, fun v hv => (stores v hv).trans (by rw [same.tile])⟩
  · intro take unit hu zero wait note idle
    obtain ⟨t, d, run, hf, hn, name, whole, -, running, noted⟩ :=
      disableOp_now s fn slot opSECTION_DISABLE 16 u (fun i => (List.range 16).map (fun k => 16 * i + k)) (fun i => [i]) true free
        take unit hu zero wait note idle
    subst hf hn name
    obtain ⟨out, pipeline, tiles, finished⟩ := State.disableNow_section_done t d whole hu running noted
    refine ⟨t.disableNow d, run, out, pipeline, fun k hk => ?_, finished⟩
    rw [tiles k hk]
    exact ⟨rfl, rfl, rfl⟩
  · exact execDrainExpire_aborts s
  · exact fun i _ => clearingEnd_section s i
  · exact fun k _ => clearingEnd_stack s k
  · exact clearingEnd_extent s

end Sys2Proof.Machine

/-! ## O48: requests at their target (R29, R184, R195, R298, R303)

A request of a run within one sound block is delivered at once, done in device memory and answered last; `Request` gathers what the
statement assumes of it. -/

namespace Sys2Proof.Machine
open Sys2Proof

/-! ### Runs of bytes within one block of a stack -/

theorem chunksOf_within (g a : Nat) (bytes : List Byte) (h0 : 1 ≤ bytes.length) (h : a % g + bytes.length ≤ g) :
    chunksOf g a bytes = [(a, bytes)] := by
  have some' : bytes ≠ [] := fun e => by simp [e] at h0
  have take : bytes.take (g - a % g) = bytes := List.take_of_length_le (by omega)
  have drop : bytes.drop (g - a % g) = [] := List.drop_of_length_le (by omega)
  simp [chunksOf, chunks, some', take, drop]

theorem spansOf_within (g a n : Nat) (h0 : 1 ≤ n) (h : a % g + n ≤ g) : spansOf g a n = [(a, n)] := by
  have whole : min n (g - a % g) = n := by omega
  simp [spansOf, spans, whole, Nat.ne_of_gt h0]

/-- The block a run lies in is sound: its stack serves, and it is neither poisoned nor damaged. -/
def State.soundBlock (s : State) (a : Nat) : Prop :=
  (s.stack (a / 2 ^ 37)).mode = .service ∧ (s.block a).poison = false ∧ (s.block a).sense = .good

theorem Sound.block {s : State} {p a n : Nat} (h : Sound s p a n) (hn : 1 ≤ n) : s.soundBlock a := by
  obtain ⟨-, -, blocks⟩ := h
  have first := blocks 0 (by omega) (by omega)
  have stack : (a / 2048 * 2048 + 2048 * 0) / 2 ^ 37 = a / 2 ^ 37 := by omega
  have block : s.block (a / 2048 * 2048 + 2048 * 0) = s.block a := by
    unfold State.block
    rw [show (a / 2048 * 2048 + 2048 * 0) / 2048 = a / 2048 by omega]
  rw [stack, block] at first
  exact first

theorem Sound.within {s : State} {p a m n : Nat} (h : Sound s p a m) (hn : 1 ≤ n) (hm : n ≤ m) : s.within p a n = true := by
  obtain ⟨below, granted, -⟩ := h
  have window : (s.part p).inWindow a m = true := by
    have tier : (s.part p).inTier a m = false := by
      simp only [Part.inTier, Bool.and_eq_false_iff, decide_eq_false_iff_not]
      exact Or.inl (by omega)
    simpa [State.within, tier] using granted
  have part : (s.part p).inWindow a n = true := by
    simp only [Part.inWindow, Bool.and_eq_true, decide_eq_true_eq] at window ⊢
    exact ⟨window.1, by omega⟩
  simp [State.within, part]

theorem Same.block {l : List Component} {s t : State} (h : Same l s t) (a : Nat) (hl : .blocks ∉ l := by simp) : t.block a = s.block a := by
  unfold State.block
  rw [show t.blocks = s.blocks from h.agrees .blocks hl]

theorem Same.mem {l : List Component} {s t : State} (h : Same l s t) (hl : .mem ∉ l := by simp) : t.mem = s.mem := h.agrees .mem hl

theorem Same.fabric {l : List Component} {s t : State} (h : Same l s t) (hl : .fabric ∉ l := by simp) : t.fabric = s.fabric :=
  h.agrees .fabric hl

theorem State.modStack_changes (s : State) (k : Nat) (g : Stack → Stack) : Same [.hbm] s (s.modStack k g) :=
  ⟨fun c hc => by cases c <;> simp at hc <;> rfl⟩

theorem State.activate_changes (s : State) (a : Nat) : Same [.hbm] s (s.activate a) := by
  unfold State.activate
  exact State.modStack_changes _ _ _

theorem State.charge_changes (s : State) (a n : Nat) : Same [.hbm] s (s.charge a n) := by
  unfold State.charge State.deduct
  exact State.modStack_changes _ _ _

/-- Sensing a sound block finds it good, and counts on its stack only. -/
theorem State.senseBlock_sound (s : State) (a n : Nat) (verify : Bool) (cause : Option Nat) (bond : Bool) (h : s.soundBlock a) :
    ∃ t, s.senseBlock a n verify cause bond = (0, 0, t) ∧ Same [.hbm] s t := by
  obtain ⟨serves, whole, good⟩ := h
  have sensed : Same [.hbm] s
      (if bond then (if bond then s.activate a else s).charge a (fetchBytes a n verify) else if bond then s.activate a else s) :=
    Same.ite ((Same.ite (s.activate_changes a) (Same.refl _ s)).trans (State.charge_changes _ _ _)) (Same.ite (s.activate_changes a) (Same.refl _ s))
  refine ⟨_, ?_, sensed⟩
  unfold State.senseBlock
  rw [if_neg (by rw [serves]; decide)]
  dsimp only
  rw [sensed.block, whole, if_neg (by decide), if_neg (by simp [Block.badFor, good, senseBad])]

/-- A sound block changes as asked. -/
theorem State.changeBlock_sound (s : State) (a n cause : Nat) (whole : Bool) (f : List Byte → List Byte × BitVec 6) (bond : Bool)
    (h : s.soundBlock a) :
    ∃ t, s.changeBlock a n cause whole f bond = (0, 0, (f (BMap.readBytes s.mem a n)).2, t) ∧
      t.mem = BMap.writeBytes s.mem a (f (BMap.readBytes s.mem a n)).1 ∧ Same [.hbm, .mem, .blocks] s t := by
  obtain ⟨u, sense, counted⟩ := s.senseBlock_sound a n true (some cause) bond h
  have charged : ∀ v, Same [.hbm] s v → Same [.hbm] s (if bond then v.charge a 2048 else v) := fun v hv =>
    Same.ite (hv.trans (v.charge_changes _ _)) hv
  have written : ∀ v, Same [.hbm] s v → ∃ t : State,
      (0, 0, (f (BMap.readBytes v.mem a n)).2, ({ v with mem := BMap.writeBytes v.mem a (f (BMap.readBytes v.mem a n)).1 }).setBlock a {}) =
        (0, 0, (f (BMap.readBytes s.mem a n)).2, t) ∧
      t.mem = BMap.writeBytes s.mem a (f (BMap.readBytes s.mem a n)).1 ∧ Same [.hbm, .mem, .blocks] s t := by
    intro v hv
    have mem : v.mem = s.mem := hv.mem
    rw [mem]
    refine ⟨_, rfl, rfl, (hv.mono (by simp)).trans ⟨fun c hc => ?_⟩⟩
    cases c <;> simp at hc <;> rfl
  unfold State.changeBlock
  rw [if_neg (by rw [h.1]; decide), sense]
  dsimp only
  split
  · exact written _ (charged _ (s.activate_changes a))
  · exact written _ (charged _ counted)

/-! ### What a WRITE, an ADD and a READ find in device memory -/

theorem State.writeStack_sound (s : State) (a : Nat) (bytes : List Byte) (h : s.soundBlock a) (h0 : 1 ≤ bytes.length)
    (one : a % 2048 + bytes.length ≤ 2048) :
    (s.writeStack a bytes).status = 0 ∧ (s.writeStack a bytes).st.mem = BMap.writeBytes s.mem a bytes ∧
      Same [.hbm, .mem, .blocks] s (s.writeStack a bytes).st := by
  obtain ⟨t, run, mem, same⟩ := s.changeBlock_sound a bytes.length 4 true (fun _ => (bytes, 0)) true h
  unfold State.writeStack
  rw [chunksOf_within blockSize a bytes h0 one]
  dsimp only [List.foldl]
  rw [run]
  exact ⟨rfl, mem, same⟩

theorem State.addStack_sound (s : State) (a addfmt : Nat) (z : Bool) (bytes : List Byte) (cause : Nat) (h : s.soundBlock a) (h0 : 1 ≤ bytes.length)
    (one : a % 2048 + bytes.length ≤ 2048) :
    (s.addStack a addfmt z bytes cause).status = 0 ∧
      (s.addStack a addfmt z bytes cause).st.mem = BMap.writeBytes s.mem a
        (addRun addfmt (addBytes addfmt) z bytes.length (BMap.readBytes s.mem a bytes.length) bytes).1 ∧
      Same [.hbm, .mem, .blocks] s (s.addStack a addfmt z bytes cause).st := by
  obtain ⟨t, run, mem, same⟩ := s.changeBlock_sound a bytes.length cause false
    (fun old => addRun addfmt (addBytes addfmt) z bytes.length old bytes) true h
  unfold State.addStack
  rw [chunksOf_within blockSize a bytes h0 one]
  dsimp only [List.foldl]
  rw [run]
  exact ⟨rfl, mem, same⟩

theorem State.readStack_sound (s : State) (a n : Nat) (verify : Bool) (h : s.soundBlock a) (h0 : 1 ≤ n) (one : a % 2048 + n ≤ 2048) :
    (s.readStack a n verify).status = 0 ∧ (s.readStack a n verify).bytes = BMap.readBytes s.mem a n ∧
      Same [.hbm] s (s.readStack a n verify).st := by
  obtain ⟨t, run, same⟩ := s.senseBlock_sound a n verify none true h
  have mem : t.mem = s.mem := same.mem
  unfold State.readStack
  rw [spansOf_within blockSize a n h0 one]
  dsimp only [List.foldl]
  rw [if_neg (by simp), run]
  exact ⟨rfl, by rw [← mem]; rfl, same⟩

theorem natLe_length (v n : Nat) : (natLe v n).length = n := by
  induction n generalizing v with
  | zero => rfl
  | succ n ih => simp [natLe, ih]

theorem addRun_length (addfmt w : Nat) (z : Bool) (hw : 1 ≤ w) (k : Nat) (old add : List Byte) (h : old.length ≤ k) :
    (addRun addfmt w z k old add).1.length = old.length := by
  induction k generalizing old add with
  | zero =>
    rw [Nat.le_zero.1 h]
    rfl
  | succ k ih =>
    unfold addRun
    split
    · rfl
    · rename_i long
      dsimp only
      rw [List.length_append, natLe_length, ih _ _ (by rw [List.length_drop]; omega), List.length_drop]
      omega

theorem addBytes_pos (addfmt : Nat) : 1 ≤ addBytes addfmt := by
  unfold addBytes
  split
  · decide
  · split <;> decide

/-! ### A packet in its turn -/

/-- Runs below the tier ask it for nothing, and wait only for their stacks. -/
theorem State.ready_below (s : State) (p : Nat) (rs ws : List (Nat × Nat)) (kind : TierKind) (o : Owner)
    (below : ∀ r ∈ rs ++ ws, r.1 < tierBase) (up : ∀ r ∈ rs ++ ws, s.answers p r.1 r.2 = true) : s.ready p rs ws kind o = (true, s) := by
  have untiered : ∀ r ∈ rs ++ ws, isTiered r.1 = false := fun r hr => by
    have := below r hr
    simp [isTiered]
    omega
  have needs : ∀ xs, (∀ r ∈ xs, isTiered r.1 = false) → tierNeeds xs = [] := fun xs h => by
    unfold tierNeeds
    rw [List.flatMap_eq_nil_iff.2 (fun r hr => by rw [h r hr]; rfl)]
    rfl
  have asks : ∀ (t : State) xs k, (∀ r ∈ xs, isTiered r.1 = false) → t.askTier p xs k o = (true, t) := fun t xs k h => by
    unfold State.askTier
    rw [needs xs h]
    rfl
  have touch : s.touchPages p (rs ++ ws) = s := by
    unfold State.touchPages
    rw [List.flatMap_eq_nil_iff.2 (fun r hr => by rw [untiered r hr]; rfl)]
    rfl
  unfold State.ready
  rw [touch]
  simp only [ite_self]
  rw [asks s rs .read (fun r hr => untiered r (List.mem_append_left _ hr)), asks s ws kind (fun r hr => untiered r (List.mem_append_right _ hr)),
    List.all_eq_true.2 up]
  rfl

/-- The bytes a request asks for or brings. -/
def spanOf (k : Packet) : Nat := if k.type = pkREAD then k.want else k.payload.length

/-- A WRITE, an ADD or a READ of a sound run is delivered at once. -/
theorem State.canDeliver_sound (s : State) (k : Packet) (type : k.type = pkWRITE ∨ k.type = pkADD ∨ k.type = pkREAD)
    (owned : s.partOfDomain k.domain ≠ 0) (below : k.addr < tierBase) (within : s.within (s.partOfDomain k.domain) k.addr (spanOf k) = true)
    (up : s.answers (s.partOfDomain k.domain) k.addr (spanOf k) = true) (taken : s.refusal k = 0) (plain : k.acc = false) :
    s.canDeliver k = (true, s) := by
  have one : ∀ r ∈ [(k.addr, (spanOf k))], r.1 < tierBase ∧ s.answers (s.partOfDomain k.domain) r.1 r.2 = true := by
    intro r hr
    rw [List.mem_singleton.1 hr]
    exact ⟨below, up⟩
  have other : ¬(k.type = pkCOPY ∨ k.type = pkPARTIAL) := by
    rcases type with h | h | h <;> rw [h] <;> decide
  unfold State.canDeliver
  dsimp only
  rw [if_neg owned, if_neg other, show (if k.type = pkREAD then k.want else k.payload.length) = spanOf k from rfl,
    if_neg (by simp [within, taken]), if_neg (by simp [plain])]
  split
  · exact State.ready_below _ _ _ _ _ _ (fun r hr => (one r (by simpa using hr)).1) (fun r hr => (one r (by simpa using hr)).2)
  · exact State.ready_below _ _ _ _ _ _ (fun r hr => (one r (by simpa using hr)).1) (fun r hr => (one r (by simpa using hr)).2)

/-- The state with a stream gone on past a packet. -/
def State.advance (s : State) (k : Packet) : State :=
  { s with fabric := { s.fabric with rxSeq := Tbl.set 0 s.fabric.rxSeq (streamOf k) ((k.seq + 1) % 2 ^ 32) } }

theorem State.drain_none_ahead (s : State) (stream fuel : Nat) (h : s.fabric.ahead = []) : s.drain stream fuel = s := by
  cases fuel with
  | zero => rfl
  | succ fuel =>
    unfold State.drain
    rw [h]
    rfl

/-- A packet in its turn that can be delivered is, and where none is ahead of it nothing else happens. -/
theorem State.inOrder_turn (s : State) (port : Nat) (k : Packet) (turn : InTurn s k) (free : s.canDeliver k = (true, s))
    (alone : (((s.advance k).deliverPacket k).endPacket k).fabric.ahead = []) :
    s.inOrder port k = ((s.advance k).deliverPacket k).endPacket k := by
  obtain ⟨seq, ahead⟩ := turn
  obtain ⟨u, hu⟩ : ∃ u : State, u = { s with fabric := { s.fabric with ahead := [(port, k)] } } := ⟨_, rfl⟩
  have queued : (if s.fabric.ahead.contains (port, k) then s
      else { s with fabric := { s.fabric with ahead := s.fabric.ahead ++ [(port, k)] } }) = u := by
    rw [ahead, hu]
    rfl
  have first : u.fabric.ahead = [(port, k)] := by rw [hu]
  have received : Tbl.get 0 u.fabric.rxSeq (streamOf k) = k.seq := by rw [hu, seq]
  have taken : { u with fabric := { u.fabric with ahead := u.fabric.ahead.filter (fun x => x != (port, k)) } } = s := by
    rw [first, show [(port, k)].filter (fun x => x != (port, k)) = s.fabric.ahead by simp [ahead], hu]
  unfold State.inOrder
  dsimp only
  rw [if_neg (by simp [seq]), queued, first]
  unfold State.drain
  dsimp only
  rw [first, received]
  simp only [List.find?_cons, BEq.rfl, Bool.and_self]
  rw [← first, taken, free]
  exact State.drain_none_ahead _ _ _ alone

/-- An answer as it leaves: of a type, to the sender of a packet and under its number. -/
def Answers (k : Packet) (type status : Nat) (p : Packet) : Prop := p.type = type ∧ p.dst = k.src ∧ p.seq = k.seq ∧ p.status = status

/-- An acknowledgement goes out last, with what is recorded of its packet, and changes nothing else of the fabric. -/
theorem State.ack_sent (s : State) (k : Packet) (stale : Bool) :
    ∃ q p, (s.ack k stale).fabric = { s.fabric with outbox := s.fabric.outbox ++ [(q, p)] } ∧
      Answers k pkACK (if stale then 0 else (Tbl.get (0, 0) s.fabric.verdicts (verdictKey k)).1) p ∧ p.stale = stale :=
  ⟨_, _, rfl, ⟨rfl, rfl, rfl, rfl⟩, rfl⟩

theorem State.ack_changes (s : State) (k : Packet) (stale : Bool) : Same [.free, .time, .fabric] s (s.ack k stale) := by
  unfold State.ack State.packet
  exact ((State.stamp_changes _ _).mono (by simp)).trans ((State.dispatch_changes _ _).mono (by simp))

theorem State.endPacket_changes (s : State) (k : Packet) : Same [.grants, .fabric] s (s.endPacket k) :=
  ⟨fun c hc => by cases c <;> simp at hc <;> rfl⟩

/-- What `receive` looks at before it takes a packet. -/
theorem State.receive_open (s : State) (q type : Nat) (k : Packet) (stale body : State → State) (port : q < 8) (up : s.portUp q = true)
    (on : s.fabricOn = true) (h : k.type = type) (src : k.src < s.fabricN) (dst : k.dst < s.fabricN) :
    s.receive q k type stale body = .next (if k.dst ≠ s.fabric.position then s.dispatch k
      else if s.isStale k then stale s.countStale else body (s.meet k)) := by
  unfold State.receive
  rw [if_neg]
  simp [up, on, h]
  omega

/-- A packet that arrives here and is not too old is taken. -/
theorem State.receive_here (s : State) (q type : Nat) (k : Packet) (stale body : State → State) (here : Arrives s q k) (fresh : s.isStale k = false)
    (h : k.type = type) : s.receive q k type stale body = .next (body s) := by
  obtain ⟨port, up, on, src, pos, dst, member⟩ := here
  have met : s.meet k = s := if_pos member
  rw [s.receive_open q type k stale body port up on h src (dst ▸ pos), if_neg (by simp [dst]), if_neg (by simp [fresh]), met]

/-- A packet that arrives here too old is counted and answered as such. -/
theorem State.receive_stale (s : State) (q type : Nat) (k : Packet) (stale body : State → State) (here : Arrives s q k) (old : s.isStale k = true)
    (h : k.type = type) : s.receive q k type stale body = .next (stale s.countStale) := by
  obtain ⟨port, up, on, src, pos, dst, -⟩ := here
  rw [s.receive_open q type k stale body port up on h src (dst ▸ pos), if_neg (by simp [dst]), if_pos old]

/-! ### Requests in their turn -/

/-- The last packet sent, as a request's answer. -/
theorem outbox_answer {k p : Packet} {o : List (Nat × Packet)} {q type status : Nat} (last : o.getLast? = some (q, p)) (h : Answers k type status p)
    (fresh : p.stale = false) : o.getLast? = some (q, { (o.getLast?.map (·.2)).getD default with
      type := type, dst := k.src, seq := k.seq, stale := false, status := status }) := by
  obtain ⟨rfl, hd, hs, rfl⟩ := h
  rw [last, ← hd, ← hs, ← fresh]
  rfl

/-- A request done in memory, its verdict kept, acknowledged and closed. -/
theorem State.acknowledged (u v : State) (k : Packet) (flags : BitVec 6) (same : Same [.hbm, .mem, .blocks] u v) :
    (((v.verdict k 0 flags).ack k false).endPacket k).mem = v.mem ∧
    (((v.verdict k 0 flags).ack k false).endPacket k).fabric.ahead = u.fabric.ahead ∧
    (((v.verdict k 0 flags).ack k false).endPacket k).fabric.rxSeq = u.fabric.rxSeq ∧
    ∃ q p, (((v.verdict k 0 flags).ack k false).endPacket k).fabric.outbox.getLast? = some (q, p) ∧ Answers k pkACK 0 p ∧ p.stale = false := by
  obtain ⟨q, p, sent, answers, fresh⟩ := (v.verdict k 0 flags).ack_sent k false
  have fabric : v.fabric = u.fabric := same.fabric
  have recorded : (Tbl.get (0, 0) (v.verdict k 0 flags).fabric.verdicts (verdictKey k)).1 = 0 := by simp [State.verdict]
  have closed : (((v.verdict k 0 flags).ack k false).endPacket k).fabric = { ((v.verdict k 0 flags).ack k false).fabric with
    refused := ((v.verdict k 0 flags).ack k false).fabric.refused.filter (fun e => e.1 != verdictKey k) } := rfl
  rw [if_neg (by decide), recorded] at answers
  refine ⟨?_, ?_, ?_, q, p, ?_, answers, fresh⟩
  · rw [(State.endPacket_changes _ _).mem, (State.ack_changes _ _ _).mem]
    rfl
  · rw [closed, sent, ← fabric]
    rfl
  · rw [closed, sent, ← fabric]
    rfl
  · rw [closed, sent]
    simp

/-- A WRITE of a run of the partition that nothing has refused. -/
theorem State.deliverPacket_write (u : State) (k : Packet) (type : k.type = pkWRITE) (owned : u.partOfDomain k.domain ≠ 0)
    (within : u.within (u.partOfDomain k.domain) k.addr k.payload.length = true) (taken : u.refusal k = 0) (whole : k.nibble = none) :
    u.deliverPacket k = ((u.writeDev (u.partOfDomain k.domain) k.addr k.payload).st.verdict k
      (u.writeDev (u.partOfDomain k.domain) k.addr k.payload).status 0).ack k false := by
  unfold State.deliverPacket
  dsimp only
  rw [if_neg (by rw [type]; decide), if_neg (by rw [type]; decide), if_neg (by simp [taken]), if_neg (by simp [owned, within]), if_pos type, whole]

/-- An ADD to a run of the partition that nothing has refused. -/
theorem State.deliverPacket_add (u : State) (k : Packet) {p : Nat} (part : u.partOfDomain k.domain = p) (type : k.type = pkADD) (owned : p ≠ 0)
    (within : u.within p k.addr k.payload.length = true) (taken : u.refusal k = 0) (plain : k.acc = false) :
    u.deliverPacket k = ((u.addDev p k.addr k.addfmt (u.policyZ p) k.payload).st.verdict k
      (u.addDev p k.addr k.addfmt (u.policyZ p) k.payload).status (u.addDev p k.addr k.addfmt (u.policyZ p) k.payload).flags).ack k false := by
  unfold State.deliverPacket
  dsimp only
  rw [part, if_neg (by rw [type]; decide), if_neg (by rw [type]; decide), if_neg (by simp [taken]), if_neg (by simp [owned, within]),
    if_neg (by rw [type]; decide), plain]
  rfl

/-- The answer to a READ of a sound run: its bytes, sent last, and nothing of memory changed. -/
theorem State.serveRead_sound (u : State) (k : Packet) (owned : u.partOfDomain k.domain ≠ 0) (below : k.addr < tierBase) (some : 1 ≤ k.want)
    (one : k.addr % 2048 + k.want ≤ 2048) (within : u.within (u.partOfDomain k.domain) k.addr k.want = true) (taken : u.refusal k = 0)
    (sound : u.soundBlock k.addr) :
    (u.serveRead k).mem = u.mem ∧ ∃ q p, (u.serveRead k).fabric = { u.fabric with outbox := u.fabric.outbox ++ [(q, p)] } ∧
      Answers k pkREAD_DATA 0 p ∧ p.payload = BMap.readBytes u.mem k.addr k.want := by
  obtain ⟨status, bytes, same⟩ := u.readStack_sound k.addr k.want false sound some one
  have read : u.readDev (u.partOfDomain k.domain) k.addr k.want false = u.readStack k.addr k.want false := if_pos below
  have fabric : (u.readStack k.addr k.want false).st.fabric = u.fabric := same.fabric
  have mem : (u.readStack k.addr k.want false).st.mem = u.mem := same.mem
  unfold State.serveRead
  dsimp only
  rw [if_neg (by simp [taken]), if_pos (by simp [owned, within]), read]
  have sent : ∀ (v : State) (a : Packet), v.fabric = u.fabric →
      (v.dispatch a).fabric = { u.fabric with outbox := u.fabric.outbox ++ [((v.routePort a.dst).getD 255, a)] } := fun v a h => by
    rw [← h]
    rfl
  rw [(State.dispatch_changes _ _).mem]
  refine ⟨mem, _, _, sent _ _ fabric, ⟨rfl, rfl, rfl, status⟩, ?_⟩
  exact (if_pos status).trans bytes

/-- A request of a run within one sound block, in its turn and of a partition, that its stacks answer and the tier has not refused. -/
structure Request (s : State) (q : Nat) (k : Packet) : Prop where
  here : Arrives s q k
  fresh : s.isStale k = false
  turn : InTurn s k
  owned : s.partOfDomain k.domain ≠ 0
  sound : OneBlock s (s.partOfDomain k.domain) k.addr (max k.payload.length k.want)
  up : s.answers (s.partOfDomain k.domain) k.addr (spanOf k) = true
  taken : s.refusal k = 0
  plain : k.acc = false

theorem spanOf_le (k : Packet) : spanOf k ≤ max k.payload.length k.want := by
  unfold spanOf
  split <;> omega

theorem Request.below {s : State} {q : Nat} {k : Packet} (r : Request s q k) (some : 1 ≤ spanOf k) : k.addr < tierBase := by
  have fits := r.sound.1.1
  have := spanOf_le k
  omega

theorem Request.inOneBlock {s : State} {q : Nat} {k : Packet} (r : Request s q k) : k.addr % 2048 + spanOf k ≤ 2048 := by
  have fits := r.sound.2
  have := spanOf_le k
  omega

theorem Request.within {s : State} {q : Nat} {k : Packet} (r : Request s q k) (some : 1 ≤ spanOf k) :
    s.within (s.partOfDomain k.domain) k.addr (spanOf k) = true := r.sound.1.within some (spanOf_le k)

theorem Request.soundBlock {s : State} {q : Nat} {k : Packet} (r : Request s q k) (some : 1 ≤ spanOf k) : s.soundBlock k.addr :=
  r.sound.1.block (some.trans (spanOf_le k))

/-- A request is taken by its stream at once, which goes on to the next. -/
theorem Request.delivered {s : State} {q : Nat} {k : Packet} (r : Request s q k) (some : 1 ≤ spanOf k)
    (type : k.type = pkWRITE ∨ k.type = pkADD ∨ k.type = pkREAD) (stale : State → State)
    (alone : (((s.advance k).deliverPacket k).endPacket k).fabric.ahead = []) :
    s.receive q k k.type stale (fun st => st.inOrder q k) = .next (((s.advance k).deliverPacket k).endPacket k) := by
  rw [s.receive_here q k.type k stale _ r.here r.fresh rfl,
    s.inOrder_turn q k r.turn (s.canDeliver_sound k type r.owned (r.below some) (r.within some) r.up r.taken r.plain) alone]

theorem State.advance_rxSeq (s : State) (k : Packet) : Tbl.get 0 (s.advance k).fabric.rxSeq (streamOf k) = (k.seq + 1) % 2 ^ 32 :=
  Tbl.get_set_same _ _ _ _

theorem writeBytes_onlyWrites {s t : State} {a : Nat} {bytes : List Byte} (h : t.mem = BMap.writeBytes s.mem a bytes) :
    OnlyWrites s t a bytes.length := fun c hc => by
  rw [h]
  exact BMap.read_writeBytes_outside _ _ _ _ hc

theorem Request.write {s : State} {q : Nat} {k : Packet} (r : Request s q k) (type : k.type = pkWRITE) (some : 1 ≤ k.payload.length)
    (whole : k.nibble = none) :
    ∃ t a, exec (.fabWrite q k) s = .next t ∧ BMap.readBytes t.mem k.addr k.payload.length = k.payload ∧
      OnlyWrites s t k.addr k.payload.length ∧
      t.fabric.outbox.getLast? = Option.some (a, { (t.fabric.outbox.getLast?.map (·.2)).getD default with
        type := pkACK, dst := k.src, seq := k.seq, stale := false, status := 0 }) ∧
      Tbl.get 0 t.fabric.rxSeq (streamOf k) = (k.seq + 1) % 2 ^ 32 := by
  have span : spanOf k = k.payload.length := if_neg (by rw [type]; decide)
  rw [← span] at some
  obtain ⟨status, stored, same⟩ := (s.advance k).writeStack_sound k.addr k.payload (r.soundBlock some) (by omega)
    (by rw [← span]; exact r.inOneBlock)
  have dev : (s.advance k).writeDev ((s.advance k).partOfDomain k.domain) k.addr k.payload = (s.advance k).writeStack k.addr k.payload :=
    if_pos (r.below some)
  have served := (s.advance k).deliverPacket_write k type r.owned (by rw [← span]; exact r.within some) r.taken whole
  rw [dev, status] at served
  obtain ⟨mem, ahead, rx, a, p, last, answers, fresh⟩ := (s.advance k).acknowledged _ k 0 same
  rw [← served] at mem ahead rx last
  have run := r.delivered some (Or.inl type) (fun st => st.ack k true) (ahead.trans r.turn.2)
  rw [type] at run
  have bytes : (((s.advance k).deliverPacket k).endPacket k).mem = BMap.writeBytes s.mem k.addr k.payload := mem.trans stored
  refine ⟨_, a, run, ?_, writeBytes_onlyWrites bytes, outbox_answer last answers fresh, ?_⟩
  · rw [bytes, BMap.readBytes_writeBytes]
  · rw [rx, State.advance_rxSeq]

theorem readBytes_writeBytes_of_length (m : BMap) (a : Nat) {bytes : List Byte} {n : Nat} (h : bytes.length = n) :
    BMap.readBytes (BMap.writeBytes m a bytes) a n = bytes := by
  rw [← h, BMap.readBytes_writeBytes]

theorem Request.add {s : State} {q : Nat} {k : Packet} (r : Request s q k) (type : k.type = pkADD) (some : 1 ≤ k.payload.length) :
    ∃ t a, exec (.fabAdd q k) s = .next t ∧
      BMap.readBytes t.mem k.addr k.payload.length = (addRun k.addfmt (addBytes k.addfmt) (s.policyZ (s.partOfDomain k.domain)) k.payload.length
        (BMap.readBytes s.mem k.addr k.payload.length) k.payload).1 ∧
      OnlyWrites s t k.addr k.payload.length ∧
      t.fabric.outbox.getLast? = Option.some (a, { (t.fabric.outbox.getLast?.map (·.2)).getD default with
        type := pkACK, dst := k.src, seq := k.seq, stale := false, status := 0 }) ∧
      Tbl.get 0 t.fabric.rxSeq (streamOf k) = (k.seq + 1) % 2 ^ 32 := by
  have span : spanOf k = k.payload.length := if_neg (by rw [type]; decide)
  rw [← span] at some
  obtain ⟨z, policy⟩ : ∃ z, s.policyZ (s.partOfDomain k.domain) = z := ⟨_, rfl⟩
  have served := (s.advance k).deliverPacket_add k (p := s.partOfDomain k.domain) rfl type r.owned
    (by rw [← span]; exact r.within some) r.taken r.plain
  rw [show (s.advance k).policyZ (s.partOfDomain k.domain) = z from policy] at served
  obtain ⟨status, stored, same⟩ := (s.advance k).addStack_sound k.addr k.addfmt z k.payload 5 (r.soundBlock some) (by omega)
    (by rw [← span]; exact r.inOneBlock)
  have dev : (s.advance k).addDev (s.partOfDomain k.domain) k.addr k.addfmt z k.payload =
      (s.advance k).addStack k.addr k.addfmt z k.payload 5 := if_pos (r.below some)
  rw [dev, status] at served
  obtain ⟨mem, ahead, rx, a, p, last, answers, fresh⟩ := (s.advance k).acknowledged _ k _ same
  rw [← served] at mem ahead rx last
  have run := r.delivered some (Or.inr (Or.inl type)) (fun st => st.ack k true) (ahead.trans r.turn.2)
  rw [type] at run
  have bytes := mem.trans stored
  have size := addRun_length k.addfmt (addBytes k.addfmt) z (addBytes_pos _) k.payload.length
    (BMap.readBytes s.mem k.addr k.payload.length) k.payload (by rw [BMap.length_readBytes])
  rw [BMap.length_readBytes] at size
  refine ⟨_, a, run, ?_, ?_, outbox_answer last answers fresh, ?_⟩
  · rw [bytes, policy]
    exact readBytes_writeBytes_of_length _ _ size
  · rw [← size]
    exact writeBytes_onlyWrites bytes
  · rw [rx, State.advance_rxSeq]

theorem Request.read {s : State} {q : Nat} {k : Packet} (r : Request s q k) (type : k.type = pkREAD) (some : 1 ≤ k.want) :
    ∃ t a, exec (.fabRead q k) s = .next t ∧ t.mem = s.mem ∧
      t.fabric.outbox.getLast? = Option.some (a, { (t.fabric.outbox.getLast?.map (·.2)).getD default with
        type := pkREAD_DATA, dst := k.src, seq := k.seq, status := 0, payload := BMap.readBytes s.mem k.addr k.want }) ∧
      Tbl.get 0 t.fabric.rxSeq (streamOf k) = (k.seq + 1) % 2 ^ 32 := by
  have span : spanOf k = k.want := if_pos type
  rw [← span] at some
  obtain ⟨mem, a, p, sent, ⟨kind, dst, seq, status⟩, payload⟩ := (s.advance k).serveRead_sound k r.owned (r.below some) (span ▸ some)
    (span ▸ r.inOneBlock) (span ▸ r.within some) r.taken (r.soundBlock some)
  have served : (s.advance k).deliverPacket k = (s.advance k).serveRead k := if_pos type
  have closed : (((s.advance k).serveRead k).endPacket k).fabric = { ((s.advance k).serveRead k).fabric with
    refused := ((s.advance k).serveRead k).fabric.refused.filter (fun e => e.1 != verdictKey k) } := rfl
  have run := r.delivered some (Or.inr (Or.inr type)) (fun st => st.ack k true) (by rw [served, closed, sent]; exact r.turn.2)
  rw [type, served] at run
  have last : (((s.advance k).serveRead k).endPacket k).fabric.outbox.getLast? = Option.some (a, p) := by
    rw [closed, sent]
    simp
  refine ⟨_, a, run, ?_, ?_, ?_⟩
  · rw [(State.endPacket_changes _ _).mem, mem]
    rfl
  · rw [last, ← kind, ← dst, ← seq, ← status, show BMap.readBytes s.mem k.addr k.want = p.payload from payload.symm]
    rfl
  · rw [closed, sent]
    exact s.advance_rxSeq k

/-! ### Requests that change nothing -/

/-- An error is counted as a fault, and touches neither memory nor the fabric. -/
theorem State.error_counts (s : State) (src : Nat) (r : ErrorRecord) :
    (s.error src r).log.faults = s.log.faults + 1 ∧ Same [.free, .time, .log, .side] s (s.error src r) := by
  unfold State.error
  dsimp only
  split
  · exact ⟨rfl, ⟨fun c hc => by cases c <;> simp at hc <;> rfl⟩⟩
  · split
    · exact ⟨rfl, ⟨fun c hc => by cases c <;> simp at hc <;> rfl⟩⟩
    · exact ⟨rfl, ⟨fun c hc => by cases c <;> simp at hc <;> rfl⟩⟩

theorem State.lateDiscard_counts (s : State) (src unit unitId pt : Nat) :
    (s.lateDiscard src unit unitId pt).log.faults = s.log.faults + 1 ∧ Same [.free, .time, .log, .side] s (s.lateDiscard src unit unitId pt) :=
  s.error_counts _ _

/-- A duplicate is recorded and acknowledged again. -/
theorem fabWrite_duplicate (s : State) (q : Nat) (k : Packet) (here : Arrives s q k) (fresh : s.isStale k = false) (type : k.type = pkWRITE)
    (other : k.seq ≠ Tbl.get 0 s.fabric.rxSeq (streamOf k)) (past : (Tbl.get 0 s.fabric.rxSeq (streamOf k) + 2 ^ 32 - k.seq) % 2 ^ 32 < 2 ^ 31) :
    ∃ t, exec (.fabWrite q k) s = .next t ∧ t.mem = s.mem ∧ t.fabric.rxSeq = s.fabric.rxSeq ∧
      (t.fabric.outbox.getLast?.map (fun e => (e.2.type, e.2.dst, e.2.seq, e.2.stale))) = some (pkACK, k.src, k.seq, false) ∧
      t.log.faults = s.log.faults + 1 := by
  obtain ⟨faults, same⟩ := s.lateDiscard_counts pFAB 9 q (s.partOfDomain k.domain)
  have again : s.inOrder q k = (s.lateDiscard pFAB 9 q (s.partOfDomain k.domain)).ack k false := by
    unfold State.inOrder
    dsimp only
    rw [if_pos ⟨other, past⟩, if_neg (by rw [type]; decide)]
  have run := s.receive_here q pkWRITE k (fun st => st.ack k true) (fun st => st.inOrder q k) here fresh type
  rw [again] at run
  obtain ⟨a, p, sent, ⟨kind, dst, seq, -⟩, unstale⟩ := (s.lateDiscard pFAB 9 q (s.partOfDomain k.domain)).ack_sent k false
  have acked := (s.lateDiscard pFAB 9 q (s.partOfDomain k.domain)).ack_changes k false
  refine ⟨_, run, ?_, ?_, ?_, ?_⟩
  · rw [acked.mem, same.mem]
  · rw [sent, same.fabric]
  · rw [sent]
    simp [kind, dst, seq, unstale]
  · rw [show ((s.lateDiscard pFAB 9 q (s.partOfDomain k.domain)).ack k false).log = _ from acked.agrees .log (by simp), faults]

/-- A packet that is too old is counted and answered as such. -/
theorem fabWrite_stale (s : State) (q : Nat) (k : Packet) (here : Arrives s q k) (old : s.isStale k = true) (type : k.type = pkWRITE) :
    ∃ t, exec (.fabWrite q k) s = .next t ∧ t.mem = s.mem ∧ t.fabric.rxSeq = s.fabric.rxSeq ∧ t.fabric.stale = s.fabric.stale + 1 ∧
      (t.fabric.outbox.getLast?.map (fun e => (e.2.type, e.2.dst, e.2.seq, e.2.stale))) = some (pkACK, k.src, k.seq, true) := by
  have run := s.receive_stale q pkWRITE k (fun st => st.ack k true) (fun st => st.inOrder q k) here old type
  obtain ⟨a, p, sent, ⟨kind, dst, seq, -⟩, marked⟩ := s.countStale.ack_sent k true
  refine ⟨_, run, ?_, ?_, ?_, ?_⟩
  · rw [(s.countStale.ack_changes k true).mem]
    rfl
  · rw [sent]
    rfl
  · rw [sent]
    rfl
  · rw [sent]
    simp [kind, dst, seq, marked]

/-- Settles O48: a request in its turn acts and is answered; a duplicate, a stale packet and one for elsewhere act on nothing. -/
theorem requestsAtTheirTarget : Obligations.requestsAtTheirTarget := by
  intro s q k n hn
  subst hn
  refine ⟨fun here fresh turn owned sound up taken whole plain => ?_, fabWrite_duplicate s q k, fabWrite_stale s q k, ?_⟩
  · have r : Request s q k := ⟨here, fresh, turn, owned, sound, up, taken, plain⟩
    exact ⟨fun type some => r.write type some whole, fun type some => r.add type some, fun type some => r.read type some⟩
  · intro port up on type src dst other
    have run := s.receive_open q pkWRITE k (fun st => st.ack k true) (fun st => st.inOrder q k) port up on type src dst
    rw [if_pos other] at run
    exact ⟨s.dispatch k, run, rfl⟩

end Sys2Proof.Machine

/-! ## O10, O11: block conversions (R42, R51 to R53)

Every element a conversion writes is the field of an integer between QMIN and QMAX, and neither bound is the format's lowest integer; an
element of magnitude zero rounds to 0 whatever the scale, the mode and the sign. -/

namespace Sys2Proof.Machine
open Sys2Proof

/-! ### Values of a block's elements -/

/-- Settles O11: the three cases of a block's scale byte. -/
theorem blockScalesGiveValues : Obligations.blockScalesGiveValues := by
  intro fmt w e8 scaled
  have value : ∀ e, elemVal fmt w e = scaledVal fmt w e := fun e => if_pos scaled
  refine ⟨value 0, value 0xFF, fun low high => ?_⟩
  have finite : e8 ≠ 0xFF := by omega
  have nonzero : e8 ≠ 0 := by omega
  rw [value, scaledVal, if_neg finite, if_neg nonzero]
  simp [Val.ofInt, Val.scale]

/-- The element 0 of a scaled block is +0 at every scale but NaN's. -/
theorem elemVal_zero (fmt e8 : Nat) (scaled : fmtScaled fmt = true) (finite : e8 ≠ 0xFF) : ∃ e, elemVal fmt 0 e8 = .fin false 0 e := by
  have zero : elemInt fmt 0 = 0 := by simp [elemInt, signed]
  by_cases empty : e8 = 0
  · exact ⟨0, by simp [elemVal, scaled, scaledVal, empty]⟩
  · exact ⟨(e8 : Int) - 127, by simp [elemVal, scaled, scaledVal, finite, empty, zero, Val.ofInt, Val.scale]⟩

/-! ### What rounding and clamping give -/

@[simp] theorem roundAt_zero (mode : Rnd) (lfsr : BitVec 32) (e q : Int) : roundAt mode lfsr 0 e q = (0, lfsr) := by
  simp [roundAt]

/-- An integer that a block of the format may hold (R51). -/
def InBlockRange (fmt : Nat) (c : Int) : Prop := qmin fmt ≤ c ∧ c ≤ qmax fmt

theorem inBlockRange_zero (fmt : Nat) : InBlockRange fmt 0 := by
  unfold InBlockRange qmin
  split <;> omega

theorem inBlockRange_clamp (fmt : Nat) (v : Int) : InBlockRange fmt (max (qmin fmt) (min (qmax fmt : Int) v)) := by
  have := inBlockRange_zero fmt
  unfold InBlockRange at *
  omega

theorem quantise_fin (fmt e : Nat) (mode : Rnd) (neg : Bool) (m : Nat) (d : Int) (xs : List Val) (l : BitVec 32) :
    (quantise fmt e mode (.fin neg m d :: xs) l).1 =
      max (qmin fmt) (min (qmax fmt : Int) (if neg then -((roundAt mode l m (d + 127 - e) 0).1 : Int) else (roundAt mode l m (d + 127 - e) 0).1)) ::
        (quantise fmt e mode xs (roundAt mode l m (d + 127 - e) 0).2).1 := rfl

theorem quantise_other (fmt e : Nat) (mode : Rnd) (x : Val) (xs : List Val) (l : BitVec 32) (h : x.isFinite = false) :
    (quantise fmt e mode (x :: xs) l).1 = 0 :: (quantise fmt e mode xs l).1 := by
  cases x with
  | fin neg m d => simp [Val.isFinite] at h
  | nan => rfl
  | inf neg => rfl

/-- One element after another: an integer in range for each, 0 for a zero. -/
theorem quantise_elements (fmt e : Nat) (mode : Rnd) (xs : List Val) (l : BitVec 32) :
    List.Forall₂ (fun x c => InBlockRange fmt c ∧ (x.isZero = true → c = 0)) xs (quantise fmt e mode xs l).1 := by
  induction xs generalizing l with
  | nil => exact .nil
  | cons x xs ih =>
    cases finite : x.isFinite with
    | false =>
      rw [quantise_other fmt e mode x xs l finite]
      exact .cons ⟨inBlockRange_zero fmt, fun _ => rfl⟩ (ih l)
    | true =>
      cases x with
      | nan => cases finite
      | inf neg => cases finite
      | fin neg m d =>
        rw [quantise_fin]
        refine .cons ⟨inBlockRange_clamp fmt _, fun zero => ?_⟩ (ih _)
        have magnitude : m = 0 := by simpa [Val.isZero] using zero
        simp [magnitude, (inBlockRange_zero fmt).1]

/-- Every element a conversion writes is the field of an integer in range, and that of a zero is 0. -/
theorem convertBlock_elements (fmt : Nat) (mode : Rnd) (hist : Option Nat) (xs : List Val) (lfsr : BitVec 32) :
    List.Forall₂ (fun x q => (∃ c, InBlockRange fmt c ∧ q = unsigned (fmtBits fmt) c) ∧ (x.isZero = true → q = 0)) xs
      (convertBlock fmt mode hist xs lfsr).q := by
  have none' : unsigned (fmtBits fmt) 0 = 0 := by simp [unsigned]
  have zeros : List.Forall₂ (fun (x : Val) q => (∃ c, InBlockRange fmt c ∧ q = unsigned (fmtBits fmt) c) ∧ (x.isZero = true → q = 0)) xs
      (xs.map (fun _ => 0)) :=
    List.forall₂_map_right_iff.2 (List.forall₂_same.2 (fun x _ => ⟨⟨0, inBlockRange_zero fmt, none'.symm⟩, fun _ => rfl⟩))
  have fields : ∀ e, List.Forall₂ (fun x q => (∃ c, InBlockRange fmt c ∧ q = unsigned (fmtBits fmt) c) ∧ (x.isZero = true → q = 0)) xs
      ((quantise fmt e mode xs lfsr).1.map (fun i => unsigned (fmtBits fmt) i)) := fun e =>
    List.forall₂_map_right_iff.2 ((quantise_elements fmt e mode xs lfsr).imp
      (fun x c h => ⟨⟨c, h.1, rfl⟩, fun hz => by rw [h.2 hz, none']⟩))
  unfold convertBlock
  split
  · exact zeros
  · dsimp only
    split
    · exact zeros
    · rw [apply_ite BlockOut.q, ite_self]
      exact fields _

theorem convertBlock_length (fmt : Nat) (mode : Rnd) (hist : Option Nat) (xs : List Val) (lfsr : BitVec 32) :
    (convertBlock fmt mode hist xs lfsr).q.length = xs.length :=
  (convertBlock_elements fmt mode hist xs lfsr).length_eq.symm

theorem convertBlock_mem {fmt : Nat} {mode : Rnd} {hist : Option Nat} {xs : List Val} {lfsr : BitVec 32} {q : Nat}
    (h : q ∈ (convertBlock fmt mode hist xs lfsr).q) : ∃ c, InBlockRange fmt c ∧ q = unsigned (fmtBits fmt) c := by
  have elements := convertBlock_elements fmt mode hist xs lfsr
  obtain ⟨i, hi, rfl⟩ := List.getElem_of_mem h
  exact (elements.get (elements.length_eq ▸ hi) hi).1

theorem convertBlock_zero {fmt : Nat} {mode : Rnd} {hist : Option Nat} {xs : List Val} {lfsr : BitVec 32} {i q : Nat} {x : Val}
    (element : xs[i]? = some x) (zero : x.isZero = true) (written : (convertBlock fmt mode hist xs lfsr).q[i]? = some q) : q = 0 := by
  obtain ⟨hx, rfl⟩ := List.getElem?_eq_some_iff.1 element
  obtain ⟨hq, rfl⟩ := List.getElem?_eq_some_iff.1 written
  exact ((convertBlock_elements fmt mode hist xs lfsr).get hx hq).2 zero

/-! ### The lowest integer -/

/-- An integer within QMIN and QMAX of a signed format never has the field of the format's lowest one. -/
theorem unsigned_ne_lowest {w : Nat} {c : Int} (low : -(2 ^ w : Nat) < c) (high : c < (2 ^ w : Nat)) : unsigned (w + 1) c ≠ 2 ^ w := by
  have double : ((2 ^ (w + 1) : Nat) : Int) = (2 ^ w : Nat) + (2 ^ w : Nat) := by push_cast; ring
  unfold unsigned
  rw [double]
  rcases Int.lt_or_le c 0 with neg | pos
  · rw [← Int.add_emod_right, Int.emod_eq_of_lt (by omega) (by omega)]
    omega
  · rw [Int.emod_eq_of_lt pos (by omega)]
    omega

theorem convertBlock_not_lowest {fmt w : Nat} (mode : Rnd) (hist : Option Nat) (xs : List Val) (lfsr : BitVec 32)
    (bits : fmtBits fmt = w + 1) (low : -(2 ^ w : Nat) < qmin fmt) (high : qmax fmt < 2 ^ w) :
    2 ^ w ∉ (convertBlock fmt mode hist xs lfsr).q := by
  intro mem
  obtain ⟨c, ⟨least, most⟩, field⟩ := convertBlock_mem mem
  rw [bits] at field
  exact unsigned_ne_lowest (by omega) (by omega) field.symm

/-- Settles O10: what is written are fields of clamped integers, and a zero rounds to 0, whose value is +0. -/
theorem blockConversionsWriteNoNegativeZero : Obligations.blockConversionsWriteNoNegativeZero := by
  intro fmt mode hist xs lfsr scaled _
  refine ⟨convertBlock_length fmt mode hist xs lfsr, fun byte => ?_, fun nibble => ?_, fun i q neg d element written finite => ?_⟩
  · refine convertBlock_not_lowest (w := 7) mode hist xs lfsr ?_ ?_ ?_ <;> rcases byte with rfl | rfl <;> decide
  · refine convertBlock_not_lowest (w := 3) mode hist xs lfsr ?_ ?_ ?_ <;> rcases nibble with rfl | rfl <;> decide
  · have zero : q = 0 := convertBlock_zero element rfl written
    subst zero
    exact ⟨rfl, elemVal_zero fmt _ scaled finite⟩

end Sys2Proof.Machine

/-! ## Issue of an instruction that completes at once (R108, R109, R112)

What issuing leaves behind when the work of an instruction is a change `g` of its tile that no engine's state enters or leaves. -/

namespace Sys2Proof.Machine
open Sys2Proof

/-! ### Engines of a tile -/

@[simp] theorem Tile.eng_setEng_same (x : Tile) (e : Engine) (y : EngineState) : (x.setEng e y).eng e = y := by cases e <;> rfl

theorem Tile.eng_setEng_other (x : Tile) {e d : Engine} (y : EngineState) (h : d ≠ e) : (x.setEng e y).eng d = x.eng d := by
  cases e <;> cases d <;> simp [Tile.setEng, Tile.eng] at h ⊢

@[simp] theorem Tile.running_setEng (x : Tile) (e : Engine) (y : EngineState) : (x.setEng e y).running = x.running := by cases e <;> rfl

theorem Tile.setEng_eng (x : Tile) (e : Engine) : x.setEng e (x.eng e) = x := by cases e <;> rfl

theorem TileSame.refl (l : List TilePart) (x : Tile) : TileSame l x x := ⟨fun c _ => by cases c <;> rfl⟩

theorem TileSame.trans {l : List TilePart} {x y z : Tile} (h : TileSame l x y) (h' : TileSame l y z) : TileSame l x z :=
  ⟨fun c hc => by have := h.agrees c hc; have := h'.agrees c hc; cases c <;> exact Eq.trans ‹_› ‹_›⟩

theorem TileSame.mono {l l' : List TilePart} {x y : Tile} (h : TileSame l x y) (hl : l ⊆ l') : TileSame l' x y :=
  ⟨fun c hc => h.agrees c (fun hm => hc (hl hm))⟩

theorem TileSame.setEng (x : Tile) (e : Engine) (y : EngineState) : TileSame [] x (x.setEng e y) :=
  ⟨fun c _ => by cases e <;> cases c <;> rfl⟩

/-- A change of a tile that neither looks at an engine's state nor changes it. -/
def EngineBlind (g : Tile → Tile) : Prop := ∀ x e y, g (x.setEng e y) = (g x).setEng e y

theorem EngineBlind.eng {g : Tile → Tile} (h : EngineBlind g) (x : Tile) (e : Engine) : (g x).eng e = x.eng e := by
  have := h x e (x.eng e)
  rw [x.setEng_eng] at this
  rw [this, Tile.eng_setEng_same]

/-! ### The steps of an issue -/

/-- The tile as an instruction's work finds it: the engine has the instruction in flight. -/
def Tile.entered (x : Tile) (e : Engine) (w : BitVec 128) : Tile :=
  x.setEng e { x.eng e with flights := (x.eng e).flights ++ [{ id := (x.eng e).nextId, word := w }], nextId := (x.eng e).nextId + 1 }

/-- The state as an instruction's work finds it. -/
def State.entered (s : State) (k : Nat) (e : Engine) (w : BitVec 128) : State :=
  (s.setTile k (s.tile k)).setTile k ((s.tile k).entered e w)

@[simp] theorem State.entered_tile (s : State) (k : Nat) (e : Engine) (w : BitVec 128) : (s.entered k e w).tile k = (s.tile k).entered e w :=
  State.setTile_same _ _ _

theorem State.entered_modTile (s : State) (k : Nat) (e : Engine) (w : BitVec 128) (g : Tile → Tile) :
    (s.entered k e w).modTile k g = (s.entered k e w).setTile k (g ((s.tile k).entered e w)) := by
  unfold State.modTile
  rw [s.entered_tile]

theorem State.entered_other (s : State) {k j : Nat} (e : Engine) (w : BitVec 128) (h : j ≠ k) : (s.entered k e w).tile j = s.tile j := by
  unfold State.entered
  rw [State.setTile_other _ _ _ _ h, State.setTile_other _ _ _ _ h]

theorem State.entered_changes (s : State) (k : Nat) (e : Engine) (w : BitVec 128) : Same [.tiles] s (s.entered k e w) :=
  ⟨fun c hc => by cases c <;> simp at hc <;> rfl⟩

theorem State.watch_changes (s : State) (k : Nat) : Same [.tiles] s (s.watch k) := State.modTile_changes _ _ _

theorem State.atOnce_changes (s : State) (k : Nat) (e : Engine) (id : Nat) : Same [.tiles] s (s.atOnce k e id) := by
  unfold State.atOnce State.modFlight
  exact State.modTile_changes _ _ _

/-- A word that neither waits nor acquires is through steps 1 and 2 of R112 at once. -/
theorem State.waitSteps_none (s : State) (k : Nat) (e : Engine) (w : BitVec 128) (word : ((s.tile k).eng e).word = w) (wait : wWaitEn w = false)
    (acquire : wAcqEn w = false) : s.waitSteps k e = (true, s.setTile k (s.tile k)) := by
  unfold State.waitSteps
  simp [word, wait, acquire]

/-- The engine moved on past the instruction it issued. -/
def Tile.movedOn (x : Tile) (e : Engine) : Tile := x.setEng e ({ x.eng e with waited := false, taken := false } : EngineState).next.settle

/-- An issue whose word neither waits, acquires nor releases: the work runs in the state that holds the instruction in flight, and the engine
moves on. -/
theorem State.issue_work {s : State} {k : Nat} {e : Engine} {w : BitVec 128} (h : AtWord s k e w) (ready : BitVec 128 → State → Bool)
    (work : BitVec 128 → Nat → State → State) (go : ready w (s.setTile k (s.tile k)) = true)
    (on : ((work w ((s.tile k).eng e).nextId (s.entered k e w)).tile k).running = true) :
    s.issue k e (wOpc w) ready work =
      .next (((work w ((s.tile k).eng e).nextId (s.entered k e w)).modTile k (fun x => x.movedOn e)).watch k) := by
  obtain ⟨at', word, wait, acquire, release, room, -⟩ := h
  have entered : (s.setTile k (s.tile k)).modTile k (fun x => x.setEng e { (s.tile k).eng e with
      flights := ((s.tile k).eng e).flights ++ [{ id := ((s.tile k).eng e).nextId, word := w }], nextId := ((s.tile k).eng e).nextId + 1 }) =
      s.entered k e w := by
    unfold State.modTile
    rw [State.setTile_same]
    rfl
  unfold State.issue
  dsimp only
  rw [word, at', s.waitSteps_none k e w word wait acquire, if_neg (by simp)]
  dsimp only
  rw [State.setTile_same, go, if_neg (by simpa using room), entered, on, release]
  rfl

/-! ### What has changed afterwards -/

theorem Tile.setEng_setEng (x : Tile) (e : Engine) (y z : EngineState) : (x.setEng e y).setEng e z = x.setEng e z := by cases e <;> rfl

/-- Outside loops and replays the next position is one on (R133). -/
theorem EngineState.settle_next (y : EngineState) (loops : y.loops = []) (replay : y.replay = none) : y.next.settle = { y with pc := y.pc + 1 } := by
  have next : y.next = { y with pc := y.pc + 1 } := by
    simp only [EngineState.next, loops, List.reverse_nil, stepLoops]
  rw [next]
  unfold EngineState.settle
  rw [show ({ y with pc := y.pc + 1 } : EngineState).replay = none from replay]

theorem State.watch_tile (s : State) (k : Nat) :
    TileSame [] (s.tile k) ((s.watch k).tile k) ∧ ∀ d, ((s.watch k).tile k).eng d = (s.tile k).eng d := by
  unfold State.watch
  rw [State.modTile_same]
  exact ⟨⟨fun c _ => by cases c <;> rfl⟩, fun d => by cases d <;> rfl⟩

theorem State.watch_other (s : State) {k j : Nat} (h : j ≠ k) : (s.watch k).tile j = s.tile j := State.modTile_other _ _ _ _ h

/-- An engine that has issued a word whose effect is made. -/
def EngineState.issued (y : EngineState) (w : BitVec 128) : EngineState :=
  { y with flights := y.flights ++ [{ id := y.nextId, word := w, ran := true }], nextId := y.nextId + 1, waited := false, taken := false, pc := y.pc + 1 }

/-- The tile after the instruction has entered, its work `g` is done and marked, and the engine has moved on. -/
theorem State.atOnce_movedOn_tile {s u : State} {k : Nat} {e : Engine} {w : BitVec 128} {g : Tile → Tile} (h : AtWord s k e w) (blind : EngineBlind g)
    (there : u.tile k = (s.tile k).entered e w) :
    (((u.modTile k g).atOnce k e ((s.tile k).eng e).nextId).modTile k (fun x => x.movedOn e)).tile k =
      (g (s.tile k)).setEng e (((s.tile k).eng e).issued w) := by
  obtain ⟨-, -, -, -, -, -, fresh, loops, replay⟩ := h
  have earlier : ((s.tile k).eng e).flights.map (fun f => if f.id = ((s.tile k).eng e).nextId then { f with ran := true } else f) =
      ((s.tile k).eng e).flights := (List.map_congr_left (fun f hf => if_neg (fresh f hf))).trans (List.map_id' _)
  unfold State.atOnce State.modFlight Tile.movedOn
  rw [State.modTile_same, State.modTile_same, State.modTile_same, there]
  unfold Tile.entered
  rw [blind]
  simp only [Tile.setEng_setEng, Tile.eng_setEng_same, List.map_append, earlier]
  rw [EngineState.settle_next]
  · simp [EngineState.issued]
  · exact loops
  · exact replay

theorem AtWord.running {s : State} {k : Nat} {e : Engine} {w : BitVec 128} (h : AtWord s k e w) : (s.tile k).running = true := by
  obtain ⟨stands, -⟩ := h
  simp only [State.atOpcode, Bool.and_eq_true] at stands
  obtain ⟨⟨⟨⟨⟨⟨⟨-, running⟩, -⟩, -⟩, -⟩, -⟩, -⟩, -⟩ := stands
  exact running

/-- What an instruction that completes when it issues leaves behind, its work being a change `g` of its tile in a state `u` that may differ
from the one it entered in components `l`. -/
theorem State.issue_done {s u : State} {k o : Nat} {e : Engine} {w : BitVec 128} {ready : BitVec 128 → State → Bool}
    {work : BitVec 128 → Nat → State → State} {l : List Component} {changed : List TilePart} (g : Tile → Tile) (h : AtWord s k e w)
    (code : wOpc w = o) (go : ready w (s.setTile k (s.tile k)) = true) (blind : EngineBlind g) (same : TileSame changed (s.tile k) (g (s.tile k)))
    (others : Same l (s.entered k e w) u) (done : work w ((s.tile k).eng e).nextId (s.entered k e w) = (u.modTile k g).atOnce k e ((s.tile k).eng e).nextId)
    (tiles : .tiles ∉ l := by simp) (on : .running ∉ changed := by simp) :
    ∃ t, s.issue k e o ready work = .next t ∧ Issued s t k e w true ∧ Same (.tiles :: l) s t ∧ TileSame changed (s.tile k) (t.tile k) ∧
      (∀ d, d ≠ e → (t.tile k).eng d = (s.tile k).eng d) ∧ TileSame [] (g (s.tile k)) (t.tile k) := by
  subst code
  have works : (g (s.tile k)).running = true := (same.agrees .running on).trans h.running
  have moved := State.atOnce_movedOn_tile h blind ((others.tile k tiles).trans (s.entered_tile k e w))
  obtain ⟨v, hv⟩ : ∃ v : State, v = ((u.modTile k g).atOnce k e ((s.tile k).eng e).nextId).modTile k (fun x => x.movedOn e) := ⟨_, rfl⟩
  rw [← hv] at moved
  obtain ⟨kept, engines⟩ := v.watch_tile k
  have result : TileSame [] (g (s.tile k)) ((v.watch k).tile k) := by
    rw [moved] at kept
    exact (TileSame.setEng _ e _).trans kept
  have far : ∀ j, j ≠ k → (v.watch k).tile j = s.tile j := by
    intro j hj
    rw [v.watch_other hj, hv, State.modTile_other _ _ _ _ hj]
    unfold State.atOnce State.modFlight
    rw [State.modTile_other _ _ _ _ hj, State.modTile_other _ _ _ _ hj, others.tile j tiles, s.entered_other e w hj]
  have state : Same (.tiles :: l) s (v.watch k) := by
    have before : Same (.tiles :: l) s u := ((s.entered_changes k e w).mono (by simp)).trans (others.mono (by simp))
    have after : Same [.tiles] u (v.watch k) := by
      rw [hv]
      exact (((u.modTile_changes k g).trans (State.atOnce_changes _ _ _ _)).trans (State.modTile_changes _ _ _)).trans (State.watch_changes _ _)
    exact before.trans (after.mono (by simp))
  refine ⟨v.watch k, ?_, ⟨?_, ?_, ?_, far⟩, state, ?_, ?_, result⟩
  · rw [hv, ← done]
    refine State.issue_work h ready work go ?_
    rw [done]
    unfold State.atOnce State.modFlight
    rw [State.modTile_same, Tile.running_setEng, State.modTile_same, others.tile k tiles, s.entered_tile, Tile.entered, blind, Tile.running_setEng]
    exact works
  · exact (result.agrees .running (by simp)).trans works
  · rw [engines, moved, Tile.eng_setEng_same]
    rfl
  · unfold State.inFlight
    rw [engines, moved, Tile.eng_setEng_same]
    simp [EngineState.issued]
  · exact same.trans (result.mono (by simp))
  · intro d hd
    rw [engines, moved, Tile.eng_setEng_other _ _ hd, blind.eng]

/-- The same, where nothing but the tile has changed. -/
theorem State.issue_alone {s : State} {k o : Nat} {e : Engine} {w : BitVec 128} {ready : BitVec 128 → State → Bool}
    {work : BitVec 128 → Nat → State → State} {changed : List TilePart} (g : Tile → Tile) (h : AtWord s k e w) (code : wOpc w = o)
    (go : ready w (s.setTile k (s.tile k)) = true) (blind : EngineBlind g) (same : TileSame changed (s.tile k) (g (s.tile k)))
    (done : ∀ id, work w id (s.entered k e w) = ((s.entered k e w).modTile k g).atOnce k e id) (on : .running ∉ changed := by simp) :
    ∃ t, s.issue k e o ready work = .next t ∧ IssuedAlone s t k e w true changed ∧ TileSame [] (g (s.tile k)) (t.tile k) := by
  obtain ⟨t, run, issued, state, tile, engines, result⟩ := State.issue_done g h code go blind same (Same.refl [] _) (done _) (on := on)
  have ⟨_, _, _, far⟩ := issued
  exact ⟨t, run, ⟨issued, state, tile, engines, far⟩, result⟩

end Sys2Proof.Machine

/-! ## O33: vector instructions (R49, R89 to R92, R99 to R103, R115)

Each vector instruction's work is a change of the tile that no engine's state enters or leaves; `State.issue_alone` says the rest. -/

namespace Sys2Proof.Machine
open Sys2Proof

/-! ### VMODE and VSEED -/

section
variable {s : State} {k : Nat} {w : BitVec 128}

theorem vmode_issues (h : AtWord s k .V w) (code : wOpc w = 0x40) (idle : (s.tile k).v.flights = []) (closed : (s.tile k).reds = []) :
    ∃ t, exec (.vmode k) s = .next t ∧ IssuedAlone s t k .V w true [.stream] ∧ (t.tile k).stream = w.getLsbD 0 := by
  show ∃ t, execVmode k s = .next t ∧ _
  unfold execVmode
  refine (State.issue_alone (fun x => { x with stream := w.getLsbD 0 }) h code ?_ (fun x e y => by cases e <;> rfl)
    ⟨fun c hc => by cases c <;> simp at hc <;> rfl⟩ (fun id => ?_)).imp fun t ⟨run, alone, result⟩ =>
    ⟨run, alone, result.agrees .stream (by simp)⟩
  · rw [State.setTile_same, idle]
    rfl
  · rw [s.entered_tile, show ((s.tile k).entered .V w).reds = [] from closed, if_neg (by decide)]

theorem vseed_issues (h : AtWord s k .V w) (code : wOpc w = 0x48) :
    ∃ t, exec (.vseed k) s = .next t ∧ IssuedAlone s t k .V w true [.lfsr] ∧
      (t.tile k).lfsr = (if fld w 31 0 = 0 then 1 else BitVec.ofNat 32 (fld w 31 0)) := by
  show ∃ t, execVseed k s = .next t ∧ _
  unfold execVseed
  exact (State.issue_alone (fun x => { x with lfsr := if fld w 31 0 = 0 then 1 else BitVec.ofNat 32 (fld w 31 0) }) h code rfl
    (fun x e y => by cases e <;> rfl) ⟨fun c hc => by cases c <;> simp at hc <;> rfl⟩ (fun id => rfl)).imp fun t ⟨run, alone, result⟩ =>
    ⟨run, alone, result.agrees .lfsr (by simp)⟩

/-! ### VOP and VLUT -/

theorem mapLanes_lfsr {g : BitVec 32 → Nat × Nat × Nat → Num} (h : ∀ l p, (g l p).lfsr = l) (ps : List (Nat × Nat × Nat)) (l : BitVec 32) :
    (mapLanes g ps l).2.2 = l := by
  induction ps generalizing l with
  | nil => rfl
  | cons p ps ih => exact (ih _).trans (h l p)

theorem stageFn_lookup_lfsr (sub fmt : Nat) (rnd : Rnd) (l : BitVec 32) (table : Option VTable) (x y z : Nat) :
    (stageFn 0xE sub fmt rnd l table x y z).lfsr = l := by
  cases table <;> rfl

end

section
variable (x : Tile) (e : Engine) (y : EngineState)

@[simp] theorem Tile.lfsr_setEng : (x.setEng e y).lfsr = x.lfsr := by cases e <;> rfl
@[simp] theorem Tile.tables_setEng : (x.setEng e y).tables = x.tables := by cases e <;> rfl
@[simp] theorem Tile.lanes_setEng (packed : Bool) (r : Nat) : (x.setEng e y).lanes packed r = x.lanes packed r := by cases e <;> rfl
@[simp] theorem Tile.pairs_setEng (r : Nat) : (x.setEng e y).pairs r = x.pairs r := by cases e <;> rfl
@[simp] theorem Tile.setLanes_setEng (packed : Bool) (r : Nat) (xs : List Nat) :
    (x.setEng e y).setLanes packed r xs = (x.setLanes packed r xs).setEng e y := by cases e <;> rfl
@[simp] theorem Tile.setPairs_setEng (r : Nat) (xs : List Nat) : (x.setEng e y).setPairs r xs = (x.setPairs r xs).setEng e y := by cases e <;> rfl
@[simp] theorem Tile.raise_setEng (f : BitVec 6) : (x.setEng e y).raise f = (x.raise f).setEng e y := by cases e <;> rfl
@[simp] theorem Tile.vresult_setEng (f : BitVec 6) (l : BitVec 32) : (x.setEng e y).vresult f l = (x.vresult f l).setEng e y := by cases e <;> rfl

theorem Tile.vopCvt_setEng (o : Vop) (r : Rnd) : (x.setEng e y).vopCvt o r = (x.vopCvt o r).setEng e y := by
  unfold Tile.vopCvt
  simp only [Tile.lfsr_setEng, Tile.lanes_setEng, Tile.pairs_setEng, Tile.setLanes_setEng, Tile.setPairs_setEng, Tile.vresult_setEng,
    apply_ite (fun z : Tile => z.setEng e y)]

/-- A VOP looks at no engine. -/
theorem Tile.vop_setEng (o : Vop) : (x.setEng e y).vop o = (x.vop o).setEng e y := by
  unfold Tile.vop
  simp only [Tile.lfsr_setEng, Tile.tables_setEng, Tile.lanes_setEng, Tile.pairs_setEng, Tile.setLanes_setEng, Tile.setPairs_setEng,
    Tile.vresult_setEng, Tile.vopCvt_setEng, apply_ite (fun z : Tile => z.setEng e y)]

theorem TileSame.ite {l : List TilePart} {x y z : Tile} {c : Prop} [Decidable c] (h : TileSame l x y) (h' : TileSame l x z) :
    TileSame l x (if c then y else z) := by split <;> assumption

theorem Tile.setLanes_changes (packed : Bool) (r : Nat) (xs : List Nat) : TileSame [.vregs] x (x.setLanes packed r xs) :=
  ⟨fun c hc => by cases c <;> simp at hc <;> rfl⟩

theorem Tile.setPairs_changes (r : Nat) (xs : List Nat) : TileSame [.vregs] x (x.setPairs r xs) :=
  ⟨fun c hc => by cases c <;> simp at hc <;> rfl⟩

theorem Tile.raise_changes (f : BitVec 6) : TileSame [.flags] x (x.raise f) := ⟨fun c hc => by cases c <;> simp at hc <;> rfl⟩

theorem Tile.vresult_changes (f : BitVec 6) (l : BitVec 32) : TileSame [.lfsr, .flags] x (x.vresult f l) :=
  ⟨fun c hc => by cases c <;> simp at hc <;> rfl⟩

/-- Registers written, then flags raised and the LFSR moved on. -/
theorem TileSame.vresult {x y : Tile} (h : TileSame [.vregs] x y) (f : BitVec 6) (l : BitVec 32) :
    TileSame [.vregs, .lfsr, .flags] x (y.vresult f l) :=
  (h.mono (by simp)).trans ((y.vresult_changes f l).mono (by simp))

theorem Tile.vopCvt_changes (o : Vop) (r : Rnd) : TileSame [.vregs, .lfsr, .flags] x (x.vopCvt o r) := by
  unfold Tile.vopCvt
  exact .ite ((x.setPairs_changes _ _).vresult _ _) (.ite ((x.setLanes_changes _ _ _).vresult _ _) (.ite ((x.setLanes_changes _ _ _).vresult _ _)
    (.ite (((x.setLanes_changes _ _ _).trans (Tile.setLanes_changes _ _ _ _)).vresult _ _) ((x.setLanes_changes _ _ _).vresult _ _))))

/-- A VOP writes registers, the LFSR and flags only. -/
theorem Tile.vop_changes (o : Vop) : TileSame [.vregs, .lfsr, .flags] x (x.vop o) := by
  unfold Tile.vop
  exact .ite (x.vopCvt_changes o _) (.ite ((x.setPairs_changes _ _).vresult _ _)
    (.ite ((x.setLanes_changes _ _ _).mono (by simp)) ((x.setLanes_changes _ _ _).vresult _ _)))

/-- A table lookup draws no random bit. -/
theorem Tile.vop_lookup_lfsr {o : Vop} (formed : o.formed = true) (lookup : o.func = 0xE) : (x.vop o).lfsr = x.lfsr := by
  simp [Vop.formed, subMax, lookup] at formed
  obtain ⟨-, single, form, -⟩ := formed
  unfold Tile.vop
  rw [if_neg (by omega), if_neg (by simp [single]), if_neg form, lookup]
  exact mapLanes_lfsr (fun l p => stageFn_lookup_lfsr ..) _ _

theorem vop_issues (h : AtWord s k .V w) (code : wOpc w = 0x41) (other : fld w 3 0 ≠ 0xE) (formed : (readVop w).formed = true) :
    ∃ t, exec (.vop k .clean) s = .next t ∧ IssuedAlone s t k .V w true [.vregs, .lfsr, .flags] ∧
      TileSame [] ((s.tile k).vop (readVop w)) (t.tile k) := by
  show ∃ t, execVop k .clean s = .next t ∧ _
  unfold execVop
  refine State.issue_alone (fun x => x.vop (readVop w)) h code (by simpa using other) (fun x e y => x.vop_setEng e y _)
    ((s.tile k).vop_changes _) (fun id => ?_)
  simp only [State.withSoft]
  rw [if_neg (by simp [formed])]

theorem vlut_issues (h : AtWord s k .V w) (code : wOpc w = 0x41) (lookup : fld w 3 0 = 0xE) (formed : (readVop w).formed = true)
    (table : (Tbl.get none (s.tile k).tables (readVop w).slot).isSome = true) :
    ∃ t, exec (.vlut k) s = .next t ∧ IssuedAlone s t k .V w true [.vregs, .flags] ∧
      TileSame [] ((s.tile k).vop (readVop w)) (t.tile k) := by
  have changes : TileSame [.vregs, .flags] (s.tile k) ((s.tile k).vop (readVop w)) := by
    refine ⟨fun c hc => ?_⟩
    by_cases lfsr : c = .lfsr
    · rw [lfsr]
      exact (s.tile k).vop_lookup_lfsr formed lookup
    · exact ((s.tile k).vop_changes _).agrees c (by simpa [lfsr] using hc)
  show ∃ t, execVlut k s = .next t ∧ _
  unfold execVlut
  refine State.issue_alone (fun x => x.vop (readVop w)) h code (by simpa using lookup) (fun x e y => x.vop_setEng e y _) changes (fun id => ?_)
  dsimp only
  rw [if_neg (by simp [formed]), s.entered_tile, Tile.entered, Tile.tables_setEng, if_neg (by simpa using Option.isSome_iff_ne_none.1 table)]

end

/-! ### Fields of the tile store -/

theorem leNat_lt (bs : List Byte) : leNat bs < 256 ^ bs.length := by
  induction bs with
  | nil => simp [leNat]
  | cons b bs ih =>
    rw [leNat, List.length_cons, Nat.pow_succ]
    have := b.isLt
    omega

theorem BMap.readLe_lt (m : BMap) (a n : Nat) : BMap.readLe m a n < 256 ^ n := by
  have := leNat_lt (BMap.readBytes m a n)
  rwa [BMap.length_readBytes] at this

theorem signed_of_lt {w v : Nat} (h : 2 * v < 2 ^ w) : signed w v = v := by
  have small : v % 2 ^ w = v := Nat.mod_eq_of_lt (by omega)
  unfold signed
  rw [small, if_pos h]

/-- A 32-bit word of the store, as a register holds it. -/
theorem BMap.readLe_toNat (m : BMap) (a : Nat) : (BitVec.ofNat 32 (BMap.readLe m a 4)).toNat = BMap.readLe m a 4 := by
  rw [BitVec.toNat_ofNat]
  exact Nat.mod_eq_of_lt (BMap.readLe_lt m a 4)

theorem Tbl.get_foldl_range {α : Type} [DecidableEq α] (d : α) (g : Nat → α) {n i : Nat} (h : i < n) :
    Tbl.get d ((List.range n).foldl (fun t j => Tbl.set d t j (g j)) []) i = g i := by
  have keys := Tbl.get_foldl_set d g ((List.range n).map (fun j => (j, d))) [] i
  rw [List.foldl_map] at keys
  rw [keys, if_pos (by simpa using h)]

section
variable {s : State} {k : Nat} {w : BitVec 128}

/-! ### VTLOAD -/

theorem vtload_issues {a n : Nat} (h : AtWord s k .V w) (code : wOpc w = 0x45) (place : a = fld w 21 3 * 8)
    (size : BMap.readLe (s.tile k).store a 4 = n) (least : 2 ≤ n) (most : n ≤ 1024) (zero : BMap.readLe (s.tile k).store (a + 12) 4 = 0)
    (header : (s.tile k).vMay a 16 = true) (body : (s.tile k).vMay a (16 + 4 * n) = true) :
    ∃ t v, exec (.vtload k) s = .next t ∧ IssuedAlone s t k .V w true [.tables] ∧
      Tbl.get none (t.tile k).tables (fld w 2 0) = some v ∧ v.n = n ∧ v.x0.toNat = BMap.readLe (s.tile k).store (a + 4) 4 ∧
      v.invH.toNat = BMap.readLe (s.tile k).store (a + 8) 4 ∧
      (∀ i, i < n → (Tbl.get 0 v.values i).toNat = BMap.readLe (s.tile k).store (a + 16 + 4 * i) 4) := by
  obtain ⟨tab, htab⟩ : ∃ tab : VTable, tab = {
      n := n, x0 := BitVec.ofNat 32 (BMap.readLe (s.tile k).store (a + 4) 4), invH := BitVec.ofNat 32 (BMap.readLe (s.tile k).store (a + 8) 4)
      values := (List.range n).foldl (fun tb i => Tbl.set 0 tb i (BitVec.ofNat 32 (BMap.readLe (s.tile k).store (a + 16 + 4 * i) 4))) [] } :=
    ⟨_, rfl⟩
  have positive : signed 32 n = n := signed_of_lt (by omega)
  have done : ∃ t, execVtload k s = .next t ∧ IssuedAlone s t k .V w true [.tables] ∧
      TileSame [] { s.tile k with tables := Tbl.set none (s.tile k).tables (fld w 2 0) (some tab) } (t.tile k) := by
    unfold execVtload
    refine State.issue_alone (fun x => { x with tables := Tbl.set none x.tables (fld w 2 0) (some tab) }) h code rfl
      (fun x e y => by cases e <;> rfl) ⟨fun c hc => by cases c <;> simp at hc <;> rfl⟩ (fun id => ?_)
    dsimp only
    rw [s.entered_tile, ← place, show ((s.tile k).entered .V w).store = (s.tile k).store from rfl, size, positive,
      show ((s.tile k).entered .V w).vMay = (s.tile k).vMay from rfl, header, if_neg (by simp), if_neg (by omega), Int.toNat_natCast, body,
      if_neg (by simp), ← htab, s.entered_modTile]
    rfl
  obtain ⟨t, run, alone, result⟩ := done
  refine ⟨t, tab, run, alone, ?_, ?_⟩
  · have stored : (t.tile k).tables = Tbl.set none (s.tile k).tables (fld w 2 0) (some tab) := result.agrees .tables (by simp)
    rw [stored]
    exact Tbl.get_set_same _ _ _ _
  · subst htab
    refine ⟨rfl, BMap.readLe_toNat _ _, BMap.readLe_toNat _ _, fun i hi => ?_⟩
    dsimp only
    rw [Tbl.get_foldl_range 0 (fun i => BitVec.ofNat 32 (BMap.readLe (s.tile k).store (a + 16 + 4 * i) 4)) hi]
    exact BMap.readLe_toNat _ _

/-! ### VLD and VST -/

theorem Tile.entered_vView (x : Tile) (w : BitVec 128) (i : Nat) (chunk : Option (Nat × Nat)) :
    (x.entered .V w).vView i chunk = x.vView i chunk := rfl

theorem Tile.entered_store (x : Tile) (w : BitVec 128) : (x.entered .V w).store = x.store := rfl

theorem Tile.entered_lfsr (x : Tile) (w : BitVec 128) : (x.entered .V w).lfsr = x.lfsr := rfl

theorem Tile.entered_reds (x : Tile) (w : BitVec 128) : (x.entered .V w).reds = x.reds := rfl

theorem Tile.entered_lanes (x : Tile) (w : BitVec 128) (packed : Bool) (r : Nat) : (x.entered .V w).lanes packed r = x.lanes packed r := rfl

theorem vld_issues {v : View} {f : List Nat → Nat} {xs : List Nat} (h : AtWord s k .V w) (code : wOpc w = 0x42)
    (view : (s.tile k).vView (fld w 7 0) (some (64, fld w 27 16)) = .ok v) (wide : w.getLsbD 13 = false)
    (ok : vldOk v.fmt (fld w 12 8) false (fld w 15 14) = true) (fmt : v.fmt = 6 ∨ v.fmt = 7)
    (lane : f = (fun i => if v.fmt = 7 then v.getElem (s.tile k).store i else (finish 6 .rne 1 (v.value (s.tile k).store i, 0)).val))
    (lanes : xs = (if v.isScalar then List.replicate 64 (f [0, 0, 0, 0, 0]) else padTo 64 0 ((v.chunk 64 (fld w 27 16)).map f))) :
    ∃ t, exec (.vld k) s = .next t ∧ IssuedAlone s t k .V w true [.vregs, .flags] ∧
      (t.tile k).vregs = ((s.tile k).setLanes false (fld w 12 8) xs).vregs ∧ (t.tile k).store = (s.tile k).store := by
  obtain ⟨g, hg⟩ : ∃ g : List Nat → Num, g = fun i =>
      if v.fmt = 9 ∨ v.fmt = 7 then { val := v.getElem (s.tile k).store i } else finish 6 .rne 1 (v.value (s.tile k).store i, 0) := ⟨_, rfl⟩
  have value : ∀ i, (g i).val = f i := fun i => by
    rw [hg, lane]
    rcases fmt with six | seven
    · simp [six]
    · simp [seven]
  obtain ⟨idx, hidx⟩ : ∃ idx, idx = if v.isScalar then [[0, 0, 0, 0, 0]] else v.chunk 64 (fld w 27 16) := ⟨_, rfl⟩
  have loaded : (if v.isScalar then List.replicate 64 (((idx.map g).map (·.val)).headD 0) else padTo 64 0 ((idx.map g).map (·.val))) = xs := by
    rw [lanes, hidx, List.map_map, show (fun x : Num => x.val) ∘ g = f from funext value]
    split <;> rfl
  show ∃ t, execVld k s = .next t ∧ _
  unfold execVld
  refine (State.issue_alone (fun x => (x.setLanes false (fld w 12 8) xs).raise ((idx.map g).foldl (fun f x => f ||| x.flags) 0)) h code rfl
    (fun x e y => by cases e <;> rfl) (changed := [.vregs, .flags]) ?_ (fun id => ?_)).imp fun t ⟨run, alone, result⟩ =>
    ⟨run, alone, result.agrees .vregs (by simp), result.agrees .store (by simp)⟩
  · exact (((s.tile k).setLanes_changes _ _ _).mono (by simp)).trans ((Tile.raise_changes _ _).mono (by simp))
  · dsimp only
    rw [s.entered_tile, Tile.entered_vView, wide]
    simp only [Bool.false_eq_true, if_false]
    rw [view]
    dsimp only
    rw [ok, if_neg (by simp), if_neg (show ¬v.fmt = 8 by omega), ← hidx, Tile.entered_store, ← hg, loaded,
      if_neg (show ¬v.fmt = 9 by omega), s.entered_modTile]

theorem vst_issues {v : View} (h : AtWord s k .V w) (code : wOpc w = 0x43)
    (view : (s.tile k).vView (fld w 7 0) (some (if w.getLsbD 13 then 128 else 64, fld w 27 16)) = .ok v)
    (ok : vstOk v.fmt (fld w 12 8) (w.getLsbD 13) (w.getLsbD 28) (fld w 15 14) = true) (single : w.getLsbD 28 = false) :
    ∃ t, exec (.vst k) s = .next t ∧ IssuedAlone s t k .V w true [.store, .flags, .lfsr] ∧ (t.tile k).vregs = (s.tile k).vregs ∧
      (w.getLsbD 13 = true → (t.tile k).store =
        ((v.chunk 128 (fld w 27 16)).zip ((s.tile k).lanes true (fld w 12 8))).foldl (fun m p => v.putElem m p.1 p.2) (s.tile k).store) ∧
      (w.getLsbD 13 = false → (t.tile k).store = ((v.chunk 64 (fld w 27 16)).zip (storeLanes v.fmt ((rndOf (fld w 15 14)).getD .rne)
        (((s.tile k).lanes false (fld w 12 8)).take (v.chunk 64 (fld w 27 16)).length) (s.tile k).lfsr).1).foldl
          (fun m p => v.putElem m p.1 p.2) (s.tile k).store) := by
  obtain ⟨idx, hidx⟩ : ∃ idx, idx = v.chunk (if w.getLsbD 13 then 128 else 64) (fld w 27 16) := ⟨_, rfl⟩
  obtain ⟨out, hout⟩ : ∃ out, out = if w.getLsbD 13 then ((s.tile k).lanes (w.getLsbD 13) (fld w 12 8), 0, (s.tile k).lfsr)
      else storeLanes v.fmt ((rndOf (fld w 15 14)).getD .rne) (((s.tile k).lanes (w.getLsbD 13) (fld w 12 8)).take idx.length) (s.tile k).lfsr :=
    ⟨_, rfl⟩
  have issues : ∃ t, execVst k s = .next t ∧ IssuedAlone s t k .V w true [.store, .flags, .lfsr] ∧ TileSame []
      { ((s.tile k).raise out.2.1) with lfsr := out.2.2, store := (idx.zip out.1).foldl (fun m p => v.putElem m p.1 p.2) (s.tile k).store }
      (t.tile k) := by
    unfold execVst
    refine State.issue_alone (fun x => { (x.raise out.2.1) with
        lfsr := out.2.2, store := (idx.zip out.1).foldl (fun m p => v.putElem m p.1 p.2) (s.tile k).store })
      h code rfl (fun x e y => by cases e <;> rfl) ⟨fun c hc => by cases c <;> simp at hc <;> rfl⟩ (fun id => ?_)
    dsimp only
    rw [s.entered_tile, Tile.entered_vView, view]
    dsimp only
    rw [ok, if_neg (by simp), ← hidx, single, s.entered_modTile]
    simp only [Bool.false_or, Bool.false_eq_true, if_false, Tile.entered_lanes, Tile.entered_lfsr, Tile.entered_store, ← hout]
  obtain ⟨t, run, alone, result⟩ := issues
  have stored : (t.tile k).store = (idx.zip out.1).foldl (fun m p => v.putElem m p.1 p.2) (s.tile k).store := result.agrees .store (by simp)
  rw [hout, hidx] at stored
  refine ⟨t, run, alone, result.agrees .vregs (by simp), fun packed => ?_, fun wide => ?_⟩
  · rw [packed] at stored
    exact stored
  · rw [wide] at stored
    exact stored

/-! ### VRED -/

theorem vredOpen_issues (h : AtWord s k .V w) (code : wOpc w = 0x46) (action : fld w 1 0 = 0)
    (closed : Tbl.get none (s.tile k).reds (fld w 3 2) = none) (least : 1 ≤ fld w 6 4) (most : fld w 6 4 ≤ 5) :
    ∃ t, exec (.vredOpen k) s = .next t ∧ IssuedAlone s t k .V w true [.reds] ∧
      Tbl.get none (t.tile k).reds (fld w 3 2) = some { op := fld w 6 4 } := by
  show ∃ t, execVredOpen k s = .next t ∧ _
  unfold execVredOpen
  refine (State.issue_alone (fun x => { x with reds := Tbl.set none x.reds (fld w 3 2) (some { op := fld w 6 4 }) }) h code (by simpa using action)
    (fun x e y => by cases e <;> rfl) (changed := [.reds]) ⟨fun c hc => by cases c <;> simp at hc <;> rfl⟩ (fun id => ?_)).imp
    fun t ⟨run, alone, result⟩ => ⟨run, alone, ?_⟩
  · dsimp only
    rw [s.entered_tile, show ((s.tile k).entered .V w).reds = (s.tile k).reds from rfl, closed, if_neg (by simp),
      if_neg (by simp only [Bool.or_eq_true, decide_eq_true_eq]; omega), s.entered_modTile]
    rfl
  · have reds : (t.tile k).reds = Tbl.set none (s.tile k).reds (fld w 3 2) (some { op := fld w 6 4 }) := result.agrees .reds (by simp)
    rw [reds]
    exact Tbl.get_set_same _ _ _ _

theorem vredPut_issues {r : RedSlot} (h : AtWord s k .V w) (code : wOpc w = 0x46) (action : fld w 1 0 = 1)
    (slot : Tbl.get none (s.tile k).reds (fld w 3 2) = some r) :
    ∃ t, exec (.vredPut k) s = .next t ∧ IssuedAlone s t k .V w true [.reds, .flags] ∧
      Tbl.get none (t.tile k).reds (fld w 3 2) = some (r.put (((s.tile k).lanes false (fld w 11 7)).take (fld w 17 12 + 1))).1 ∧
      (t.tile k).flags = (s.tile k).flags ||| (r.put (((s.tile k).lanes false (fld w 11 7)).take (fld w 17 12 + 1))).2 := by
  obtain ⟨o, ho⟩ : ∃ o, o = r.put (((s.tile k).lanes false (fld w 11 7)).take (fld w 17 12 + 1)) := ⟨_, rfl⟩
  rw [← ho]
  show ∃ t, execVredPut k s = .next t ∧ _
  unfold execVredPut
  refine (State.issue_alone (fun x => { (x.raise o.2) with reds := Tbl.set none x.reds (fld w 3 2) (some o.1) }) h code (by simpa using action)
    (fun x e y => by cases e <;> rfl) (changed := [.reds, .flags]) ⟨fun c hc => by cases c <;> simp at hc <;> rfl⟩ (fun id => ?_)).imp
    fun t ⟨run, alone, result⟩ => ⟨run, alone, ?_, result.agrees .flags (by simp)⟩
  · dsimp only
    rw [s.entered_tile, show ((s.tile k).entered .V w).reds = (s.tile k).reds from rfl, slot]
    dsimp only
    rw [show ((s.tile k).entered .V w).lanes = (s.tile k).lanes from rfl, ← ho, s.entered_modTile]
    rfl
  · have reds : (t.tile k).reds = Tbl.set none (s.tile k).reds (fld w 3 2) (some o.1) := result.agrees .reds (by simp)
    rw [reds]
    exact Tbl.get_set_same _ _ _ _

/-- The result of a run that has one does not depend on a free value. -/
theorem RedSlot.close_free {r : RedSlot} (h : r.op = 1 ∨ r.op = 2 ∨ r.best.isSome = true) (free : Nat) : r.close free = r.close 0 := by
  unfold RedSlot.close
  by_cases sum : r.op = 1 ∨ r.op = 2
  · rw [if_pos sum, if_pos sum]
  · obtain ⟨b, best⟩ := Option.isSome_iff_exists.1 (h.elim (fun one => absurd (.inl one) sum) (fun h => h.elim (fun two => absurd (.inr two) sum) id))
    rw [if_neg sum, if_neg sum, best]

/-- Registers that VRED.CLOSE broadcasts its result to (R102): two of them for an FP64 sum and for ARGMAX. -/
def Tile.broadcast (x : Tile) (op r value index : Nat) : Tile :=
  if op = 2 then (x.setLanes false r (List.replicate 64 (value % 2 ^ 32))).setLanes false (r + 1) (List.replicate 64 (value / 2 ^ 32 % 2 ^ 32))
  else if op = 5 then (x.setLanes false r (List.replicate 64 (value % 2 ^ 32))).setLanes false (r + 1) (List.replicate 64 (index % 2 ^ 32))
  else x.setLanes false r (List.replicate 64 (value % 2 ^ 32))

theorem Tile.broadcast_changes (x : Tile) (op r value index : Nat) : TileSame [.vregs] x (x.broadcast op r value index) := by
  unfold Tile.broadcast
  exact .ite ((x.setLanes_changes _ _ _).trans (Tile.setLanes_changes _ _ _ _))
    (.ite ((x.setLanes_changes _ _ _).trans (Tile.setLanes_changes _ _ _ _)) (x.setLanes_changes _ _ _))

theorem Tile.broadcast_setEng (x : Tile) (e : Engine) (y : EngineState) (op r value index : Nat) :
    (x.setEng e y).broadcast op r value index = (x.broadcast op r value index).setEng e y := by
  unfold Tile.broadcast
  simp only [Tile.setLanes_setEng, apply_ite (fun z : Tile => z.setEng e y)]

theorem vredClose_issues {r : RedSlot} (h : AtWord s k .V w) (code : wOpc w = 0x46) (action : fld w 1 0 = 2)
    (slot : Tbl.get none (s.tile k).reds (fld w 3 2) = some r) (has : r.op = 1 ∨ r.op = 2 ∨ r.best.isSome = true)
    (even : r.op = 2 → fld w 11 7 % 2 = 0) (low : r.op = 5 → fld w 11 7 ≠ 31) :
    ∃ t, exec (.vredClose k) s = .next t ∧ Issued s t k .V w true ∧ Same [.tiles, .free] s t ∧
      TileSame [.reds, .vregs, .flags] (s.tile k) (t.tile k) ∧ Tbl.get none (t.tile k).reds (fld w 3 2) = none ∧
      (t.tile k).vregs = ((s.tile k).broadcast r.op (fld w 11 7) (r.close 0).1 (r.close 0).2.1).vregs ∧
      (t.tile k).flags = (s.tile k).flags ||| (r.close 0).2.2 := by
  obtain ⟨g, hg⟩ : ∃ g : Tile → Tile, g = fun x => { ((x.broadcast r.op (fld w 11 7) (r.close 0).1 (r.close 0).2.1).raise (r.close 0).2.2) with
    reds := Tbl.set none x.reds (fld w 3 2) none } := ⟨_, rfl⟩
  have blind : EngineBlind g := fun x e y => by
    rw [hg]
    dsimp only
    rw [Tile.broadcast_setEng, Tile.raise_setEng]
    cases e <;> rfl
  have written : TileSame [.vregs, .flags] (s.tile k)
      (((s.tile k).broadcast r.op (fld w 11 7) (r.close 0).1 (r.close 0).2.1).raise (r.close 0).2.2) :=
    ((Tile.broadcast_changes _ _ _ _ _).mono (by simp)).trans ((Tile.raise_changes _ _).mono (by simp))
  have changes : TileSame [.reds, .vregs, .flags] (s.tile k) (g (s.tile k)) := by
    rw [hg]
    exact (written.mono (by simp)).trans ⟨fun c hc => by cases c <;> simp at hc <;> rfl⟩
  show ∃ t, execVredClose k s = .next t ∧ _
  unfold execVredClose
  refine (State.issue_done g h code (by simpa using action) blind changes (State.fresh_changes (s.entered k .V w)) ?_).imp
    fun t ⟨run, issued, state, tile, _, result⟩ => ⟨run, issued, state, tile, ?_⟩
  · dsimp only
    rw [s.entered_tile, Tile.entered_reds, slot]
    dsimp only
    rw [if_neg (by omega), RedSlot.close_free has, hg]
    unfold State.modTile
    rw [show (s.entered k .V w).fresh.2.tile k = (s.tile k).entered .V w from s.entered_tile k .V w]
    rfl
  · rw [hg] at result
    have reds : (t.tile k).reds = Tbl.set none (s.tile k).reds (fld w 3 2) none := result.agrees .reds (by simp)
    refine ⟨?_, result.agrees .vregs (by simp), ?_⟩
    · rw [reds]
      exact Tbl.get_set_same _ _ _ _
    · have flags : (t.tile k).flags = ((s.tile k).broadcast r.op (fld w 11 7) (r.close 0).1 (r.close 0).2.1).flags ||| (r.close 0).2.2 :=
        result.agrees .flags (by simp)
      rw [flags, show ((s.tile k).broadcast r.op (fld w 11 7) (r.close 0).1 (r.close 0).2.1).flags = _ from
        (Tile.broadcast_changes _ _ _ _ _).agrees .flags (by simp)]

/-! ### VPSUM -/

theorem policyWrite_off (fmt v : Nat) : policyWrite false fmt v = v := rfl

theorem vpsum_issues {a d : View} {p e : Nat} (h : AtWord s k .V w) (code : wOpc w = 0x47) (source : (s.tile k).vView (fld w 7 0) = .ok a)
    (target : (s.tile k).vView (fld w 15 8) = .ok d) (fmtA : a.fmt = 9) (fmtD : d.fmt = 9) (ext : a.ext = [e, p, 1, 1, 1]) (least : 2 ≤ p)
    (most : p ≤ 4096) (few : e ≤ 65536) (count : d.count = e) (plain : s.policyZ (s.tilePart k) = false) :
    ∃ t, exec (.vpsum k) s = .next t ∧ IssuedAlone s t k .V w true [.store, .flags] ∧
      (t.tile k).store = ((List.range e).zip d.indices).foldl (fun m q => d.putElem m q.2
        (partialSum ((List.range p).map (fun j => a.getElem (s.tile k).store [q.1, j, 0, 0, 0]))).1) (s.tile k).store := by
  obtain ⟨sum, hsum⟩ : ∃ sum : Nat → Nat × BitVec 6, sum = fun i =>
      partialSum ((List.range p).map (fun j => a.getElem (s.tile k).store [i, j, 0, 0, 0])) := ⟨_, rfl⟩
  obtain ⟨step, hstep⟩ : ∃ step : BMap × BitVec 6 → Nat × List Nat → BMap × BitVec 6, step = fun acc q =>
      (d.putElem acc.1 q.2 (sum q.1).1, acc.2 ||| (sum q.1).2 ||| 0) := ⟨_, rfl⟩
  have written : (((List.range e).zip d.indices).foldl step ((s.tile k).store, 0)).1 =
      ((List.range e).zip d.indices).foldl (fun m q => d.putElem m q.2 (sum q.1).1) (s.tile k).store :=
    (List.foldl_hom Prod.fst (fun acc q => by rw [hstep])).symm
  show ∃ t, execVpsum k s = .next t ∧ _
  unfold execVpsum
  refine (State.issue_alone (fun x => { (x.raise (((List.range e).zip d.indices).foldl step ((s.tile k).store, 0)).2) with
      store := (((List.range e).zip d.indices).foldl step ((s.tile k).store, 0)).1 }) h code rfl
    (fun x e y => by cases e <;> rfl) (changed := [.store, .flags]) ⟨fun c hc => by cases c <;> simp at hc <;> rfl⟩ (fun id => ?_)).imp
    fun t ⟨run, alone, result⟩ => ⟨run, alone, ?_⟩
  · dsimp only
    rw [s.entered_tile, Tile.entered_vView, Tile.entered_vView, source, target]
    dsimp only
    rw [if_neg (by simp [fmtA, fmtD, ext, count]; omega), show ((s.tile k).entered .V w).program = (s.tile k).program from rfl, s.entered_modTile]
    unfold State.tilePart at plain
    cases program : (s.tile k).program with
    | none => simp only [fmtD, if_true, ext, List.getD_cons_zero, List.getD_cons_succ, Tile.entered_store, policyWrite_off, hstep, hsum]
    | some q =>
      rw [program] at plain
      have off : (s.entered k .V w).policyZ q.1 = false := plain
      simp only [off, fmtD, if_true, ext, List.getD_cons_zero, List.getD_cons_succ, Tile.entered_store, policyWrite_off, hstep, hsum]
  · have store : (t.tile k).store = (((List.range e).zip d.indices).foldl step ((s.tile k).store, 0)).1 := result.agrees .store (by simp)
    rw [store, written, hsum]

/-! ### VSTREAM -/

theorem Tile.keepMax_setEng (x : Tile) (e : Engine) (y : EngineState) (record : Nat) (m : BitVec 32) :
    (x.setEng e y).keepMax record m = (x.keepMax record m).setEng e y := by
  unfold Tile.keepMax
  rw [apply_ite (fun z : Tile => z.setEng e y), apply_ite (fun z : Tile => z.setEng e y)]
  cases e <;> rfl

theorem Tile.keepMax_changes (x : Tile) (record : Nat) (m : BitVec 32) : TileSame [.flags, .maxima] x (x.keepMax record m) := by
  unfold Tile.keepMax
  exact .ite ⟨fun c hc => by cases c <;> simp at hc <;> rfl⟩ (.ite ⟨fun c hc => by cases c <;> simp at hc <;> rfl⟩
    ((x.raise_changes _).mono (by simp)))

theorem StreamJob.unit_setEng (j : StreamJob) (x : Tile) (e : Engine) (y : EngineState) : j.unit (x.setEng e y) = j.unit x := by
  unfold StreamJob.unit
  simp only [Tile.tables_setEng]

/-- A stream operation looks at no engine. -/
theorem StreamJob.run_setEng (j : StreamJob) (x : Tile) (e : Engine) (y : EngineState) : j.run (x.setEng e y) = (j.run x).setEng e y := by
  have store : (x.setEng e y).store = x.store := by cases e <;> rfl
  unfold StreamJob.run
  rw [j.unit_setEng, store, x.lfsr_setEng]
  cases j.out with
  | none => cases e <;> rfl
  | some v =>
    dsimp only
    rw [apply_ite (fun z : Tile => z.setEng e y), ← Tile.keepMax_setEng]
    cases e <;> rfl

/-- A stream operation writes the store, the LFSR, the flags and a kept maximum only. -/
theorem StreamJob.run_changes (j : StreamJob) (x : Tile) : TileSame [.store, .lfsr, .flags, .maxima] x (j.run x) := by
  unfold StreamJob.run
  extract_lets all idx r m raised t1
  have streamed : TileSame [.store, .lfsr, .flags, .maxima] x t1 := ⟨fun c hc => by cases c <;> simp at hc <;> rfl⟩
  split
  · exact .ite (streamed.trans ((t1.keepMax_changes _ _).mono (by simp))) streamed
  · exact streamed

/-- VSTREAM's work where every operand is sound and no history is read. -/
theorem State.vstreamRun_plain (st : State) (id : Nat) {r : StreamRec} {j : StreamJob} {v : View}
    (rec' : r = readStream (st.tile k).store (fld w 50 32 * 8)) (plain : r.outctl / 4 = 0) (reach : (st.tile k).vMay (fld w 50 32 * 8) 32 = true)
    (formed : r.formed = true) (plan : (st.tile k).vMay r.plan (8 * r.stages) = true) (view : (st.tile k).vView (fld w 7 0) = .ok v)
    (a : fld w 7 0 ≠ 255) (b : fld w 15 8 = 255) (c : fld w 23 16 = 255)
    (out : fld w 31 24 = 255 ∨ ((st.tile k).vView (fld w 31 24)).toOption.isSome = true)
    (job : j = { ins := fun c => if c = 1 then some v else none, out := if fld w 31 24 = 255 then none else ((st.tile k).vView (fld w 31 24)).toOption
                 rec' := r, stages := readPlan (st.tile k).store r, hist := none })
    (sound : j.fault (st.tile k) = none) : st.vstreamRun k w id = (st.modTile k (fun x => j.run x)).atOnce k .V id := by
  unfold State.vstreamRun
  extract_lets t a' r' name bad view' p j' fmt
  have record : r' = r := rec'.symm
  have operands : j' = j := by
    have first : view' 1 = some v := by
      show (if fld w 7 0 = 255 then none else ((st.tile k).vView (fld w 7 0)).toOption) = some v
      rw [if_neg a, view]
      rfl
    have second : view' 2 = none := if_pos b
    have third : view' 3 = none := if_pos c
    have ins : (fun c => if 1 ≤ c ∧ c ≤ 3 then view' c else none) = fun c => if c = 1 then some v else none := by
      funext c
      match c with
      | 0 => rfl
      | 1 => simpa using first
      | 2 => simpa using second
      | 3 => simpa using third
      | n + 4 => rfl
    rw [job, ← record]
    show StreamJob.mk _ _ _ _ _ = _
    rw [ins]
    rfl
  have reached : [1, 2, 3, 4].findSome? bad = none := by
    have first : bad 1 = none := by
      show (if fld w 7 0 = 255 then none else match (st.tile k).vView (fld w 7 0) with | .error f => some f | .ok _ => none) = none
      rw [view]
      exact ite_self _
    have second : bad 2 = none := if_pos b
    have third : bad 3 = none := if_pos c
    have fourth : bad 4 = none := by
      show (if fld w 31 24 = 255 then none else match (st.tile k).vView (fld w 31 24) with | .error f => some f | .ok _ => none) = none
      rcases out with absent | present
      · exact if_pos absent
      · cases seen : (st.tile k).vView (fld w 31 24) with
        | error f => simp [seen, Except.toOption] at present
        | ok u => exact ite_self _
    simp [List.findSome?, first, second, third, fourth]
  rw [record, operands, reach, if_neg (by simp), formed, if_neg (by simp), plan, if_neg (by simp), reached, sound]
  dsimp only
  rw [if_neg (by omega)]

theorem vstream_issues {r : StreamRec} {j : StreamJob} {v : View} (h : AtWord s k .V w) (code : wOpc w = 0x44)
    (rec' : r = readStream (s.tile k).store (fld w 50 32 * 8)) (plain : r.outctl / 4 = 0) (reach : (s.tile k).vMay (fld w 50 32 * 8) 32 = true)
    (formed : r.formed = true) (plan : (s.tile k).vMay r.plan (8 * r.stages) = true) (view : (s.tile k).vView (fld w 7 0) = .ok v)
    (a : fld w 7 0 ≠ 255) (b : fld w 15 8 = 255) (c : fld w 23 16 = 255)
    (out : fld w 31 24 = 255 ∨ ((s.tile k).vView (fld w 31 24)).toOption.isSome = true)
    (job : j = { ins := fun c => if c = 1 then some v else none, out := if fld w 31 24 = 255 then none else ((s.tile k).vView (fld w 31 24)).toOption
                 rec' := r, stages := readPlan (s.tile k).store r, hist := none })
    (sound : j.fault (s.tile k) = none) :
    ∃ t, exec (.vstream k) s = .next t ∧ IssuedAlone s t k .V w true [.store, .lfsr, .flags, .maxima] ∧ TileSame [] (j.run (s.tile k)) (t.tile k) := by
  show ∃ t, execVstream k s = .next t ∧ _
  unfold execVstream
  refine State.issue_alone (fun x => j.run x) h code ?_ (fun x e y => j.run_setEng x e y) (j.run_changes _) (fun id => ?_)
  · unfold vstreamReady
    rw [State.setTile_same]
    dsimp only
    rw [← rec', plain]
    simp
  · refine (s.entered k .V w).vstreamRun_plain id (r := r) (v := v) ?_ plain ?_ formed ?_ ?_ a b c ?_ ?_ ?_ <;> rw [s.entered_tile]
    · exact rec'
    · exact reach
    · exact plan
    · exact view
    · exact out
    · exact job
    · exact sound

end

/-! ### The statement -/

/-- Settles O33: each instruction's own work, done at once in the tile that holds it in flight. -/
theorem vectorInstructionsIssue : Obligations.vectorInstructionsIssue := by
  refine ⟨fun s k w x h hx => ?_, fun s k w x h hx => ?_⟩
  · subst hx
    refine ⟨vmode_issues h, vseed_issues h, fun code other formed => ?_, fun code lookup formed table => ?_, fun a n => vtload_issues h,
      fun v f xs => vld_issues h, fun v => vst_issues h⟩
    · exact (vop_issues h code other formed).imp fun t ⟨run, alone, result⟩ => ⟨run, alone, result.agrees .vregs (by simp),
        result.agrees .lfsr (by simp), result.agrees .flags (by simp), (result.agrees .store (by simp)).trans
          (((s.tile k).vop_changes _).agrees .store (by simp))⟩
    · exact (vlut_issues h code lookup formed table).imp fun t ⟨run, ⟨issued, state, tile, engines⟩, result⟩ =>
        ⟨run, ⟨issued, state, tile, engines⟩, result.agrees .vregs (by simp), result.agrees .flags (by simp), tile.agrees .tables (by simp)⟩
  · subst hx
    refine ⟨vredOpen_issues h, fun r => vredPut_issues h, fun r code action slot has even low => ?_,
      fun a d p e => vpsum_issues h,
      fun r j v code rec' plain reach formed plan view a b c out job sound => ?_⟩
    · obtain ⟨t, run, issued, state, tile, closed, vregs, flags⟩ := vredClose_issues h code action slot has even low
      refine ⟨t, run, issued, state, tile, closed, ?_, flags⟩
      rw [vregs, Tile.broadcast]
    · exact (vstream_issues h code rec' plain reach formed plan view a b c out job sound).imp fun t ⟨run, alone, result⟩ =>
        ⟨run, alone, result.agrees .store (by simp), result.agrees .lfsr (by simp), result.agrees .flags (by simp)⟩

end Sys2Proof.Machine

/-! ## O51: data of a collective (R283, R309, R313)

The statement does not shut out the mark KEPT, with which an ALL_GATHER that moves nothing records that its kept copy stands (R283). A
collective with that mark is over as soon as anything settles it, whatever it still has to receive: the CHAIN packet that its break discards
ends it, and the state is not the one before. -/

namespace Sys2Proof.Machine
open Sys2Proof

/-- A REDUCE_SCATTER of partition 1 that a break has met and that carries the mark. -/
def keptColl : Coll := { pt := 1, seq := 6, fn := 1, slot := 1, stage := .run, begun := true, broken := true, kept := true }

/-- Position 0 of a fabric of 16 modules in domain 3, with that collective running. -/
def keptState : State where
  power := { state := .ms0, devReady := true }
  parts := [(1, { domain := 3, colls := [keptColl] })]
  slots := [(slotKey 1 1, { state := .running, cmd := { packet := [(32, 1)], phase := .running } })]
  fabric := { shape := 0, ports := [(0, { state := .up })], members := [(3, [0, 1])] }

/-- A CHAIN packet of that collective from position 1. -/
def keptChain : Packet := { (default : Packet) with type := pkCHAIN, cls := 2, domain := 3, src := 1, tag := 6 }

theorem keptState_coll : keptState.coll 1 6 = some keptColl := by decide +kernel

/-- The packet is discarded, and settling what it names ends the collective. -/
theorem keptChain_ends : ∃ t, exec (.chain 0 keptChain) keptState = .next t ∧ t.coll 1 6 = none := ⟨_, rfl, by decide +kernel⟩

theorem keptChain_arrives : Arrives keptState 0 keptChain := by decide +kernel

/-- Refutes O51: the second clause fails at `keptState`, where the CHAIN packet of a broken collective does not leave the state as it is. -/
theorem not_collectiveDataArrive : ¬ Obligations.collectiveDataArrive := by
  intro ⟨arrive, _⟩
  obtain ⟨-, discarded, -⟩ := arrive keptState 0 1 6 keptChain keptColl keptChain_arrives (by decide +kernel) (by decide +kernel) (by decide)
    keptState_coll rfl (by decide +kernel) rfl rfl (by decide +kernel)
  obtain ⟨t, run, same⟩ := discarded rfl rfl (by decide +kernel) rfl
  obtain ⟨u, ends, gone⟩ := keptChain_ends
  have one : u = keptState := by
    rw [run, same] at ends
    exact (Host.Outcome.next.inj ends).symm
  rw [one, keptState_coll] at gone
  cases gone

end Sys2Proof.Machine

/-! ## O32: matrix instructions (R74, R75, R81, R114)

The work of MMASK, MOPEN, MACC and MCLOSE is a change of the tile that no engine's state enters or leaves; `State.issue_alone` says the rest. -/

namespace Sys2Proof.Machine
open Sys2Proof

/-! ### What an engine's state does not enter -/

section
variable (x : Tile) (e : Engine) (w : BitVec 128)

theorem Tile.group_entered (n : Nat) : (x.entered e w).group n = x.group n := by cases e <;> rfl

theorem Tile.store_entered : (x.entered e w).store = x.store := by cases e <;> rfl

theorem Tile.masks_entered : (x.entered e w).masks = x.masks := by cases e <;> rfl

theorem Tile.openFault_entered (n : Nat) (g : Group) : (x.entered e w).openFault n g = x.openFault n g := by cases e <;> rfl

/-- An instruction's views are those of the loops and the replay it issues in (R122), which its own entry leaves as they are. -/
theorem Tile.view_entered (i : Nat) : (x.entered e w).view e i = x.view e i := by cases e <;> rfl

end

/-! ### One group, or one record of mask values, written -/

theorem Tile.group_of_groups {x y : Tile} {n : Nat} {g : Group} (h : y.groups = Tbl.set {} x.groups n g) : y.group n = g := by
  unfold Tile.group
  rw [h]
  exact Tbl.get_set_same _ _ _ _

theorem Tile.group_of_groups_other {x y : Tile} {n j : Nat} {g : Group} (h : y.groups = Tbl.set {} x.groups n g) (other : j ≠ n) :
    y.group j = x.group j := by
  unfold Tile.group
  rw [h]
  exact Tbl.get_set_other _ _ _ _ _ other

theorem Tile.mask_of_masks {x y : Tile} {n : Nat} {v : Option MaskValues} (h : y.masks = Tbl.set none x.masks n v) : Tbl.get none y.masks n = v := by
  rw [h]
  exact Tbl.get_set_same _ _ _ _

/-- A group of a tile, its store and its flags after a MACC or an MCLOSE. -/
def Tile.worked (x : Tile) (n : Nat) (g : Group) (m : BMap) (f : BitVec 6) : Tile := ({ x.setGroup n g with store := m } : Tile).raise f

theorem Tile.worked_blind (n : Nat) (g : Group) (m : BMap) (f : BitVec 6) : EngineBlind (fun x => x.worked n g m f) :=
  fun x e y => by cases e <;> rfl

theorem Tile.worked_changes (x : Tile) (n : Nat) (g : Group) (m : BMap) (f : BitVec 6) : TileSame [.groups, .store, .flags] x (x.worked n g m f) :=
  ⟨fun c hc => by cases c <;> simp at hc <;> rfl⟩

theorem Tile.worked_result {x y : Tile} {n : Nat} {g : Group} {m : BMap} {f : BitVec 6} (h : TileSame [] (x.worked n g m f) y) :
    y.group n = g ∧ (∀ j, j ≠ n → y.group j = x.group j) ∧ y.store = m ∧ y.flags = x.flags ||| f := by
  have groups := h.agrees .groups (by simp)
  exact ⟨Tile.group_of_groups groups, fun j => Tile.group_of_groups_other groups, h.agrees .store (by simp), h.agrees .flags (by simp)⟩

section
variable {s : State} {k : Nat} {w : BitVec 128}

/-! ### MMASK -/

theorem mmask_issues (h : AtWord s k .M w) (code : wOpc w = 0x21) :
    ∃ t, exec (.mmask k) s = .next t ∧ IssuedAlone s t k .M w true [.masks] ∧ Tbl.get none (t.tile k).masks (fld w 2 0) =
      some { maskAddr := fld w 21 3 * 8, maskCols := fld w 33 22 + 1, m0 := fld w 49 34 * 16, n0 := fld w 65 50 * 16 } := by
  show ∃ t, execMmask k s = .next t ∧ _
  unfold execMmask
  exact (State.issue_alone (fun x => { x with masks := Tbl.set none x.masks (fld w 2 0) (some
      { maskAddr := fld w 21 3 * 8, maskCols := fld w 33 22 + 1, m0 := fld w 49 34 * 16, n0 := fld w 65 50 * 16 }) }) h code rfl
    (fun x e y => by cases e <;> rfl) ⟨fun c hc => by cases c <;> simp at hc <;> rfl⟩ (fun id => rfl)).imp
    fun t ⟨run, alone, result⟩ => ⟨run, alone, Tile.mask_of_masks (result.agrees .masks (by simp))⟩

/-! ### MOPEN -/

/-- A group opened in a tile: its outputs frozen as the mask stands now, the recorded mask values used up (R81, R114). -/
def Tile.opened (x : Tile) (n : Nat) (g : Group) : Tile :=
  { x.setGroup n { g with frozen := g.frozenNow x.store } with masks := Tbl.set none x.masks n none }

theorem Tile.opened_blind (n : Nat) (g : Group) : EngineBlind (fun x => x.opened n g) := fun x e y => by cases e <;> rfl

theorem Tile.opened_changes (x : Tile) (n : Nat) (g : Group) : TileSame [.groups, .masks] x (x.opened n g) :=
  ⟨fun c hc => by cases c <;> simp at hc <;> rfl⟩

theorem mopen_issues {g : Group} (h : AtWord s k .M w) (code : wOpc w = 0x20)
    (opens : g = openGroup w (if fld w 42 41 = 0 then none else Tbl.get none (s.tile k).masks (fld w 2 0)))
    (masked : fld w 42 41 = 0 ∨ (Tbl.get none (s.tile k).masks (fld w 2 0)).isSome = true) (sound : (s.tile k).openFault (fld w 2 0) g = none) :
    ∃ t, exec (.mopen k) s = .next t ∧ IssuedAlone s t k .M w true [.groups, .masks] ∧
      TileSame [] ((s.tile k).opened (fld w 2 0) g) (t.tile k) := by
  have values : ¬(fld w 42 41 ≠ 0 ∧ (Tbl.get none (s.tile k).masks (fld w 2 0)).isNone = true) := by
    rintro ⟨mode, absent⟩
    rw [Option.isNone_iff_eq_none] at absent
    simp [mode, absent] at masked
  show ∃ t, execMopen k s = .next t ∧ _
  unfold execMopen
  refine State.issue_alone (fun x => x.opened (fld w 2 0) g) h code rfl (Tile.opened_blind _ _) (Tile.opened_changes _ _ _) (fun id => ?_)
  dsimp only
  rw [s.entered_tile, Tile.masks_entered, if_neg values, ← opens, Tile.openFault_entered, sound, s.entered_modTile, Tile.opened,
    Tile.masks_entered]

/-! ### MACC -/

/-- A MACC that meets none of the conditions of R77. -/
theorem Group.maccFault_none {g : Group} {a b : Operand} {kphase : Nat} (isOpen : g.isOpen = true) (extents : a.k = b.k)
    (first : kphase % productBlock a b = 0) (room : g.entries + entryCount a b ≤ 2 ^ 48) : g.maccFault a b kphase = none := by
  unfold Group.maccFault
  rw [isOpen, extents, first, if_neg (by simp), if_neg (by simp), if_neg (by simp), if_neg (by simpa using fun _ => room)]

theorem macc_issues {va vb : View} {a b : Operand} (h : AtWord s k .M w) (code : wOpc w = 0x22)
    (viewA : (s.tile k).view .M (fld w 7 0) = some va) (viewB : (s.tile k).view .M (fld w 15 8) = some vb)
    (opA : a = { view := va, trans := w.getLsbD 19, store := (s.tile k).store })
    (opB : b = { view := vb, trans := w.getLsbD 20, store := (s.tile k).store }) (okA : a.ok = true) (okB : b.ok = true)
    (sound : ((s.tile k).group (fld w 18 16)).maccFault a b (fld w 27 21) = none)
    (trains : ((s.tile k).group (fld w 18 16)).frozen ≠ BitVec.allOnes 256) {r : Group × BMap × BitVec 6}
    (products : r = maccGroup ((s.tile k).group (fld w 18 16)) a b (s.tile k).store) :
    ∃ t, exec (.macc k .clean) s = .next t ∧ IssuedAlone s t k .M w true [.groups, .store, .flags] ∧
      TileSame [] ((s.tile k).worked (fld w 18 16) r.1 r.2.1 r.2.2) (t.tile k) := by
  show ∃ t, execMacc k .clean s = .next t ∧ _
  unfold execMacc
  refine State.issue_alone (fun x => x.worked (fld w 18 16) r.1 r.2.1 r.2.2) h code rfl (Tile.worked_blind _ _ _ _) (Tile.worked_changes _ _ _ _ _)
    (fun id => ?_)
  simp only [State.withSoft]
  rw [s.entered_tile, Tile.view_entered, Tile.view_entered, viewA, viewB, Tile.store_entered, Tile.group_entered]
  dsimp only
  rw [← opA, ← opB, okA, okB, if_neg (by simp), sound, ← products]
  dsimp only
  rw [if_neg trains]
  rfl

/-! ### MCLOSE -/

theorem flatMap_natLe_length (f : Nat → Nat) (n : Nat) (xs : List Nat) : (xs.flatMap (fun o => natLe (f o) n)).length = xs.length * n := by
  induction xs with
  | nil => simp
  | cons o xs ih => rw [List.flatMap_cons, List.length_append, ih, natLe_length, List.length_cons, Nat.succ_mul, Nat.add_comm]

/-- The bytes of a group's results, one ACC48 value of 8 bytes for each output (R75). -/
def Group.resultBytes (g : Group) (m : BMap) : List Byte := (List.range 256).flatMap (fun o => natLe (g.result m o).val 8)

theorem Group.resultBytes_length (g : Group) (m : BMap) : (g.resultBytes m).length = 2048 := by
  rw [Group.resultBytes, flatMap_natLe_length, List.length_range]

theorem mclose_issues {g : Group} {f : BitVec 6} (h : AtWord s k .M w) (code : wOpc w = 0x23) (group : g = (s.tile k).group (fld w 2 0))
    (isOpen : g.isOpen = true)
    (raised : f = ((List.range 256).map (fun o => g.result (s.tile k).store o)).foldl (fun a r => a ||| r.flags) 0) :
    ∃ t, exec (.mclose k) s = .next t ∧ IssuedAlone s t k .M w true [.groups, .store, .flags] ∧
      TileSame [] ((s.tile k).worked (fld w 2 0) { g with isOpen := false, ladders := [] }
        (BMap.writeBytes (s.tile k).store g.resultAddr (g.resultBytes (s.tile k).store)) f) (t.tile k) := by
  show ∃ t, execMclose k s = .next t ∧ _
  unfold execMclose
  refine State.issue_alone (fun x => x.worked (fld w 2 0) { g with isOpen := false, ladders := [] }
    (BMap.writeBytes (s.tile k).store g.resultAddr (g.resultBytes (s.tile k).store)) f) h code rfl (Tile.worked_blind _ _ _ _)
    (Tile.worked_changes _ _ _ _ _) (fun id => ?_)
  dsimp only
  rw [s.entered_tile, Tile.group_entered, ← group, isOpen, if_neg (by simp), Tile.store_entered, List.flatMap_map, ← raised, s.entered_modTile,
    Tile.worked, Group.resultBytes]

end

/-! ### The statement -/

/-- Settles O32: each instruction's own work, done at once in the tile that holds it in flight. -/
theorem matrixInstructionsIssue : Obligations.matrixInstructionsIssue := by
  intro s k w h
  refine ⟨mmask_issues h, fun g code opens masked sound => ?_,
    fun va vb a b code viewA viewB opA opB okA okB isOpen extents first trains room => ?_, fun g code group isOpen => ?_⟩
  · refine (mopen_issues h code opens masked sound).imp fun t ⟨run, alone, result⟩ => ?_
    have groups := result.agrees .groups (by simp)
    exact ⟨run, alone, fun j => Tile.group_of_groups_other groups, Tile.group_of_groups groups,
      Tile.mask_of_masks (result.agrees .masks (by simp))⟩
  · obtain ⟨t, run, alone, result⟩ :=
      macc_issues h code viewA viewB opA opB okA okB (Group.maccFault_none isOpen extents first room) trains rfl
    obtain ⟨group, groups, store, flags⟩ := Tile.worked_result result
    exact ⟨t, run, alone, groups, Prod.ext group (Prod.ext store flags)⟩
  · obtain ⟨t, run, alone, result⟩ := mclose_issues h code group isOpen rfl
    obtain ⟨closed, groups, store, -⟩ := Tile.worked_result result
    have bytes := g.resultBytes_length (s.tile k).store
    refine ⟨t, run, alone, groups, fun c outside => ?_, closed, ?_⟩
    · rw [store]
      refine BMap.read_writeBytes_outside _ _ _ _ ?_
      rw [bytes]
      exact outside
    · rw [store]
      exact readBytes_writeBytes_of_length _ _ bytes

end Sys2Proof.Machine

/-! ## Issue in general (R108, R109, R112, R133)

What issuing leaves behind for any wait, any way of moving on and any work that changes nothing but the issuing tile. -/

namespace Sys2Proof.Machine
open Sys2Proof

/-- Of the whole state only tile `k` has changed: it is `x` with engine `e` replaced by `y`. -/
structure TileNow (s t : State) (k : Nat) (e : Engine) (x : Tile) (y : EngineState) : Prop where
  state : Same [.tiles] s t
  far : ∀ j, j ≠ k → t.tile j = s.tile j
  result : TileSame [] x (t.tile k)
  engine : (t.tile k).eng e = y
  others : ∀ d, d ≠ e → (t.tile k).eng d = x.eng d

theorem TileNow.alone {s t : State} {k : Nat} {e : Engine} {x : Tile} {y : EngineState} {changed : List TilePart} (h : TileNow s t k e x y)
    (same : TileSame changed (s.tile k) x) (engines : ∀ d, d ≠ e → x.eng d = (s.tile k).eng d) : Alone s t k e changed := by
  exact ⟨h.state, same.trans (h.result.mono (by simp)), fun d hd => (h.others d hd).trans (engines d hd), h.far⟩

theorem State.watch_now (s : State) (k : Nat) (e : Engine) : TileNow s (s.watch k) k e (s.tile k) ((s.tile k).eng e) := by
  obtain ⟨kept, engines⟩ := s.watch_tile k
  exact ⟨s.watch_changes k, fun j hj => s.watch_other hj, kept, engines e, fun d _ => engines d⟩

/-- An issue that is through its wait and its acquire in a state `u`, of a word that releases nothing: where the work leaves tile `x` and changes
nothing else, the engine moves on. -/
theorem State.issue_moves {s u : State} {k : Nat} {e : Engine} {w : BitVec 128} {ready : BitVec 128 → State → Bool}
    {work : BitVec 128 → Nat → State → State} {move : EngineState → EngineState} {x : Tile} (stands : s.atOpcode k e (wOpc w) = true)
    (word : ((s.tile k).eng e).word = w) (through : s.waitSteps k e = (true, u)) (room : ((u.tile k).eng e).flights.length < flightLimit e)
    (go : ready w u = true) (release : wRelEn w = false) (before : Same [.tiles] s u) (others : ∀ j, j ≠ k → u.tile j = s.tile j)
    (does : ∀ v, Same [.tiles] u v → (∀ j, j ≠ k → v.tile j = u.tile j) → v.tile k = (u.tile k).entered e w →
      Same [.tiles] u (work w ((u.tile k).eng e).nextId v) ∧ (∀ j, j ≠ k → (work w ((u.tile k).eng e).nextId v).tile j = u.tile j) ∧
        (work w ((u.tile k).eng e).nextId v).tile k = x)
    (on : x.running = true) :
    ∃ t, s.issue k e (wOpc w) ready work move = .next t ∧
      TileNow s t k e x (move { x.eng e with waited := false, taken := false }).settle := by
  obtain ⟨v, hv⟩ : ∃ v : State, v = u.modTile k (fun y => y.setEng e { (u.tile k).eng e with
      flights := ((u.tile k).eng e).flights ++ [{ id := ((u.tile k).eng e).nextId, word := w }], nextId := ((u.tile k).eng e).nextId + 1 }) := ⟨_, rfl⟩
  obtain ⟨worked, far, tile⟩ := does v (hv ▸ u.modTile_changes _ _) (fun j hj => hv ▸ State.modTile_other _ _ _ _ hj)
    (by rw [hv, State.modTile_same]; rfl)
  obtain ⟨y, hy⟩ : ∃ y, y = work w ((u.tile k).eng e).nextId v := ⟨_, rfl⟩
  rw [← hy] at worked far tile
  obtain ⟨z, hz⟩ : ∃ z, z = y.modTile k (fun x => x.setEng e (move { x.eng e with waited := false, taken := false }).settle) := ⟨_, rfl⟩
  have moved : z.tile k = x.setEng e (move { x.eng e with waited := false, taken := false }).settle := by
    rw [hz, State.modTile_same, tile]
  obtain ⟨kept, engines⟩ := z.watch_tile k
  rw [moved] at kept engines
  refine ⟨z.watch k, ?_, ?_, fun j hj => ?_, (TileSame.setEng x e _).trans kept, ?_, fun d hd => ?_⟩
  · unfold State.issue
    dsimp only
    rw [word, stands, through, if_neg (by simp)]
    dsimp only
    rw [go, if_neg (by simpa using room), ← hv, ← hy, tile, on, release, hz]
    rfl
  · have after : Same [.tiles] y z := hz ▸ State.modTile_changes _ _ _
    exact ((before.trans worked).trans after).trans (State.watch_changes _ _)
  · rw [z.watch_other hj, hz, State.modTile_other _ _ _ _ hj, far j hj, others j hj]
  · rw [engines, Tile.eng_setEng_same]
  · rw [engines, Tile.eng_setEng_other _ _ hd]

/-- An engine with a word in flight whose effect is made. -/
def EngineState.ranAlso (y : EngineState) (w : BitVec 128) : EngineState :=
  { y with
    flights := (y.flights ++ [({ id := y.nextId, word := w } : Flight)]).map (fun f => if f.id = y.nextId then { f with ran := true } else f)
    nextId := y.nextId + 1 }

/-- Number, word and effect-made of the instructions in flight. -/
def EngineState.listed (y : EngineState) : List (Nat × BitVec 128 × Bool) := y.flights.map (fun f => (f.id, f.word, f.ran))

theorem EngineState.ranAlso_listed (y : EngineState) (w : BitVec 128) (fresh : ∀ f ∈ y.flights, f.id ≠ y.nextId) :
    (y.ranAlso w).listed = y.listed ++ [(y.nextId, w, true)] := by
  have earlier : y.flights.map (fun f => if f.id = y.nextId then { f with ran := true } else f) = y.flights :=
    (List.map_congr_left (fun f hf => if_neg (fresh f hf))).trans (List.map_id' _)
  simp [EngineState.listed, EngineState.ranAlso, earlier]

theorem State.atOnce_tile {v : State} {k : Nat} {e : Engine} {w : BitVec 128} {x : Tile} (h : v.tile k = x.entered e w) :
    (v.atOnce k e (x.eng e).nextId).tile k = x.setEng e ((x.eng e).ranAlso w) := by
  unfold State.atOnce State.modFlight
  rw [State.modTile_same, h, Tile.entered, Tile.setEng_setEng, Tile.eng_setEng_same]
  rfl

theorem State.atOnce_other (v : State) {k j : Nat} (e : Engine) (id : Nat) (h : j ≠ k) : (v.atOnce k e id).tile j = v.tile j := by
  unfold State.atOnce State.modFlight
  exact State.modTile_other _ _ _ _ h

/-- Issue of an instruction that does nothing but complete. -/
theorem State.issue_atOnce {s u : State} {k o : Nat} {e : Engine} {w : BitVec 128} {ready : BitVec 128 → State → Bool}
    {move : EngineState → EngineState} (stands : s.atOpcode k e o = true) (code : wOpc w = o)
    (word : ((s.tile k).eng e).word = w) (through : s.waitSteps k e = (true, u)) (room : ((u.tile k).eng e).flights.length < flightLimit e)
    (go : ready w u = true) (release : wRelEn w = false) (before : Same [.tiles] s u) (others : ∀ j, j ≠ k → u.tile j = s.tile j)
    (on : (u.tile k).running = true) :
    ∃ t, s.issue k e o ready (fun _ id st => st.atOnce k e id) move = .next t ∧
      TileNow s t k e (u.tile k) (move { ((u.tile k).eng e).ranAlso w with waited := false, taken := false }).settle := by
  subst code
  obtain ⟨t, run, state, far, tile, engine, engines⟩ := State.issue_moves (work := fun _ id st => st.atOnce k e id) (move := move) stands word through room go release before others
    (x := (u.tile k).setEng e (((u.tile k).eng e).ranAlso w))
    (fun v hv far there => ⟨hv.trans (State.atOnce_changes _ _ _ _), fun j hj => (v.atOnce_other e _ hj).trans (far j hj), State.atOnce_tile there⟩)
    (by rw [Tile.running_setEng, on])
  refine ⟨t, run, state, far, (TileSame.setEng _ _ _).trans tile, ?_, fun d hd => ?_⟩
  · rw [engine, Tile.eng_setEng_same]
  · rw [engines d hd, Tile.eng_setEng_other _ _ hd]

end Sys2Proof.Machine

/-! ## O29: control instructions (R113, R131, R133)

NOP, LOOP, REPLAY and END do nothing but complete; they differ in how the engine moves on. SEG changes its engine's segment and V's mode besides. -/

namespace Sys2Proof.Machine
open Sys2Proof

/-! ### Where an engine goes on -/

theorem EngineState.settle_none (y : EngineState) (h : y.replay = none) : y.settle = y := by
  unfold EngineState.settle
  rw [h]

/-- A replay goes on while it has not reached the end of its segment (R133). -/
theorem EngineState.settle_within (y : EngineState) (inside : y.pc < 4096) (seg : wOpc y.word ≠ opSEG) (fin : wOpc y.word ≠ opEND) :
    y.settle = y := by
  have goes : ¬(4096 ≤ y.pc ∨ wOpc y.word = opSEG ∨ wOpc y.word = opEND) := by
    rintro (h | h | h)
    · omega
    · exact seg h
    · exact fin h
  unfold EngineState.settle
  split
  · rfl
  · exact if_neg goes

section
variable {s t : State} {k : Nat} {e : Engine} {w : BitVec 128}

theorem TileNow.issued {x : Tile} {y : EngineState} (h : TileNow s t k e x y) (on : x.running = true) (pc : y.pc = ((s.tile k).eng e).pc + 1)
    (flights : y.listed = ((s.tile k).eng e).listed ++ [(((s.tile k).eng e).nextId, w, true)]) : Issued s t k e w true := by
  exact ⟨(h.result.agrees .running (by simp)).trans on, by rw [h.engine, pc], (congrArg EngineState.listed h.engine).trans flights, h.far⟩

/-! ### Words that do nothing but complete -/

/-- The engine that issues a word, its effect made, before it moves on. -/
def EngineState.atNext (y : EngineState) (w : BitVec 128) : EngineState := { y.ranAlso w with waited := false, taken := false }

theorem AtWord.listed (h : AtWord s k e w) :
    (((s.tile k).eng e).atNext w).listed = ((s.tile k).eng e).listed ++ [(((s.tile k).eng e).nextId, w, true)] := by
  obtain ⟨-, -, -, -, -, -, fresh, -, -⟩ := h
  exact EngineState.ranAlso_listed _ _ fresh

theorem AtWord.issue_atOnce {o : Nat} (h : AtWord s k e w) (code : wOpc w = o) (move : EngineState → EngineState) :
    ∃ t, s.issue k e o (fun _ _ => true) (fun _ id st => st.atOnce k e id) move = .next t ∧
      TileNow s t k e (s.tile k) (move (((s.tile k).eng e).atNext w)).settle := by
  have on := h.running
  obtain ⟨stands, word, wait, acquire, release, room, -, -, -⟩ := h
  have same : (s.setTile k (s.tile k)).tile k = s.tile k := State.setTile_same _ _ _
  obtain ⟨t, run, now⟩ := State.issue_atOnce (ready := fun _ _ => true) (move := move) (code ▸ stands) code word (s.waitSteps_none k e w word wait acquire)
    (by rw [same]; exact room) rfl release (State.setTile_changes _ _ _) (fun j hj => State.setTile_other _ _ _ _ hj) (by rw [same, on])
  rw [same] at now
  exact ⟨t, run, now⟩

theorem TileNow.aloneSame {y : EngineState} (h : TileNow s t k e (s.tile k) y) : Alone s t k e [] := h.alone (TileSame.refl _ _) (fun _ _ => rfl)

theorem nop_issues (h : AtWord s k e w) (code : wOpc w = 0x00) : ∃ t, exec (.nopInstruction k e) s = .next t ∧ IssuedAlone s t k e w true [] := by
  obtain ⟨t, run, now⟩ := h.issue_atOnce code (fun x => x.next)
  have listed := h.listed
  have on := h.running
  obtain ⟨-, -, -, -, -, -, -, loops, replay⟩ := h
  have next : (((s.tile k).eng e).atNext w).next.settle = { ((s.tile k).eng e).atNext w with pc := ((s.tile k).eng e).pc + 1 } :=
    EngineState.settle_next _ loops replay
  rw [next] at now
  exact ⟨t, run, now.issued on rfl listed, now.aloneSame⟩

theorem loop_issues (h : AtWord s k e w) (code : wOpc w = 0x02) : ∃ t, exec (.loop k e) s = .next t ∧ IssuedAlone s t k e w true [] ∧
    ((t.tile k).eng e).loops =
      [{ first := ((s.tile k).eng e).pc + 1, last := ((s.tile k).eng e).pc + fld w 27 16, index := 0, count := fld w 15 0 + 1 }] := by
  obtain ⟨t, run, now⟩ := h.issue_atOnce code (fun x => { x with
    loops := x.loops ++ [{ first := x.pc + 1, last := x.pc + fld x.word 27 16, index := 0, count := fld x.word 15 0 + 1 }], pc := x.pc + 1 })
  have listed := h.listed
  have on := h.running
  obtain ⟨-, word, -, -, -, -, -, loops, replay⟩ := h
  rw [EngineState.settle_none (h := by exact replay)] at now
  refine ⟨t, run, ⟨now.issued on rfl listed, now.aloneSame⟩, ?_⟩
  have same : (((s.tile k).eng e).atNext w).word = w := word
  rw [now.engine, same, show (((s.tile k).eng e).atNext w).loops = [] from loops]
  rfl

theorem replay_issues (h : AtWord s k e w) (code : wOpc w = 0x03) (inside : ((s.tile k).eng e).marker (fld w 15 0) + 1 < 4096)
    (seg : wOpc (((s.tile k).eng e).wordAt (((s.tile k).eng e).marker (fld w 15 0) + 1)) ≠ opSEG)
    (fin : wOpc (((s.tile k).eng e).wordAt (((s.tile k).eng e).marker (fld w 15 0) + 1)) ≠ opEND) :
    ∃ t, exec (.replay k e) s = .next t ∧ ((t.tile k).eng e).pc = ((s.tile k).eng e).marker (fld w 15 0) + 1 ∧
      ((t.tile k).eng e).replay = some { resume := ((s.tile k).eng e).pc, rebase := fld w 19 16 } ∧
      t.inFlight k e = s.inFlight k e ++ [(((s.tile k).eng e).nextId, w, true)] ∧ Alone s t k e [] := by
  obtain ⟨t, run, now⟩ := h.issue_atOnce code (fun x =>
    { x with replay := some { resume := x.pc, rebase := fld x.word 19 16 }, pc := x.marker (fld x.word 15 0) + 1 })
  have listed := h.listed
  obtain ⟨-, word, -⟩ := h
  have same : (((s.tile k).eng e).atNext w).word = w := word
  rw [same, EngineState.settle_within (inside := by exact inside) (seg := by exact seg) (fin := by exact fin)] at now
  exact ⟨t, run, congrArg EngineState.pc now.engine, congrArg EngineState.replay now.engine, (congrArg EngineState.listed now.engine).trans listed, now.aloneSame⟩

theorem endStream_issues (h : AtWord s k e w) (code : wOpc w = 0x04) :
    ∃ t, exec (.endStream k e) s = .next t ∧ ((t.tile k).eng e).ended = true ∧ ((t.tile k).eng e).pc = ((s.tile k).eng e).pc ∧
      t.inFlight k e = s.inFlight k e ++ [(((s.tile k).eng e).nextId, w, true)] ∧ Alone s t k e [] := by
  obtain ⟨t, run, now⟩ := h.issue_atOnce code (fun x => { x with ended := true })
  have listed := h.listed
  obtain ⟨-, -, -, -, -, -, -, -, replay⟩ := h
  rw [EngineState.settle_none (h := by exact replay)] at now
  exact ⟨t, run, congrArg EngineState.ended now.engine, (congrArg EngineState.pc now.engine).trans rfl, (congrArg EngineState.listed now.engine).trans listed, now.aloneSame⟩

/-! ### SEG -/

/-- The tile with its engine in a segment, and V back in register mode if the engine is V (R89, R131). -/
def Tile.inSegment (x : Tile) (e : Engine) (n : Nat) : Tile :=
  { (x.setEng e { x.eng e with segment := n }) with stream := if e = .V then false else x.stream }

theorem Tile.inSegment_eng (x : Tile) (e : Engine) (n : Nat) : (x.inSegment e n).eng e = { x.eng e with segment := n } := by cases e <;> rfl

theorem Tile.inSegment_eng_other (x : Tile) {e d : Engine} (n : Nat) (h : d ≠ e) : (x.inSegment e n).eng d = x.eng d := by
  cases e <;> cases d <;> simp [Tile.inSegment, Tile.setEng, Tile.eng] at h ⊢

theorem Tile.inSegment_changes (x : Tile) (e : Engine) (n : Nat) : TileSame [.stream] x (x.inSegment e n) :=
  ⟨fun c hc => by cases e <;> cases c <;> simp at hc <;> rfl⟩

theorem seg_issues (h : AtWord s k e w) (code : wOpc w = 0x01) (pass : w.getLsbD 16 = false)
    (mode : e = .V → (s.tile k).v.flights = [] ∨ (s.tile k).v.streamNext = true) :
    ∃ t, exec (.seg k e) s = .next t ∧ IssuedAlone s t k e w true [.stream] ∧ ((t.tile k).eng e).segment = fld w 15 0 ∧
      (t.tile k).stream = (if e = .V then false else (s.tile k).stream) := by
  have on := h.running
  have listed := h.listed
  obtain ⟨stands, word, wait, acquire, release, room, -, loops, replay⟩ := h
  have same : (s.setTile k (s.tile k)).tile k = s.tile k := State.setTile_same _ _ _
  have runs : (((s.tile k).setEng e (((s.tile k).eng e).ranAlso w)).inSegment e (fld w 15 0)).running = true :=
    ((Tile.inSegment_changes _ _ _).agrees .running (by simp)).trans (by rw [Tile.running_setEng, on])
  have ready : (e != .V || ((s.tile k).eng e).flights.isEmpty || ((s.tile k).eng e).streamNext) = true := by
    cases e with
    | V => exact (mode rfl).elim (fun none => by simp [Tile.eng, none]) (fun next => by simp [Tile.eng, next])
    | F | M | S => rfl
  have issues := State.issue_moves
    (ready := fun _ st => let x := (st.tile k).eng e; e != .V || x.flights.isEmpty || x.streamNext)
    (work := fun w id st => (st.atOnce k e id).modTile k (fun x => x.inSegment e (fld w 15 0))) (move := fun x => x.next)
    stands word (s.waitSteps_none k e w word wait acquire) (by rw [same]; exact room) (by rw [same]; exact ready) release
    (State.setTile_changes _ _ _) (fun j hj => State.setTile_other _ _ _ _ hj) (fun v hv far there =>
      ⟨(hv.trans (State.atOnce_changes _ _ _ _)).trans (State.modTile_changes _ _ _),
        fun j hj => by rw [State.modTile_other _ _ _ _ hj, v.atOnce_other e _ hj, far j hj],
        by rw [State.modTile_same, State.atOnce_tile there, same]⟩) runs
  obtain ⟨t, run, now⟩ := issues
  have moved : ({ ((s.tile k).eng e).ranAlso w with segment := fld w 15 0, waited := false, taken := false } : EngineState).next.settle = _ :=
    EngineState.settle_next _ loops replay
  rw [Tile.inSegment_eng, Tile.eng_setEng_same, moved] at now
  have ⟨_, _, tile, engine, _⟩ := now
  refine ⟨t, ?_, ⟨now.issued runs rfl listed, now.alone (((TileSame.setEng _ _ _).mono (by simp)).trans (Tile.inSegment_changes _ _ _))
    (fun d hd => ?_)⟩, by rw [engine], (tile.agrees .stream (by simp)).trans (by cases e <;> rfl)⟩
  · rw [← run, code]
    show execSeg k e s = _
    unfold execSeg
    rw [word, pass]
    rfl
  · rw [Tile.inSegment_eng_other _ _ hd, Tile.eng_setEng_other _ _ hd]

/-- An engine waits at a SEG marker with STEP set (R132). -/
theorem seg_waits (h : AtWord s k e w) (code : wOpc w = 0x01) (step : w.getLsbD 16 = true) :
    ∃ t, exec (.seg k e) s = .next t ∧ (t.tile k).eng e = { (s.tile k).eng e with atStep := true } ∧ Alone s t k e [] := by
  obtain ⟨stands, word, wait, acquire, -⟩ := h
  obtain ⟨u, hu⟩ : ∃ u : State, u = (s.setTile k (s.tile k)).modTile k (fun x => x.setEng e { x.eng e with atStep := true }) := ⟨_, rfl⟩
  have tile : u.tile k = (s.tile k).setEng e { (s.tile k).eng e with atStep := true } := by
    rw [hu, State.modTile_same, State.setTile_same]
  have changes : Same [.tiles] s u := hu ▸ (State.setTile_changes _ _ _).trans (State.modTile_changes _ _ _)
  obtain ⟨state, far, kept, engine, engines⟩ := u.watch_now k e
  refine ⟨u.watch k, ?_, ?_, changes.trans state, (TileSame.setEng _ _ _).trans (tile ▸ kept), fun d hd => ?_, fun j hj => ?_⟩
  · show execSeg k e s = _
    unfold execSeg
    rw [word, step, if_pos rfl, ← code, stands, s.waitSteps_none k e w word wait acquire, hu]
    rfl
  · rw [engine, tile, Tile.eng_setEng_same]
  · rw [engines d hd, tile, Tile.eng_setEng_other _ _ hd]
  · rw [far j hj, hu, State.modTile_other _ _ _ _ hj, State.setTile_other _ _ _ _ hj]

end

/-- Settles O29: each control instruction's way of moving on. -/
theorem controlInstructionsIssue : Obligations.controlInstructionsIssue :=
  fun _ _ _ _ h => ⟨nop_issues h, seg_issues h, seg_waits h, loop_issues h, replay_issues h, endStream_issues h⟩

end Sys2Proof.Machine

/-! ## O30: waits, acquires and completions (R108, R109, R112, R125, R127 to R129) -/

namespace Sys2Proof.Machine
open Sys2Proof

/-! ### Steps 1 and 2 of an issue -/

/-- A tile whose engine has made its wait (R125). -/
def Tile.waitedAt (x : Tile) (e : Engine) (n : Nat) : Tile := (x.setToken n (x.token n - 1)).setEng e { x.eng e with waited := true }

/-- A tile whose engine has made its acquire (R128). -/
def Tile.acquiredAt (x : Tile) (e : Engine) (r : Nat) : Tile := (x.acquire e r).setEng e { x.eng e with taken := true }

section
variable {s : State} {k : Nat} {e : Engine} {w : BitVec 128}

theorem State.waitSteps_blocked (word : ((s.tile k).eng e).word = w) (wait : wWaitEn w = true) (waited : ((s.tile k).eng e).waited = false)
    (none : (s.tile k).token (wWaitToken w) = 0) : s.waitSteps k e = (false, s) := by
  unfold State.waitSteps
  dsimp only
  rw [word, if_pos (by simp [wait, waited, none])]

theorem State.waitSteps_waits (word : ((s.tile k).eng e).word = w) (wait : wWaitEn w = true) (waited : ((s.tile k).eng e).waited = false)
    (some : (s.tile k).token (wWaitToken w) ≠ 0) (acquire : wAcqEn w = false) :
    s.waitSteps k e = (true, s.setTile k ((s.tile k).waitedAt e (wWaitToken w))) := by
  unfold State.waitSteps
  dsimp only
  rw [word, if_neg (by simp [some]), if_pos (by simp [acquire]), if_pos (by simp [wait, waited])]
  rfl

theorem State.waitSteps_acquires (word : ((s.tile k).eng e).word = w) (wait : wWaitEn w = false) (acquire : wAcqEn w = true)
    (taken : ((s.tile k).eng e).taken = false) (free : (s.tile k).held e (wAcqRing w) = none) (credit : (s.tile k).credits e (wAcqRing w) ≠ 0) :
    s.waitSteps k e = (true, (s.setTile k (s.tile k)).setTile k ((s.tile k).acquiredAt e (wAcqRing w))) := by
  have engine : ((s.tile k).acquire e (wAcqRing w)).eng e = (s.tile k).eng e := by cases e <;> rfl
  unfold State.waitSteps
  dsimp only
  rw [word, if_neg (by simp [wait]), if_neg (c := (wWaitEn w && _) = true) (by simp [wait]), if_neg (by simp [acquire, taken]), if_neg (by simp [free]), if_neg credit, engine]
  rfl

/-- What cannot go on yet stays where it is (R112). -/
theorem State.issue_stays {u : State} {o : Nat} (ready : BitVec 128 → State → Bool) (work : BitVec 128 → Nat → State → State)
    (move : EngineState → EngineState) (stands : s.atOpcode k e o = true) (held : s.waitSteps k e = (false, u)) :
    s.issue k e o ready work move = .next (u.watch k) := by
  unfold State.issue
  dsimp only
  rw [stands, held, if_neg (by simp)]
  rfl

/-! ### What a wait or an acquire makes of the tile -/

theorem Tile.setToken_changes (x : Tile) (n v : Nat) : TileSame [.tokens] x (x.setToken n v) :=
  ⟨fun c hc => by cases c <;> simp at hc <;> rfl⟩

theorem Tile.setRing_changes (x : Tile) (r : Nat) (y : Ring) : TileSame [.rings] x (x.setRing r y) :=
  ⟨fun c hc => by cases c <;> simp at hc <;> rfl⟩

theorem Tile.waitedAt_changes (x : Tile) (e : Engine) (n : Nat) : TileSame [.tokens] x (x.waitedAt e n) :=
  (x.setToken_changes _ _).trans ((TileSame.setEng _ _ _).mono (by simp))

theorem Tile.token_waitedAt (x : Tile) (e : Engine) (n j : Nat) : (x.waitedAt e n).token j = if j = n then x.token n - 1 else x.token j := by
  cases e <;> exact Tbl.get_set _ _ _ _ _

theorem Tile.acquiredAt_changes (x : Tile) (e : Engine) (r : Nat) : TileSame [.rings] x (x.acquiredAt e r) :=
  (x.setRing_changes _ _).trans ((TileSame.setEng _ _ _).mono (by simp))

theorem Tile.ring_acquiredAt_other (x : Tile) (e : Engine) {r j : Nat} (h : j ≠ r) : (x.acquiredAt e r).ring j = x.ring j := by
  cases e <;> exact Tbl.get_set_other _ _ _ _ _ h

/-- The ring after an acquire: one credit less and the slot at the pointer held (R128). -/
theorem Tile.acquiredAt_ring (x : Tile) (e : Engine) (r : Nat) : (x.acquiredAt e r).ring r =
    if x.produces e r then
      { x.ring r with free := (x.ring r).free - 1, prodHeld := some (x.ring r).prodPtr, prodPtr := ((x.ring r).prodPtr + 1) % max 1 (x.ringSlots r) }
    else
      { x.ring r with full := (x.ring r).full - 1, consHeld := some (x.ring r).consPtr, consPtr := ((x.ring r).consPtr + 1) % max 1 (x.ringSlots r) } := by
  cases e <;> exact Tbl.get_set_same _ _ _ _

theorem Tile.acquiredAt_eng (x : Tile) (e : Engine) (r : Nat) : (x.acquiredAt e r).eng e = { x.eng e with taken := true } := Tile.eng_setEng_same _ _ _

theorem Tile.waitedAt_eng (x : Tile) (e : Engine) (n : Nat) : (x.waitedAt e n).eng e = { x.eng e with waited := true } := Tile.eng_setEng_same _ _ _

theorem Tile.acquiredAt_eng_other (x : Tile) {e d : Engine} (r : Nat) (h : d ≠ e) : (x.acquiredAt e r).eng d = x.eng d :=
  (Tile.eng_setEng_other _ _ h).trans (by cases d <;> rfl)

theorem Tile.waitedAt_eng_other (x : Tile) {e d : Engine} (n : Nat) (h : d ≠ e) : (x.waitedAt e n).eng d = x.eng d :=
  (Tile.eng_setEng_other _ _ h).trans (by cases d <;> rfl)

/-- Which ring an engine produces is in the tile's configuration (R123), which stands in its store. -/
theorem TileSame.produces {l : List TilePart} {x y : Tile} (h : TileSame l x y) (e : Engine) (r : Nat) (hl : .store ∉ l) :
    y.produces e r = x.produces e r := by
  unfold Tile.produces Tile.ringProducer Tile.cfg
  rw [show y.store = x.store from h.agrees .store hl]

theorem TileSame.ring {l : List TilePart} {x y : Tile} (h : TileSame l x y) (r : Nat) (hl : .rings ∉ l) : y.ring r = x.ring r := by
  unfold Tile.ring
  rw [show y.rings = x.rings from h.agrees .rings hl]

theorem TileSame.token {l : List TilePart} {x y : Tile} (h : TileSame l x y) (j : Nat) (hl : .tokens ∉ l) : y.token j = x.token j := by
  unfold Tile.token
  rw [show y.tokens = x.tokens from h.agrees .tokens hl]

theorem Tile.credits_acquiredAt (x : Tile) (e : Engine) (r : Nat) : (x.acquiredAt e r).credits e r = x.credits e r - 1 := by
  unfold Tile.credits
  rw [(x.acquiredAt_changes e r).produces _ _ (by simp), Tile.acquiredAt_ring]
  split <;> rfl

theorem Tile.held_acquiredAt (x : Tile) (e : Engine) (r : Nat) :
    (x.acquiredAt e r).held e r = some (if x.produces e r then (x.ring r).prodPtr else (x.ring r).consPtr) := by
  unfold Tile.held Ring.heldBy
  rw [(x.acquiredAt_changes e r).produces _ _ (by simp), Tile.acquiredAt_ring]
  split <;> rfl

theorem TileSame.credits {x y : Tile} (h : TileSame [] x y) (e : Engine) (r : Nat) : y.credits e r = x.credits e r := by
  unfold Tile.credits
  rw [h.produces _ _ (by simp), h.ring _ (by simp)]

theorem TileSame.held {x y : Tile} (h : TileSame [] x y) (e : Engine) (r : Nat) : y.held e r = x.held e r := by
  unfold Tile.held
  rw [h.produces _ _ (by simp), h.ring _ (by simp)]

/-! ### NOP with a wait or an acquire -/

/-- A NOP that is through its wait or its acquire, which has left tile `x`, moves one position on. -/
theorem nop_goes {u : State} {x : Tile} (stands : s.atOpcode k e 0x00 = true) (code : wOpc w = 0x00) (word : ((s.tile k).eng e).word = w)
    (loops : ((s.tile k).eng e).loops = []) (replay : ((s.tile k).eng e).replay = none)
    (room : ((s.tile k).eng e).flights.length < flightLimit e) (release : wRelEn w = false) (through : s.waitSteps k e = (true, u))
    (before : Same [.tiles] s u) (others : ∀ j, j ≠ k → u.tile j = s.tile j) (tile : u.tile k = x) (on : x.running = (s.tile k).running)
    (engine : ∃ b c, x.eng e = { (s.tile k).eng e with waited := b, taken := c }) :
    ∃ t y, exec (.nopInstruction k e) s = .next t ∧ TileNow s t k e x y ∧ y.pc = ((s.tile k).eng e).pc + 1 := by
  obtain ⟨b, c, engine⟩ := engine
  subst tile
  have runs : (s.tile k).running = true := by
    simp only [State.atOpcode, Bool.and_eq_true] at stands
    obtain ⟨⟨⟨⟨⟨⟨⟨-, running⟩, -⟩, -⟩, -⟩, -⟩, -⟩, -⟩ := stands
    exact running
  obtain ⟨t, run, now⟩ := State.issue_atOnce (ready := fun _ _ => true) (move := fun x => x.next) stands code word through
    (by rw [engine]; exact room) rfl release before others (on.trans runs)
  have next : (((u.tile k).eng e).atNext w).next.settle = { ((u.tile k).eng e).atNext w with pc := ((u.tile k).eng e).pc + 1 } :=
    EngineState.settle_next _ (by rw [engine]; exact loops) (by rw [engine]; exact replay)
  exact ⟨t, _, run, now, (congrArg EngineState.pc next).trans (by rw [engine])⟩

theorem nop_blocked (stands : s.atOpcode k e 0x00 = true) (word : ((s.tile k).eng e).word = w) (waited : ((s.tile k).eng e).waited = false)
    (wait : wWaitEn w = true) (none : (s.tile k).token (wWaitToken w) = 0) :
    ∃ t, exec (.nopInstruction k e) s = .next t ∧ (t.tile k).eng e = (s.tile k).eng e ∧ Alone s t k e [] := by
  have now := s.watch_now k e
  exact ⟨s.watch k, State.issue_stays (fun _ _ => true) (fun _ id st => st.atOnce k e id) (fun x => x.next) stands
    (State.waitSteps_blocked word wait waited none), now.engine, now.aloneSame⟩

theorem nop_waits (stands : s.atOpcode k e 0x00 = true) (code : wOpc w = 0x00) (word : ((s.tile k).eng e).word = w)
    (waited : ((s.tile k).eng e).waited = false) (loops : ((s.tile k).eng e).loops = []) (replay : ((s.tile k).eng e).replay = none)
    (room : ((s.tile k).eng e).flights.length < flightLimit e) (release : wRelEn w = false) (wait : wWaitEn w = true)
    (acquire : wAcqEn w = false) (some : (s.tile k).token (wWaitToken w) ≠ 0) :
    ∃ t, exec (.nopInstruction k e) s = .next t ∧ ((t.tile k).eng e).pc = ((s.tile k).eng e).pc + 1 ∧
      (t.tile k).token (wWaitToken w) = (s.tile k).token (wWaitToken w) - 1 ∧
      (∀ j, j ≠ wWaitToken w → (t.tile k).token j = (s.tile k).token j) ∧ Alone s t k e [.tokens] := by
  obtain ⟨t, y, run, now, pc⟩ := nop_goes stands code word loops replay room release (State.waitSteps_waits word wait waited some acquire)
    (State.setTile_changes _ _ _) (fun j hj => State.setTile_other _ _ _ _ hj) (State.setTile_same _ _ _)
    ((Tile.waitedAt_changes _ _ _).agrees .running (by simp)) ⟨true, _, Tile.waitedAt_eng _ _ _⟩
  refine ⟨t, run, by rw [now.engine, pc], ?_, fun j hj => ?_, now.alone (Tile.waitedAt_changes _ _ _) (fun d hd => Tile.waitedAt_eng_other _ _ hd)⟩
  · rw [now.result.token _ (by simp), Tile.token_waitedAt, if_pos rfl]
  · rw [now.result.token _ (by simp), Tile.token_waitedAt, if_neg hj]

theorem nop_acquires (stands : s.atOpcode k e 0x00 = true) (code : wOpc w = 0x00) (word : ((s.tile k).eng e).word = w)
    (taken : ((s.tile k).eng e).taken = false) (loops : ((s.tile k).eng e).loops = []) (replay : ((s.tile k).eng e).replay = none)
    (room : ((s.tile k).eng e).flights.length < flightLimit e) (release : wRelEn w = false) (wait : wWaitEn w = false)
    (acquire : wAcqEn w = true) (free : (s.tile k).held e (wAcqRing w) = none) (credit : (s.tile k).credits e (wAcqRing w) ≠ 0) :
    ∃ t, exec (.nopInstruction k e) s = .next t ∧ ((t.tile k).eng e).pc = ((s.tile k).eng e).pc + 1 ∧
      (t.tile k).credits e (wAcqRing w) = (s.tile k).credits e (wAcqRing w) - 1 ∧
      (t.tile k).held e (wAcqRing w) = some (if (s.tile k).produces e (wAcqRing w) then ((s.tile k).ring (wAcqRing w)).prodPtr
        else ((s.tile k).ring (wAcqRing w)).consPtr) ∧
      (∀ j, j ≠ wAcqRing w → (t.tile k).ring j = (s.tile k).ring j) ∧ Alone s t k e [.rings] := by
  obtain ⟨t, y, run, now, pc⟩ := nop_goes stands code word loops replay room release
    (State.waitSteps_acquires word wait acquire taken free credit) ((State.setTile_changes _ _ _).trans (State.setTile_changes _ _ _))
    (fun j hj => (State.setTile_other _ _ _ _ hj).trans (State.setTile_other _ _ _ _ hj)) (State.setTile_same _ _ _)
    ((Tile.acquiredAt_changes _ _ _).agrees .running (by simp)) ⟨_, true, Tile.acquiredAt_eng _ _ _⟩
  exact ⟨t, run, by rw [now.engine, pc], by rw [now.result.credits, Tile.credits_acquiredAt], by rw [now.result.held, Tile.held_acquiredAt],
    fun j hj => by rw [now.result.ring _ (by simp), Tile.ring_acquiredAt_other _ _ hj],
    now.alone (Tile.acquiredAt_changes _ _ _) (fun d hd => Tile.acquiredAt_eng_other _ _ hd)⟩

end

/-! ### Completion in issue order -/

/-- A tile whose oldest instruction of an engine has completed: it is no longer in flight and its ring has its credit (R128). -/
def Tile.retired (x : Tile) (e : Engine) (w : BitVec 128) : Tile :=
  let y := x.setEng e { x.eng e with flights := (x.eng e).flights.drop 1 }
  if wRelEn w then y.credit e (wRelRing w) else y

theorem Tile.retired_changes (x : Tile) (e : Engine) (w : BitVec 128) : TileSame [.rings] x (x.retired e w) := by
  have fewer := (TileSame.setEng x e { x.eng e with flights := (x.eng e).flights.drop 1 }).mono (l' := [.rings]) (by simp)
  unfold Tile.retired
  dsimp only
  split
  · exact fewer.trans (Tile.setRing_changes _ _ _)
  · exact fewer

theorem Tile.retired_eng (x : Tile) (e : Engine) (w : BitVec 128) : (x.retired e w).eng e = { x.eng e with flights := (x.eng e).flights.drop 1 } := by
  unfold Tile.retired
  dsimp only
  split <;> cases e <;> rfl

theorem Tile.retired_eng_other (x : Tile) {e d : Engine} (w : BitVec 128) (h : d ≠ e) : (x.retired e w).eng d = x.eng d := by
  refine Eq.trans ?_ (Tile.eng_setEng_other x { x.eng e with flights := (x.eng e).flights.drop 1 } h)
  unfold Tile.retired
  dsimp only
  split <;> cases d <;> rfl

theorem Tile.retired_ring (x : Tile) (e : Engine) (w : BitVec 128) (release : wRelEn w = true) : (x.retired e w).ring (wRelRing w) =
    if x.produces e (wRelRing w) then { x.ring (wRelRing w) with full := (x.ring (wRelRing w)).full + 1 }
    else { x.ring (wRelRing w) with free := (x.ring (wRelRing w)).free + 1 } := by
  unfold Tile.retired
  dsimp only
  rw [if_pos release]
  refine (Tbl.get_set_same _ _ _ _).trans ?_
  rw [(TileSame.setEng x e _).produces _ _ (by simp), (TileSame.setEng x e _).ring _ (by simp)]

theorem State.retryFlights_none (s : State) (k : Nat) (e : Engine) (h : ∀ g ∈ ((s.tile k).eng e).flights, g.ran = true) : s.retryFlights k e = s := by
  unfold State.retryFlights
  rw [List.filter_eq_nil_iff.2 (fun g hg => by rw [h g hg]; decide)]
  rfl

/-- A signal of a counter with room: it is one higher, and the watchdog counts anew (R125). -/
theorem State.signal_raises (s : State) (k : Nat) (e : Engine) (n : Nat) (room : (s.tile k).token n < 65535) :
    ∃ y, s.signal k e n = s.setTile k y ∧ y.token n = (s.tile k).token n + 1 ∧ TileSame [.tokens] (s.tile k) y ∧
      ∀ d, y.eng d = (s.tile k).eng d := by
  have token : Tbl.get 0 (Tbl.set 0 (s.tile k).tokens n ((s.tile k).token n + 1)) n = (s.tile k).token n + 1 := Tbl.get_set_same _ _ _ _
  exact ⟨_, if_neg (by omega), token, ⟨fun c hc => by cases c <;> simp at hc <;> rfl⟩, fun d => by cases d <;> rfl⟩

theorem State.setSignals_changes (s : State) (l : List (Nat × Nat × Nat)) : Same [.signals] s { s with signals := l } :=
  ⟨fun c hc => by cases c <;> simp at hc <;> rfl⟩

/-- The signals on their way once an instruction has completed (R127). -/
def State.sent (s : State) (k : Nat) (e : Engine) (w : BitVec 128) : List (Nat × Nat × Nat) :=
  if sendsRemote e w then s.signals ++ [(fld w 27 20, fld w 32 28, s.tilePart k)] else s.signals

/-- What the completion of the oldest instruction of an engine does. -/
theorem State.settleFlight_done (s : State) (k : Nat) (e : Engine) (f : Flight) (room : (s.tile k).token (wSignalToken f.word) < 65535) :
    (s.settleFlight k e f).signals = s.sent k e f.word ∧ Same [.tiles, .signals] s (s.settleFlight k e f) ∧
      (∀ j, j ≠ k → (s.settleFlight k e f).tile j = s.tile j) ∧
      TileSame [.tokens] ((s.tile k).retired e f.word) ((s.settleFlight k e f).tile k) ∧
      (∀ d, ((s.settleFlight k e f).tile k).eng d = ((s.tile k).retired e f.word).eng d) ∧
      ((s.settleFlight k e f).tile k).token (wSignalToken f.word) =
        (s.tile k).token (wSignalToken f.word) + (if wSignalEn f.word then 1 else 0) := by
  obtain ⟨u, hu⟩ : ∃ u : State, u = (if sendsRemote e f.word then
      { s.modTile k (fun x => x.retired e f.word) with signals :=
          (s.modTile k (fun x => x.retired e f.word)).signals ++ [(fld f.word 27 20, fld f.word 32 28, (s.modTile k (fun x => x.retired e f.word)).tilePart k)] }
      else s.modTile k (fun x => x.retired e f.word)) := ⟨_, rfl⟩
  have settles : s.settleFlight k e f = (if wSignalEn f.word then u.signal k e (wSignalToken f.word) else u).watch k := by
    rw [hu]
    rfl
  have part : (s.modTile k (fun x => x.retired e f.word)).tilePart k = s.tilePart k := by
    unfold State.tilePart
    rw [State.modTile_same, show ((s.tile k).retired e f.word).program = (s.tile k).program from (Tile.retired_changes _ _ _).agrees .program (by simp)]
  have signals : u.signals = s.sent k e f.word := by
    rw [hu, part]
    unfold State.sent
    split <;> rfl
  have tiles : Same [.signals] (s.modTile k (fun x => x.retired e f.word)) u := by
    rw [hu]
    exact Same.ite (State.setSignals_changes _ _) (Same.refl _ _)
  have here : u.tile k = (s.tile k).retired e f.word := by rw [tiles.tile, State.modTile_same]
  have far : ∀ j, j ≠ k → u.tile j = s.tile j := fun j hj => by rw [tiles.tile, State.modTile_other _ _ _ _ hj]
  have token : ((s.tile k).retired e f.word).token (wSignalToken f.word) = (s.tile k).token (wSignalToken f.word) :=
    (Tile.retired_changes _ _ _).token _ (by simp)
  have before : Same [.tiles, .signals] s u := ((State.modTile_changes _ _ _).mono (by simp)).trans (tiles.mono (by simp))
  rw [settles]
  by_cases on : wSignalEn f.word
  · obtain ⟨y, run, raised, kept, engines⟩ := u.signal_raises k e (wSignalToken f.word) (by rw [here, token]; exact room)
    obtain ⟨state, others, tile, -, -⟩ := (u.setTile k y).watch_now k e
    obtain ⟨-, watched⟩ := (u.setTile k y).watch_tile k
    rw [State.setTile_same] at tile watched
    rw [if_pos on, if_pos on, run]
    refine ⟨signals, before.trans (((State.setTile_changes _ _ _).trans state).mono (by simp)),
      fun j hj => by rw [others j hj, State.setTile_other _ _ _ _ hj, far j hj], here ▸ kept.trans (tile.mono (by simp)), fun d => ?_, ?_⟩
    · rw [watched, engines, here]
    · rw [tile.token _ (by simp), raised, here, token]
  · obtain ⟨state, others, tile, -, -⟩ := u.watch_now k e
    rw [if_neg on, if_neg on]
    refine ⟨signals, before.trans (state.mono (by simp)), fun j hj => by rw [others j hj, far j hj], here ▸ tile.mono (by simp), fun d => ?_, ?_⟩
    · rw [(u.watch_tile k).2, here]
    · rw [tile.token _ (by simp), here, token, Nat.add_zero]

/-- Settles O30: waits and acquires at issue, and the completion of the oldest instruction. -/
theorem instructionsComplete : Obligations.instructionsComplete := by
  refine ⟨fun s k e w code stands word waited taken loops replay room release => ⟨nop_blocked stands word waited,
    nop_waits stands code word waited loops replay room release, nop_acquires stands code word taken loops replay room release⟩, ?_⟩
  intro s k e f rest tile running flights ran acks waits marks room
  obtain ⟨signals, state, far, result, engines, token⟩ := s.settleFlight_done k e f room
  have done : f.done = true := by simp [Flight.done, ran f (by simp), acks, waits, marks]
  refine ⟨s.settleFlight k e f, ?_, ?_, ?_, token, fun release => ?_, signals, state, ?_, fun d hd => ?_, far⟩
  · show execInstructionComplete k e s = _
    unfold execInstructionComplete
    rw [if_pos (by simp [tile, running])]
    dsimp only
    rw [State.retryFlights_none s k e (by rw [flights]; exact ran), flights]
    dsimp only
    rw [done, running]
    rfl
  · rw [engines, Tile.retired_eng, flights]
    rfl
  · rw [engines, Tile.retired_eng]
  · rw [result.ring _ (by simp), Tile.retired_ring _ _ _ release]
  · exact ((Tile.retired_changes _ _ _).mono (by simp)).trans (result.mono (by simp))
  · rw [engines, Tile.retired_eng_other _ _ hd]

end Sys2Proof.Machine

/-! ## O31: step boundaries, the watchdog, remote signals and clock gating (R127, R130, R132, R446) -/

namespace Sys2Proof.Machine
open Sys2Proof

/-! ### Step boundaries -/

/-- An engine that passes its STEP marker. -/
def EngineState.pastMarker (y : EngineState) : EngineState :=
  ({ y with
    atStep := false, waited := false, taken := false, segment := fld y.word 15 0
    flights := y.flights ++ [{ id := y.nextId, word := y.word, ran := true }], nextId := y.nextId + 1 } : EngineState).next.settle

theorem EngineState.pastMarker_of (y : EngineState) (loops : y.loops = []) (replay : y.replay = none) :
    y.pastMarker.atStep = false ∧ y.pastMarker.pc = y.pc + 1 ∧ y.pastMarker.segment = fld y.word 15 0 := by
  unfold EngineState.pastMarker
  rw [EngineState.settle_next (loops := by exact loops) (replay := by exact replay)]
  exact ⟨rfl, rfl, rfl⟩

/-- One engine of a boundary passes its marker, with the release that the marker asks for. -/
def Tile.boundaryOf (y : Tile) (e : Engine) : Tile :=
  Tile.passMarker (if wRelEn ((y.eng e).word) then y.letGo e (wRelRing (y.eng e).word) else y) e

theorem Tile.boundaryOf_keeps (y : Tile) (e : Engine) (h : wRelEn (y.eng e).word = false) : y.boundaryOf e = y.setEng e (y.eng e).pastMarker := by
  unfold Tile.boundaryOf
  rw [h, if_neg (by simp)]
  rfl

/-- Engines that pass their markers in turn: each is past its own, and nothing beside them has changed. -/
theorem Tile.boundary_engines (es : List Engine) (distinct : es.Nodup) (x : Tile) (h : ∀ e ∈ es, wRelEn (x.eng e).word = false) :
    TileSame [] x (es.foldl Tile.boundaryOf x) ∧
      ∀ d, (es.foldl Tile.boundaryOf x).eng d = if d ∈ es then (x.eng d).pastMarker else x.eng d := by
  induction es generalizing x with
  | nil => exact ⟨TileSame.refl _ _, fun d => by simp⟩
  | cons e es ih =>
    obtain ⟨new, rest⟩ := List.nodup_cons.1 distinct
    have other : ∀ d ∈ es, d ≠ e := fun d hd he => new (he ▸ hd)
    rw [List.foldl_cons, x.boundaryOf_keeps e (h e (by simp))]
    obtain ⟨kept, engines⟩ := ih rest (x.setEng e (x.eng e).pastMarker)
      (fun d hd => by rw [Tile.eng_setEng_other _ _ (other d hd)]; exact h d (by simp [hd]))
    refine ⟨(TileSame.setEng _ _ _).trans kept, fun d => ?_⟩
    rw [engines]
    by_cases hd : d = e
    · subst hd
      rw [if_neg new, if_pos (by simp), Tile.eng_setEng_same]
    · rw [Tile.eng_setEng_other _ _ hd]
      exact if_congr (by simp [hd]) rfl rfl

theorem mem_engines (e : Engine) : e ∈ engines := by cases e <;> decide

theorem stepBoundary_passes {s : State} {k : Nat} (hk : k < 256) (running : (s.tile k).running = true)
    (stand : ∀ e, ((s.tile k).eng e).atStep = true ∧ ((s.tile k).eng e).flights = [] ∧ ((s.tile k).eng e).loops = [] ∧
      ((s.tile k).eng e).replay = none ∧ wRelEn ((s.tile k).eng e).word = false)
    (ok : (s.tile k).boundaryOk = true) (goes : (s.tile k).stopping = none) :
    ∃ t, exec (.stepBoundary k) s = .next t ∧ (t.tile k).steps = (s.tile k).steps + 1 ∧ (t.tile k).stream = false ∧
      (∀ e, ((t.tile k).eng e).atStep = false ∧ ((t.tile k).eng e).pc = ((s.tile k).eng e).pc + 1 ∧
        ((t.tile k).eng e).segment = fld ((s.tile k).eng e).word 15 0) ∧ (t.tile k).store = (s.tile k).store := by
  have quiet : engines.all (fun e => ((s.tile k).eng e).atStep && ((s.tile k).eng e).quiet) = true :=
    List.all_eq_true.2 (fun e _ => by
      obtain ⟨at', flights, -⟩ := stand e
      simp [at', EngineState.quiet, flights])
  have noFault : engines.find? (s.tile k).markerFault = none :=
    List.find?_eq_none.2 (fun e _ => by
      obtain ⟨-, -, -, -, release⟩ := stand e
      simp [Tile.markerFault, release])
  obtain ⟨kept, passed⟩ := Tile.boundary_engines engines (by decide) (s.tile k) (fun e _ => by
    obtain ⟨-, -, -, -, release⟩ := stand e
    exact release)
  obtain ⟨y, hy⟩ : ∃ y : Tile, y = engines.foldl Tile.boundaryOf (s.tile k) := ⟨_, rfl⟩
  rw [← hy] at kept passed
  obtain ⟨z, hz⟩ : ∃ z : Tile, z = { y with steps := (s.tile k).steps + 1, stream := false } := ⟨_, rfl⟩
  obtain ⟨result, watched⟩ := (s.setTile k z).watch_tile k
  rw [State.setTile_same] at result watched
  refine ⟨(s.setTile k z).watch k, ?_, ?_, ?_, fun e => ?_, ?_⟩
  · show execStepBoundary k s = _
    unfold execStepBoundary
    dsimp only
    rw [if_neg (by simp [running, hk]), if_pos quiet, ok, if_neg (by simp), goes, if_neg (by simp), noFault, hz, hy]
    rfl
  · exact (result.agrees .steps (by simp)).trans (by rw [hz])
  · exact (result.agrees .stream (by simp)).trans (by rw [hz])
  · obtain ⟨-, -, loops, replay, -⟩ := stand e
    have engine : z.eng e = y.eng e := by rw [hz]; cases e <;> rfl
    rw [watched, engine, passed, if_pos (mem_engines e)]
    exact EngineState.pastMarker_of _ loops replay
  · exact (result.agrees .store (by simp)).trans ((by rw [hz] : z.store = y.store).trans (kept.agrees .store (by simp)))

/-! ### What a fault of a tile does -/

theorem State.append_faults (s : State) (src pt : Nat) (body : LogBody) : (s.append src pt body).log.faults = s.log.faults := rfl

theorem State.trace_faults (s : State) (proc point a0 a1 a2 : Nat) : (s.trace proc point a0 a1 a2).log.faults = s.log.faults := by
  unfold State.trace
  split <;> rfl

theorem State.traceDies_faults (s : State) (q : Program) (point a0 : Nat) (a1 : Nat → Nat) :
    (s.traceDies q point a0 a1).log.faults = s.log.faults :=
  forEach_keeps (fun st => st.log.faults) _ _ _ (fun _ st => st.trace_faults _ _ _ _ _)

theorem State.noteStop_faults (s : State) (p g : Nat) (x : Stop) : (s.noteStop p g x).log.faults = s.log.faults := by
  unfold State.noteStop
  dsimp only
  split
  · rfl
  · rw [State.traceDies_faults]
    rfl

theorem State.modCmd_changes (s : State) (f n : Nat) (g : Cmd → Cmd) : Same [.slots] s (s.modCmd f n g) := s.modSlot_changes f n _

theorem State.stopTile_changes (s : State) (k : Nat) :
    Same [.loose, .tiles, .link, .tierReqs, .grants, .mgrQueue, .fabric, .slots] s (s.stopTile k) := by
  have loosed : ∀ l, Same [.loose] s { s with loose := l } := fun l => ⟨fun c hc => by cases c <;> simp at hc <;> rfl⟩
  unfold State.stopTile
  split
  · dsimp only
    split
    · exact (((loosed _).mono (by simp)).trans ((State.modTile_changes _ _ _).mono (by simp))).trans
        (((State.orphanRequests_changes _ _ _).mono (by simp)).trans ((State.modCmd_changes _ _ _ _).mono (by simp)))
    · exact (((loosed _).mono (by simp)).trans ((State.modTile_changes _ _ _).mono (by simp))).trans
        ((State.orphanRequests_changes _ _ _).mono (by simp))
  · exact Same.refl _ _

/-- A running tile is stopped at once, its store kept (R138). -/
theorem State.stopTile_tile (s : State) (k : Nat) (running : (s.tile k).running = true) : (s.stopTile k).tile k = (s.tile k).halted := by
  unfold State.stopTile
  rw [if_pos running]
  dsimp only
  split
  · rw [(State.modCmd_changes _ _ _ _).tile, (State.orphanRequests_changes _ _ _).tile, State.modTile_same]
    rfl
  · rw [(State.orphanRequests_changes _ _ _).tile, State.modTile_same]
    rfl

theorem State.stopAtBoundary_changes (s : State) (p g status : Nat) :
    Same [.tiles, .ctxs, .atps, .link, .tierReqs, .grants, .mgrQueue, .fabric] s (s.stopAtBoundary p g status) := by
  unfold State.stopAtBoundary
  refine (Same.forEach _ s _ (fun t st => (st.modTile_changes t _).mono (by simp))).trans (Same.forEach _ _ _ (fun n st => ?_))
  dsimp only
  refine Same.ite (Same.refl _ _) (Same.ite ((st.stopAtp_changes n).mono (by simp)) ((State.setAtp_changes _ _ _).mono (by simp)))

/-- A tile that no longer runs stays as it is while its program's other units come to a stop. -/
theorem State.stopAtBoundary_stopped (s : State) (p g status k : Nat) (h : (s.tile k).running = false) :
    (s.stopAtBoundary p g status).tile k = s.tile k := by
  have atps : ∀ (ns : List Nat) (u : State), (forEach ns u (fun n st =>
      let a := st.atp n
      if !a.running then st
      else if a.active.isEmpty then st.stopAtp n
      else st.setAtp n { a with stopping := some (a.stopping.getD status) })).tile k = u.tile k := fun ns u =>
    (Same.forEach (l := [.ctxs, .atps, .link, .tierReqs, .grants, .mgrQueue, .fabric]) ns u _ (fun n st =>
      Same.ite (Same.refl _ _) (Same.ite (st.stopAtp_changes n) ((State.setAtp_changes _ _ _).mono (by simp))))).tile k
  unfold State.stopAtBoundary
  dsimp only
  rw [atps]
  generalize (s.program p g).tiles = ts
  induction ts generalizing s with
  | nil => rfl
  | cons t ts ih =>
    have one : (s.modTile t (fun x => if x.running && x.stopping.isNone then { x with stopping := some status } else x)).tile k = s.tile k := by
      by_cases ht : k = t
      · subst ht
        rw [State.modTile_same, h]
        rfl
      · rw [State.modTile_other _ _ _ _ ht]
    exact (ih (s.modTile t _) (one ▸ h)).trans one

/-- Recording a fault, noting it and stopping the tile and its program: one fault more, and the tile is stopped. -/
theorem State.recorded_stops {s u : State} (before : Same [.free, .time] s u) (k src p g status : Nat) (r : ErrorRecord) (x : Stop)
    (running : (s.tile k).running = true) :
    ((((u.error src r).noteStop p g x).stopTile k).stopAtBoundary p g status).tile k = (s.tile k).halted ∧
      ((((u.error src r).noteStop p g x).stopTile k).stopAtBoundary p g status).log.faults = s.log.faults + 1 := by
  obtain ⟨faults, recorded⟩ := u.error_counts src r
  obtain ⟨v, hv⟩ : ∃ v : State, v = (u.error src r).noteStop p g x := ⟨_, rfl⟩
  have tile : v.tile k = s.tile k := by
    rw [hv, (State.noteStop_changes _ _ _ _).tile, recorded.tile, before.tile]
  have stopped : (v.stopTile k).tile k = (s.tile k).halted := by rw [State.stopTile_tile v k (tile ▸ running), tile]
  have log : ((v.stopTile k).stopAtBoundary p g status).log = v.log :=
    Eq.trans ((State.stopAtBoundary_changes _ _ _ _).agrees .log (by simp)) ((State.stopTile_changes _ _).agrees .log (by simp))
  have counted : u.log = s.log := before.agrees .log (by simp)
  rw [← hv]
  refine ⟨(State.stopAtBoundary_stopped _ _ _ _ _ (by rw [stopped]; rfl)).trans stopped, ?_⟩
  rw [log, hv, State.noteStop_faults, faults, counted]

/-- A tile's own fault is counted once and stops the tile at once. -/
theorem State.tileFault_stops (s : State) (k : Nat) (e : Engine) (status addr : Nat) (detail : Option Nat) (ofStore : Bool)
    (names : Option FaultName) (running : (s.tile k).running = true) {p g : Nat} (program : (s.tile k).program = some (p, g)) :
    ((s.tileFault k e status addr detail ofStore names).tile k) = (s.tile k).halted ∧
      (s.tileFault k e status addr detail ofStore names).log.faults = s.log.faults + 1 := by
  have before : Same [.free, .time] s ((s.stamp (.core (dieOfTile k))).2.fresh).2 :=
    (State.stamp_changes _ _).trans ((State.fresh_changes _).mono (by simp))
  unfold State.tileFault
  rw [program]
  dsimp only
  generalize s.stamp (.core (dieOfTile k)) = stamped at before ⊢
  obtain ⟨w, s0⟩ := stamped
  dsimp only at before ⊢
  generalize s0.fresh = numbered at before ⊢
  obtain ⟨r, s1⟩ := numbered
  exact State.recorded_stops before _ _ _ _ _ _ _ running

theorem watchdog_stops {s : State} {k since p g : Nat} (running : (s.tile k).running = true) (at' : (s.tile k).blockedAt = some since)
    (stuck : (s.tile k).stuck = true) (drained : (s.tile k).drained = true) (goes : (s.tile k).finished = false)
    (late : since + (s.tile k).watchdogNs ≤ s.now) (timers : s.timersHeld p = false) (program : (s.tile k).program = some (p, g)) :
    ∃ t, exec (.watchdog k) s = .next t ∧ (t.tile k).running = false ∧ t.log.faults = s.log.faults + 1 ∧ (t.tile k).store = (s.tile k).store := by
  obtain ⟨tile, faults⟩ := s.tileFault_stops k ((engines.find? (fun e => !((s.tile k).eng e).ended)).getD .F) stTIMEOUT 0 none false
    (some (s.tile k).watchdogNames) running program
  refine ⟨_, ?_, by rw [tile]; rfl, faults, by rw [tile]; rfl⟩
  show execWatchdog k s = _
  unfold execWatchdog
  dsimp only
  rw [at', program]
  dsimp only
  rw [if_pos (by simp [running, stuck, drained, goes, late, timers])]

/-! ### Remote signals and gating -/

theorem remoteSignal_arrives {s : State} {k token p : Nat} (running : (s.tile k).running = true)
    (listed : s.signals.find? (fun x => x.1 == k && x.2.1 == token) = some (k, token, p)) (room : (s.tile k).token token < 65535) :
    ∃ t, exec (.remoteSignal k token) s = .next t ∧ t.signals = s.signals.erase (k, token, p) ∧
      (s.tilePart k = p → (t.tile k).token token = (s.tile k).token token + 1) ∧ (s.tilePart k ≠ p → t.tile k = s.tile k) ∧
      (∀ j, j ≠ k → t.tile j = s.tile j) := by
  obtain ⟨u, hu⟩ : ∃ u : State, u = { s with signals := s.signals.erase (k, token, p) } := ⟨_, rfl⟩
  have tile : ∀ j, u.tile j = s.tile j := fun j => by rw [hu]; rfl
  have part : u.tilePart k = s.tilePart k := by rw [hu]; rfl
  have run : exec (.remoteSignal k token) s =
      .next (if (u.tile k).running && u.tilePart k == p then (u.signal k .S token).watch k else u) := by
    show execRemoteSignal k token s = _
    unfold execRemoteSignal
    rw [listed, hu]
  have signals : u.signals = s.signals.erase (k, token, p) := by rw [hu]
  by_cases same : s.tilePart k = p
  · obtain ⟨y, raise, raised, -, -⟩ := u.signal_raises k .S token (by rw [tile]; exact room)
    obtain ⟨state, far, result, -, -⟩ := (u.setTile k y).watch_now k .S
    rw [State.setTile_same] at result
    rw [tile, part, if_pos (by simp [running, same]), raise] at run
    have kept : ((u.setTile k y).watch k).signals = u.signals := state.agrees .signals (by simp)
    refine ⟨_, run, kept.trans signals, fun _ => ?_, absurd same, fun j hj => ?_⟩
    · rw [result.token _ (by simp), raised, tile]
    · rw [far j hj, State.setTile_other _ _ _ _ hj, tile]
  · rw [tile, part, if_neg (by simp [same])] at run
    exact ⟨u, run, signals, fun h => absurd h same, fun _ => tile k, fun j _ => tile j⟩

theorem tileGate_tile {s : State} {k since : Nat} (hk : k < 256) (running : (s.tile k).running = true) (stuck : (s.tile k).stuck = true)
    (drained : (s.tile k).drained = true) (at' : (s.tile k).blockedAt = some since) (late : since + 1000 ≤ s.now) :
    ∃ t, exec (.tileGate (.tile k)) s = .next t ∧ t.tile k = { s.tile k with gated := true } ∧ Same [.tiles] s t := by
  refine ⟨_, ?_, State.setTile_same _ _ _, State.setTile_changes _ _ _⟩
  have still : engines.all (fun e => ((s.tile k).eng e).ended || (s.tile k).blocked e) = true := stuck
  show execTileGate (.tile k) s = _
  unfold execTileGate
  dsimp only
  rw [if_pos (by simp [hk, running, still, drained, at', late])]

theorem tileGate_atp {s : State} {a : Nat} (ha : a < 16) (running : (s.atp a).running = true) (ended : (s.atp a).ended = true) :
    ∃ t, exec (.tileGate (.atp a)) s = .next t ∧ t.atp a = { s.atp a with gated := true } ∧ Same [.atps] s t := by
  refine ⟨_, ?_, State.setAtp_same _ _ _, State.setAtp_changes _ _ _⟩
  show execTileGate (.atp a) s = _
  unfold execTileGate
  dsimp only
  rw [if_pos (by simp [ha, running, ended])]

/-- Settles O31: each event of a tile or of an attention pipeline. -/
theorem tileEventsComplete : Obligations.tileEventsComplete :=
  fun _ _ hk running => ⟨stepBoundary_passes hk running, fun _ _ _ at' stuck drained => watchdog_stops running at' stuck drained,
    fun _ _ => remoteSignal_arrives running, fun _ stuck drained => tileGate_tile hk running stuck drained, fun _ => tileGate_atp⟩

end Sys2Proof.Machine

/-! ## O34, O35: loads and stores of a state that holds a grant of theirs (R238, R239)

A page of the tier that is given to an access without a frame stands in the grants under the access's owner, an instruction's tile, engine and
number, and goes when the access is over. Neither statement shuts out a grant that already stands under the number of the instruction to issue:
it goes with that instruction, and the grants are not as before. -/

namespace Sys2Proof.Machine
open Sys2Proof

/-- A tile store with two descriptors of one FP32 element: entry 0 in device memory at 0, entry 1 in the tile store at 256. -/
def pairStore : BMap := fieldBytes
  [(16, 4, 1), (20, 4, 1), (24, 4, 1), (28, 4, 1), (32, 4, 1), (60, 4, 6),
   (64, 8, 256), (80, 4, 1), (84, 4, 1), (88, 4, 1), (92, 4, 1), (96, 4, 1), (124, 4, 1030), (cfgBase + 324, 1, 2)]

/-- The views of the two descriptors. -/
def outerView : View :=
  { fmt := 6, bs := 1, sd := 0, layout := 0, check := false, ts := false, base := 0, sbase := 0, off := 0
    ext := [1, 1, 1, 1, 1], stride := [0, 0, 0, 0, 0], pstride := [0, 0, 0, 0, 0] }
def innerView : View := { outerView with ts := true, base := 256 }

/-- FLOAD of entry 0 to entry 1, and SSTORE of entry 1 to entry 0. -/
def grantedFload : BitVec 128 := 0x10000000000000000000000000000100#128
def grantedSstore : BitVec 128 := 0x60C00000000000000000000000000001#128

/-- Tile 0 of partition 1 stands with F at that FLOAD and with S at that SSTORE; a page is granted to the first instruction of each. -/
def grantState : State where
  parts := [(1, { isPresent := true, hbm := 1 })]
  hbm := [(0, { mode := .service })]
  tiles := [(0, { program := some (1, 1), running := true, store := pairStore, f := { imem := [(0, grantedFload)] }, s := { imem := [(0, grantedSstore)] } })]
  grants := [(.tile 0 .F 0, 0, true), (.tile 0 .S 0, 0, true)]

theorem grantState_fload : ∃ t, exec (.fload 0 .clean) grantState = .next t ∧ t.grants = [(.tile 0 .S 0, 0, true)] := ⟨_, rfl, by decide⟩

theorem grantState_sstore : ∃ t, exec (.sstore 0) grantState = .next t ∧ t.grants = [(.tile 0 .F 0, 0, true)] := ⟨_, rfl, by decide⟩

/-- A grant of the state that is gone after a command was not left as it was. -/
theorem grants_gone {i : Instr} {g : List (Owner × Nat × Bool)} {l : List Component} {t : State}
    (goes : ∃ u, exec i grantState = .next u ∧ u.grants = g) (run : exec i grantState = .next t) (same : Same l grantState t)
    (grants : .grants ∉ l) : g = grantState.grants := by
  obtain ⟨u, ends, gone⟩ := goes
  rw [run] at ends
  rw [← gone, ← Host.Outcome.next.inj ends]
  exact same.agrees .grants grants

theorem grantState_atFload : AtWord grantState 0 .F grantedFload := by decide

theorem grantState_atSstore : AtWord grantState 0 .S grantedSstore := by decide

theorem grantState_sound : OneBlock grantState 1 0 4 ∧ grantState.answers 1 0 4 = true := by decide

/-- Refutes O34: the first clause fails at `grantState`, where the FLOAD from device memory takes the grant under its number away. -/
theorem not_loadsAndMulticastsIssue : ¬ Obligations.loadsAndMulticastsIssue := by
  intro h
  obtain ⟨issues, -⟩ := h grantState 0 1 grantedFload _ rfl (by decide)
  obtain ⟨fload, -⟩ := issues grantState_atFload
  obtain ⟨dev, -⟩ := fload outerView innerView 0 4 (by decide) (by decide) (by decide +kernel) (by decide) rfl rfl (by decide +kernel) (by decide)
  obtain ⟨sound, up⟩ := grantState_sound
  obtain ⟨t, run, -, same, -⟩ := dev (by decide) sound up
  exact absurd (grants_gone grantState_fload run same (by decide)) (by decide)

/-- Refutes O35: the first clause fails at `grantState`, where the SSTORE to device memory takes the grant under its number away. -/
theorem not_storesAndFencesIssue : ¬ Obligations.storesAndFencesIssue := by
  intro h
  obtain ⟨sstore, -⟩ := h grantState 0 1 grantedSstore _ grantState_atSstore rfl (by decide) (by decide +kernel)
  obtain ⟨sound, up⟩ := grantState_sound
  obtain ⟨t, run, -, -, -, same, -⟩ := sstore innerView outerView innerView.indices 0 (List.replicate 4 0) (by decide) (by decide)
    (by decide) (by decide) rfl rfl (by decide +kernel) (by decide +kernel) (by decide) (by decide) sound up
  exact absurd (grants_gone grantState_sstore run same (by decide)) (by decide)

end Sys2Proof.Machine

/-! ## O25: programs loaded and run (R124, R267, R370, R371) -/

namespace Sys2Proof.Machine
open Sys2Proof

/-! ### A command that has begun -/

/-- A command that has begun runs and has its start; nothing else of it has changed. -/
theorem State.beginCmd_cmd_eq (s : State) (f n : Nat) :
    ∃ x, (s.beginCmd f n).cmd f n = { s.cmd f n with phase := .running, start := x } := by
  have woken : Same [.free, .time, .log, .hbm, .parts] s (if f ≠ 0 ∧ !quietOp (s.cmd f n).opcode then s.wakePart f else s) :=
    Same.ite (s.wakePart_changes f) (Same.refl _ s)
  have kept : ∀ u : State, (((u.relay f n).stamp .hub).2.cmd f n) = u.cmd f n := fun u => by
    rw [(State.stamp_changes _ _).cmd, (State.relay_changes _ _ _).cmd]
  unfold State.beginCmd State.startCmd
  generalize (if f ≠ 0 ∧ !quietOp (s.cmd f n).opcode then s.wakePart f else s) = u at woken
  dsimp only
  rw [← woken.cmd f n, ← kept u]
  exact ⟨_, by simp [State.cmd]; rfl⟩

/-- Two states of a partition that differ in its sleep and its power registers at most (R450). -/
def PartWoken (x y : Part) : Prop := ∃ a r, y = { x with asleep := a, power := r }

theorem State.wakePart_part (s : State) (p q : Nat) : PartWoken (s.part q) ((s.wakePart p).part q) := by
  unfold State.wakePart
  split
  · have woken := Same.forEach (l := [.free, .time, .log, .hbm]) (s.part p).stackList s
      (fun k st => if (st.stack k).mode == .selfRefresh then st.setMode k .service else st)
      (fun k st => Same.ite (State.setMode_changes _ _ _) (Same.refl _ st))
    dsimp only
    rw [(State.powerEvent_changes _ _ _ _ _ _ _ _).part]
    by_cases hq : q = p
    · subst hq
      rw [State.modPart_same, woken.part]
      exact ⟨_, _, rfl⟩
    · rw [State.modPart_other _ _ _ _ hq, woken.part]
      exact ⟨_, _, rfl⟩
  · exact ⟨_, _, rfl⟩

/-- A command that begins wakes its partition at most. -/
theorem State.beginCmd_part (s : State) (f n q : Nat) : PartWoken (s.part q) ((s.beginCmd f n).part q) := by
  unfold State.beginCmd
  dsimp only
  rw [(State.startCmd_changes _ _ _).part, (State.relay_changes _ _ _).part]
  split
  · exact s.wakePart_part f q
  · exact ⟨_, _, rfl⟩

theorem State.relay_position (s : State) (f n : Nat) : (s.relay f n).fabric.position = s.fabric.position := by
  unfold State.relay
  dsimp only
  split
  · exact forEach_keeps (fun st => st.fabric.position) _ _ _ (fun _ st => rfl)
  · rfl

theorem State.beginCmd_position (s : State) (f n : Nat) : (s.beginCmd f n).fabric.position = s.fabric.position := by
  unfold State.beginCmd
  dsimp only
  rw [(State.startCmd_changes _ _ _).fabric, State.relay_position]
  split
  · rw [(State.wakePart_changes _ _).fabric]
  · rfl

/-- What a command that has been taken and begun leaves as it was. -/
theorem State.begun_changes (s : State) (f n : Nat) :
    Same [.fns, .free, .time, .log, .fabric, .hbm, .parts, .slots] s ((s.take f n).beginCmd f n) :=
  ((s.take_changes f n).mono (by simp)).trans ((State.beginCmd_changes _ _ _).mono (by simp))

theorem State.begun_cmd (s : State) (f n : Nat) : ∃ x, ((s.take f n).beginCmd f n).cmd f n = { s.cmd f n with phase := .running, start := x } :=
  (s.take f n).beginCmd_cmd_eq f n

theorem State.begun_part (s : State) (f n q : Nat) : PartWoken (s.part q) (((s.take f n).beginCmd f n).part q) :=
  (s.take f n).beginCmd_part f n q

/-! ### Engine addresses (R19) -/

theorem engineAddr_dev {a : Nat} (h : a < 2 ^ 48) : engineAddr a = .dev a := by
  have whole : bits a 47 0 = a := by
    simp [bits]
    omega
  unfold engineAddr
  rw [if_neg (by simp [bit]; omega), if_neg (by simp [bit]; omega), if_pos (by simp [bits]; omega), whole]

theorem engineAddr_host {a : Nat} (low : 2 ^ 63 ≤ a) (high : a < 2 ^ 64) : engineAddr a = .host (a % 2 ^ 63) := by
  unfold engineAddr
  rw [if_pos (by simp [bit]; omega)]

end Sys2Proof.Machine

namespace Sys2Proof.Machine
open Sys2Proof

/-! ### An image names each tile once (R369) -/

theorem modTileImg_names (t : Nat) (f : TileImg → TileImg) (h : ∀ x, (f x).tile = x.tile) (xs : List TileImg) :
    (modTileImg t f xs).map (·.tile) = if t ∈ xs.map (·.tile) then xs.map (·.tile) else xs.map (·.tile) ++ [t] := by
  induction xs with
  | nil => simp [modTileImg, h]
  | cons x xs ih =>
    unfold modTileImg
    by_cases hx : x.tile = t
    · rw [if_pos hx, if_pos (by simp [hx]), List.map_cons, h, List.map_cons]
    · rw [if_neg hx, List.map_cons, ih]
      by_cases ht : t ∈ xs.map (·.tile)
      · rw [if_pos ht, if_pos (by simp [ht]), List.map_cons]
      · rw [if_neg ht, if_neg (by simpa [Ne.symm hx] using ht), List.map_cons, List.cons_append]

theorem modTileImg_nodup (t : Nat) (f : TileImg → TileImg) (h : ∀ x, (f x).tile = x.tile) (xs : List TileImg) (distinct : (xs.map (·.tile)).Nodup) :
    ((modTileImg t f xs).map (·.tile)).Nodup := by
  rw [modTileImg_names t f h]
  split
  · exact distinct
  · rename_i new
    exact List.nodup_append.2 ⟨distinct, by simp, fun a ha b hb => by
      rw [List.mem_singleton.1 hb]
      exact fun e => new (e ▸ ha)⟩

theorem modTileImgs_nodup (f : TileImg → TileImg) (h : ∀ x, (f x).tile = x.tile) (ts : List Nat) (xs : List TileImg)
    (distinct : (xs.map (·.tile)).Nodup) : ((ts.foldl (fun ys t => modTileImg t f ys) xs).map (·.tile)).Nodup := by
  induction ts generalizing xs with
  | nil => exact distinct
  | cons t ts ih => exact ih _ (modTileImg_nodup t f h xs distinct)

/-- What a record that is neither of a pipeline nor of a multicast set gives a tile. -/
def ImgRec.give (r : ImgRec) (x : TileImg) : TileImg :=
  if r.type = 1 then { x with config := some r.bytes }
  else if r.type = 6 then { x with stores := x.stores ++ [(r.offset, r.bytes)] }
  else { x with words := (wordsOf r.bytes).zipIdx.foldl (fun t w => Tbl.set none t (4096 * (r.type - 2) + r.offset + w.2) (some w.1)) x.words }

theorem ImgRec.give_tile (r : ImgRec) (x : TileImg) : (r.give x).tile = x.tile := by
  unfold ImgRec.give
  split
  · rfl
  · split <;> rfl

theorem Image2.add_nodup {g g' : Image2} {r : ImgRec} (h : g.add r = some g') (distinct : g.tileNames.Nodup) : g'.tileNames.Nodup := by
  unfold Image2.add at h
  dsimp only at h
  split at h
  · cases h
  · split at h
    · cases h
      exact distinct
    · split at h
      · cases h
        exact distinct
      · split at h
        · split at h
          · cases h
          · cases h
            exact modTileImgs_nodup r.give r.give_tile _ _ distinct
        · cases h
          exact modTileImg_nodup _ r.give r.give_tile _ distinct

/-- What every step of a fold that may fail keeps holds of its result. -/
theorem foldl_bind_keeps {α β : Type} (P : α → Prop) (f : α → β → Option α) (keeps : ∀ a b a', f a b = some a' → P a → P a') (bs : List β)
    (a : Option α) (start : ∀ x, a = some x → P x) {a' : α} (h : bs.foldl (fun x b => x.bind (fun y => f y b)) a = some a') : P a' := by
  induction bs generalizing a with
  | nil => exact start a' h
  | cons b bs ih =>
    refine ih _ (fun x hx => ?_) h
    obtain ⟨y, hy, step⟩ := Option.bind_eq_some_iff.1 hx
    exact keeps y b x step (start y hy)

theorem parseImage_nodup {m : BMap} {total : Nat} {g : Image2} (h : parseImage m total = some g) : g.tileNames.Nodup := by
  unfold parseImage at h
  split at h
  · cases h
  · obtain ⟨rs, -, fold⟩ := Option.bind_eq_some_iff.1 h
    exact foldl_bind_keeps (fun x => x.tileNames.Nodup) Image2.add (fun _ _ _ => Image2.add_nodup) rs (some {})
      (fun x hx => by rw [← Option.some.inj hx]; exact List.nodup_nil) fold

/-- An image that passes the checks is the one its bytes spell. -/
theorem State.imageCheck_parsed {s : State} {p g total : Nat} {bytes : BMap} (h : (s.imageCheck p g total bytes).1 = 0) :
    parseImage bytes total = some (s.imageCheck p g total bytes).2 := by
  unfold State.imageCheck at h ⊢
  split
  · rename_i bad
    rw [if_pos bad] at h
    dsimp only at h
    split at h <;> cases h
  · rename_i good
    rw [if_neg good] at h
    split
    · rename_i none
      rw [none] at h
      cases h
    · rename_i m parsed
      rw [parsed]
      dsimp only
      split
      · rfl
      · split <;> rfl

/-- The checks of an image look at the partition's table and programs, at what is out of service and at what runs. -/
theorem State.imageCheck_congr {l : List Component} {s t : State} (h : Same l s t) (p g total : Nat) (bytes : BMap)
    (kept : ∀ c ∈ [Component.parts, .tiles, .dies, .secOut, .drains], c ∉ l) : t.imageCheck p g total bytes = s.imageCheck p g total bytes := by
  have tileOf : ∀ v, t.tileOf p v = s.tileOf p v := fun v => by
    unfold State.tileOf
    rw [h.part p (kept .parts (by simp)), h.die _ (kept .dies (by simp)), show t.secOut = s.secOut from h.agrees .secOut (kept .secOut (by simp))]
  have atpOf : ∀ n, t.atpOf p n = s.atpOf p n := fun n => by
    unfold State.atpOf
    rw [h.part p (kept .parts (by simp)), show t.secOut = s.secOut from h.agrees .secOut (kept .secOut (by simp))]
  have inUse : ∀ k, t.setInUse p k = s.setInUse p k := fun k => by
    unfold State.setInUse
    simp only [h.part p (kept .parts (by simp)), h.tile _ (kept .tiles (by simp))]
  have draining : ∀ xs ys, t.draining xs ys = s.draining xs ys := fun xs ys => by
    unfold State.draining
    rw [show t.drains = s.drains from h.agrees .drains (kept .drains (by simp))]
  unfold State.imageCheck State.replaced State.program
  simp only [h.part p (kept .parts (by simp)), tileOf, atpOf, inUse, draining]

/-! ### Writing an image (R370) -/

/-- An engine's instruction memory as an image gives it. -/
def TileImg.imem (x : TileImg) (e : Nat) : Tbl (BitVec 128) :=
  x.words.foldl (fun (m : Tbl (BitVec 128)) w => if w.1 / 4096 = e then Tbl.set 0 m (w.1 % 4096) (w.2.getD 0) else m) []

/-- Words laid out in turn: each position holds the last one laid there. -/
theorem layWords_get (e i : Nat) (hi : i < 4096) (ws : Tbl (Option (BitVec 128))) (m : Tbl (BitVec 128)) :
    Tbl.get 0 (ws.foldl (fun (m : Tbl (BitVec 128)) w => if w.1 / 4096 = e then Tbl.set 0 m (w.1 % 4096) (w.2.getD 0) else m) m) i =
      (ws.filter (fun v => v.1 == 4096 * e + i)).foldl (fun _ v => v.2.getD 0) (Tbl.get 0 m i) := by
  induction ws generalizing m with
  | nil => rfl
  | cons v ws ih =>
    rw [List.foldl_cons, ih]
    by_cases here : v.1 = 4096 * e + i
    · rw [List.filter_cons_of_pos (by simp [here]), List.foldl_cons, if_pos (by omega), show v.1 % 4096 = i by omega, Tbl.get_set_same]
    · rw [List.filter_cons_of_neg (by simp [here])]
      split
      · rw [Tbl.get_set_other _ _ _ _ _ (by omega)]
      · rfl

theorem TileImg.imem_word (x : TileImg) {e i : Nat} {w : BitVec 128} (hi : i < 4096)
    (once : x.words.filter (fun v => v.1 == 4096 * e + i) = [(4096 * e + i, some w)]) : Tbl.get 0 (x.imem e) i = w := by
  unfold TileImg.imem
  rw [layWords_get e i hi, once]
  rfl

theorem Tile.load_imem (t : Tile) (p g : Nat) (x : TileImg) {e : Nat} (he : e < 4) :
    ((t.load p g x).eng (if e = 0 then .F else if e = 1 then .M else if e = 2 then .V else .S)).imem = x.imem e := by
  obtain rfl | rfl | rfl | rfl : e = 0 ∨ e = 1 ∨ e = 2 ∨ e = 3 := by omega
  all_goals rfl

theorem State.loadTiles_other (p g v : Nat) (xs : List TileImg) (s : State) (h : v ∉ xs.map (·.tile)) :
    (forEach xs s (fun x st => st.modTile x.tile (fun t => t.load p g x))).tile v = s.tile v := by
  induction xs generalizing s with
  | nil => rfl
  | cons y ys ih =>
    have head : v ≠ y.tile := fun e => h (by simp [e])
    exact (ih _ (fun hm => h (List.mem_cons_of_mem _ hm))).trans (State.modTile_other _ _ _ _ head)

/-- Each tile of an image holds its part of it. -/
theorem State.loadTiles_tile (p g : Nat) (xs : List TileImg) (distinct : (xs.map (·.tile)).Nodup) (s : State) (x : TileImg) (hx : x ∈ xs) :
    (forEach xs s (fun x st => st.modTile x.tile (fun t => t.load p g x))).tile x.tile = (s.tile x.tile).load p g x := by
  induction xs generalizing s with
  | nil => cases hx
  | cons y ys ih =>
    obtain ⟨new, rest⟩ := List.nodup_cons.1 distinct
    rcases List.mem_cons.1 hx with rfl | hx
    · exact (State.loadTiles_other p g x.tile ys _ new).trans (State.modTile_same _ _ _)
    · have other : x.tile ≠ y.tile := fun e => new (List.mem_map.2 ⟨x, hx, e⟩)
      refine (ih rest _ hx).trans ?_
      rw [State.modTile_other _ _ _ _ other]

theorem State.setProgram_same (s : State) (p g : Nat) (x : Program) : (s.setProgram p g x).program p g = x := by
  unfold State.program State.setProgram
  rw [State.modPart_same]
  exact Tbl.get_set_same _ _ _ _

theorem Same.program {l : List Component} {s t : State} (h : Same l s t) (p g : Nat) (hl : .parts ∉ l) : t.program p g = s.program p g := by
  unfold State.program
  rw [h.part p hl]

/-- What an image writes beside its tiles. -/
theorem State.writeRest_changes (s : State) (p g : Nat) (m : Image2) (sets : Part → Tbl (BitVec 256)) (q : Program) :
    Same [.atps, .parts, .free, .time, .log] s ((((forEach m.atps s (fun r st => st.modAtp r.1 (fun a =>
      { a with program := some (p, g), jobs := BMap.writeBytes a.jobs r.2.1 r.2.2, gated := false }))).modPart p
        (fun x => { x with sets := sets x })).setProgram p g q).traceDies q 8 g id) :=
  (Same.forEach _ s _ (fun r st => (st.modAtp_changes _ _).mono (by simp))).trans (((State.modPart_changes _ _ _).mono (by simp)).trans
    (((State.setProgram_changes _ _ _ _).mono (by simp)).trans ((State.traceDies_changes _ _ _ _ _).mono (by simp))))

theorem State.writeImage_changes (s : State) (p g : Nat) (m : Image2) : Same [.tiles, .atps, .parts, .free, .time, .log] s (s.writeImage p g m) := by
  have tiles := Same.forEach (l := [.tiles, .atps, .parts, .free, .time, .log]) m.tiles s (fun x st => st.modTile x.tile (fun t => t.load p g x))
    (fun x st => (st.modTile_changes _ _).mono (by simp))
  exact tiles.trans ((State.writeRest_changes _ p g m _ _).mono (by simp))

theorem State.writeImage_program (s : State) (p g : Nat) (m : Image2) :
    (s.writeImage p g m).program p g = { loaded := true, tiles := m.tileNames, atps := m.atpNames } := by
  unfold State.writeImage
  dsimp only
  rw [(State.traceDies_changes _ _ _ _ _).program _ _ (by simp), State.setProgram_same]

theorem State.writeImage_tile (s : State) (p g : Nat) (m : Image2) (distinct : m.tileNames.Nodup) (x : TileImg) (hx : x ∈ m.tiles) :
    (s.writeImage p g m).tile x.tile = (s.tile x.tile).load p g x := by
  unfold State.writeImage
  dsimp only
  rw [(State.writeRest_changes _ p g m _ _).tile]
  exact State.loadTiles_tile p g m.tiles distinct s x hx

end Sys2Proof.Machine

namespace Sys2Proof.Machine
open Sys2Proof

/-! ### LOAD_PROGRAM (R370) -/

theorem Sound.below {s : State} {p a n : Nat} (h : Sound s p a n) (hn : 1 ≤ n) : a < tierBase := by
  obtain ⟨below, -⟩ := h
  omega

theorem PartWoken.within {s t : State} {p : Nat} (h : PartWoken (s.part p) (t.part p)) (a n : Nat) : t.within p a n = s.within p a n := by
  obtain ⟨x, r, part⟩ := h
  unfold State.within
  rw [part]
  rfl

theorem State.clearFor_changes (s : State) (p g : Nat) (m : Image2) : Same [.tiles, .atps, .parts] s (s.clearFor p g m) :=
  Same.forEach _ s _ (fun k st => st.unload_changes p k)

theorem State.endGrants_changes (s : State) (o : Owner) : Same [.grants] s (s.endGrants o) :=
  ⟨fun c hc => by cases c <;> simp at hc <;> rfl⟩

/-- What leaves the commands alone leaves a command that has finished as it ended. -/
theorem Same.finished {l : List Component} {s t : State} (h : Same l s t) {f n status : Nat} {result : List Nat}
    (done : Finished s f n status result) (slots : .slots ∉ l) : Finished t f n status result := by
  unfold Finished
  rw [h.cmd f n slots]
  exact done

/-- The state after a load that ends: what the image replaces is unloaded, the image is written, the reply counts its tiles and pipelines. -/
def State.loadedWith (s : State) (f n g : Nat) (m : Image2) : State :=
  ((s.clearFor f g m).writeImage f g m).replyOk f n [m.tiles.length, m.atpNames.length]

theorem State.loadedWith_done (s : State) (f n g : Nat) (m : Image2) (live : (s.cmd f n).live = true) (distinct : m.tileNames.Nodup) :
    Finished (s.loadedWith f n g m) f n stOK [m.tiles.length, m.atpNames.length] ∧
      (s.loadedWith f n g m).program f g = { loaded := true, tiles := m.tileNames, atps := m.atpNames } ∧
      ∀ x ∈ m.tiles, (s.loadedWith f n g m).tile x.tile = ((s.clearFor f g m).tile x.tile).load f g x := by
  have written := (s.clearFor f g m).writeImage_changes f g m
  have replied := ((s.clearFor f g m).writeImage f g m).replyOk_changes f n [m.tiles.length, m.atpNames.length]
  refine ⟨State.replyOk_finished _ _ _ _ ?_, ?_, fun x hx => ?_⟩
  · rw [written.cmd, (s.clearFor_changes f g m).cmd]
    exact live
  · exact (replied.program f g (by simp)).trans (State.writeImage_program _ _ _ _)
  · exact (replied.tile x.tile).trans (State.writeImage_tile _ _ _ _ distinct x hx)

/-- A sound image within one block is read and, where it passes the checks, loaded. -/
theorem State.loadDev_loads {s : State} {f n g a total : Nat} {m : Image2} (sound : OneBlock s f a total) (size : 1 ≤ total)
    (up : s.answers f a total = true) (program : (s.cmd f n).param 0 1 = g)
    (passes : s.imageCheck f g total (BMap.writeBytes [] 0 (BMap.readBytes s.mem a total)) = (0, m)) :
    ∃ u, Same [.hbm] s u ∧ s.loadDev f n a total = (u.loadedWith f n g m).endGrants (.command f n) := by
  obtain ⟨whole, one⟩ := sound
  have below := whole.below size
  obtain ⟨good, bytes, same⟩ := s.readStack_sound a total true (whole.block size) size one
  have ready : s.ready f [(a, total)] [] .read (.command f n) = (true, s) :=
    s.ready_below _ _ _ _ _ (fun r hr => by rw [List.mem_singleton.1 hr]; exact below) (fun r hr => by rw [List.mem_singleton.1 hr]; exact up)
  refine ⟨(s.readStack a total true).st, same, ?_⟩
  unfold State.loadDev State.whenServed
  rw [ready]
  dsimp only
  rw [if_pos rfl, State.readDev, if_pos below, good, if_neg (by simp), bytes, program]
  unfold State.loadEnd
  rw [State.imageCheck_congr same _ _ _ _ (by simp), passes]
  rfl

section
variable {s : State} {fn slot g a n : Nat}

theorem loadProgram_fromDevice {b : State} {m : Image2} (take : s.canTake fn slot opLOAD_PROGRAM = true) (begun : b = (s.take fn slot).beginCmd fn slot)
    (program : (s.cmd fn slot).param 0 1 = g) (named : g ≠ 0) (zeros : (s.cmd fn slot).param 1 7 = 0) (addr : (s.cmd fn slot).param 8 8 = a)
    (total : (s.cmd fn slot).param 16 8 = n) (size : headerBytes ≤ n) (aligned : a % 2048 = 0) (sound : OneBlock b fn a n)
    (up : b.answers fn a n = true) (passes : (b.imageCheck fn g n (BMap.writeBytes [] 0 (BMap.readBytes s.mem a n))).1 = 0)
    (image : m = (b.imageCheck fn g n (BMap.writeBytes [] 0 (BMap.readBytes s.mem a n))).2) :
    ∃ t, exec (.loadProgram fn slot) s = .next t ∧ Finished t fn slot stOK [m.tiles.length, m.atpNames.length] ∧
      (t.program fn g).loaded = true ∧ (t.program fn g).tiles = m.tileNames ∧ (t.program fn g).cmd = none ∧
      (∀ x ∈ m.tiles, (t.tile x.tile).program = some (fn, g) ∧
        (∀ e i w, e < 4 → i < 4096 → x.words.filter (fun v => v.1 == 4096 * e + i) = [(4096 * e + i, some w)] →
          Tbl.get 0 ((t.tile x.tile).eng (if e = 0 then .F else if e = 1 then .M else if e = 2 then .V else .S)).imem i = w)) := by
  have bytes : 1 ≤ n := Nat.le_trans (by decide) size
  have distinct : m.tileNames.Nodup := parseImage_nodup (image ▸ State.imageCheck_parsed passes)
  obtain ⟨start, cmd⟩ := s.begun_cmd fn slot
  have kept := s.begun_changes fn slot
  have within : (s.take fn slot).within fn a n = true := by
    obtain ⟨-, granted, -⟩ := sound.1
    rw [begun, (s.begun_part fn slot fn).within] at granted
    exact granted
  have low : a < 2 ^ 48 := Nat.lt_trans (sound.1.below bytes) (by decide)
  rw [← begun] at cmd kept
  obtain ⟨c, hc⟩ : ∃ c, c = b.modCmd fn slot (fun x => { x with stage := 3 }) := ⟨_, rfl⟩
  have stage : Same [.slots] b c := hc ▸ State.modCmd_changes _ _ _ _
  have here : c.cmd fn slot = { s.cmd fn slot with phase := .running, start := start, stage := 3 } := by rw [hc, State.modCmd_same, cmd]
  have check : c.imageCheck fn g n (BMap.writeBytes [] 0 (BMap.readBytes c.mem a n)) = (0, m) := by
    rw [State.imageCheck_congr stage _ _ _ _ (by simp), stage.mem, kept.mem, image]
    exact Prod.ext passes rfl
  obtain ⟨u, read, load⟩ := State.loadDev_loads (s := c) (n := slot) (hc ▸ sound) bytes (hc ▸ up) (by rw [here]; exact program) check
  obtain ⟨finished, loaded, tiles⟩ := u.loadedWith_done fn slot g m (by rw [read.cmd, here]; rfl) distinct
  have ended := (u.loadedWith fn slot g m).endGrants_changes (.command fn slot)
  refine ⟨(u.loadedWith fn slot g m).endGrants (.command fn slot), ?_, ended.finished finished (by simp), ?_, ?_, ?_, fun x hx => ?_⟩
  · show execLoadProgram fn slot s = _
    unfold execLoadProgram
    rw [if_pos take]
    dsimp only
    rw [(s.take_changes fn slot).cmd, program, zeros, addr, total, if_neg (by simp [named]; omega), engineAddr_dev low]
    dsimp only
    rw [if_neg (by simp [aligned]), within, if_neg (by simp), ← begun, ← hc, load]
  · rw [ended.program _ _ (by simp), loaded]
  · rw [ended.program _ _ (by simp), loaded]
  · rw [ended.program _ _ (by simp), loaded]
  · rw [ended.tile, tiles x hx]
    refine ⟨rfl, fun e i w he hi once => ?_⟩
    rw [Tile.load_imem _ _ _ _ he, x.imem_word hi once]

/-- The reads of host memory that a command asks for are counted at the command (R338). -/
theorem State.hostRead_command (s : State) (f addr len f' n base : Nat) :
    Same [.link, .slots] s (s.hostRead f addr len (.command f' n) base) ∧
      ((s.hostRead f addr len (.command f' n) base).cmd f' n).phase = (s.cmd f' n).phase ∧
      ((s.hostRead f addr len (.command f' n) base).cmd f' n).stage = (s.cmd f' n).stage := by
  have asked : ∀ (st : State) r t, Same [.link, .slots] st
      (({ st with link := { st.link with reads := r, nextTag := t } } : State).ownReads (.command f' n) (· + 1)) := fun st r t =>
    ⟨fun c hc => by cases c <;> simp at hc <;> rfl⟩
  unfold State.hostRead
  refine ⟨Same.forEach _ s _ (fun c st => asked st _ _), ?_, ?_⟩
  · refine forEach_keeps (fun st => (st.cmd f' n).phase) _ _ _ (fun c st => ?_)
    dsimp only [State.ownReads]
    rw [State.modCmd_same]
    rfl
  · refine forEach_keeps (fun st => (st.cmd f' n).stage) _ _ _ (fun c st => ?_)
    dsimp only [State.ownReads]
    rw [State.modCmd_same]
    rfl

theorem State.take_hostStatus (s : State) (f n p : Nat) : (s.take f n).hostStatus p = s.hostStatus p := by
  have open' : (s.take f n).hostOpen p = s.hostOpen p := by
    unfold State.hostOpen
    by_cases hp : p = f
    · subst hp
      unfold State.take State.accept
      rw [State.modFn_same]
      rfl
    · unfold State.take State.accept
      rw [State.modFn_other _ _ _ _ hp]
      rfl
  unfold State.hostStatus
  rw [open', (s.take_changes f n).part]
  rfl

theorem loadProgram_fromHost {b : State} (take : s.canTake fn slot opLOAD_PROGRAM = true) (begun : b = (s.take fn slot).beginCmd fn slot)
    (program : (s.cmd fn slot).param 0 1 = g) (named : g ≠ 0) (zeros : (s.cmd fn slot).param 1 7 = 0) (addr : (s.cmd fn slot).param 8 8 = a)
    (total : (s.cmd fn slot).param 16 8 = n) (size : headerBytes ≤ n) (host : 2 ^ 63 ≤ a) (aligned : a % 8 = 0) (up : s.hostStatus fn = 0) :
    ∃ t, exec (.loadProgram fn slot) s = .next t ∧ (t.cmd fn slot).phase = .running ∧ (t.cmd fn slot).stage = 1 ∧ (∀ k, t.tile k = s.tile k) ∧
      t.parts = b.parts := by
  have high : a < 2 ^ 64 := addr ▸ BMap.readLe_lt _ _ 8
  obtain ⟨start, cmd⟩ := s.begun_cmd fn slot
  have kept := s.begun_changes fn slot
  rw [← begun] at cmd kept
  obtain ⟨c, hc⟩ : ∃ c, c = b.modCmd fn slot (fun x => { x with stage := 1 }) := ⟨_, rfl⟩
  have stage : Same [.slots] b c := hc ▸ State.modCmd_changes _ _ _ _
  have here : c.cmd fn slot = { s.cmd fn slot with phase := .running, start := start, stage := 1 } := by rw [hc, State.modCmd_same, cmd]
  obtain ⟨asked, phase, held⟩ := c.hostRead_command fn (a % 2 ^ 63) n fn slot 0
  refine ⟨c.hostRead fn (a % 2 ^ 63) n (.command fn slot), ?_, by rw [phase, here], by rw [held, here],
    fun k => by rw [asked.tile, stage.tile, kept.tile], ?_⟩
  · show execLoadProgram fn slot s = _
    unfold execLoadProgram
    rw [if_pos take]
    dsimp only
    rw [(s.take_changes fn slot).cmd, program, zeros, addr, total, if_neg (by simp [named]; omega), engineAddr_host host high]
    dsimp only
    rw [if_neg (by omega), State.take_hostStatus, up, if_neg (by simp), ← begun, ← hc]
  · exact Eq.trans (asked.agrees .parts (by simp)) (stage.agrees .parts (by simp))

end

end Sys2Proof.Machine

namespace Sys2Proof.Machine
open Sys2Proof

/-! ### Changes made one after the other -/

/-- What one change of a sequence brings about and the others keep holds at the end; `Q` is what all of them keep. -/
theorem forEach_reaches {α : Type} (Q P : State → Prop) {xs : List α} {x : α} (hx : x ∈ xs) (f : α → State → State) (s : State) (start : Q s)
    (inv : ∀ y st, Q st → Q (f y st)) (does : ∀ st, Q st → P (f x st)) (keeps : ∀ y st, Q st → P st → P (f y st)) : P (forEach xs s f) := by
  have stays : ∀ (ys : List α) (t : State), Q t → P t → P (forEach ys t f) := by
    intro ys
    induction ys with
    | nil => exact fun _ _ h => h
    | cons y ys ih => exact fun t ht h => ih (f y t) (inv y t ht) (keeps y t ht h)
  induction xs generalizing s with
  | nil => cases hx
  | cons y ys ih =>
    rcases List.mem_cons.1 hx with rfl | hx
    · exact stays ys _ (inv x s start) (does s start)
    · exact ih hx (f y s) (inv y s start)

/-! ### Fields of a byte array -/

theorem leNat_natLe (v n : Nat) : leNat (natLe v n) = v % 256 ^ n := by
  induction n generalizing v with
  | zero => simp [natLe, leNat, Nat.mod_one]
  | succ n ih =>
    rw [natLe, leNat, ih, Nat.pow_succ', Nat.mod_mul]
    simp

theorem BMap.readLe_writeLe (m : BMap) (a n v : Nat) : BMap.readLe (BMap.writeLe m a n v) a n = v % 256 ^ n := by
  unfold BMap.readLe BMap.writeLe
  rw [readBytes_writeBytes_of_length _ _ (natLe_length v n), leNat_natLe]

theorem BMap.readBytes_writeBytes_outside (m : BMap) (a : Nat) (bs : List Byte) (b n : Nat) (h : b + n ≤ a ∨ a + bs.length ≤ b) :
    BMap.readBytes (BMap.writeBytes m a bs) b n = BMap.readBytes m b n := by
  induction n generalizing b with
  | zero => rfl
  | succ n ih =>
    rw [BMap.readBytes, BMap.readBytes, ih _ (by omega), BMap.read_writeBytes_outside _ _ _ _ (by omega)]

theorem BMap.readLe_writeLe_outside (m : BMap) (a w v b n : Nat) (h : b + n ≤ a ∨ a + w ≤ b) :
    BMap.readLe (BMap.writeLe m a w v) b n = BMap.readLe m b n := by
  unfold BMap.readLe BMap.writeLe
  rw [BMap.readBytes_writeBytes_outside _ _ _ _ _ (by rw [natLe_length]; exact h)]

/-! ### What a binding reads (R267) -/

/-- Two states that agree in what a binding of a partition reads. -/
structure BindSame (s t : State) (p : Nat) : Prop where
  mem : t.mem = s.mem
  position : t.fabric.position = s.fabric.position
  table : (t.part p).train.table = (s.part p).train.table
  step : (t.part p).train.step = (s.part p).train.step
  sets : (t.part p).sets = (s.part p).sets

theorem BindSame.shard {s t : State} {p : Nat} (h : BindSame s t p) (i : Nat) : t.shard p i = s.shard p i := by
  unfold State.shard State.shardAddr
  rw [h.mem, h.table]

theorem BindSame.localAddr {s t : State} {p : Nat} (h : BindSame s t p) (a : Nat) : t.localAddr a = s.localAddr a := by
  unfold State.localAddr
  rw [h.position]

theorem BindSame.bound {s t : State} {p : Nat} (h : BindSame s t p) (b : Nat) (buf : BMap) : t.bound p b buf = s.bound p b buf := by
  unfold State.bound State.ownerRec State.step'
  simp only [h.shard, h.localAddr, h.step, h.mem]

theorem BindSame.remotePeers {s t : State} {p : Nat} (h : BindSame s t p) (bs : List Nat) : t.remotePeers p bs = s.remotePeers p bs := by
  unfold State.remotePeers
  simp only [h.shard, h.localAddr]

theorem BindSame.boundTiles {s t : State} {p g : Nat} (h : BindSame s t p) (tiles : (t.program p g).tiles = (s.program p g).tiles) (b : Nat) :
    t.boundTiles p g b = s.boundTiles p g b := by
  unfold State.boundTiles
  rw [tiles, h.sets]

/-! ### Binding (R267) -/

/-- A tile with a binding made: BASE, and SCALE_BASE where the binding has one, in the named descriptor. -/
def Tile.bindTo (x : Tile) (b base : Nat) (scale : Option Nat) : Tile :=
  let a := x.descBase + 64 * bits b 15 8
  if x.descCount ≤ bits b 15 8 then x
  else
    let m := BMap.writeLe x.store a 8 base
    { x with store := match scale with | some w => BMap.writeLe m (a + 8) 8 w | none => m }

theorem State.bindAll_one (s : State) (p g b : Nat) (buf : BMap) : s.bindAll p g [b] buf =
    forEach (s.boundTiles p g b) s (fun k st => st.modTile k (fun x => x.bindTo b (s.bound p b buf).1 (s.bound p b buf).2)) := rfl

theorem State.bindAll_changes (s : State) (p g : Nat) (bs : List Nat) (buf : BMap) : Same [.tiles] s (s.bindAll p g bs buf) :=
  Same.forEach bs s _ (fun _ st => Same.forEach _ st _ (fun _ _ => State.modTile_changes _ _ _))

theorem State.modTile_f (s : State) (t v : Nat) (g : Tile → Tile) (h : ∀ x, (g x).f = x.f) : ((s.modTile t g).tile v).f = (s.tile v).f := by
  by_cases hv : v = t
  · subst hv
    rw [State.modTile_same, h]
  · rw [State.modTile_other _ _ _ _ hv]

theorem State.bindAll_f (s : State) (p g : Nat) (bs : List Nat) (buf : BMap) (v : Nat) : ((s.bindAll p g bs buf).tile v).f = (s.tile v).f :=
  forEach_keeps (fun st => (st.tile v).f) _ _ _ (fun b st => forEach_keeps (fun st => (st.tile v).f) _ _ _ (fun t st' =>
    st'.modTile_f t v _ (fun x => by dsimp only; split <;> rfl)))

/-- A binding writes below the configuration block, so that the tile's descriptors stay where they are. -/
theorem Tile.bindTo_cfg (x : Tile) (b base : Nat) (scale : Option Nat) (o n : Nat) (inside : bits b 15 8 < x.descCount)
    (table : x.descBase + 64 * x.descCount ≤ cfgBase) : (x.bindTo b base scale).cfg o n = x.cfg o n := by
  unfold Tile.bindTo
  dsimp only
  rw [if_neg (by omega)]
  unfold Tile.cfg
  cases scale with
  | none => exact BMap.readLe_writeLe_outside _ _ _ _ _ _ (by omega)
  | some w =>
    exact (BMap.readLe_writeLe_outside _ _ _ _ _ _ (by omega)).trans (BMap.readLe_writeLe_outside _ _ _ _ _ _ (by omega))

theorem Tile.bindTo_base (x : Tile) (b base : Nat) (scale : Option Nat) (inside : bits b 15 8 < x.descCount) :
    BMap.readLe (x.bindTo b base scale).store (x.descBase + 64 * bits b 15 8) 8 = base % 2 ^ 64 := by
  unfold Tile.bindTo
  dsimp only
  rw [if_neg (by omega)]
  cases scale with
  | none => exact BMap.readLe_writeLe _ _ _ _
  | some w => exact (BMap.readLe_writeLe_outside _ _ _ _ _ _ (by omega)).trans (BMap.readLe_writeLe _ _ _ _)

/-- A tile that a binding names holds its BASE afterwards. -/
theorem State.bindAll_base (s : State) (p g b : Nat) (buf : BMap) (k : Nat) (named : k ∈ s.boundTiles p g b)
    (inside : bits b 15 8 < (s.tile k).descCount) (table : (s.tile k).descBase + 64 * (s.tile k).descCount ≤ cfgBase) :
    BMap.readLe ((s.bindAll p g [b] buf).tile k).store ((s.tile k).descBase + 64 * bits b 15 8) 8 = (s.bound p b buf).1 % 2 ^ 64 := by
  rw [State.bindAll_one]
  refine forEach_reaches (fun st => (st.tile k).descBase = (s.tile k).descBase ∧ (st.tile k).descCount = (s.tile k).descCount)
    (fun st => BMap.readLe (st.tile k).store ((s.tile k).descBase + 64 * bits b 15 8) 8 = (s.bound p b buf).1 % 2 ^ 64)
    named _ s ⟨rfl, rfl⟩ (fun y st ⟨base, count⟩ => ?_) (fun st ⟨base, count⟩ => ?_) (fun y st ⟨base, count⟩ done => ?_)
  · by_cases hy : k = y
    · subst hy
      rw [State.modTile_same]
      exact ⟨(Tile.bindTo_cfg _ _ _ _ _ _ (by omega) (by omega)).trans base, (Tile.bindTo_cfg _ _ _ _ _ _ (by omega) (by omega)).trans count⟩
    · rw [State.modTile_other _ _ _ _ hy]
      exact ⟨base, count⟩
  · rw [State.modTile_same, ← base]
    exact Tile.bindTo_base _ _ _ _ (by omega)
  · by_cases hy : k = y
    · subst hy
      rw [State.modTile_same, ← base]
      exact Tile.bindTo_base _ _ _ _ (by omega)
    · rw [State.modTile_other _ _ _ _ hy]
      exact done

/-! ### Launching (R371) -/

/-- A tile's start, and the watchdog's count with it. -/
def State.startTile (s : State) (t : Nat) : State := (s.modTile t Tile.started).watch t

theorem State.startTile_changes (s : State) (t : Nat) : Same [.tiles] s (s.startTile t) :=
  (State.modTile_changes _ _ _).trans (State.watch_changes _ _)

theorem State.startTile_other (s : State) {t v : Nat} (h : v ≠ t) : (s.startTile t).tile v = s.tile v := by
  unfold State.startTile
  rw [State.watch_other _ h, State.modTile_other _ _ _ _ h]

theorem State.startTile_same (s : State) (t : Nat) :
    ((s.startTile t).tile t).running = true ∧ ((s.startTile t).tile t).flags = 0 ∧ ((s.startTile t).tile t).f = (s.tile t).f.started ∧
      ((s.startTile t).tile t).store = (s.tile t).store := by
  obtain ⟨kept, engines⟩ := (s.modTile t Tile.started).watch_tile t
  rw [State.modTile_same] at kept engines
  exact ⟨kept.agrees .running (by simp), kept.agrees .flags (by simp), engines .F, kept.agrees .store (by simp)⟩

theorem State.startTile_keeps (s : State) (t v : Nat) :
    ((s.startTile t).tile v).f.imem = (s.tile v).f.imem ∧ ((s.startTile t).tile v).store = (s.tile v).store := by
  by_cases hv : v = t
  · subst hv
    obtain ⟨-, -, f, store⟩ := s.startTile_same v
    exact ⟨by rw [f]; rfl, store⟩
  · rw [s.startTile_other hv]
    exact ⟨rfl, rfl⟩

/-- The tiles of a program start with cleared flags, with their instruction memories and their stores as they are. -/
theorem State.startTiles_tile (s : State) (ks : List Nat) (k : Nat) :
    (k ∈ ks → ((forEach ks s (fun t st => st.startTile t)).tile k).running = true ∧
      ((forEach ks s (fun t st => st.startTile t)).tile k).flags = 0 ∧ ((forEach ks s (fun t st => st.startTile t)).tile k).f.pc = 0) ∧
    ((forEach ks s (fun t st => st.startTile t)).tile k).f.imem = (s.tile k).f.imem ∧
    ((forEach ks s (fun t st => st.startTile t)).tile k).store = (s.tile k).store := by
  have starts : ∀ st : State, ((st.startTile k).tile k).running = true ∧ ((st.startTile k).tile k).flags = 0 ∧
      ((st.startTile k).tile k).f.pc = 0 := fun st => by
    obtain ⟨running, flags, f, -⟩ := st.startTile_same k
    exact ⟨running, flags, by rw [f]; rfl⟩
  refine ⟨fun hk => ?_, forEach_keeps (fun st => (st.tile k).f.imem) _ _ _ (fun t st => (st.startTile_keeps t k).1),
    forEach_keeps (fun st => (st.tile k).store) _ _ _ (fun t st => (st.startTile_keeps t k).2)⟩
  refine forEach_reaches (fun _ => True)
    (fun st => (st.tile k).running = true ∧ (st.tile k).flags = 0 ∧ (st.tile k).f.pc = 0) hk _ s trivial
    (fun _ _ _ => trivial) (fun st _ => starts st) (fun t st _ done => ?_)
  by_cases ht : k = t
  · subst ht
    exact starts st
  · rw [st.startTile_other ht]
    exact done

/-- An attention pipeline at a program's start. -/
def Atp.started (x : Atp) : Atp := { x.halted with running := true, ended := false, pc := 0, flags := 0, gated := false }

theorem State.startAtps_atp (s : State) (ns : List Nat) (n : Nat) (hn : n ∈ ns) :
    ((forEach ns s (fun a st => st.modAtp a Atp.started)).atp n).running = true ∧
      ((forEach ns s (fun a st => st.modAtp a Atp.started)).atp n).pc = 0 ∧
      ((forEach ns s (fun a st => st.modAtp a Atp.started)).atp n).ended = false := by
  have starts : ∀ st : State, ((st.modAtp n Atp.started).atp n).running = true ∧ ((st.modAtp n Atp.started).atp n).pc = 0 ∧
      ((st.modAtp n Atp.started).atp n).ended = false := fun st => by
    rw [State.modAtp_same]
    exact ⟨rfl, rfl, rfl⟩
  refine forEach_reaches (fun _ => True) (fun st => (st.atp n).running = true ∧ (st.atp n).pc = 0 ∧ (st.atp n).ended = false) hn _ s trivial
    (fun _ _ _ => trivial) (fun st _ => starts st) (fun a st _ done => ?_)
  by_cases ha : n = a
  · subst ha
    exact starts st
  · rw [State.modAtp_other _ _ _ _ ha]
    exact done

/-- What a launch makes of its program, its tiles and its attention pipelines. -/
theorem State.launch_starts (s : State) (p g f n : Nat) :
    Same [.tiles, .atps, .parts] s (s.launch p g f n) ∧ (s.launch p g f n).program p g = { s.program p g with cmd := some (f, n), stop := none } ∧
      (∀ k, (k ∈ (s.program p g).tiles → ((s.launch p g f n).tile k).running = true ∧ ((s.launch p g f n).tile k).flags = 0 ∧
          ((s.launch p g f n).tile k).f.pc = 0) ∧
        ((s.launch p g f n).tile k).f.imem = (s.tile k).f.imem ∧ ((s.launch p g f n).tile k).store = (s.tile k).store) ∧
      ∀ k ∈ (s.program p g).atps, ((s.launch p g f n).atp k).running = true ∧ ((s.launch p g f n).atp k).pc = 0 ∧
        ((s.launch p g f n).atp k).ended = false := by
  obtain ⟨u, hu⟩ : ∃ u, u = forEach (s.program p g).tiles s (fun t st => st.startTile t) := ⟨_, rfl⟩
  obtain ⟨v, hv⟩ : ∃ v, v = forEach (s.program p g).atps u (fun a st => st.modAtp a Atp.started) := ⟨_, rfl⟩
  have launched : s.launch p g f n = v.setProgram p g { s.program p g with cmd := some (f, n), stop := none } := by
    rw [hv, hu]
    rfl
  have tiles : Same [.tiles] s u := hu ▸ Same.forEach _ s _ (fun t st => st.startTile_changes t)
  have atps : Same [.atps] u v := hv ▸ Same.forEach _ u _ (fun a st => st.modAtp_changes a _)
  have programs := v.setProgram_changes p g { s.program p g with cmd := some (f, n), stop := none }
  rw [launched]
  refine ⟨((tiles.mono (by simp)).trans (atps.mono (by simp))).trans (programs.mono (by simp)), State.setProgram_same _ _ _ _, fun k => ?_, fun k hk => ?_⟩
  · rw [programs.tile, atps.tile, hu]
    exact s.startTiles_tile _ k
  · rw [programs.atp, hv]
    exact u.startAtps_atp _ k hk

end Sys2Proof.Machine

namespace Sys2Proof.Machine
open Sys2Proof

/-! ### RUN (R371) -/

/-- The state in which a RUN that has begun binds and launches: the applies that a HALT stopped resumed, the program claimed. -/
def State.claimed (s : State) (f n g : Nat) : State :=
  let s2 := (s.modCmd f n (fun x => { x with stage := 1 })).resumeApplies f
  s2.setProgram f g { (s2.program f g) with cmd := some (f, n) }

theorem State.claimed_changes (s : State) (f n g : Nat) : Same [.slots, .parts] s (s.claimed f n g) :=
  ((State.modCmd_changes _ _ _ _).mono (by simp)).trans (((State.modPart_changes _ _ _).mono (by simp)).trans
    ((State.setProgram_changes _ _ _ _).mono (by simp)))

theorem State.claimed_cmd (s : State) (f n g : Nat) : (s.claimed f n g).cmd f n = { s.cmd f n with stage := 1 } :=
  State.modCmd_same s f n (fun x => { x with stage := 1 })

theorem State.claimed_program (s : State) (f n g : Nat) : (s.claimed f n g).program f g = { s.program f g with cmd := some (f, n) } := by
  have resumed : ((s.modCmd f n (fun x => { x with stage := 1 })).resumeApplies f).program f g = s.program f g := by
    unfold State.program State.resumeApplies State.modTrain
    rw [State.modPart_same]
    rfl
  unfold State.claimed
  dsimp only
  rw [State.setProgram_same, resumed]

theorem State.claimed_part (s : State) (f n g : Nat) : ∃ a ps, (s.claimed f n g).part f =
    { s.part f with train := { (s.part f).train with applies := a }, programs := ps } := by
  unfold State.claimed State.setProgram State.resumeApplies State.modTrain
  dsimp only
  rw [State.modPart_same, State.modPart_same]
  exact ⟨_, _, rfl⟩

section
variable {s : State} {fn slot g : Nat}

theorem begun_bindSame : BindSame s (((s.take fn slot).beginCmd fn slot).claimed fn slot g) fn := by
  obtain ⟨x, r, woken⟩ := s.begun_part fn slot fn
  obtain ⟨a, ps, part⟩ := ((s.take fn slot).beginCmd fn slot).claimed_part fn slot g
  have claimed := ((s.take fn slot).beginCmd fn slot).claimed_changes fn slot g
  refine ⟨by rw [claimed.mem, (s.begun_changes fn slot).mem], ?_, ?_, ?_, ?_⟩
  · rw [claimed.fabric, State.beginCmd_position]
    rfl
  all_goals rw [part, woken]

theorem begun_program : (((s.take fn slot).beginCmd fn slot).claimed fn slot g).program fn g = { s.program fn g with cmd := some (fn, slot) } := by
  obtain ⟨x, r, woken⟩ := s.begun_part fn slot fn
  rw [State.claimed_program]
  unfold State.program
  rw [woken]

/-- A RUN whose checks pass binds and launches at once where no owner's record has to be read elsewhere. -/
theorem run_starts (take : s.canTake fn slot opRUN = true) (program : (s.cmd fn slot).param 0 1 = g) (ok : s.runCheck fn (s.cmd fn slot) = 0)
    (up : ((s.take fn slot).beginCmd fn slot).hbmReady fn = true) (here : s.remotePeers fn (s.cmd fn slot).bindings = [])
    (sound : (s.cmd fn slot).failed = 0) (none' : (s.cmd fn slot).reads = 0) :
    ∃ r u : State, ∃ start, exec (.run fn slot) s =
        .next (((u.launch fn g fn slot).modCmd fn slot (fun x => { x with stage := 2 })).traceDies
          (((u.launch fn g fn slot).modCmd fn slot (fun x => { x with stage := 2 })).program fn g) 9 g id) ∧
      u = r.bindAll fn g (s.cmd fn slot).bindings (s.cmd fn slot).buf ∧ BindSame s r fn ∧ (∀ k, r.tile k = s.tile k) ∧
      r.program fn g = { s.program fn g with cmd := some (fn, slot) } ∧
      r.cmd fn slot = { s.cmd fn slot with phase := .running, start := start, stage := 1 } := by
  obtain ⟨r, hr⟩ : ∃ r, r = ((s.take fn slot).beginCmd fn slot).claimed fn slot g := ⟨_, rfl⟩
  obtain ⟨start, begun⟩ := s.begun_cmd fn slot
  have cmd : r.cmd fn slot = { s.cmd fn slot with phase := .running, start := start, stage := 1 } := by
    rw [hr, State.claimed_cmd, begun]
  have bind : BindSame s r fn := hr ▸ begun_bindSame
  have runs : r.runNow fn slot = ((((r.bindAll fn g (s.cmd fn slot).bindings (s.cmd fn slot).buf).launch fn g fn slot).modCmd fn slot
      (fun x => { x with stage := 2 })).traceDies ((((r.bindAll fn g (s.cmd fn slot).bindings (s.cmd fn slot).buf).launch fn g fn slot).modCmd
        fn slot (fun x => { x with stage := 2 })).program fn g) 9 g id) := by
    unfold State.runNow
    dsimp only
    rw [cmd, if_neg (by simp [sound]), if_neg (by simp [none']), ← program]
    rfl
  refine ⟨r, _, start, ?_, rfl, bind, fun k => ?_, hr ▸ begun_program, cmd⟩
  · have check : (s.take fn slot).runCheck fn (s.cmd fn slot) = 0 := ok
    show execRun fn slot s = _
    unfold execRun
    rw [if_pos take]
    dsimp only
    rw [(s.take_changes fn slot).cmd, check, if_neg (by simp), up, if_neg (by simp), program]
    show Host.Outcome.next (State.runNow (forEach ((((s.take fn slot).beginCmd fn slot).claimed fn slot g).remotePeers fn (s.cmd fn slot).bindings)
      (((s.take fn slot).beginCmd fn slot).claimed fn slot g) _) fn slot) = _
    rw [← hr, bind.remotePeers, here]
    show Host.Outcome.next (r.runNow fn slot) = _
    rw [runs]
  · rw [hr, (State.claimed_changes _ _ _ _).tile, (s.begun_changes fn slot).tile]

theorem run_launches (take : s.canTake fn slot opRUN = true) (program : (s.cmd fn slot).param 0 1 = g) (ok : s.runCheck fn (s.cmd fn slot) = 0)
    (up : ((s.take fn slot).beginCmd fn slot).hbmReady fn = true) (here : s.remotePeers fn (s.cmd fn slot).bindings = [])
    (sound : (s.cmd fn slot).failed = 0) (none' : (s.cmd fn slot).reads = 0) :
    ∃ t, exec (.run fn slot) s = .next t ∧ (t.cmd fn slot).phase = .running ∧
      (t.program fn g).cmd = some (fn, slot) ∧ (t.program fn g).tiles = (s.program fn g).tiles ∧
      (∀ k ∈ (s.program fn g).tiles, (t.tile k).running = true ∧ (t.tile k).flags = 0 ∧ (t.tile k).f.pc = 0 ∧ (t.tile k).f.imem = (s.tile k).f.imem) ∧
      (∀ k ∈ (s.program fn g).atps, (t.atp k).running = true ∧ (t.atp k).pc = 0 ∧ (t.atp k).ended = false) ∧
      (∀ b k, (s.cmd fn slot).bindings = [b] → k ∈ s.boundTiles fn g b → bits b 15 8 < (s.tile k).descCount →
        (s.tile k).descBase + 64 * (s.tile k).descCount ≤ cfgBase →
        BMap.readLe (t.tile k).store ((s.tile k).descBase + 64 * bits b 15 8) 8 = (s.bound fn b (s.cmd fn slot).buf).1 % 2 ^ 64) := by
  obtain ⟨r, u, start, run, bound, bind, tiles, claimed, cmd⟩ := run_starts take program ok up here sound none'
  have binding : Same [.tiles] r u := bound ▸ State.bindAll_changes _ _ _ _ _
  have uprogram : u.program fn g = { s.program fn g with cmd := some (fn, slot) } := (binding.program fn g (by simp)).trans claimed
  obtain ⟨launched, lprogram, ltiles, latps⟩ := u.launch_starts fn g fn slot
  obtain ⟨v, hv⟩ : ∃ v, v = (u.launch fn g fn slot).modCmd fn slot (fun x => { x with stage := 2 }) := ⟨_, rfl⟩
  have staged : Same [.slots] (u.launch fn g fn slot) v := hv ▸ State.modCmd_changes _ _ _ _
  have traced := v.traceDies_changes (v.program fn g) 9 g id
  have vprogram : v.program fn g = { s.program fn g with cmd := some (fn, slot), stop := none } := by
    rw [staged.program _ _ (by simp), lprogram, uprogram]
  have vtile : ∀ k, (v.traceDies (v.program fn g) 9 g id).tile k = (u.launch fn g fn slot).tile k := fun k => by rw [traced.tile, staged.tile]
  rw [uprogram] at ltiles latps
  rw [← hv] at run
  refine ⟨_, run, ?_, ?_, ?_, fun k hk => ?_, fun k hk => ?_, fun b k one named inside table => ?_⟩
  · rw [traced.cmd, hv, State.modCmd_same, launched.cmd, binding.cmd, cmd]
  · rw [traced.program _ _ (by simp), vprogram]
  · rw [traced.program _ _ (by simp), vprogram]
  · obtain ⟨starts, imem, -⟩ := ltiles k
    obtain ⟨running, flags, pc⟩ := starts hk
    rw [vtile]
    exact ⟨running, flags, pc, by rw [imem, bound, State.bindAll_f, tiles]⟩
  · rw [traced.atp, staged.atp]
    exact latps k hk
  · obtain ⟨-, -, store⟩ := ltiles k
    rw [vtile, store, bound, one, ← tiles k, ← bind.bound]
    refine State.bindAll_base _ _ _ _ _ _ ?_ (by rw [tiles]; exact inside) (by rw [tiles]; exact table)
    rw [bind.boundTiles (by rw [claimed])]
    exact named

/-! ### The end of a RUN -/

/-- Units that still run are stopped. -/
theorem State.stopTiles_tile (s : State) (ks : List Nat) (k : Nat) (hk : k ∈ ks) :
    ((forEach ks s (fun t st => st.modTile t (fun x => if x.running then x.halted else x))).tile k).running = false := by
  have stops : ∀ st : State, ((st.modTile k (fun x => if x.running then x.halted else x)).tile k).running = false := fun st => by
    rw [State.modTile_same]
    split
    · rfl
    · rename_i ended
      simpa using ended
  refine forEach_reaches (fun _ => True) (fun st => (st.tile k).running = false) hk _ s trivial (fun _ _ _ => trivial) (fun st _ => stops st)
    (fun t st _ done => ?_)
  by_cases ht : k = t
  · subst ht
    exact stops st
  · rw [State.modTile_other _ _ _ _ ht]
    exact done

theorem runComplete_replies (runs : s.inRun fn slot opRUN = true) (stage : (s.cmd fn slot).stage = 2) (program : (s.cmd fn slot).param 0 1 = g)
    (mine : (s.program fn g).cmd = some (fn, slot)) (tiles : ∀ k ∈ (s.program fn g).tiles, (s.tile k).over' = true)
    (atps : ∀ k ∈ (s.program fn g).atps, (s.atp k).over' = true) :
    ∃ t, exec (.runComplete fn slot) s = .next t ∧ (t.cmd fn slot).phase = .finished ∧
      (t.cmd fn slot).status = ((s.program fn g).stop.map (·.status)).getD stOK ∧ (t.program fn g).cmd = none ∧
      (t.program fn g).tiles = (s.program fn g).tiles ∧ (∀ k ∈ (s.program fn g).tiles, (t.tile k).running = false) ∧ t.mem = s.mem := by
  obtain ⟨u, hu⟩ : ∃ u, u = forEach (s.program fn g).tiles s (fun t st => st.modTile t (fun x => if x.running then x.halted else x)) := ⟨_, rfl⟩
  obtain ⟨v, hv⟩ : ∃ v, v = forEach (s.program fn g).atps u (fun n st => st.modAtp n (fun x => if x.running then x.halted else x)) := ⟨_, rfl⟩
  obtain ⟨w, hw⟩ : ∃ w, w = (v.setProgram fn g { s.program fn g with cmd := none, stop := none }).modCmd fn slot
    (fun x => { x with result := (v.runResults fn g).map (BitVec.ofNat 64) }) := ⟨_, rfl⟩
  have halted : Same [.tiles] s u := hu ▸ Same.forEach _ s _ (fun t st => st.modTile_changes t _)
  have stopped : Same [.atps] u v := hv ▸ Same.forEach _ u _ (fun n st => st.modAtp_changes n _)
  have freed : Same [.parts, .slots] v w := hw ▸ ((State.setProgram_changes _ _ _ _).mono (by simp)).trans ((State.modCmd_changes _ _ _ _).mono (by simp))
  have finished := w.finishCmd_changes fn slot (((s.program fn g).stop.map (·.status)).getD stOK)
  have running : (s.cmd fn slot).phase = .running := by
    simp only [State.inRun, Bool.and_eq_true, beq_iff_eq] at runs
    exact runs.1
  have live : (w.progress (fn, slot)).1.live = true := by
    have same : w.progress = s.progress := by
      rw [hw, State.modCmd_progress _ _ _ _ (fun x => by exact ⟨rfl, rfl⟩), (State.setProgram_changes _ _ _ _).progress, stopped.progress,
        halted.progress]
    rw [same]
    exact Cmd.live_of_running running
  have ends : (w.finishCmd fn slot (((s.program fn g).stop.map (·.status)).getD stOK)).progress (fn, slot) =
      (.finished, ((s.program fn g).stop.map (·.status)).getD stOK) := by
    rw [State.finishCmd_progress]
    exact if_pos ⟨rfl, live⟩
  have left : (w.finishCmd fn slot (((s.program fn g).stop.map (·.status)).getD stOK)).program fn g =
      { s.program fn g with cmd := none, stop := none } := by
    rw [finished.program _ _ (by simp), hw, (State.modCmd_changes _ _ _ _).program _ _ (by simp), State.setProgram_same]
  refine ⟨_, ?_, congrArg Prod.fst ends, congrArg Prod.snd ends, by rw [left], by rw [left], fun k hk => ?_, ?_⟩
  · show execRunComplete fn slot s = _
    unfold execRunComplete
    dsimp only
    rw [program, if_pos (by simpa [runs, stage, mine] using ⟨tiles, atps⟩), hw, hv, hu]
  · rw [finished.tile, freed.tile, stopped.tile, hu]
    exact s.stopTiles_tile _ k hk
  · rw [finished.mem, freed.mem, stopped.mem, halted.mem]

end

/-- Settles O25: an image read at once or asked for, a run that binds and launches, and its end. -/
theorem programsLoadAndRun : Obligations.programsLoadAndRun := by
  refine ⟨fun s b fn slot g a n m take begun program named zeros addr total size => ⟨?_, ?_⟩, fun s b' fn slot g program begun => ⟨?_, ?_⟩⟩
  · exact loadProgram_fromDevice take begun program named zeros addr total size
  · exact loadProgram_fromHost take begun program named zeros addr total size
  · subst begun
    exact fun take => run_launches take program
  · exact fun runs stage => runComplete_replies runs stage program

end Sys2Proof.Machine

/-! ## Runs of a partition's stacks, over any number of blocks (R184 to R186)

`readStack_sound` and `writeStack_sound` speak of a run within one block; here a sound run is read and written whole, block by block. -/

namespace Sys2Proof.Machine
open Sys2Proof

/-! ### A run cut at block boundaries -/

/-- The pieces of a run lie in it, and none is empty. -/
theorem mem_spans {g fuel a n : Nat} {sp : Nat × Nat} (h : sp ∈ spans g fuel a n) (hg : 0 < g) :
    a ≤ sp.1 ∧ 1 ≤ sp.2 ∧ sp.1 + sp.2 ≤ a + n := by
  induction fuel generalizing a n with
  | zero => simp [spans] at h
  | succ fuel ih =>
    have room : a % g < g := Nat.mod_lt _ hg
    unfold spans at h
    split at h
    · simp at h
    · rcases List.mem_cons.1 h with rfl | later
      · dsimp only
        omega
      · have := ih later
        omega

theorem mem_chunks {g fuel a : Nat} {bytes : List Byte} {c : Nat × List Byte} (h : c ∈ chunks g fuel a bytes) (hg : 0 < g) :
    a ≤ c.1 ∧ c.1 < a + bytes.length := by
  induction fuel generalizing a bytes with
  | zero => simp [chunks] at h
  | succ fuel ih =>
    have room : a % g < g := Nat.mod_lt _ hg
    unfold chunks at h
    split at h
    · simp at h
    · next some' =>
      have filled : 0 < bytes.length := List.length_pos_iff.2 (by simpa using some')
      rcases List.mem_cons.1 h with rfl | later
      · dsimp only
        omega
      · have := ih later
        rw [List.length_drop] at this
        omega

theorem BMap.readBytes_append (m : BMap) (a k n : Nat) :
    BMap.readBytes m a (k + n) = BMap.readBytes m a k ++ BMap.readBytes m (a + k) n := by
  induction k generalizing a with
  | zero => simp [BMap.readBytes]
  | succ k ih =>
    rw [show k + 1 + n = (k + n) + 1 by omega, BMap.readBytes, ih, show a + 1 + k = a + (k + 1) by omega]
    rfl

theorem BMap.writeBytes_append (m : BMap) (a : Nat) (xs ys : List Byte) :
    BMap.writeBytes m a (xs ++ ys) = BMap.writeBytes (BMap.writeBytes m a xs) (a + xs.length) ys := by
  induction xs generalizing m a with
  | nil => rfl
  | cons x xs ih =>
    rw [List.cons_append, BMap.writeBytes, ih, List.length_cons, show a + 1 + xs.length = a + (xs.length + 1) by omega]
    rfl

/-- Where the next piece of a run starts, the fuel left still reaches its end. -/
theorem fuel_enough {g fuel a n : Nat} (hg : 0 < g) (enough : a % g + n ≤ (fuel + 1) * g) (more : g - a % g ≤ n) :
    (a + (g - a % g)) % g + (n - (g - a % g)) ≤ fuel * g := by
  have room : a % g < g := Nat.mod_lt _ hg
  have aligned : (a + (g - a % g)) % g = 0 := by
    have : a + (g - a % g) = g * (a / g + 1) := by
      have := Nat.div_add_mod a g
      rw [Nat.mul_add]
      omega
    rw [this, Nat.mul_mod_right]
  rw [aligned, Nat.add_one_mul] at *
  omega

theorem spansOf_enough {g : Nat} (hg : 0 < g) (a n : Nat) : a % g + n ≤ (n / g + 2) * g := by
  have room : a % g < g := Nat.mod_lt _ hg
  have := Nat.div_add_mod n g
  have := Nat.mod_lt n hg
  rw [Nat.add_mul, Nat.mul_comm (n / g)]
  omega

/-- The pieces of a run, read one after the other, are the run. -/
theorem readBytes_spans (m : BMap) {g : Nat} (hg : 0 < g) (fuel a n : Nat) (enough : a % g + n ≤ fuel * g) :
    (spans g fuel a n).flatMap (fun sp => BMap.readBytes m sp.1 sp.2) = BMap.readBytes m a n := by
  induction fuel generalizing a n with
  | zero =>
    obtain rfl : n = 0 := by omega
    rfl
  | succ fuel ih =>
    unfold spans
    split
    · next h => subst h; rfl
    · rw [List.flatMap_cons]
      dsimp only
      rcases Nat.le_total n (g - a % g) with last | more
      · rw [Nat.min_eq_left last, Nat.sub_self]
        cases fuel <;> simp [spans]
      · rw [Nat.min_eq_right more, ih _ _ (fuel_enough hg enough more), ← BMap.readBytes_append, Nat.add_sub_cancel' more]

/-- The pieces of a byte string, written one after the other, are the byte string. -/
theorem writeBytes_chunks {g : Nat} (hg : 0 < g) (fuel a : Nat) (bytes : List Byte) (m : BMap) (enough : a % g + bytes.length ≤ fuel * g) :
    (chunks g fuel a bytes).foldl (fun m c => BMap.writeBytes m c.1 c.2) m = BMap.writeBytes m a bytes := by
  induction fuel generalizing a bytes m with
  | zero =>
    obtain rfl : bytes = [] := List.length_eq_zero_iff.1 (by omega)
    rfl
  | succ fuel ih =>
    unfold chunks
    split
    · next h =>
      obtain rfl := List.isEmpty_iff.1 h
      rfl
    · rw [List.foldl_cons]
      dsimp only
      rcases Nat.le_total bytes.length (g - a % g) with last | more
      · rw [List.take_of_length_le last, List.drop_of_length_le last]
        cases fuel <;> simp [chunks]
      · rw [ih _ _ _ (by rw [List.length_drop]; exact fuel_enough hg enough more)]
        have parts := BMap.writeBytes_append m a (bytes.take (g - a % g)) (bytes.drop (g - a % g))
        rw [List.take_append_drop, List.length_take_of_le more] at parts
        exact parts.symm

/-! ### Accesses that only count at the stacks -/

/-- Two states agree but in the components named, and every stack is in the same mode. -/
structure Metered (changed : List Component) (s t : State) : Prop where
  same : Same changed s t
  modes : ∀ k, (t.stack k).mode = (s.stack k).mode

theorem Metered.refl (l : List Component) (s : State) : Metered l s s := ⟨Same.refl l s, fun _ => rfl⟩

theorem Metered.trans {l : List Component} {s t u : State} (h : Metered l s t) (h' : Metered l t u) : Metered l s u :=
  ⟨h.same.trans h'.same, fun k => (h'.modes k).trans (h.modes k)⟩

theorem Metered.mono {l l' : List Component} {s t : State} (h : Metered l s t) (hl : l ⊆ l') : Metered l' s t := ⟨h.same.mono hl, h.modes⟩

theorem Same.metered {l : List Component} {s t : State} (h : Same l s t) (hl : .hbm ∉ l := by simp) : Metered l s t :=
  ⟨h, fun k => by rw [h.stack k hl]⟩

theorem State.modStack_mode (s : State) (k : Nat) (g : Stack → Stack) (h : ∀ x, (g x).mode = x.mode) (j : Nat) :
    ((s.modStack k g).stack j).mode = (s.stack j).mode := by
  by_cases hj : j = k
  · subst hj
    rw [State.modStack_same, h]
  · rw [State.modStack_other _ _ _ _ hj]

theorem State.activate_metered (s : State) (a : Nat) : Metered [.hbm] s (s.activate a) :=
  ⟨s.activate_changes a, s.modStack_mode _ _ (fun _ => rfl)⟩

theorem State.charge_metered (s : State) (a n : Nat) : Metered [.hbm] s (s.charge a n) :=
  ⟨s.charge_changes a n, s.modStack_mode _ _ (fun _ => rfl)⟩

theorem Metered.soundBlock {l : List Component} {s t : State} (h : Metered l s t) (hl : .blocks ∉ l := by simp) {a : Nat} (sound : s.soundBlock a) :
    t.soundBlock a := by
  obtain ⟨serves, whole, good⟩ := sound
  exact ⟨(h.modes _).trans serves, by rw [h.same.block a hl, whole], by rw [h.same.block a hl, good]⟩

theorem Metered.sound {l : List Component} {s t : State} (h : Metered l s t) (hb : .blocks ∉ l := by simp) (hp : .parts ∉ l := by simp)
    {p a n : Nat} (sound : Sound s p a n) : Sound t p a n := by
  obtain ⟨below, granted, blocks⟩ := sound
  refine ⟨below, ?_, fun i hi inside => ?_⟩
  · unfold State.within at granted ⊢
    rw [h.same.part p hp]
    exact granted
  · rw [h.same.block _ hb, h.modes]
    exact blocks i hi inside

theorem Metered.stackUp {l : List Component} {s t : State} (h : Metered l s t) (k : Nat) : t.stackUp k = s.stackUp k := by
  unfold State.stackUp
  rw [h.modes]

theorem Same.place {l : List Component} {s t : State} (h : Same l s t) (hl : .parts ∉ l) (p a : Nat) : t.place p a = s.place p a := by
  unfold State.place State.page
  rw [h.part p hl]

theorem Metered.stacksServe {l : List Component} {s t : State} (h : Metered l s t) (hl : .parts ∉ l := by simp) (p a n : Nat) :
    t.stacksServe p a n = s.stacksServe p a n := by
  unfold State.stacksServe
  simp only [h.same.place hl, h.stackUp]

theorem State.answers_serve {s : State} {p a n : Nat} (h : s.answers p a n = true) : s.stacksServe p a n = true :=
  (Bool.and_eq_true_iff.1 h).1

/-! ### Reading a sound run -/

theorem Sound.blockAt {s : State} {p a n : Nat} (h : Sound s p a n) {b : Nat} (first : a ≤ b) (last : b < a + n) : s.soundBlock b := by
  obtain ⟨-, -, blocks⟩ := h
  have start : a / 2048 * 2048 + 2048 * (b / 2048 - a / 2048) = b / 2048 * 2048 := by omega
  have this := blocks (b / 2048 - a / 2048) (by omega) (by omega)
  rw [start, show b / 2048 * 2048 / 2 ^ 37 = b / 2 ^ 37 by omega] at this
  unfold State.block at this
  rw [show b / 2048 * 2048 / 2048 = b / 2048 by omega] at this
  exact this

theorem State.senseBlock_metered (s : State) (a n : Nat) (verify : Bool) (cause : Option Nat) (bond : Bool) (h : s.soundBlock a) :
    ∃ t, s.senseBlock a n verify cause bond = (0, 0, t) ∧ Metered [.hbm] s t := by
  obtain ⟨serves, whole, good⟩ := h
  have sensed : Metered [.hbm] s
      (if bond then (if bond then s.activate a else s).charge a (fetchBytes a n verify) else if bond then s.activate a else s) := by
    cases bond
    · exact Metered.refl _ s
    · exact (s.activate_metered a).trans (State.charge_metered _ _ _)
  refine ⟨_, ?_, sensed⟩
  unfold State.senseBlock
  rw [if_neg (by rw [serves]; decide)]
  dsimp only
  rw [sensed.same.block, whole, if_neg (by decide), if_neg (by simp [Block.badFor, good, senseBad])]

/-- One piece of a read: after a failure nothing more is read. -/
def readPiece (verify : Bool) (g : Got) (sp : Nat × Nat) : Got :=
  if g.status ≠ 0 then g
  else
    let r := g.st.senseBlock sp.1 sp.2 verify
    if r.1 ≠ 0 then { g with status := r.1, bad := sp.1, cause := r.2.1, st := r.2.2 }
    else { g with bytes := g.bytes ++ BMap.readBytes r.2.2.mem sp.1 sp.2, st := r.2.2 }

theorem State.readStack_eq (s : State) (a n : Nat) (verify : Bool) :
    s.readStack a n verify = (spansOf blockSize a n).foldl (readPiece verify) { st := s } := rfl

theorem readPieces_sound {s : State} (verify : Bool) (sps : List (Nat × Nat)) (bytes : List Byte) (u : State)
    (sound : ∀ sp ∈ sps, s.soundBlock sp.1) (met : Metered [.hbm] s u) :
    ∃ t, sps.foldl (readPiece verify) { bytes := bytes, st := u } =
      { bytes := bytes ++ sps.flatMap (fun sp => BMap.readBytes s.mem sp.1 sp.2), st := t } ∧ Metered [.hbm] s t := by
  induction sps generalizing bytes u with
  | nil => exact ⟨u, by simp, met⟩
  | cons sp sps ih =>
    obtain ⟨v, sense, next⟩ := u.senseBlock_metered sp.1 sp.2 verify none true (met.soundBlock (by simp) (sound sp (by simp)))
    have reached := met.trans next
    obtain ⟨t, run, met'⟩ := ih (bytes ++ BMap.readBytes s.mem sp.1 sp.2) v (fun x hx => sound x (by simp [hx])) reached
    refine ⟨t, ?_, met'⟩
    have piece : readPiece verify { bytes := bytes, st := u } sp = { bytes := bytes ++ BMap.readBytes s.mem sp.1 sp.2, st := v } := by
      unfold readPiece
      rw [if_neg (by simp), sense]
      dsimp only
      rw [if_neg (by simp), reached.same.mem]
    rw [List.foldl_cons, piece, run, List.flatMap_cons, List.append_assoc]

/-- Reading a sound run of any length finds its bytes, and counts on its stacks only. -/
theorem State.readStack_run (s : State) (a n : Nat) (verify : Bool) (h : ∀ b, a ≤ b → b < a + n → s.soundBlock b) :
    ∃ t, s.readStack a n verify = { bytes := BMap.readBytes s.mem a n, st := t } ∧ Metered [.hbm] s t := by
  obtain ⟨t, run, met⟩ := readPieces_sound verify (spansOf blockSize a n) [] s (fun sp hsp => by
    obtain ⟨after, some', within⟩ := mem_spans hsp (by decide)
    exact h sp.1 after (by omega)) (Metered.refl _ s)
  refine ⟨t, (s.readStack_eq a n verify).trans (run.trans ?_), met⟩
  rw [List.nil_append, spansOf, readBytes_spans _ (by decide) _ _ _ (spansOf_enough (by decide) a n)]

/-! ### Writing a sound run -/

/-- A sound block changes as asked, and every sound block stays sound. -/
theorem State.changeBlock_keeps (s : State) (a n cause : Nat) (whole : Bool) (f : List Byte → List Byte × BitVec 6) (bond : Bool)
    (h : s.soundBlock a) : ∃ t, s.changeBlock a n cause whole f bond = (0, 0, (f (BMap.readBytes s.mem a n)).2, t) ∧
      t.mem = BMap.writeBytes s.mem a (f (BMap.readBytes s.mem a n)).1 ∧ Metered [.hbm, .mem, .blocks] s t ∧
      ∀ b, s.soundBlock b → t.soundBlock b := by
  obtain ⟨v, begun, counted⟩ : ∃ v, (if whole && n == 2048 then (0, 0, s.activate a) else s.senseBlock a n true (some cause) bond) = (0, 0, v) ∧
      Metered [.hbm] s v := by
    split
    · exact ⟨_, rfl, s.activate_metered a⟩
    · exact s.senseBlock_metered a n true (some cause) bond h
  obtain ⟨w, hw, charged⟩ : ∃ w, (if bond then v.charge a 2048 else v) = w ∧ Metered [.hbm] s w := by
    refine ⟨_, rfl, ?_⟩
    split
    · exact counted.trans (v.charge_metered a 2048)
    · exact counted
  have mem : w.mem = s.mem := charged.same.mem
  have changed : Same [.mem, .blocks] w
      (({ w with mem := BMap.writeBytes w.mem a (f (BMap.readBytes w.mem a n)).1 }).setBlock a {}) :=
    ⟨fun c hc => by cases c <;> simp at hc <;> rfl⟩
  refine ⟨({ w with mem := BMap.writeBytes w.mem a (f (BMap.readBytes w.mem a n)).1 }).setBlock a {}, ?_, ?_,
    (charged.mono (by simp)).trans (changed.metered.mono (by simp)), fun b hb => ?_⟩
  · unfold State.changeBlock
    rw [if_neg (by rw [h.1]; decide)]
    dsimp only
    rw [begun]
    dsimp only
    rw [if_neg (by simp), hw, mem]
  · rw [mem]
    rfl
  · obtain ⟨serves, whole', good⟩ := charged.soundBlock (by simp) hb
    refine ⟨serves, ?_⟩
    by_cases same : b / 2048 = a / 2048
    · have fresh : (({ w with mem := BMap.writeBytes w.mem a (f (BMap.readBytes w.mem a n)).1 } : State).setBlock a {}).block b = {} := by
        unfold State.block State.setBlock
        rw [same, Tbl.get_set_same]
      rw [fresh]
      exact ⟨rfl, rfl⟩
    · rw [State.setBlock_other _ _ _ _ same]
      exact ⟨whole', good⟩

/-- One piece of a write: the first failure is kept, and the others are written all the same. -/
def writePiece (g : Got) (c : Nat × List Byte) : Got :=
  let r := g.st.changeBlock c.1 c.2.length 4 true (fun _ => (c.2, 0))
  if r.1 ≠ 0 && g.status = 0 then { g with status := r.1, bad := c.1, cause := r.2.1, st := r.2.2.2 }
  else { g with st := r.2.2.2 }

theorem State.writeStack_eq (s : State) (a : Nat) (bytes : List Byte) :
    s.writeStack a bytes = (chunksOf blockSize a bytes).foldl writePiece { st := s } := rfl

theorem writePieces_sound (cs : List (Nat × List Byte)) (u : State) (sound : ∀ c ∈ cs, u.soundBlock c.1) :
    ∃ t, cs.foldl writePiece { st := u } = { st := t } ∧ t.mem = cs.foldl (fun m c => BMap.writeBytes m c.1 c.2) u.mem ∧
      Metered [.hbm, .mem, .blocks] u t := by
  induction cs generalizing u with
  | nil => exact ⟨u, rfl, rfl, Metered.refl _ u⟩
  | cons c cs ih =>
    obtain ⟨v, change, mem, met, keeps⟩ := u.changeBlock_keeps c.1 c.2.length 4 true (fun _ => (c.2, 0)) true (sound c (by simp))
    obtain ⟨t, run, written, met'⟩ := ih v (fun x hx => keeps _ (sound x (by simp [hx])))
    have piece : writePiece { st := u } c = { st := v } := by
      unfold writePiece
      rw [change]
      rfl
    exact ⟨t, by rw [List.foldl_cons, piece, run], by rw [written, mem]; rfl, met.trans met'⟩

/-- Writing a sound run of any length puts its bytes in place. -/
theorem State.writeStack_run (s : State) (a : Nat) (bytes : List Byte) (h : ∀ b, a ≤ b → b < a + bytes.length → s.soundBlock b) :
    ∃ t, s.writeStack a bytes = { st := t } ∧ t.mem = BMap.writeBytes s.mem a bytes ∧ Metered [.hbm, .mem, .blocks] s t := by
  obtain ⟨t, run, mem, met⟩ := writePieces_sound (chunksOf blockSize a bytes) s (fun c hc => by
    obtain ⟨after, before⟩ := mem_chunks hc (by decide)
    exact h c.1 after before)
  exact ⟨t, (s.writeStack_eq a bytes).trans run,
    mem.trans (writeBytes_chunks (by decide) _ _ _ _ (spansOf_enough (by decide) a bytes.length)), met⟩

end Sys2Proof.Machine

/-! ## Jobs of an attention pipeline: reading inputs and writing outputs (R140, R142, R163) -/

namespace Sys2Proof.Machine
open Sys2Proof

/-! ### Runs of this module's stacks -/

/-- Runs of engine addresses that name this module's stacks and lie in sound blocks. -/
def SoundRuns (s : State) (p : Nat) (rs : List (Nat × Nat)) : Prop := ∀ r ∈ rs, engineAddr r.1 = .dev r.1 ∧ 1 ≤ r.2 ∧ Sound s p r.1 r.2

theorem SoundRuns.of_reads {s : State} {p : Nat} {rs : List (Nat × Nat)} (h : Reads s p rs) : SoundRuns s p rs := fun r hr => by
  obtain ⟨dev, some', sound, -⟩ := h r hr
  exact ⟨dev, some', sound⟩

theorem jobMay_of_reads {s : State} {p : Nat} {rs : List (Nat × Nat)} (h : Reads s p rs) : s.jobMay p rs false = true :=
  List.all_eq_true.2 (fun r hr => by
    obtain ⟨-, -, -, answers⟩ := h r hr
    exact answers)

theorem jobMay_follows {l : List Component} {s t : State} {p : Nat} {rs : List (Nat × Nat)} (h : Reads s p rs) (met : Metered l s t)
    (hl : .parts ∉ l := by simp) : t.jobMay p rs true = true :=
  List.all_eq_true.2 (fun r hr => by
    obtain ⟨-, -, -, answers⟩ := h r hr
    exact (met.stacksServe hl p r.1 r.2).trans (State.answers_serve answers))

theorem Metered.soundRuns {l : List Component} {s t : State} (met : Metered l s t) (hb : .blocks ∉ l := by simp) (hp : .parts ∉ l := by simp)
    {p : Nat} {rs : List (Nat × Nat)} (h : SoundRuns s p rs) : SoundRuns t p rs := fun r hr => by
  obtain ⟨dev, some', sound⟩ := h r hr
  exact ⟨dev, some', met.sound hb hp sound⟩

section
variable {s : State} {p : Nat} {rs : List (Nat × Nat)}

theorem hostRun_dev {a b : Nat} (h : engineAddr a = .dev b) : hostRun a = false := by simp [hostRun, h]

theorem State.localAddr_dev (s : State) {a b : Nat} (h : engineAddr a = .dev b) : s.localAddr a = some b := by simp [State.localAddr, h]

theorem State.runStatus_sound {a n : Nat} (dev : engineAddr a = .dev a) (sound : Sound s p a n) : s.runStatus p a n = 0 := by
  obtain ⟨-, granted, -⟩ := sound
  simp [State.runStatus, dev, granted]

theorem SoundRuns.noHost (h : SoundRuns s p rs) : rs.find? (fun r => hostRun r.1) = none :=
  List.find?_eq_none.2 (fun r hr => by
    obtain ⟨dev, -, -⟩ := h r hr
    simp [hostRun_dev dev])

theorem SoundRuns.notDenied (h : SoundRuns s p rs) : s.firstDenied p rs = none :=
  List.find?_eq_none.2 (fun x hx => by
    obtain ⟨r, hr, rfl⟩ := List.mem_map.1 hx
    obtain ⟨dev, -, sound⟩ := h r hr
    simp [State.runStatus_sound dev sound])

theorem SoundRuns.localRuns (h : SoundRuns s p rs) : s.localRuns rs = rs := by
  unfold State.localRuns
  have same : ∀ r ∈ rs, (s.localAddr r.1).map (fun a => (a, r.2)) = some r := fun r hr => by
    obtain ⟨dev, -, -⟩ := h r hr
    rw [s.localAddr_dev dev]
    rfl
  rw [List.filterMap_congr same]
  exact List.filterMap_some

theorem SoundRuns.noneAway (h : SoundRuns s p rs) : rs.filter (fun r => (s.localAddr r.1).isNone) = [] :=
  List.filter_eq_nil_iff.2 (fun r hr => by
    obtain ⟨dev, -, -⟩ := h r hr
    simp [s.localAddr_dev dev])

theorem SoundRuns.noTier (h : SoundRuns s p rs) : tierNeeds rs = [] := by
  unfold tierNeeds
  have none' : rs.flatMap (fun r => if isTiered r.1 then spansOf pageSize r.1 r.2 else []) = [] :=
    List.flatMap_eq_nil_iff.2 (fun r hr => by
      obtain ⟨-, some', sound⟩ := h r hr
      have below := sound.below some'
      rw [if_neg (by simp [isTiered]; omega)])
  rw [none']
  rfl

end

theorem State.askTier_none (s : State) (p : Nat) {rs : List (Nat × Nat)} (kind : TierKind) (o : Owner) (h : tierNeeds rs = []) :
    s.askTier p rs kind o = (true, s) := by
  unfold State.askTier
  rw [h]
  rfl

/-! ### The one job with a number -/

section
variable {s : State} {n id : Nat} {j : Job}

theorem OnlyJob.eq_of_mem (h : OnlyJob s n id j) {x : Job} (hx : x ∈ (s.atp n).active) (same : x.id = id) : x = j := by
  have found : x ∈ (s.atp n).active.filter (fun x => x.id == id) := List.mem_filter.2 ⟨hx, by simp [same]⟩
  rw [h.2] at found
  exact List.mem_singleton.1 found

theorem OnlyJob.job_eq (h : OnlyJob s n id j) : s.job n id = j := by
  unfold State.job
  rw [← List.head?_filter, h.2]
  rfl

theorem OnlyJob.listed (h : OnlyJob s n id j) : (s.atp n).active.any (fun x => x.id == id) = true := by
  have mem : j ∈ (s.atp n).active.filter (fun x => x.id == id) := by rw [h.2]; exact List.mem_singleton_self j
  obtain ⟨there, named⟩ := List.mem_filter.1 mem
  exact List.any_eq_true.2 ⟨j, there, named⟩

theorem State.modJob_atp (s : State) (n id : Nat) (g : Job → Job) :
    (s.modJob n id g).atp n = { s.atp n with active := (s.atp n).active.map (fun j => if j.id = id then g j else j) } := State.modAtp_same _ _ _

theorem State.modJob_changes (s : State) (n id : Nat) (g : Job → Job) : Same [.atps] s (s.modJob n id g) := s.modAtp_changes n _

/-- A change of the only job with a number, which keeps its number, leaves the changed job the only one. -/
theorem OnlyJob.mod (h : OnlyJob s n id j) (g : Job → Job) (named : (g j).id = id) : OnlyJob (s.modJob n id g) n id (g j) := by
  refine ⟨named, ?_⟩
  have numbers : ∀ x ∈ (s.atp n).active, ((fun x : Job => x.id == id) ∘ fun x => if x.id = id then g x else x) x = (x.id == id) := by
    intro x hx
    by_cases same : x.id = id
    · obtain rfl := h.eq_of_mem hx same
      simp [same, named]
    · simp [same]
  rw [State.modJob_atp, List.filter_map, List.filter_congr numbers, h.2]
  simp [h.1]

theorem OnlyJob.map_self (h : OnlyJob s n id j) (g : Job → Job) (fixed : g j = j) :
    (s.atp n).active.map (fun x => if x.id = id then g x else x) = (s.atp n).active := by
  refine (List.map_congr_left (fun x hx => ?_)).trans (List.map_id _)
  by_cases same : x.id = id
  · rw [if_pos same, h.eq_of_mem hx same, fixed]
    rfl
  · rw [if_neg same]
    rfl

end

/-! ### Reading what a job needs -/

/-- A state reached by reads of a job: stacks have counted, and every pipeline is as before. -/
structure Fetched (s t : State) : Prop where
  met : Metered [.atps, .hbm] s t
  atp : ∀ m, t.atp m = s.atp m

theorem Fetched.trans {s t u : State} (h : Fetched s t) (h' : Fetched t u) : Fetched s u :=
  ⟨h.met.trans h'.met, fun m => (h'.atp m).trans (h.atp m)⟩

theorem Fetched.of_metered {s t : State} (h : Metered [.hbm] s t) : Fetched s t := ⟨h.mono (by simp), fun m => h.same.atp m⟩

theorem Fetched.onlyJob {s t : State} (h : Fetched s t) {n id : Nat} {j : Job} (only : OnlyJob s n id j) : OnlyJob t n id j :=
  ⟨only.1, by rw [h.atp]; exact only.2⟩

theorem Fetched.atpPart {s t : State} (h : Fetched s t) (n : Nat) : t.atpPart n = s.atpPart n := by
  unfold State.atpPart
  rw [h.atp]

theorem State.answers_congr {l : List Component} {s t : State} (h : Same l s t) (hp : .parts ∉ l := by simp) (hs : .hbm ∉ l := by simp)
    (hd : .dies ∉ l := by simp) (ht : .time ∉ l := by simp) (p a n : Nat) : t.answers p a n = s.answers p a n := by
  have now : t.now = s.now := by unfold State.now; rw [show t.time = s.time from h.agrees .time ht]
  have bucket : ∀ k q, t.bucketNow k q = s.bucketNow k q := fun k q => by
    unfold State.bucketNow State.fillShare
    rw [h.stack k hs, h.part q hp, h.die _ hd, now]
  have owner : ∀ k, t.stackOwner k = s.stackOwner k := fun k => by
    unfold State.stackOwner
    simp only [h.part _ hp]
  unfold State.answers
  simp only [(h.metered hs).stacksServe hp, h.place hp, h.stack _ hs, bucket, owner]

theorem State.jobMay_congr {l : List Component} {s t : State} (h : Same l s t) (hp : .parts ∉ l := by simp) (hs : .hbm ∉ l := by simp)
    (hd : .dies ∉ l := by simp) (ht : .time ∉ l := by simp) (p : Nat) (rs : List (Nat × Nat)) (follows : Bool) :
    t.jobMay p rs follows = s.jobMay p rs follows := by
  unfold State.jobMay
  simp only [(h.metered hs).stacksServe hp, State.answers_congr h hp hs hd ht]

theorem Same.reads {l : List Component} {s t : State} (h : Same l s t) {p : Nat} {rs : List (Nat × Nat)} (reads : Reads s p rs)
    (hb : .blocks ∉ l := by simp) (hp : .parts ∉ l := by simp) (hs : .hbm ∉ l := by simp) (hd : .dies ∉ l := by simp)
    (ht : .time ∉ l := by simp) : Reads t p rs := fun r hr => by
  obtain ⟨dev, some', sound, answers⟩ := reads r hr
  exact ⟨dev, some', (h.metered hs).sound hb hp sound, (State.answers_congr h hp hs hd ht p r.1 r.2).trans answers⟩

/-- Counting a job's access to the stacks changes nothing: only tiered pages are counted (R237). -/
theorem State.countJob_untiered {s : State} {n id : Nat} {j : Job} (only : OnlyJob s n id j) {rs : List (Nat × Nat)} (h : tierNeeds rs = []) :
    Same [.atps] s (s.countJob n id rs) ∧ ∀ m, (s.countJob n id rs).atp m = s.atp m := by
  have counted : s.countJob n id rs = s.modJob n id (fun x => { x with counted := j.counted ++ [] }) := by
    unfold State.countJob
    rw [h, only.job_eq]
    rfl
  rw [counted]
  refine ⟨State.modJob_changes _ _ _ _, fun m => ?_⟩
  by_cases hm : m = n
  · subst hm
    rw [State.modJob_atp, only.map_self _ (by rw [List.append_nil])]
  · exact State.modAtp_other _ _ _ _ hm

/-- One run that a job reads. -/
def needPiece (p : Nat) (buf : BMap) (g : Need) (r : Nat × Nat) : Need :=
  if g.status ≠ 0 then g
  else
    let x := g.st.gather p [r] true buf
    if x.status ≠ 0 then { g with status := x.status, bad := x.bad, st := x.st, ready := false }
    else { g with mem := BMap.writeBytes g.mem r.1 x.bytes, st := x.st }

theorem State.readDev_sound {s : State} {p a n : Nat} (verify : Bool) (some' : 1 ≤ n) (sound : Sound s p a n) :
    ∃ t, s.readDev p a n verify = { bytes := BMap.readBytes s.mem a n, st := t } ∧ Metered [.hbm] s t := by
  unfold State.readDev
  rw [if_pos (sound.below some')]
  exact s.readStack_run a n verify (fun _ => sound.blockAt)

theorem State.gather_sound {s : State} {p : Nat} {r : Nat × Nat} (verify : Bool) (buf : BMap) (dev : engineAddr r.1 = .dev r.1) (some' : 1 ≤ r.2)
    (sound : Sound s p r.1 r.2) : ∃ t, s.gather p [r] verify buf = { bytes := BMap.readBytes s.mem r.1 r.2, st := t } ∧ Metered [.hbm] s t := by
  obtain ⟨t, read, met⟩ := State.readDev_sound verify some' sound
  refine ⟨t, ?_, met⟩
  unfold State.gather
  rw [List.foldl_cons, if_neg (by simp)]
  dsimp only
  rw [s.localAddr_dev dev]
  dsimp only
  rw [read]
  rfl

theorem needPieces_sound {s : State} {p : Nat} (buf : BMap) (rs : List (Nat × Nat)) (sound : SoundRuns s p rs) (m : BMap) (u : State)
    (met : Metered [.hbm] s u) :
    ∃ t, rs.foldl (needPiece p buf) { ready := true, mem := m, st := u } =
      { ready := true, mem := rs.foldl (fun m r => BMap.writeBytes m r.1 (BMap.readBytes s.mem r.1 r.2)) m, st := t } ∧ Metered [.hbm] s t := by
  induction rs generalizing m u with
  | nil => exact ⟨u, rfl, met⟩
  | cons r rs ih =>
    obtain ⟨dev, some', whole⟩ := sound r (by simp)
    obtain ⟨v, read, next⟩ := State.gather_sound true buf dev some' (met.sound (by simp) (by simp) whole)
    obtain ⟨t, run, met'⟩ := ih (fun x hx => sound x (by simp [hx])) (BMap.writeBytes m r.1 (BMap.readBytes s.mem r.1 r.2)) v (met.trans next)
    refine ⟨t, ?_, met'⟩
    have piece : needPiece p buf { ready := true, mem := m, st := u } r =
        { ready := true, mem := BMap.writeBytes m r.1 (BMap.readBytes s.mem r.1 r.2), st := v } := by
      unfold needPiece
      rw [if_neg (by simp), read]
      dsimp only
      rw [if_neg (by simp), met.same.mem]
    rw [List.foldl_cons, piece, run]
    rfl

/-- A job that awaits nothing reads sound runs at once. -/
theorem State.need_sound {s : State} {n id p : Nat} {j : Job} {rs : List (Nat × Nat)} {follows : Bool} (only : OnlyJob s n id j) (waits : j.waits = 0)
    (part : s.atpPart n = p) (sound : SoundRuns s p rs) (may : s.jobMay p rs follows = true) :
    ∃ t, s.need n id rs follows = { ready := true, mem := s.bytesAt rs, st := t } ∧ Fetched s t := by
  obtain ⟨same, atps⟩ := State.countJob_untiered only sound.noTier
  have counted : Fetched s (s.countJob n id rs) := ⟨same.metered.mono (by simp), atps⟩
  have mem : (s.countJob n id rs).mem = s.mem := same.mem
  obtain ⟨t, run, met⟩ := needPieces_sound j.buf rs (counted.met.soundRuns (by simp) (by simp) sound) [] _ (Metered.refl _ _)
  refine ⟨t, ?_, counted.trans (Fetched.of_metered met)⟩
  unfold State.need
  dsimp only
  rw [sound.noHost, part]
  dsimp only
  rw [sound.notDenied]
  dsimp only
  rw [sound.noneAway, sound.localRuns, only.job_eq, if_neg (by simp), if_neg (by simp [waits]), State.askTier_none _ _ _ _ sound.noTier]
  dsimp only
  rw [mem] at run
  rw [if_neg (by simp [State.jobMay_congr same, may])]
  exact run

/-- What follows a read of sound runs goes on with their bytes. -/
theorem State.need_andThen {s : State} {n id p : Nat} {j : Job} {rs : List (Nat × Nat)} {follows : Bool} (only : OnlyJob s n id j)
    (waits : j.waits = 0) (part : s.atpPart n = p) (sound : SoundRuns s p rs) (may : s.jobMay p rs follows = true) :
    ∃ t, Fetched s t ∧ ∀ record k, (s.need n id rs follows).andThen n record k = k (s.bytesAt rs) t := by
  obtain ⟨t, need, fetched⟩ := State.need_sound only waits part sound may
  refine ⟨t, fetched, fun record k => ?_⟩
  rw [need]
  rfl

theorem State.bytesAt_congr {s t : State} (h : t.mem = s.mem) (rs : List (Nat × Nat)) : t.bytesAt rs = s.bytesAt rs := by
  unfold State.bytesAt
  rw [h]

/-- A second read of a job, in the same step as the first, finds what the state before the first held. -/
theorem Fetched.need_andThen {s t : State} (fetched : Fetched s t) {n id p : Nat} {j : Job} {rs : List (Nat × Nat)} (only : OnlyJob s n id j)
    (waits : j.waits = 0) (part : s.atpPart n = p) (reads : Reads s p rs) :
    ∃ u, Fetched s u ∧ ∀ record k, (t.need n id rs true).andThen n record k = k (s.bytesAt rs) u := by
  obtain ⟨u, more, run⟩ := State.need_andThen (fetched.onlyJob only) waits ((fetched.atpPart n).trans part)
    (fetched.met.soundRuns (by simp) (by simp) (SoundRuns.of_reads reads)) (jobMay_follows reads fetched.met)
  exact ⟨u, fetched.trans more, fun record k => by rw [run, State.bytesAt_congr fetched.met.same.mem]⟩

/-! ### Writing a job's outputs -/

/-- A job that has finalised. -/
def Job.ended (j : Job) : Job := { j with stage := .finalised, rows := [], inputs := [], asked := [], buf := [] }

theorem readBytes_written {m m' : BMap} {a : Nat} {bs : List Byte} (h : m' = BMap.writeBytes m a bs) : BMap.readBytes m' a bs.length = bs := by
  rw [h, BMap.readBytes_writeBytes]

theorem onlyWrites_of_writeBytes {s t : State} {a : Nat} {bs : List Byte} (h : t.mem = BMap.writeBytes s.mem a bs) : OnlyWrites s t a bs.length :=
  fun c outside => by rw [h, BMap.read_writeBytes_outside _ _ _ _ outside]

theorem State.putRun_sound {s : State} {p a : Nat} {bytes : List Byte} (o : Owner) (dev : engineAddr a = .dev a) (some' : 1 ≤ bytes.length)
    (sound : Sound s p a bytes.length) :
    ∃ t, s.putRun p o a bytes = { st := t } ∧ t.mem = BMap.writeBytes s.mem a bytes ∧ Metered [.hbm, .mem, .blocks] s t := by
  unfold State.putRun
  rw [s.localAddr_dev dev]
  dsimp only
  unfold State.writeDev
  rw [if_pos (sound.below some')]
  exact s.writeStack_run a bytes (fun _ => sound.blockAt)

/-- An operation that succeeds after others that did. -/
theorem Got.andThen_done {s t : State} {f : State → Got} (h : f s = { st := t }) : ({ st := s } : Got).andThen f = { st := t } := by
  simp [Got.andThen, h]

/-- A job before which all have finalised writes its one run of output at once, and finalises. -/
theorem State.writeOut_writes {s : State} {n id p a b : Nat} {j : Job} {out : OutRuns} {follows : Bool} (only : OnlyJob s n id j)
    (oldest : (s.atp n).isOldest id = true) (part : s.atpPart n = p) (one : (joinRuns out.1).map (fun x => (x.1, x.2.length)) = [(a, b)])
    (sound : SoundRuns s p [(a, b)]) (may : s.jobMay p [(a, b)] follows = true) :
    ∃ t, s.writeOut n id out follows = t ∧ BMap.readBytes t.mem a b = (joinRuns out.1).flatMap (·.2) ∧ OnlyWrites s t a b ∧
      t.atp n = { (s.atp n).raise out.2 with active := (s.atp n).active.map (fun x => if x.id = id then x.ended else x) } := by
  obtain ⟨bytes, joined, rfl⟩ : ∃ bytes, joinRuns out.1 = [(a, bytes)] ∧ bytes.length = b := by
    match joinRuns out.1, one with
    | [(_, bytes)], one =>
      simp only [List.map_cons, List.map_nil, List.cons.injEq, Prod.mk.injEq, and_true] at one
      exact ⟨bytes, by rw [one.1], one.2⟩
  obtain ⟨same, atps⟩ := State.countJob_untiered only sound.noTier
  obtain ⟨dev, some', whole⟩ := sound (a, bytes.length) (by simp)
  have raised : Metered [.atps] s ((s.countJob n id [(a, bytes.length)]).modAtp n (fun x => x.raise out.2)) :=
    (same.trans (State.modAtp_changes _ _ _)).metered
  obtain ⟨t, put, mem, met⟩ := State.putRun_sound (.atp n id) dev some' (raised.sound (by simp) (by simp) whole)
  have written : t.mem = BMap.writeBytes s.mem a bytes := mem.trans (by rw [raised.same.mem])
  have ended : Same [.atps, .grants] t ((t.modJob n id Job.ended).endGrants (.atp n id)) :=
    ((State.modJob_changes _ _ _ _).mono (by simp)).trans ((State.endGrants_changes _ _).mono (by simp))
  have final : ((t.modJob n id Job.ended).endGrants (.atp n id)).mem = BMap.writeBytes s.mem a bytes := ended.mem.trans written
  refine ⟨(t.modJob n id Job.ended).endGrants (.atp n id), ?_, ?_, onlyWrites_of_writeBytes final, ?_⟩
  · unfold State.writeOut
    dsimp only
    rw [joined, part, oldest]
    simp only [List.map_cons, List.map_nil, List.find?_cons, List.find?_nil, hostRun_dev dev]
    rw [if_neg (by simp), sound.notDenied]
    dsimp only
    rw [sound.localRuns, State.askTier_none _ _ _ _ sound.noTier]
    dsimp only
    rw [if_neg (by simp [State.jobMay_congr same, may]), List.foldl_cons, List.foldl_nil]
    rw [Got.andThen_done put]
    rfl
  · rw [joined]
    simpa using readBytes_written final
  · rw [(State.endGrants_changes _ _).atp, State.modJob_atp, met.same.atp, State.modAtp_same, atps]
    rfl

end Sys2Proof.Machine

/-! ## O36: job records (R140, R142, R143, R161) -/

namespace Sys2Proof.Machine
open Sys2Proof

/-! ### A pipeline at a record -/

section
variable {s : State} {n kind : Nat} {r : JobRec}

/-- No job is in the first stage of a pipeline that has room for one. -/
theorem Atp.first_of_hasRoom {a : Atp} (room : a.hasRoom = true) (kind : Nat) : a.first kind = none := by
  unfold Atp.hasRoom at room
  obtain ⟨outside, -⟩ := Bool.and_eq_true_iff.1 room
  refine List.find?_eq_none.2 (fun j hj => ?_)
  have := List.all_eq_true.1 outside j hj
  simp only [Bool.not_eq_true'] at this
  simp [this]

theorem AtJob.first (here : AtJob s n kind r) (k : Nat) : (s.atp n).first k = none := by
  obtain ⟨-, -, -, -, -, -, -, -, -, room, -⟩ := here
  exact Atp.first_of_hasRoom room k

theorem AtJob.fresh (here : AtJob s n kind r) : ∀ j ∈ (s.atp n).active, j.id ≠ (s.atp n).nextJob := by
  obtain ⟨-, -, -, -, -, -, -, -, -, -, fresh⟩ := here
  exact fresh

theorem AtJob.atRecord (here : AtJob s n kind r) (small : kind < 5) (body : JobRec → State → State) : s.atRecord n kind body = body r s := by
  obtain ⟨hn, running, goes, stopping, pc, record, isKind, formed, -, -, -⟩ := here
  unfold State.atRecord
  dsimp only
  rw [record, if_neg (by simp [running, goes, stopping]; omega), if_neg (by omega), if_neg (by simp [isKind]), if_neg (by simp [formed])]

theorem AtJob.tryStart (here : AtJob s n kind r) : s.tryStart n r = s.startJob n := by
  obtain ⟨-, -, -, -, -, -, -, -, gate, room, -⟩ := here
  unfold State.tryStart
  rw [if_neg (by simp [room]), if_pos gate]

end

/-! ### The job that starts -/

/-- The pipeline with the job at its position taken in, and gone on behind it (R140). -/
def State.withNewJob (s : State) (n : Nat) (r : JobRec) : State :=
  s.setAtp n { s.atp n with
    active := (s.atp n).active ++ [s.newJob n r], nextJob := (s.atp n).nextJob + 1
    loops := (stepLoops (s.atp n).pc (s.atp n).loops.reverse).1.reverse, pc := (stepLoops (s.atp n).pc (s.atp n).loops.reverse).2
    gateFrom := none, gateAsked := false, gateWaits := 0, gateBuf := [], gated := false }

section
variable {s : State} {n : Nat} {r : JobRec}

theorem State.withNewJob_changes (s : State) (n : Nat) (r : JobRec) : Same [.atps] s (s.withNewJob n r) := s.setAtp_changes n _

theorem State.withNewJob_part (s : State) (n : Nat) (r : JobRec) : (s.withNewJob n r).atpPart n = s.atpPart n := by
  unfold State.atpPart State.withNewJob
  rw [State.setAtp_same]

theorem State.withNewJob_active (s : State) (n : Nat) (r : JobRec) : ((s.withNewJob n r).atp n).active = (s.atp n).active ++ [s.newJob n r] := by
  unfold State.withNewJob
  rw [State.setAtp_same]

theorem State.withNewJob_pc (s : State) (n : Nat) (r : JobRec) :
    ((s.withNewJob n r).atp n).pc = (stepLoops (s.atp n).pc (s.atp n).loops.reverse).2 := by
  unfold State.withNewJob
  rw [State.setAtp_same]

theorem State.withNewJob_record (s : State) (n : Nat) (r : JobRec) (i : Nat) : ((s.withNewJob n r).atp n).jobRec i = (s.atp n).jobRec i := by
  unfold State.withNewJob
  rw [State.setAtp_same]
  rfl

theorem State.withNewJob_only (fresh : ∀ j ∈ (s.atp n).active, j.id ≠ (s.atp n).nextJob) :
    OnlyJob (s.withNewJob n r) n (s.atp n).nextJob (s.newJob n r) := by
  refine ⟨rfl, ?_⟩
  rw [s.withNewJob_active, List.filter_append, List.filter_eq_nil_iff.2 (fun j hj => by simpa using fresh j hj)]
  simp [State.newJob]

/-- A job whose context its record names rightly starts, and begins to read its inputs. -/
theorem State.startJob_prepares (record : (s.atp n).jobRec (s.atp n).pc = r)
    (context : (r.kind = 0 ∧ r.dense = false) ∨ r.kind = 1 → s.jobCtx (s.atpPart n) r = 0) :
    s.startJob n = (s.withNewJob n r).prepareJob n (s.atp n).nextJob := by
  unfold State.startJob
  dsimp only
  rw [record, if_neg]
  · rfl
  · split
    · next named => simpa using context (by simpa using named)
    · simp

theorem State.prepareJob_new (record : (s.atp n).jobRec (s.atp n).pc = r) (fresh : ∀ j ∈ (s.atp n).active, j.id ≠ (s.atp n).nextJob) :
    (s.withNewJob n r).prepareJob n (s.atp n).nextJob =
      (if r.kind = 0 then (s.withNewJob n r).prepareAttend n (s.atp n).nextJob r (s.newJob n r)
      else if r.kind = 1 then (s.withNewJob n r).prepareAppend n (s.atp n).nextJob r (s.newJob n r)
      else (s.withNewJob n r).runCombine n (s.atp n).nextJob r (s.newJob n r)) := by
  have record' : ((s.withNewJob n r).atp n).jobRec (s.newJob n r).record = r := (s.withNewJob_record n r _).trans record
  unfold State.prepareJob
  rw [(State.withNewJob_only fresh).job_eq]
  dsimp only
  rw [record', if_neg (by simp [State.newJob])]

/-- A change of the new job alone. -/
theorem map_new_job {xs : List Job} {id : Nat} (fresh : ∀ j ∈ xs, j.id ≠ id) (x : Job) (named : x.id = id) (g : Job → Job) :
    (xs ++ [x]).map (fun j => if j.id = id then g j else j) = xs ++ [g x] := by
  rw [List.map_append, List.map_congr_left (g := fun j => j) (fun j hj => if_neg (fresh j hj)), List.map_id']
  simp [named]

end

/-! ### Inputs read -/

/-- What the descriptors of an ATTEND must give (R142, R143). -/
structure AttendViews (r : JobRec) (m : BMap) (indices : List Nat) (q o : View) : Prop where
  query : atpView m r.qDesc indices = some q
  output : atpView m r.oDesc indices = some o
  queryForm : (q.fmt = 0 ∧ q.bs = 32 ∧ q.sd = 0 ∧ r.rope = 0) ∨ q.fmt = 4 ∨ q.fmt = 6
  queryShape : q.shaped [r.dh, r.rows] = true
  outputForm : o.fmt = 4 ∨ o.fmt = 6
  outputShape : o.shaped [r.dh, r.rows] = true
  keys : r.dense = true → ∀ w ∈ [r.kDesc, r.vDesc], (atpView m w indices).any (fun x =>
    (x.fmt == 0xA || x.fmt == 0xB) && x.ext.getD 0 0 == r.dh && decide (r.kFirst + r.kCount ≤ x.ext.getD 1 0) && (x.ext.drop 2).all (· == 1)) = true

/-- The descriptors that an ATTEND names. -/
def JobRec.attendDescs (r : JobRec) : List (Nat × Nat) := ([r.qDesc, r.oDesc] ++ (if r.dense then [r.kDesc, r.vDesc] else [])).map (fun w => (w, 64))

/-- What an ATTEND has read when it starts (R142). -/
def JobRec.attendRuns (r : JobRec) (q : View) : List (Nat × Nat) :=
  r.attendDescs ++ q.spans ++ [(r.rowMeta, 8 * r.rows)] ++ (if r.rope = 0 then [] else [(r.freq, 2 * r.ropeDims)])

/-- BF16 and FP32 are the formats of rows and outputs (R143). -/
theorem wideForm {x : View} (h : x.fmt = 4 ∨ x.fmt = 6) : (x.fmt == 4 || x.fmt == 6) = true := by simpa using h

/-- A job with its inputs read. -/
def Job.holding (j : Job) (inputs : BMap) (stage : JobStage) : Job := { j with inputs := inputs, stage := stage, asked := [], buf := [] }

section
variable {s : State} {n id p : Nat} {r : JobRec} {j : Job}

theorem State.prepareAttend_reads {q o : View} (only : OnlyJob s n id j) (waits : j.waits = 0) (part : s.atpPart n = p)
    (views : AttendViews r (s.bytesAt r.attendDescs) j.indices q o) (reads : Reads s p (r.attendRuns q)) :
    ∃ t f, Fetched s t ∧ s.prepareAttend n id r j = (((t.modAtp n (fun a => a.raise f)).modJob n id
      (fun x => x.holding (s.bytesAt (r.attendRuns q)) (if r.dense then .keys else .waiting))).endGrants (.atp n id)) := by
  have descs : Reads s p r.attendDescs := fun x hx => reads x (by simp [JobRec.attendRuns, hx])
  obtain ⟨u, fetched, run⟩ := State.need_andThen only waits part (SoundRuns.of_reads descs) (jobMay_of_reads descs)
  obtain ⟨t, more, run'⟩ := fetched.need_andThen only waits part reads
  refine ⟨t, (r.queries (s.bytesAt (r.attendRuns q)) q).2, more, ?_⟩
  obtain ⟨query, output, queryForm, queryShape, outputForm, outputShape, keys⟩ := views
  unfold State.prepareAttend
  dsimp only
  refine (run _ _).trans ?_
  have query' : (List.map (fun w => atpView (s.bytesAt r.attendDescs) w j.indices)
      ([r.qDesc, r.oDesc] ++ if r.dense = true then [r.kDesc, r.vDesc] else [])).getD 0 none = some q := query
  have output' : (List.map (fun w => atpView (s.bytesAt r.attendDescs) w j.indices)
      ([r.qDesc, r.oDesc] ++ if r.dense = true then [r.kDesc, r.vDesc] else [])).getD 1 none = some o := output
  rw [query', output']
  dsimp only
  rw [if_neg]
  · exact run' _ _
  · have queryOk : (q.fmt == 0 && q.bs == 32 && q.sd == 0 && r.rope == 0 || q.fmt == 4 || q.fmt == 6) = true := by
      simpa [and_assoc, or_assoc] using queryForm
    rw [queryOk, queryShape, wideForm outputForm, outputShape]
    cases dense : r.dense with
    | false => simp
    | true =>
      obtain ⟨k, key, keyOk⟩ := (Option.any_eq_true _ _).1 (keys dense r.kDesc (by simp))
      obtain ⟨v, value, valueOk⟩ := (Option.any_eq_true _ _).1 (keys dense r.vDesc (by simp))
      rw [show (List.map (fun w => atpView (s.bytesAt r.attendDescs) w j.indices)
        ([r.qDesc, r.oDesc] ++ if true = true then [r.kDesc, r.vDesc] else [])).getD 2 none = some k from key,
        show (List.map (fun w => atpView (s.bytesAt r.attendDescs) w j.indices)
        ([r.qDesc, r.oDesc] ++ if true = true then [r.kDesc, r.vDesc] else [])).getD 3 none = some v from value]
      dsimp only
      rw [keyOk, valueOk]
      simp

/-- The descriptors that an APPEND names. -/
def JobRec.appendDescs (r : JobRec) : List (Nat × Nat) := [(r.kDesc, 64), (r.vDesc, 64)]

/-- What an APPEND has read when it starts (R142). -/
def JobRec.appendRuns (r : JobRec) (k v : View) : List (Nat × Nat) :=
  r.appendDescs ++ k.spans ++ v.spans ++ (if r.rope = 0 then [] else [(r.freq, 2 * r.ropeDims)])

theorem State.prepareAppend_reads {k v : View} (only : OnlyJob s n id j) (waits : j.waits = 0) (part : s.atpPart n = p)
    (key : atpView (s.bytesAt r.appendDescs) r.kDesc j.indices = some k) (value : atpView (s.bytesAt r.appendDescs) r.vDesc j.indices = some v)
    (forms : ∀ x ∈ [k, v], (x.fmt = 4 ∨ x.fmt = 6) ∧ x.shaped [r.dh, r.rows] = true) (reads : Reads s p (r.appendRuns k v)) :
    ∃ t, Fetched s t ∧ s.prepareAppend n id r j = ((t.modJob n id
      (fun x => { x.holding (s.bytesAt (r.appendRuns k v)) .waiting with behind := (t.ctx r.ctx).appending })).endGrants (.atp n id)) := by
  have descs : Reads s p r.appendDescs := fun x hx => reads x (by simp [JobRec.appendRuns, hx])
  obtain ⟨u, fetched, run⟩ := State.need_andThen only waits part (SoundRuns.of_reads descs) (jobMay_of_reads descs)
  obtain ⟨t, more, run'⟩ := fetched.need_andThen only waits part reads
  refine ⟨t, more, ?_⟩
  obtain ⟨keyForm, keyShape⟩ := forms k (by simp)
  obtain ⟨valueForm, valueShape⟩ := forms v (by simp)
  unfold State.prepareAppend
  dsimp only
  refine (run _ _).trans ?_
  rw [key, value]
  dsimp only
  rw [if_neg (by simp [wideForm keyForm, keyShape, wideForm valueForm, valueShape])]
  exact run' _ _

/-- The descriptors that a COMBINE names. -/
def JobRec.combineDescs (r : JobRec) : List (Nat × Nat) := [(r.qDesc, 64), (r.oDesc, 64)]

/-- What a COMBINE has read when it merges (R161). -/
def JobRec.combineRuns (r : JobRec) (q : View) : List (Nat × Nat) := r.combineDescs ++ q.spans ++ [(r.lse, 4 * r.rows * r.kCount)]

/-- A COMBINE whose partials are read goes on to write the merged rows. -/
theorem State.runCombine_merges {q o : View} (only : OnlyJob s n id j) (waits : j.waits = 0) (part : s.atpPart n = p)
    (partials : atpView (s.bytesAt r.combineDescs) r.qDesc j.indices = some q) (output : atpView (s.bytesAt r.combineDescs) r.oDesc j.indices = some o)
    (partialForm : q.fmt = 6) (partialShape : q.shaped [r.dh, r.rows, r.kCount] = true) (outputForm : o.fmt = 4 ∨ o.fmt = 6)
    (outputShape : o.shaped [r.dh, r.rows] = true) (reads : Reads s p (r.combineRuns q)) :
    ∃ t, Fetched s t ∧ s.runCombine n id r j =
      t.writeOut n id (r.combined (s.bytesAt (r.combineRuns q)) q o (t.policyZ (t.atpPart n))) true := by
  have descs : Reads s p r.combineDescs := fun x hx => reads x (by simp [JobRec.combineRuns, hx])
  obtain ⟨u, fetched, run⟩ := State.need_andThen only waits part (SoundRuns.of_reads descs) (jobMay_of_reads descs)
  obtain ⟨t, more, run'⟩ := fetched.need_andThen only waits part reads
  refine ⟨t, more, ?_⟩
  unfold State.runCombine
  dsimp only
  refine (run _ _).trans ?_
  rw [partials, output]
  dsimp only
  rw [if_neg (by simp [partialForm, partialShape, wideForm outputForm, outputShape])]
  exact run' _ _

end

/-! ### The five records -/

section
variable {s : State} {n p : Nat} {r : JobRec}

theorem Same.policyZ {l : List Component} {s t : State} (h : Same l s t) (hp : .parts ∉ l := by simp) (hf : .fabric ∉ l := by simp) (p : Nat) :
    t.policyZ p = s.policyZ p := by
  unfold State.policyZ State.fabricN
  rw [h.part p hp, h.fabric hf]

theorem Same.ctx {l : List Component} {s t : State} (h : Same l s t) (c : Nat) (hl : .ctxs ∉ l := by simp) : t.ctx c = s.ctx c := by
  unfold State.ctx
  rw [show t.ctxs = s.ctxs from h.agrees .ctxs hl]

theorem OnlyWrites.congr {s s' t : State} {a b : Nat} (h : OnlyWrites s t a b) (same : s.mem = s'.mem) : OnlyWrites s' t a b :=
  fun c outside => by rw [h c outside, same]

/-- A job record at which a pipeline stands starts its job. -/
theorem AtJob.starts {kind : Nat} (part : s.atpPart n = p) (here : AtJob s n kind r) (small : kind < 5)
    (context : (kind = 0 ∧ r.dense = false) ∨ kind = 1 → s.jobCtx p r = 0) :
    s.atRecord n kind (fun r st => st.tryStart n r) =
      (if kind = 0 then (s.withNewJob n r).prepareAttend n (s.atp n).nextJob r (s.newJob n r)
      else if kind = 1 then (s.withNewJob n r).prepareAppend n (s.atp n).nextJob r (s.newJob n r)
      else (s.withNewJob n r).runCombine n (s.atp n).nextJob r (s.newJob n r)) := by
  obtain ⟨-, -, -, -, -, record, isKind, -⟩ := id here
  rw [here.atRecord small, here.tryStart, State.startJob_prepares record (by rw [part, isKind]; exact context),
    State.prepareJob_new record here.fresh, isKind]

theorem attend_starts {q o : View} (part : s.atpPart n = p) (here : AtJob s n 0 r) (context : r.dense = true ∨ s.jobCtx p r = 0)
    (views : AttendViews r (s.bytesAt r.attendDescs) ((s.atp n).loops.map (·.index)) q o) (reads : Reads s p (r.attendRuns q)) :
    ∃ t, exec (.attend n) s = .next t ∧ (t.atp n).pc = (stepLoops (s.atp n).pc (s.atp n).loops.reverse).2 ∧
      (t.atp n).active = (s.atp n).active ++
        [{ s.newJob n r with stage := if r.dense then .keys else .waiting, inputs := s.bytesAt (r.attendRuns q) }] ∧ t.mem = s.mem := by
  have fresh := here.fresh
  have started := s.withNewJob_changes n r
  obtain ⟨t, f, fetched, prepared⟩ := State.prepareAttend_reads (State.withNewJob_only fresh) rfl ((s.withNewJob_part n r).trans part)
    views (started.reads reads)
  have run : exec (.attend n) s = .next ((s.withNewJob n r).prepareAttend n (s.atp n).nextJob r (s.newJob n r)) := by
    show execAttend n s = _
    unfold execAttend
    rw [here.first, here.starts part (by decide) (fun named => context.resolve_left (by simpa using named)), if_pos rfl]
  refine ⟨_, run.trans (congrArg _ prepared), ?_, ?_, ?_⟩
  · rw [(State.endGrants_changes _ _).atp, State.modJob_atp, State.modAtp_same, fetched.atp]
    exact s.withNewJob_pc n r
  · rw [(State.endGrants_changes _ _).atp, State.modJob_atp, State.modAtp_same, fetched.atp]
    exact (congrArg (List.map _) (s.withNewJob_active n r)).trans (map_new_job fresh (s.newJob n r) rfl _)
  · exact (State.endGrants_changes _ _).mem.trans ((State.modJob_changes _ _ _ _).mem.trans
      ((State.modAtp_changes _ _ _).mem.trans (fetched.met.same.mem.trans started.mem)))

theorem append_starts {k v : View} (part : s.atpPart n = p) (here : AtJob s n 1 r) (context : s.jobCtx p r = 0)
    (key : atpView (s.bytesAt r.appendDescs) r.kDesc ((s.atp n).loops.map (·.index)) = some k)
    (value : atpView (s.bytesAt r.appendDescs) r.vDesc ((s.atp n).loops.map (·.index)) = some v)
    (forms : ∀ x ∈ [k, v], (x.fmt = 4 ∨ x.fmt = 6) ∧ x.shaped [r.dh, r.rows] = true) (reads : Reads s p (r.appendRuns k v)) :
    ∃ t, exec (.append n) s = .next t ∧ (t.atp n).pc = (stepLoops (s.atp n).pc (s.atp n).loops.reverse).2 ∧
      (t.atp n).active = (s.atp n).active ++ [{ s.newJob n r with
        stage := .waiting, inputs := s.bytesAt (r.appendRuns k v), behind := (s.ctx r.ctx).appending }] ∧ t.mem = s.mem := by
  have fresh := here.fresh
  have started := s.withNewJob_changes n r
  obtain ⟨t, fetched, prepared⟩ := State.prepareAppend_reads (State.withNewJob_only fresh) rfl ((s.withNewJob_part n r).trans part)
    key value forms (started.reads reads)
  have ctx : t.ctx r.ctx = s.ctx r.ctx := fetched.met.same.ctx _
  have run : exec (.append n) s = .next ((s.withNewJob n r).prepareAppend n (s.atp n).nextJob r (s.newJob n r)) := by
    show execAppend n s = _
    unfold execAppend
    rw [here.first]
    dsimp only
    rw [here.starts part (by decide) (fun _ => context), if_neg (by decide), if_pos rfl]
  refine ⟨_, run.trans (congrArg _ prepared), ?_, ?_, ?_⟩
  · rw [(State.endGrants_changes _ _).atp, State.modJob_atp, fetched.atp]
    exact s.withNewJob_pc n r
  · rw [(State.endGrants_changes _ _).atp, State.modJob_atp, fetched.atp, ctx]
    exact (congrArg (List.map _) (s.withNewJob_active n r)).trans (map_new_job fresh (s.newJob n r) rfl _)
  · exact (State.endGrants_changes _ _).mem.trans ((State.modJob_changes _ _ _ _).mem.trans (fetched.met.same.mem.trans started.mem))

/-- A new job is the oldest that has not finalised when all before it have. -/
theorem State.withNewJob_oldest (fresh : ∀ j ∈ (s.atp n).active, j.id ≠ (s.atp n).nextJob) (done : ∀ j ∈ (s.atp n).active, j.stage = .finalised) :
    ((s.withNewJob n r).atp n).isOldest (s.atp n).nextJob = true := by
  unfold Atp.isOldest
  rw [s.withNewJob_active, List.takeWhile_append_of_pos (fun j hj => by simpa using fresh j hj)]
  simpa [State.newJob] using done

theorem combine_merges {q o : View} {out : List (Nat × List Byte)} {a b : Nat} (part : s.atpPart n = p) (here : AtJob s n 2 r)
    (done : ∀ j ∈ (s.atp n).active, j.stage = .finalised)
    (partials : atpView (s.bytesAt r.combineDescs) r.qDesc ((s.atp n).loops.map (·.index)) = some q)
    (output : atpView (s.bytesAt r.combineDescs) r.oDesc ((s.atp n).loops.map (·.index)) = some o)
    (partialForm : q.fmt = 6) (partialShape : q.shaped [r.dh, r.rows, r.kCount] = true) (outputForm : o.fmt = 4 ∨ o.fmt = 6)
    (outputShape : o.shaped [r.dh, r.rows] = true) (reads : Reads s p (r.combineRuns q))
    (merged : out = joinRuns (r.combined (s.bytesAt (r.combineRuns q)) q o (s.policyZ p)).1)
    (one : out.map (fun x => (x.1, x.2.length)) = [(a, b)]) (writes : Reads s p [(a, b)]) :
    ∃ t, exec (.combine n) s = .next t ∧ (t.atp n).pc = (stepLoops (s.atp n).pc (s.atp n).loops.reverse).2 ∧
      BMap.readBytes t.mem a b = out.flatMap (·.2) ∧ OnlyWrites s t a b ∧
      ((t.atp n).active.getLast?.map (fun j => (j.id, j.record, j.stage))) = some ((s.atp n).nextJob, (s.atp n).pc, .finalised) := by
  have fresh := here.fresh
  have started := s.withNewJob_changes n r
  have part' := (s.withNewJob_part n r).trans part
  have only := State.withNewJob_only (r := r) fresh
  obtain ⟨t, fetched, merges⟩ := State.runCombine_merges only rfl part' partials output partialForm partialShape outputForm outputShape
    (started.reads reads)
  have policy : t.policyZ (t.atpPart n) = s.policyZ p := by
    rw [fetched.atpPart, part', fetched.met.same.policyZ, started.policyZ]
  rw [policy, State.bytesAt_congr started.mem] at merges
  subst merged
  obtain ⟨u, write, bytes, frame, atp⟩ := State.writeOut_writes (fetched.onlyJob only)
    ((congrArg (Atp.isOldest · _) (fetched.atp n)).trans (State.withNewJob_oldest fresh done)) ((fetched.atpPart n).trans part') one
    (fetched.met.soundRuns (by simp) (by simp) (SoundRuns.of_reads (started.reads writes))) (jobMay_follows (started.reads writes) fetched.met)
  have run : exec (.combine n) s = .next ((s.withNewJob n r).runCombine n (s.atp n).nextJob r (s.newJob n r)) := by
    show execCombine n s = _
    unfold execCombine
    rw [here.first]
    dsimp only
    rw [here.starts part (by decide) (by omega), if_neg (by decide), if_neg (by decide)]
  refine ⟨u, run.trans (congrArg _ (merges.trans write)), ?_, bytes, frame.congr (fetched.met.same.mem.trans started.mem), ?_⟩
  · rw [atp, fetched.atp]
    exact s.withNewJob_pc n r
  · rw [atp, fetched.atp, s.withNewJob_active, map_new_job fresh (s.newJob n r) rfl]
    simp [State.newJob, Job.ended]

theorem loop_opens (here : AtJob s n 3 r) (shallow : (s.atp n).loops.length < 4) (fits : (s.atp n).pc + r.ropeDims < 1024)
    (inside : ∀ f ∈ (s.atp n).loops.getLast?.toList, (s.atp n).pc + r.ropeDims ≤ f.last) :
    ∃ t, exec (.atpLoop n) s = .next t ∧ t.atp n = { s.atp n with
        loops := (s.atp n).loops ++ [{ first := (s.atp n).pc + 1, last := (s.atp n).pc + r.ropeDims, index := 0, count := r.rows + 1 }]
        pc := (s.atp n).pc + 1 } ∧ Same [.atps] s t := by
  have within : (((s.atp n).loops.getLast?).map (fun f => decide (f.last < (s.atp n).pc + r.ropeDims))).getD false = false := by
    cases last : (s.atp n).loops.getLast? with
    | none => rfl
    | some f =>
      have := inside f (by simp [last])
      simpa using this
  refine ⟨_, ?_, State.setAtp_same _ _ _, State.setAtp_changes _ _ _⟩
  show execAtpLoop n s = _
  unfold execAtpLoop
  rw [here.atRecord (by decide)]
  dsimp only
  rw [if_neg (by simp [within]; omega)]

theorem end_ends (here : AtJob s n 4 r) :
    ∃ t, exec (.atpEnd n) s = .next t ∧ t.atp n = { s.atp n with ended := true } ∧ Same [.atps] s t := by
  refine ⟨s.modAtp n (fun a => { a with ended := true }), ?_, State.modAtp_same _ _ _, State.modAtp_changes _ _ _⟩
  show execAtpEnd n s = _
  unfold execAtpEnd
  rw [here.atRecord (by decide)]

end

/-- Settles O36: each kind of record at the position of a pipeline with room. -/
theorem jobsStart : Obligations.jobsStart := by
  intro s n p r part
  refine ⟨?_, ?_, ?_, loop_opens, end_ends⟩
  · rintro dr m q o rs here context rfl rfl query output queryForm queryShape outputForm outputShape keys rfl reads
    exact attend_starts part here context ⟨query, output, queryForm, queryShape, outputForm, outputShape, keys⟩ reads
  · rintro dr m k v rs here context rfl rfl key value forms rfl reads
    exact append_starts part here context key value forms reads
  · rintro dr m q o rs out a b here done rfl rfl partials output partialForm partialShape outputForm outputShape rfl reads merged one writes
    exact combine_merges part here done partials output partialForm partialShape outputForm outputShape reads merged one writes

end Sys2Proof.Machine

/-! ## O37: key blocks (R145, R146, R150 to R154, R156) -/

namespace Sys2Proof.Machine
open Sys2Proof

/-! ### A key block taken -/

/-- A job with a key block behind it. -/
def Job.past (j : Job) (accs : Tbl RowAcc) : Job := { j with rows := accs, nextBlk := j.nextBlk + 1, asked := [], buf := [] }

/-- The state after a job has passed a key block, before what follows the last. -/
def State.pastBlock (s : State) (n id : Nat) (accs : Tbl RowAcc) (f : BitVec 6) : State :=
  ((s.modAtp n (fun a => a.raise f)).modJob n id (fun x => x.past accs)).endGrants (.atp n id)

theorem State.pastBlock_changes (s : State) (n id : Nat) (accs : Tbl RowAcc) (f : BitVec 6) : Same [.atps, .grants] s (s.pastBlock n id accs f) :=
  ((State.modAtp_changes _ _ _).mono (by simp)).trans (((State.modJob_changes _ _ _ _).mono (by simp)).trans
    ((State.endGrants_changes _ _).mono (by simp)))

theorem State.pastBlock_atp (s : State) (n id : Nat) (accs : Tbl RowAcc) (f : BitVec 6) :
    (s.pastBlock n id accs f).atp n =
      { (s.atp n).raise f with active := (s.atp n).active.map (fun x => if x.id = id then x.past accs else x) } := by
  unfold State.pastBlock
  rw [(State.endGrants_changes _ _).atp, State.modJob_atp, State.modAtp_same]
  rfl

theorem State.modAtp_only {s : State} {n id : Nat} {j : Job} (only : OnlyJob s n id j) (g : Atp → Atp) (h : ∀ a, (g a).active = a.active) :
    OnlyJob (s.modAtp n g) n id j := ⟨only.1, by rw [State.modAtp_same, h]; exact only.2⟩

theorem Same.onlyJob {l : List Component} {s t : State} (h : Same l s t) {n id : Nat} {j : Job} (only : OnlyJob s n id j) (hl : .atps ∉ l := by simp) :
    OnlyJob t n id j := ⟨only.1, by rw [h.atp n hl]; exact only.2⟩

/-- What a change of one job does to those before it: nothing. -/
theorem isOldest_map (xs : List Job) (id : Nat) (g : Job → Job) (named : ∀ x, (g x).id = x.id) :
    ((xs.map (fun x => if x.id = id then g x else x)).takeWhile (fun x => x.id != id)).all (fun x => x.stage == .finalised) =
      (xs.takeWhile (fun x => x.id != id)).all (fun x => x.stage == .finalised) := by
  induction xs with
  | nil => rfl
  | cons x xs ih =>
    by_cases same : x.id = id
    · simp [same, named]
    · simp only [List.map_cons, if_neg same, List.takeWhile_cons, bne_iff_ne.2 same, if_true, List.all_cons, ih]

section
variable {s u : State} {n id p : Nat} {j : Job} {r : JobRec}

theorem State.pastBlock_only (only : OnlyJob s n id j) (accs : Tbl RowAcc) (f : BitVec 6) : OnlyJob (s.pastBlock n id accs f) n id (j.past accs) :=
  (State.endGrants_changes _ _).onlyJob
    ((State.modAtp_only only (fun a => a.raise f) (fun _ => rfl)).mod (fun x => x.past accs) only.1)

theorem State.pastBlock_part (s : State) (n id : Nat) (accs : Tbl RowAcc) (f : BitVec 6) : (s.pastBlock n id accs f).atpPart n = s.atpPart n := by
  unfold State.atpPart
  rw [State.pastBlock_atp]
  rfl

theorem State.pastBlock_oldest (s : State) (n id : Nat) (accs : Tbl RowAcc) (f : BitVec 6) :
    ((s.pastBlock n id accs f).atp n).isOldest id = (s.atp n).isOldest id := by
  unfold Atp.isOldest
  rw [State.pastBlock_atp]
  exact isOldest_map _ _ _ (fun _ => rfl)

/-- After its last key block a job writes its outputs; otherwise it goes on to the next. -/
theorem State.takeBlock_eq {o : View} (only : OnlyJob s n id j) (output : atpView j.inputs r.oDesc j.indices = some o) (accs : Tbl RowAcc)
    (f : BitVec 6) (follows : Bool) :
    s.takeBlock n id r accs f follows =
      (if j.nextBlk + 1 < r.blocks j then s.pastBlock n id accs f
      else (s.pastBlock n id accs f).writeOut n id (r.outputs o ((s.pastBlock n id accs f).policyZ (s.atpPart n)) accs) follows) := by
  unfold State.takeBlock
  dsimp only
  rw [only.job_eq, output, ← s.pastBlock_part n id accs f]
  rfl

/-- The stages of a job that has written its outputs. -/
theorem stages_ended (only : OnlyJob s n id j) :
    (((s.atp n).active.map (fun x => if x.id = id then x.ended else x)).filter (fun x => x.id == id)).map (·.stage) = [.finalised] := by
  have ended := (only.mod Job.ended only.1).2
  rw [State.modJob_atp] at ended
  exact congrArg (List.map (·.stage)) ended

/-- A job of `s` has finalised in `t`, its outputs written to one run and nothing else. -/
def OutputsWritten (s t : State) (n id a b : Nat) (out : List (Nat × List Byte)) : Prop :=
  BMap.readBytes t.mem a b = out.flatMap (·.2) ∧ OnlyWrites s t a b ∧ ((t.atp n).active.filter (fun x => x.id == id)).map (·.stage) = [.finalised]

theorem State.writeOut_ends {a b : Nat} {out : OutRuns} {follows : Bool} (only : OnlyJob s n id j)
    (oldest : (s.atp n).isOldest id = true) (part : s.atpPart n = p) (one : (joinRuns out.1).map (fun x => (x.1, x.2.length)) = [(a, b)])
    (sound : SoundRuns s p [(a, b)]) (may : s.jobMay p [(a, b)] follows = true) :
    OutputsWritten s (s.writeOut n id out follows) n id a b (joinRuns out.1) := by
  obtain ⟨t, rfl, bytes, frame, atp⟩ := State.writeOut_writes only oldest part one sound may
  exact ⟨bytes, frame, by rw [atp]; exact stages_ended only⟩

/-- A state in which a job of `s` can go on: reached by its reads, and its next access does not wait for the regulators. -/
structure GoesOn (s u : State) (p : Nat) (follows : Bool) : Prop where
  fetched : Fetched s u
  may : ∀ rs, Reads s p rs → u.jobMay p rs follows = true

theorem GoesOn.refl (s : State) (p : Nat) : GoesOn s s p false := ⟨⟨Metered.refl _ s, fun _ => rfl⟩, fun _ => jobMay_of_reads⟩

theorem Fetched.goesOn (h : Fetched s u) (p : Nat) : GoesOn s u p true := ⟨h, fun _ reads => jobMay_follows reads h.met⟩

theorem takeBlock_more {o : View} {accs : Tbl RowAcc} {f : BitVec 6} {follows : Bool} (on : GoesOn s u p follows) (only : OnlyJob s n id j)
    (asked : j.asked = []) (output : atpView j.inputs r.oDesc j.indices = some o) (more : j.nextBlk + 1 < r.blocks j) :
    OnlyJob (u.takeBlock n id r accs f follows) n id { j with nextBlk := j.nextBlk + 1, buf := [], rows := accs } ∧
      (u.takeBlock n id r accs f follows).mem = s.mem := by
  have only' := on.fetched.onlyJob only
  have past : j.past accs = { j with nextBlk := j.nextBlk + 1, buf := [], rows := accs } := by
    unfold Job.past
    rw [← asked]
  rw [State.takeBlock_eq only' output, if_pos more, ← past]
  exact ⟨State.pastBlock_only only' accs f, (State.pastBlock_changes _ _ _ _ _).mem.trans on.fetched.met.same.mem⟩

theorem takeBlock_last {o : View} {accs : Tbl RowAcc} {f : BitVec 6} {follows : Bool} {a b : Nat} {out : List (Nat × List Byte)}
    (on : GoesOn s u p follows) (only : OnlyJob s n id j) (part : s.atpPart n = p) (output : atpView j.inputs r.oDesc j.indices = some o)
    (last : j.nextBlk + 1 = r.blocks j) (oldest : (s.atp n).isOldest id = true)
    (made : out = joinRuns (r.outputs o (s.policyZ p) accs).1) (one : out.map (fun x => (x.1, x.2.length)) = [(a, b)]) (writes : Reads s p [(a, b)]) :
    OutputsWritten s (u.takeBlock n id r accs f follows) n id a b out := by
  have only' := on.fetched.onlyJob only
  have passed := State.pastBlock_changes u n id accs f
  have reached : Metered [.atps, .hbm, .grants] s (u.pastBlock n id accs f) :=
    (on.fetched.met.mono (by simp)).trans (passed.metered.mono (by simp))
  have policy : (u.pastBlock n id accs f).policyZ (u.atpPart n) = s.policyZ p := by rw [on.fetched.atpPart, part, reached.same.policyZ]
  rw [State.takeBlock_eq only' output, if_neg (by omega), policy]
  subst made
  obtain ⟨bytes, frame, stages⟩ := State.writeOut_ends (follows := follows) (State.pastBlock_only only' accs f)
    (((u.pastBlock_oldest n id accs f).trans (congrArg (Atp.isOldest · id) (on.fetched.atp n))).trans oldest)
    ((u.pastBlock_part n id accs f).trans ((on.fetched.atpPart n).trans part)) one
    (reached.soundRuns (by simp) (by simp) (SoundRuns.of_reads writes)) ((State.jobMay_congr (p := p) passed (rs := _) (follows := follows)).trans (on.may _ writes))
  exact ⟨bytes, frame.congr reached.same.mem, stages⟩

end

/-! ### KEY_BLOCK -/

/-- A job that takes key blocks: the oldest of its number, awaiting nothing, with a place in the first stage (R140). -/
structure KeyJob (s : State) (n id p : Nat) (j : Job) (r : JobRec) (q o : View) : Prop where
  only : OnlyJob s n id j
  part : s.atpPart n = p
  record : (s.atp n).jobRec j.record = r
  attends : r.kind = 0
  stage : j.stage = .keys
  room : j.nextBlk ≠ 0 ∨ (s.atp n).beyond.length < 3
  waits : j.waits = 0
  asked : j.asked = []
  query : atpView j.inputs r.qDesc j.indices = some q
  output : atpView j.inputs r.oDesc j.indices = some o

/-- What KEY_BLOCK makes of a key block that leaves the rows at `accs`. -/
structure BlockPassed (s t : State) (n id p : Nat) (j : Job) (r : JobRec) (o : View) (accs : Tbl RowAcc) : Prop where
  more : j.nextBlk + 1 < r.blocks j → OnlyJob t n id { j with nextBlk := j.nextBlk + 1, buf := [], rows := accs } ∧ t.mem = s.mem
  last : ∀ out a b, j.nextBlk + 1 = r.blocks j → (s.atp n).isOldest id = true → out = joinRuns (r.outputs o (s.policyZ p) accs).1 →
    out.map (fun x => (x.1, x.2.length)) = [(a, b)] → Reads s p [(a, b)] → OutputsWritten s t n id a b out

section
variable {s : State} {n id p : Nat} {j : Job} {r : JobRec} {q o : View}

theorem KeyJob.passed {u : State} {follows : Bool} (h : KeyJob s n id p j r q o) (on : GoesOn s u p follows) (accs : Tbl RowAcc) (f : BitVec 6) :
    BlockPassed s (u.takeBlock n id r accs f follows) n id p j r o accs :=
  ⟨takeBlock_more on h.only h.asked h.output, fun _ _ _ last oldest => takeBlock_last on h.only h.part h.output last oldest⟩

/-- A job that takes key blocks is not turned away. -/
theorem KeyJob.turn (h : KeyJob s n id p j r q o) :
    ¬(!(s.atp n).active.any (fun x => x.id == id) || j.stage != .keys || decide (r.kind ≠ 0) ||
      (j.nextBlk == 0 && decide (3 ≤ (s.atp n).beyond.length))) = true := by
  rw [h.only.listed, h.stage, h.attends]
  rcases h.room with later | room
  · simp [later]
  · simp
    omega

/-- After its last key block a job that had to wait writes its outputs. -/
theorem KeyJob.outputs_written (h : KeyJob s n id p j r q o) {a b : Nat} {out : List (Nat × List Byte)} (done : r.blocks j ≤ j.nextBlk)
    (oldest : (s.atp n).isOldest id = true) (made : out = joinRuns (r.outputs o (s.policyZ p) j.rows).1)
    (one : out.map (fun x => (x.1, x.2.length)) = [(a, b)]) (writes : Reads s p [(a, b)]) :
    ∃ t, exec (.keyBlock n id) s = .next t ∧ OutputsWritten s t n id a b out := by
  subst made
  refine ⟨_, ?_, State.writeOut_ends (follows := false) h.only oldest h.part one (SoundRuns.of_reads writes) (jobMay_of_reads writes)⟩
  show execKeyBlock n id s = _
  unfold execKeyBlock
  dsimp only
  rw [h.only.job_eq, h.record, if_neg h.turn, if_pos done, h.output, h.part]

/-- The metadata of a DENSE job's next key block (R145). -/
def JobRec.metaRuns (r : JobRec) (j : Job) : List (Nat × Nat) :=
  [(r.kMeta + 8 * (r.kFirst + 256 * j.nextBlk), 8 * min 256 (r.kCount - 256 * j.nextBlk))]

theorem KeyJob.dense_passed (h : KeyJob s n id p j r q o) {k v : View} {ks : List Key} {rs : List (Nat × Nat)} {accs : Tbl RowAcc}
    (dense : r.dense = true) (goes : j.nextBlk < r.blocks j) (key : atpView j.inputs r.kDesc j.indices = some k)
    (value : atpView j.inputs r.vDesc j.indices = some v) (metadata : Reads s p (r.metaRuns j)) (keys : ks = r.denseKeys j.nextBlk (s.bytesAt (r.metaRuns j)))
    (runs : rs = if r.anyAllowed j.inputs ks then r.metaRuns j ++ k.keyRuns ks ++ v.keyRuns ks else r.metaRuns j) (reads : Reads s p rs)
    (rows : accs = if r.anyAllowed j.inputs ks then (r.block (r.queries j.inputs q).1 j.inputs ks k v (s.bytesAt rs) j.rows).1 else j.rows) :
    ∃ t, exec (.keyBlock n id) s = .next t ∧ BlockPassed s t n id p j r o accs := by
  obtain ⟨u, fetched, run⟩ := State.need_andThen h.only h.waits h.part (SoundRuns.of_reads metadata) (jobMay_of_reads metadata)
  have enters : exec (.keyBlock n id) s = .next (if !r.anyAllowed j.inputs ks then u.takeBlock n id r j.rows 0 true
      else (u.need n id (r.metaRuns j ++ k.keyRuns ks ++ v.keyRuns ks) true).andThen n j.record (fun m st =>
        st.takeBlock n id r (r.block (r.queries j.inputs q).1 j.inputs ks k v m j.rows).1
          (r.block (r.queries j.inputs q).1 j.inputs ks k v m j.rows).2 true)) := by
    show execKeyBlock n id s = _
    unfold execKeyBlock
    dsimp only
    rw [h.only.job_eq, h.record, if_neg h.turn, if_neg (by omega), h.query]
    dsimp only
    rw [if_pos dense]
    refine (congrArg Host.Outcome.next (run _ _)).trans ?_
    rw [key, value, keys]
    rfl
  cases allowed : r.anyAllowed j.inputs ks with
  | false =>
    rw [allowed, if_pos (by decide)] at enters
    rw [allowed, if_neg (by decide)] at rows
    exact ⟨_, enters, rows ▸ h.passed (fetched.goesOn p) j.rows 0⟩
  | true =>
    rw [allowed, if_neg (by decide)] at enters
    rw [allowed, if_pos rfl] at rows runs
    subst runs
    obtain ⟨t, more, run'⟩ := fetched.need_andThen h.only h.waits h.part reads
    exact ⟨_, enters.trans (congrArg Host.Outcome.next (run' _ _)), rows ▸ h.passed (more.goesOn p) _ _⟩

/-- One run of a context page that a job reads. -/
def pagePiece (acc : Got × BMap) (x : Nat × Nat) : Got × BMap :=
  let g := acc.1.andThen (fun st => st.readStack x.1 x.2 true)
  (g, if acc.1.status = 0 ∧ g.status = 0 then BMap.writeBytes acc.2 x.1 g.bytes else acc.2)

theorem pagePieces_sound (rs : List (Nat × Nat)) (sound : SoundRuns s p rs) (m : BMap) (g : Got) (good : g.status = 0) (met : Metered [.hbm] s g.st) :
    ∃ g' : Got, rs.foldl pagePiece (g, m) = (g', rs.foldl (fun m r => BMap.writeBytes m r.1 (BMap.readBytes s.mem r.1 r.2)) m) ∧
      g'.status = 0 ∧ Metered [.hbm] s g'.st := by
  induction rs generalizing m g with
  | nil => exact ⟨g, rfl, good, met⟩
  | cons r rs ih =>
    obtain ⟨-, -, whole⟩ := sound r (by simp)
    obtain ⟨t, read, next⟩ := g.st.readStack_run r.1 r.2 true (fun _ => (met.sound (by simp) (by simp) whole).blockAt)
    have piece : pagePiece (g, m) r =
        ({ bytes := BMap.readBytes s.mem r.1 r.2, flags := g.flags ||| 0, st := t }, BMap.writeBytes m r.1 (BMap.readBytes s.mem r.1 r.2)) := by
      simp [pagePiece, Got.andThen, read, good, met.same.mem]
    rw [List.foldl_cons, piece]
    exact ih (fun x hx => sound x (by simp [hx])) _ _ rfl (met.trans next)

theorem KeyJob.page_passed (h : KeyJob s n id p j r q o) {g i base : Nat} {k v : View} {ks : List Key} {rs : List (Nat × Nat)} {accs : Tbl RowAcc}
    (context : r.dense = false) (page : j.pages[j.nextBlk]? = some (g, i)) (keys : ks = r.pageKeys j.ctx.seg j.length g)
    (head : base = headAddr j.source j.ctx i r.kvHead) (key : k = pageView j.ctx base)
    (value : v = pageView j.ctx (base + headBytes j.ctx.fmt j.ctx.dh / 2))
    (runs : rs = if r.anyAllowed j.inputs ks then k.keyRuns ks ++ v.keyRuns ks else []) (reads : Reads s p rs)
    (rows : accs = if r.anyAllowed j.inputs ks then (r.block (r.queries j.inputs q).1 j.inputs ks k v (s.bytesAt rs) j.rows).1 else j.rows) :
    ∃ t, exec (.keyBlock n id) s = .next t ∧ BlockPassed s t n id p j r o accs := by
  obtain ⟨inside, -⟩ := List.getElem?_eq_some_iff.1 page
  have goes : ¬r.blocks j ≤ j.nextBlk := by
    unfold JobRec.blocks
    rw [if_neg (by simp [context])]
    omega
  have entry : j.pages.getD j.nextBlk (0, 0) = (g, i) := by rw [List.getD_eq_getElem?_getD, page]; rfl
  have run : exec (.keyBlock n id) s = execKeyBlock n id s := rfl
  unfold execKeyBlock at run
  dsimp only at run
  rw [h.only.job_eq, h.record, if_neg h.turn, if_neg goes, h.query] at run
  dsimp only at run
  rw [if_neg (by simp [context]), entry] at run
  dsimp only at run
  rw [← keys, ← head, ← key, ← value, h.part] at run
  cases allowed : r.anyAllowed j.inputs ks with
  | false =>
    rw [allowed, if_pos (by decide)] at run
    rw [allowed, if_neg (by decide)] at rows
    exact ⟨_, run, rows ▸ h.passed (GoesOn.refl s p) j.rows 0⟩
  | true =>
    rw [allowed, if_pos rfl] at rows runs
    subst runs
    obtain ⟨g', fold, good, met⟩ := pagePieces_sound _ (SoundRuns.of_reads reads) [] { st := s } rfl (Metered.refl _ s)
    have serve : (k.keyRuns ks ++ v.keyRuns ks).all (fun x => s.answers p x.1 x.2) = true := jobMay_of_reads reads
    rw [allowed, if_neg (by decide), serve, if_neg (by decide)] at run
    unfold pagePiece at fold
    dsimp only at fold run
    rw [fold] at run
    dsimp only at run
    rw [if_neg (by simp [good])] at run
    exact ⟨_, run, rows ▸ h.passed ((Fetched.of_metered met).goesOn p) _ _⟩

end

/-- Settles O37: a key block of a DENSE job, one of a context page, and outputs that had to wait. -/
theorem keyBlocksComplete : Obligations.keyBlocksComplete := by
  intro s n id p j r q o only part record attends stage room waits asked _ query output
  have turn : KeyJob s n id p j r q o := ⟨only, part, record, attends, stage, room, waits, asked, query, output⟩
  refine ⟨?_, ?_, ?_⟩
  · rintro ms ks rs accs k v dense goes key value rfl metadata keys runs reads rows
    obtain ⟨t, run, passed⟩ := turn.dense_passed dense goes key value metadata keys runs reads rows
    exact ⟨fun more => ⟨t, run, passed.more more⟩,
      fun out a b last oldest made one writes => ⟨t, run, passed.last out a b last oldest made one writes⟩⟩
  · intro g i ks base rs k v accs context page keys head key value runs reads rows
    obtain ⟨t, run, passed⟩ := turn.page_passed context page keys head key value runs reads rows
    exact ⟨fun more => ⟨t, run, passed.more more⟩,
      fun out a b last oldest made one writes => ⟨t, run, passed.last out a b last oldest made one writes⟩⟩
  · exact fun out a b done oldest made one writes => turn.outputs_written done oldest made one writes

end Sys2Proof.Machine

/-! ## O38: completion and gates (R160, R163) -/

namespace Sys2Proof.Machine
open Sys2Proof

/-! ### Gate words -/

section
variable {s : State} {n p w : Nat} {o : Owner}

theorem OneBlock.ready {s : State} {p w : Nat} (block : OneBlock s p w 8) (answers : s.answers p w 8 = true) (kind : TierKind) (o : Owner)
    {rs ws : List (Nat × Nat)} (only : rs ++ ws = [(w, 8)]) : s.ready p rs ws kind o = (true, s) :=
  s.ready_below p rs ws kind o (fun r hr => by rw [only, List.mem_singleton] at hr; subst hr; exact block.1.below (by decide))
    (fun r hr => by rw [only, List.mem_singleton] at hr; subst hr; exact answers)

/-- A gate word in this module's memory is read at once. -/
theorem State.seeGate_value (dev : engineAddr w = .dev w) (block : OneBlock s p w 8) (answers : s.answers p w 8 = true) (o : Owner) (asked : Bool)
    (waits : Nat) (buf : BMap) :
    ∃ t, s.seeGate p w o asked waits buf = { value := some (BMap.readLe s.mem w 8), st := t } ∧ Same [.hbm, .grants] s t := by
  obtain ⟨t, read, met⟩ := State.readDev_sound true (by decide) block.1
  refine ⟨t.endGrants o, ?_, (met.same.mono (by simp)).trans ((t.endGrants_changes o).mono (by simp))⟩
  unfold State.seeGate
  rw [s.localAddr_dev dev]
  dsimp only
  rw [block.ready answers .read o (by simp), if_neg (by simp)]
  dsimp only
  rw [read]
  rfl

/-- A memory-side S64 add of 1 to 8 bytes (R193). -/
theorem addRun_one (old : List Byte) (z : Bool) (len : old.length = 8) :
    (addRun 4 (addBytes 4) z 8 old (natLe 1 8)).1 = natLe ((leNat old + 1) % 2 ^ 64) 8 := by
  have width : addBytes 4 = 8 := rfl
  unfold addRun
  rw [width, if_neg (by omega)]
  dsimp only
  rw [List.take_of_length_le (by omega), List.drop_of_length_le (by omega), List.take_of_length_le (by decide)]
  have rest : addRun 4 8 z 7 [] (List.drop 8 (natLe 1 8)) = ([], 0) := rfl
  rw [rest, List.append_nil]
  rfl

/-- A gate word in this module's memory is raised by one (R160). -/
theorem State.raiseGate_adds (dev : engineAddr w = .dev w) (block : OneBlock s p w 8) (answers : s.answers p w 8 = true) (o away : Owner) :
    ∃ g, s.raiseGate p w o away = (true, g) ∧ g.status = 0 ∧ BMap.readLe g.st.mem w 8 = (BMap.readLe s.mem w 8 + 1) % 2 ^ 64 ∧
      Same [.hbm, .mem, .blocks, .grants] s g.st := by
  obtain ⟨sound, one⟩ := block
  obtain ⟨good, mem, same⟩ := s.addStack_sound w 4 false (natLe 1 8) 5 (sound.block (by decide)) (by decide) one
  have add : s.addGate p w = s.addStack w 4 false (natLe 1 8) := if_pos (sound.below (by decide))
  refine ⟨{ s.addGate p w with st := (s.addGate p w).st.endGrants o }, ?_, add ▸ good, ?_,
    add ▸ (same.mono (by simp)).trans ((State.endGrants_changes _ o).mono (by simp))⟩
  · unfold State.raiseGate
    rw [s.localAddr_dev dev]
    dsimp only
    rw [OneBlock.ready ⟨sound, one⟩ answers .add o (by simp)]
    rfl
  · have after : ((s.addGate p w).st.endGrants o).mem = BMap.writeLe s.mem w 8 ((BMap.readLe s.mem w 8 + 1) % 2 ^ 64) := by
      rw [(State.endGrants_changes _ o).mem, add, mem, show (natLe 1 8).length = 8 from rfl, addRun_one _ _ (BMap.length_readBytes _ _ _)]
      rfl
    rw [after, BMap.readLe_writeLe]
    exact Nat.mod_mod _ _

end

/-! ### The oldest job completes -/

section
variable {s : State} {n p : Nat} {j : Job} {rest : List Job} {r : JobRec}

theorem State.retireJob_goes (id : Nat) (stopping : (s.atp n).stopping = none) :
    s.retireJob n id = s.modAtp n (fun a => { a with active := a.active.filter (fun j => j.id != id) }) := by
  unfold State.retireJob
  dsimp only
  rw [if_neg (by rw [State.modAtp_same]; simp [stopping])]

theorem Same.tileOf {l : List Component} {s t : State} (h : Same l s t) (hp : .parts ∉ l := by simp) (ho : .secOut ∉ l := by simp)
    (hd : .dies ∉ l := by simp) (p k : Nat) : t.tileOf p k = s.tileOf p k := by
  unfold State.tileOf
  rw [h.part p hp, h.die _ hd, show t.secOut = s.secOut from h.agrees .secOut ho]

/-- The signal that a job's completion raises (R160). -/
def State.withDone (s : State) (p : Nat) (r : JobRec) : State :=
  if r.doneSignal then { s with signals := s.signals ++ [(r.doneTile, r.doneToken, p)] } else s

theorem State.withDone_changes (s : State) (p : Nat) (r : JobRec) : Same [.signals] s (s.withDone p r) :=
  Same.ite (s.setSignals_changes _) (Same.refl _ s)

/-- What adding to a job's done gate comes to: one more in the gate, or nothing to do. -/
theorem doneGate_raised (gate : r.doneAdd = true → engineAddr r.doneGate = .dev r.doneGate ∧ s.gateStatus p r.doneGate = 0 ∧
      OneBlock s p r.doneGate 8 ∧ s.answers p r.doneGate 8 = true) (o : Owner) :
    ∃ g : Got, (if r.doneAdd then s.raiseGate p r.doneGate o .none else (true, { st := s })) = (true, g) ∧ g.status = 0 ∧
      Same [.hbm, .mem, .blocks, .grants] s g.st ∧ (r.doneAdd = false → g.st.mem = s.mem) ∧
      (r.doneAdd = true → BMap.readLe g.st.mem r.doneGate 8 = (BMap.readLe s.mem r.doneGate 8 + 1) % 2 ^ 64) := by
  cases adds : r.doneAdd with
  | false => exact ⟨{ st := s }, rfl, rfl, Same.refl _ s, fun _ => rfl, fun h => by simp at h⟩
  | true =>
    obtain ⟨dev, -, block, answers⟩ := gate adds
    obtain ⟨g, raise, good, value, same⟩ := State.raiseGate_adds dev block answers o .none
    exact ⟨g, raise, good, same, fun h => by simp at h, fun _ => value⟩

theorem job_completes (part : s.atpPart n = p) (oldest : (s.atp n).active = j :: rest) (others : ∀ x ∈ rest, x.id ≠ j.id)
    (record : (s.atp n).jobRec j.record = r) (stage : j.stage = .finalised) (acks : j.acks = 0) (pinned : j.pinned = false) (kind : r.kind ≠ 1)
    (stopping : (s.atp n).stopping = none) (tile : r.doneSignal = true → s.tileOf p r.doneTile = true)
    (gate : r.doneAdd = true → engineAddr r.doneGate = .dev r.doneGate ∧ s.gateStatus p r.doneGate = 0 ∧ OneBlock s p r.doneGate 8 ∧
      s.answers p r.doneGate 8 = true) :
    ∃ t, exec (.jobComplete n) s = .next t ∧ (t.atp n).active = rest ∧
      t.signals = (if r.doneSignal then s.signals ++ [(r.doneTile, r.doneToken, p)] else s.signals) ∧ (r.doneAdd = false → t.mem = s.mem) ∧
      (r.doneAdd = true → BMap.readLe t.mem r.doneGate 8 = (BMap.readLe s.mem r.doneGate 8 + 1) % 2 ^ 64) := by
  obtain ⟨g, raise, good, same, kept, raised⟩ := doneGate_raised gate (.atp n j.id)
  have signalled := g.st.withDone_changes p r
  have atp : (g.st.withDone p r).atp n = s.atp n := signalled.atp n |>.trans (same.atp n)
  have retire := State.retireJob_goes (s := g.st.withDone p r) (n := n) j.id (by rw [atp]; exact stopping)
  have mem : ((g.st.withDone p r).retireJob n j.id).mem = g.st.mem := by
    rw [retire]
    exact (State.modAtp_changes _ _ _).mem.trans signalled.mem
  refine ⟨(g.st.withDone p r).retireJob n j.id, ?_, ?_, ?_, fun h => mem.trans (kept h), fun h => by rw [mem]; exact raised h⟩
  · have owner : ((g.st.atp n).program.map (·.1)).getD 0 = p := by rw [same.atp]; exact part
    have plain : ¬(r.kind = 1 ∧ (!r.advances) = true ∧ j.appends = true) := fun append => kind append.1
    have reaches : ¬(r.doneAdd = true ∧ s.gateStatus p r.doneGate ≠ 0) := by
      rintro ⟨adds, refused⟩
      obtain ⟨-, status, -⟩ := gate adds
      exact refused status
    have signals : ¬(r.doneSignal = true ∧ (!s.tileOf p r.doneTile) = true) := by
      rintro ⟨signals, absent⟩
      simp [tile signals] at absent
    show execJobComplete n s = _
    unfold execJobComplete
    rw [oldest]
    dsimp only
    rw [record, part, if_neg (by simp [stage, acks, pinned, kind]), if_neg plain, if_neg reaches, raise]
    dsimp only
    rw [if_neg (by simp), if_neg (by simp [good]), same.tileOf, if_neg signals, owner]
    rfl
  · rw [retire, State.modAtp_same, atp]
    dsimp only
    rw [oldest, List.filter_cons_of_neg (by simp)]
    exact List.filter_eq_self.2 (fun x hx => by simpa using others x hx)
  · have signals : g.st.signals = s.signals := same.agrees .signals (by simp)
    rw [retire, State.modAtp_signals, ← signals]
    unfold State.withDone
    split <;> rfl

end

/-! ### A pipeline that waits on no gate stays so

What follows a gate that opens can fault, ask and read in many ways; none of them makes the pipeline wait on a gate. -/

/-- A pipeline waits on no gate. -/
def State.ungated (s : State) (n : Nat) : Prop := (s.atp n).gateFrom = none

section
variable {s t : State} {n : Nat}

theorem State.ungated_of_atps (h : s.ungated n) (same : t.atps = s.atps) : t.ungated n := by
  unfold State.ungated State.atp at h ⊢
  rw [same]
  exact h

theorem Same.ungated {l : List Component} (same : Same l s t) (h : s.ungated n) (hl : .atps ∉ l := by simp) : t.ungated n :=
  State.ungated_of_atps h (same.agrees .atps hl)

theorem State.ungated.modAtp (h : s.ungated n) (m : Nat) (g : Atp → Atp) (hg : ∀ a, a.gateFrom = none → (g a).gateFrom = none) :
    (s.modAtp m g).ungated n := by
  unfold State.ungated at h ⊢
  by_cases same : n = m
  · subst same
    rw [State.modAtp_same]
    exact hg _ h
  · rw [State.modAtp_other _ _ _ _ same]
    exact h

theorem State.ungated.modJob (h : s.ungated n) (m id : Nat) (g : Job → Job) : (s.modJob m id g).ungated n := h.modAtp m _ (fun _ none' => none')

theorem State.ungated.forEach {α : Type} (h : s.ungated n) (xs : List α) (f : α → State → State) (hf : ∀ x st, st.ungated n → (f x st).ungated n) :
    (forEach xs s f).ungated n := by
  induction xs generalizing s with
  | nil => exact h
  | cons x xs ih => exact ih (hf x s h)

theorem State.ungated.endGrants (h : s.ungated n) (o : Owner) : (s.endGrants o).ungated n := (s.endGrants_changes o).ungated h

theorem State.ungated.ownReads (h : s.ungated n) (o : Owner) (up : Nat → Nat) : (s.ownReads o up).ungated n := by
  cases o with
  | atp m id =>
    unfold State.ownReads
    dsimp only
    split
    · exact h.modJob m id _
    · exact h.modAtp m _ (fun _ none' => none')
  | _ => exact State.ungated_of_atps h rfl

theorem State.ungated.remoteRead (h : s.ungated n) (dom pos a len : Nat) (o : Owner) (verify : Bool) :
    (s.remoteRead dom pos a len o verify).ungated n := by
  refine h.forEach _ _ (fun c st before => ?_)
  have stamped : (st.packet pkREAD 2 dom pos c.1 []).2.atps = st.atps := rfl
  generalize st.packet pkREAD 2 dom pos c.1 [] = sent at stamped ⊢
  obtain ⟨k, u⟩ := sent
  refine State.ungated.ownReads (State.ungated_of_atps before ?_) o _
  exact stamped

theorem State.ungated.stopAtp (h : s.ungated n) (m : Nat) : (s.stopAtp m).ungated n := by
  unfold State.stopAtp
  split
  · exact (State.orphanRequests_changes _ _ _).ungated
      ((h.forEach _ _ (fun j st before => (st.endAppend_changes j).ungated before)).modAtp m _ (fun _ _ => rfl))
  · exact h

theorem State.ungated.stopAtBoundary (h : s.ungated n) (p g status : Nat) : (s.stopAtBoundary p g status).ungated n := by
  unfold State.stopAtBoundary
  refine State.ungated.forEach (h.forEach _ _ (fun k st before => (st.modTile_changes k _).ungated before)) _ _ (fun m st before => ?_)
  dsimp only
  split
  · exact before
  · split
    · exact before.stopAtp m
    · exact before.modAtp m (fun a => { a with stopping := some (a.stopping.getD status) }) (fun _ none' => none')

theorem State.ungated.atpFault (h : s.ungated n) (m job status addr detail : Nat) : (s.atpFault m job status addr detail).ungated n := by
  unfold State.atpFault
  split
  · exact h.stopAtp m
  · refine State.ungated.stopAtBoundary (State.ungated.stopAtp ((State.noteStop_changes _ _ _ _).ungated ?_) m) _ _ _
    obtain ⟨-, recorded⟩ := State.error_counts (s.stamp (.core (dieOfAtp m))).2 (pDCTL (dieOfAtp m)) _
    exact recorded.ungated ((s.stamp_changes _).ungated h)

theorem State.ungated.countJob (h : s.ungated n) (m id : Nat) (rs : List (Nat × Nat)) : (s.countJob m id rs).ungated n := by
  unfold State.countJob
  exact State.ungated.modJob (h.forEach _ _ (fun _ st before => (st.modPart_changes _ _).ungated before)) m id _

theorem State.ungated.askTier (h : s.ungated n) (p : Nat) (rs : List (Nat × Nat)) (kind : TierKind) (o : Owner) : (s.askTier p rs kind o).2.ungated n := by
  refine h.forEach _ _ (fun e st before => ?_)
  refine State.ungated.ownReads (State.ungated_of_atps before ?_) o _
  rfl

@[simp] theorem State.poison_atps (s : State) (a cause : Nat) : (s.poison a cause).atps = s.atps := by
  unfold State.poison
  rw [State.modStack_atps, State.setBlock_atps]

@[simp] theorem State.activate_atps (s : State) (a : Nat) : (s.activate a).atps = s.atps := rfl

@[simp] theorem State.charge_atps (s : State) (a len : Nat) : (s.charge a len).atps = s.atps := rfl

@[simp] theorem State.countRetry_atps (s : State) (a : Nat) (ok : Bool) : (s.countRetry a ok).atps = s.atps := rfl

@[simp] theorem State.senseBlock_atps (s : State) (a len : Nat) (verify : Bool) (cause : Option Nat) (bond : Bool) :
    (s.senseBlock a len verify cause bond).2.2.atps = s.atps := by
  simp only [State.senseBlock]
  (repeat' split) <;> simp

@[simp] theorem State.readStack_atps (s : State) (a len : Nat) (verify : Bool) : (s.readStack a len verify).st.atps = s.atps := by
  refine foldl_keeps (fun g : Got => g.st.atps) _ (fun g sp => ?_) _ _
  dsimp only
  (repeat' split) <;> simp

@[simp] theorem State.countFlashRead_atps (s : State) (k : Nat) : (s.countFlashRead k).atps = s.atps := by
  unfold State.countFlashRead
  split
  · exact (Same.forEach (l := [.free, .time, .log]) _ _ _ (fun _ st => st.trace_changes _ _ _ _ _)).agrees .atps (by simp)
  · rfl

@[simp] theorem State.readDev_atps (s : State) (p a len : Nat) (verify : Bool) : (s.readDev p a len verify).st.atps = s.atps := by
  unfold State.readDev
  split
  · simp
  · refine foldl_keeps (fun g : Got => g.st.atps) _ (fun g sp => ?_) _ _
    dsimp only
    (repeat' split) <;> simp

@[simp] theorem State.gather_atps (s : State) (p : Nat) (rs : List (Nat × Nat)) (verify : Bool) (buf : BMap) :
    (s.gather p rs verify buf).st.atps = s.atps := by
  refine foldl_keeps (fun g : Got => g.st.atps) _ (fun g r => ?_) _ _
  dsimp only
  (repeat' split) <;> simp

theorem needPieces_atps (p : Nat) (buf : BMap) (rs : List (Nat × Nat)) (g : Need) : (rs.foldl (needPiece p buf) g).st.atps = g.st.atps := by
  refine foldl_keeps (fun g : Need => g.st.atps) _ (fun g r => ?_) _ _
  unfold needPiece
  dsimp only
  (repeat' split) <;> simp

theorem State.ungated.need (h : s.ungated n) (m id : Nat) (rs : List (Nat × Nat)) (follows : Bool) : (s.need m id rs follows).st.ungated n := by
  unfold State.need
  dsimp only
  split
  · exact h
  · split
    · exact h
    · split
      · refine State.ungated.modJob (h.forEach _ _ (fun r st before => ?_)) m id _
        split
        · exact before.remoteRead _ _ _ _ _ _
        · exact before
      · split
        · exact h
        · split
          · exact (h.countJob m id _).askTier _ _ _ _
          · exact State.ungated_of_atps ((h.countJob m id _).askTier _ _ _ _) (needPieces_atps _ _ _ _)

theorem Need.andThen_ungated {g : Need} (h : g.st.ungated n) (m record : Nat) {k : BMap → State → State}
    (hk : ∀ b st, st.ungated n → (k b st).ungated n) : (g.andThen m record k).ungated n := by
  unfold Need.andThen
  split
  · exact h.atpFault m record _ _ _
  · split
    · exact hk _ _ h
    · exact h

theorem State.ungated.prepareAppend (h : s.ungated n) (m id : Nat) (r : JobRec) (j : Job) : (s.prepareAppend m id r j).ungated n := by
  unfold State.prepareAppend
  refine Need.andThen_ungated (h.need m id _ _) m _ (fun b st before => ?_)
  dsimp only
  split
  · split
    · exact before.atpFault m _ _ _ _
    · exact Need.andThen_ungated (before.need m id _ _) m _ (fun _ _ after => (after.modJob m id _).endGrants _)
  · exact before.atpFault m _ _ _ _

end

/-! ### Gates of pipelines -/

section
variable {s : State} {n p : Nat} {r : JobRec} {since : Nat}

/-- A pipeline that waits on the gate of the record at its position, a word of this module's memory. -/
structure GateWait (s : State) (n p : Nat) (r : JobRec) (since : Nat) : Prop where
  part : s.atpPart n = p
  pipeline : n < 16
  running : (s.atp n).running = true
  goes : (s.atp n).ended = false
  stopping : (s.atp n).stopping = none
  room : (s.atp n).hasRoom = true
  waits : (s.atp n).gateFrom = some since
  record : (s.atp n).jobRec (s.atp n).pc = r
  dev : engineAddr r.gate = .dev r.gate
  status : s.gateStatus p r.gate = 0
  block : OneBlock s p r.gate 8
  answers : s.answers p r.gate 8 = true

/-- A look at a gate: the job starts, or the pipeline waits on. -/
theorem GateWait.polls (h : GateWait s n p r since) : ∃ u, Same [.hbm, .grants] s u ∧ exec (.gatePoll (.atp n)) s =
    .next (if (s.atp n).gateTarget r ≤ BMap.readLe s.mem r.gate 8 then u.startJob n
      else u.modAtp n (fun x => { x with gateFrom := some (x.gateFrom.getD s.now), gateAsked := false })) := by
  obtain ⟨u, see, same⟩ := State.seeGate_value h.dev h.block h.answers (.atp n (s.atp n).nextJob) (s.atp n).gateAsked (s.atp n).gateWaits
    (s.atp n).gateBuf
  refine ⟨u, same, ?_⟩
  show execGatePoll (.atp n) s = _
  unfold execGatePoll
  dsimp only
  rw [if_pos (by simp [h.pipeline, h.running, h.goes, h.stopping, h.waits, h.room])]
  unfold State.pollAtp
  dsimp only
  rw [h.record, h.part, if_neg (by simp [h.status]), see]
  dsimp only
  rw [if_neg (by simp)]

theorem GateWait.holds (h : GateWait s n p r since) (below : BMap.readLe s.mem r.gate 8 < (s.atp n).gateTarget r) :
    ∃ t, exec (.gatePoll (.atp n)) s = .next t ∧ t.atp n = { s.atp n with gateAsked := false } ∧ t.mem = s.mem := by
  obtain ⟨u, same, run⟩ := h.polls
  rw [if_neg (by omega)] at run
  refine ⟨_, run, ?_, (State.modAtp_changes _ _ _).mem.trans same.mem⟩
  have kept : some ((s.atp n).gateFrom.getD s.now) = (s.atp n).gateFrom := by rw [h.waits]; rfl
  rw [State.modAtp_same, same.atp]
  dsimp only
  rw [kept]

theorem GateWait.opens (h : GateWait s n p r since) (reached : (s.atp n).gateTarget r ≤ BMap.readLe s.mem r.gate 8)
    (fresh : ∀ j ∈ (s.atp n).active, j.id ≠ (s.atp n).nextJob) (appends : r.kind = 1) (context : s.jobCtx p r = 0) :
    ∃ t, exec (.gatePoll (.atp n)) s = .next t ∧ (t.atp n).gateFrom = none := by
  obtain ⟨u, same, run⟩ := h.polls
  have atp : u.atp n = s.atp n := same.atp n
  have part : u.atpPart n = p := by
    unfold State.atpPart
    rw [atp]
    exact h.part
  have context' : u.jobCtx p r = 0 := by
    unfold State.jobCtx at context ⊢
    rw [same.ctx]
    exact context
  have record : (u.atp n).jobRec (u.atp n).pc = r := by rw [atp]; exact h.record
  have started : (u.withNewJob n r).ungated n := by
    unfold State.ungated State.withNewJob
    rw [State.setAtp_same]
  rw [if_pos reached, State.startJob_prepares record (fun _ => by rw [part]; exact context'),
    State.prepareJob_new record (by rw [atp]; exact fresh), if_neg (by omega), if_pos appends] at run
  exact ⟨_, run, started.prepareAppend n _ r _⟩

end

/-! ### The gate of a collective -/

theorem collective_goes_on {s : State} {f slot w : Nat} {x : Coll} (runs : s.inRun f slot opCOLLECTIVE = true)
    (listed : (s.part f).colls.find? (fun y => y.fn == f && y.slot == slot) = some x) (mine : s.coll f x.seq = some x) (stage : x.stage = .gate)
    (gate : (s.collCmd x).cWaitGate = w) (some' : w ≠ 0) (dev : engineAddr w = .dev w) (block : OneBlock s f w 8) (answers : s.answers f w 8 = true)
    (reached : (s.collCmd x).cWaitValue ≤ BMap.readLe s.mem w 8) :
    ∃ t, exec (.gatePoll (.command f slot)) s = .next t ∧ t.coll f x.seq = some { x with stage := .compare } ∧ t.mem = s.mem := by
  obtain ⟨u, see, same⟩ := State.seeGate_value dev block answers (.collective f x.seq) false 0 []
  have other : s.inRun f slot opCHISEL_RUN = false := by
    simp only [State.inRun, Bool.and_eq_true, beq_iff_eq] at runs
    simp [State.inRun, runs.2, opCHISEL_RUN, opCOLLECTIVE]
  refine ⟨u.modColl f x.seq (fun y => { y with stage := .compare }), ?_, ?_, (State.modPart_changes _ _ _).mem.trans same.mem⟩
  · show execGatePoll (.command f slot) s = _
    unfold execGatePoll
    dsimp only
    rw [other, if_neg (by simp), if_pos runs, listed]
    unfold State.pollColl
    dsimp only
    rw [mine]
    dsimp only
    rw [if_neg (by simp [stage]), gate, if_neg some', see]
    dsimp only
    rw [if_neg (by simp), if_pos reached]
  · unfold State.coll State.modColl at *
    rw [State.modPart_same, same.part, List.find?_map]
    have seq : ((fun y : Coll => y.seq == x.seq) ∘ fun y => if y.seq = x.seq then { y with stage := .compare } else y) =
        fun y => y.seq == x.seq := by
      funext y
      dsimp only [Function.comp]
      split <;> rfl
    rw [seq, mine]
    simp

/-! ### The watchdog of a gate -/

section
variable {s : State} {n p g : Nat}

theorem State.stopAtp_other (s : State) (m n : Nat) (h : n ≠ m) : (s.stopAtp m).atp n = s.atp n := by
  unfold State.stopAtp
  split
  · rw [(State.orphanRequests_changes _ _ _).atp, State.modAtp_other _ _ _ _ h,
      (Same.forEach (l := [.ctxs]) _ s _ (fun j st => st.endAppend_changes j)).atp]
  · rfl

theorem State.stopAtp_stops (s : State) (n : Nat) : ((s.stopAtp n).atp n).running = false := by
  unfold State.stopAtp
  split
  · rw [(State.orphanRequests_changes _ _ _).atp, State.modAtp_same]
    rfl
  · next stopped => simpa using stopped

/-- A pipeline that has stopped stays so while its program's other units come to a stop. -/
theorem State.stopAtBoundary_atp (s : State) (p g status n : Nat) (h : (s.atp n).running = false) :
    ((s.stopAtBoundary p g status).atp n).running = false := by
  have stays : ∀ (ns : List Nat) (u : State), (u.atp n).running = false → ((forEach ns u (fun m st =>
      let a := st.atp m
      if !a.running then st
      else if a.active.isEmpty then st.stopAtp m
      else st.setAtp m { a with stopping := some (a.stopping.getD status) })).atp n).running = false := by
    intro ns
    induction ns with
    | nil => exact fun u hu => hu
    | cons m ms ih =>
      refine fun u hu => ih _ ?_
      dsimp only
      by_cases same : n = m
      · subst same
        rw [hu, if_pos (by decide)]
        exact hu
      · split
        · exact hu
        · split
          · rw [State.stopAtp_other _ _ _ same]
            exact hu
          · rw [State.setAtp_other _ _ _ _ same]
            exact hu
  refine stays _ _ ?_
  rw [(Same.forEach (l := [.tiles]) _ s _ (fun t st => st.modTile_changes t _)).atp]
  exact h

theorem Same.log {l : List Component} {s t : State} (h : Same l s t) (hl : .log ∉ l := by simp) : t.log = s.log := h.agrees .log hl

/-- A pipeline's own fault stops it at once, is counted once, and writes nothing. -/
theorem State.atpFault_stops (s : State) (n job status addr detail : Nat) (program : (s.atp n).program = some (p, g)) :
    ((s.atpFault n job status addr detail).atp n).running = false ∧ (s.atpFault n job status addr detail).log.faults = s.log.faults + 1 ∧
      (s.atpFault n job status addr detail).mem = s.mem := by
  have stamped := s.stamp_changes (.core (dieOfAtp n))
  unfold State.atpFault
  rw [program]
  dsimp only
  refine ⟨State.stopAtBoundary_atp _ _ _ _ _ (State.stopAtp_stops _ _), ?_, ?_⟩
  · obtain ⟨faults, -⟩ := State.error_counts (s.stamp (.core (dieOfAtp n))).2 (pDCTL (dieOfAtp n)) _
    rw [(State.stopAtBoundary_changes _ _ _ _).log, (State.stopAtp_changes _ _).log, State.noteStop_faults, faults, stamped.log]
  · rw [(State.stopAtBoundary_changes _ _ _ _).mem, (State.stopAtp_changes _ _).mem, (State.noteStop_changes _ _ _ _).mem]
    exact (State.error_counts _ _ _).2.mem.trans stamped.mem

theorem gateWatchdog_stops {since : Nat} (part : s.atpPart n = p) (running : (s.atp n).running = true) (waits : (s.atp n).gateFrom = some since)
    (late : since + (s.tile (s.firstTile n)).watchdogNs < s.now) (timers : s.timersHeld p = false) (program : (s.atp n).program = some (p, g)) :
    ∃ t, exec (.gateWatchdog n) s = .next t ∧ (t.atp n).running = false ∧ t.log.faults = s.log.faults + 1 ∧ t.mem = s.mem := by
  have run : exec (.gateWatchdog n) s = execGateWatchdog n s := rfl
  unfold execGateWatchdog at run
  dsimp only at run
  rw [waits] at run
  dsimp only at run
  rw [if_pos (by simp [running, late, part, timers])] at run
  exact ⟨_, run, s.atpFault_stops n _ _ _ _ program⟩

end

/-- Settles O38: the oldest job's completion, the gates of pipelines and of collectives, and the watchdog. -/
theorem jobsEnd : Obligations.jobsEnd := by
  intro s n p part pipeline running
  refine ⟨?_, ?_, ?_, ?_⟩
  · exact fun j rest r oldest others record stage acks pinned kind stopping tile gate =>
      job_completes part oldest others record stage acks pinned kind stopping tile gate
  · intro r since goes stopping room waits record dev status block answers
    have wait : GateWait s n p r since := ⟨part, pipeline, running, goes, stopping, room, waits, record, dev, status, block, answers⟩
    exact ⟨wait.holds, fun reached fresh appends context _ => wait.opens reached fresh appends context⟩
  · exact fun f slot x w => collective_goes_on
  · exact fun since g waits late timers program => gateWatchdog_stops part running waits late timers program

end Sys2Proof.Machine

/-! ## The sequence manager's reach (R165, R168 to R175)

What an operation on pages, page tables and contexts leaves as it is, one `Same` lemma for each; O24 and O39 rest on them. -/

namespace Sys2Proof.Machine
open Sys2Proof

/-! ### Blocks of stack memory, sound or not -/

/-- A change within the components that may change anyway. -/
theorem Same.andThen {l l' : List Component} {s t u : State} (h : Same l s t) (h' : Same l' t u) (hl : l' ⊆ l := by simp) : Same l s u :=
  h.trans (h'.mono hl)

theorem Same.iteSecond {α : Type} {l : List Component} {s : State} {c : Prop} [Decidable c] {x y : α × State} (hx : Same l s x.2)
    (hy : Same l s y.2) : Same l s (if c then x else y).2 := by split <;> assumption

theorem Same.iteThird {α β : Type} {l : List Component} {s : State} {c : Prop} [Decidable c] {x y : α × β × State} (hx : Same l s x.2.2)
    (hy : Same l s y.2.2) : Same l s (if c then x else y).2.2 := by split <;> assumption

theorem State.setMem_changes (s : State) (m : BMap) : Same [.mem] s { s with mem := m } :=
  ⟨fun c hc => by cases c <;> simp at hc <;> rfl⟩

theorem State.setBlock_changes (s : State) (a : Nat) (x : Block) : Same [.blocks] s (s.setBlock a x) :=
  ⟨fun c hc => by cases c <;> simp at hc <;> rfl⟩

theorem State.poison_changes (s : State) (a cause : Nat) : Same [.hbm, .mem, .blocks] s (s.poison a cause) := by
  unfold State.poison
  exact (((s.setMem_changes _).mono (by simp)).andThen (State.setBlock_changes _ _ _)).andThen (State.modStack_changes _ _ _)

theorem State.countRetry_changes (s : State) (a : Nat) (ok : Bool) : Same [.hbm] s (s.countRetry a ok) := s.modStack_changes _ _

/-- A read of a block counts at its stack; a bad block draws the finding of its re-read, and is set right or poisoned. -/
theorem State.senseBlock_changes (s : State) (a n : Nat) (verify : Bool) (cause : Option Nat) (bond : Bool) :
    Same [.free, .hbm, .mem, .blocks] s (s.senseBlock a n verify cause bond).2.2 := by
  have crossed : ∀ u : State, Same [.hbm] u (if bond then u.charge a (fetchBytes a n verify) else u) := fun u =>
    Same.ite (u.charge_changes _ _) (Same.refl _ u)
  have begun : Same [.free, .hbm, .mem, .blocks] s
      (if bond then (if bond then s.activate a else s).charge a (fetchBytes a n verify) else if bond then s.activate a else s) :=
    ((Same.ite (l := [.hbm]) (s.activate_changes a) (Same.refl _ s)).trans (crossed _)).mono (by simp)
  unfold State.senseBlock
  dsimp only
  have drawn := (begun.andThen (crossed _)).andThen (State.fresh_changes _)
  refine Same.iteThird (Same.refl _ s) (Same.iteThird begun (Same.iteThird (Same.iteThird ?_ ?_) begun))
  · exact (drawn.andThen (State.countRetry_changes _ _ _)).andThen (State.poison_changes _ _ _)
  · exact (drawn.andThen (State.countRetry_changes _ _ _)).andThen (State.setBlock_changes _ _ _)

/-- What every step of a sequence of memory operations leaves as it is, the sequence does. -/
theorem Same.foldl_got {α : Type} {l : List Component} {s : State} (xs : List α) (f : Got → α → Got) (g : Got) (start : Same l s g.st)
    (h : ∀ g x, Same l g.st (f g x).st) : Same l s (xs.foldl f g).st := by
  induction xs generalizing g with
  | nil => exact start
  | cons x xs ih => exact ih (f g x) (start.trans (h g x))

theorem State.readStack_changes (s : State) (a n : Nat) (verify : Bool) : Same [.free, .hbm, .mem, .blocks] s (s.readStack a n verify).st := by
  rw [State.readStack_eq]
  refine Same.foldl_got _ _ _ (Same.refl _ s) (fun g sp => ?_)
  have sensed := g.st.senseBlock_changes sp.1 sp.2 verify none true
  unfold readPiece
  split
  · exact Same.refl _ _
  · dsimp only
    split
    · exact sensed
    · exact sensed

theorem State.changeBlock_changes (s : State) (a n cause : Nat) (whole : Bool) (f : List Byte → List Byte × BitVec 6) (bond : Bool) :
    Same [.free, .hbm, .mem, .blocks] s (s.changeBlock a n cause whole f bond).2.2.2 := by
  have sensed : Same [.free, .hbm, .mem, .blocks] s
      (if whole && n == 2048 then (0, 0, s.activate a) else s.senseBlock a n true (some cause) bond : Nat × Nat × State).2.2 := by
    split
    · exact (s.activate_changes a).mono (by simp)
    · exact s.senseBlock_changes _ _ _ _ _
  unfold State.changeBlock
  dsimp only
  generalize (if whole && n == 2048 then (0, 0, s.activate a) else s.senseBlock a n true (some cause) bond : Nat × Nat × State) = r at sensed ⊢
  have charged : Same [.free, .hbm, .mem, .blocks] s (if bond then r.2.2.charge a 2048 else r.2.2) :=
    Same.ite (sensed.andThen (State.charge_changes _ _ _)) sensed
  generalize (if bond then r.2.2.charge a 2048 else r.2.2) = u at charged ⊢
  split
  · exact Same.refl _ s
  · split
    · exact sensed
    · exact (charged.andThen (State.setMem_changes _ _)).andThen (State.setBlock_changes _ _ _)

theorem State.writeStack_changes (s : State) (a : Nat) (bytes : List Byte) : Same [.free, .hbm, .mem, .blocks] s (s.writeStack a bytes).st := by
  rw [State.writeStack_eq]
  refine Same.foldl_got _ _ _ (Same.refl _ s) (fun g c => ?_)
  have changed := g.st.changeBlock_changes c.1 c.2.length 4 true (fun _ => (c.2, 0)) true
  unfold writePiece
  dsimp only
  split
  · exact changed
  · exact changed

/-! ### Page records and page tables (R169 to R171) -/

theorem State.mgrRead_changes (s : State) (a n : Nat) : Same [.free, .hbm, .mem, .blocks] s (s.mgrRead a n).2.2 := s.readStack_changes a n true

theorem State.mgrWrite_changes (s : State) (a n v : Nat) : Same [.free, .hbm, .mem, .blocks] s (s.mgrWrite a n v).2 := s.writeStack_changes a _

theorem State.setPool_changes (s : State) (p k : Nat) (x : Pool) : Same [.parts] s (s.setPool p k x) := s.modPart_changes p _

theorem State.walk_changes (s : State) (q : Pool) (root g : Nat) : Same [.free, .hbm, .mem, .blocks] s (s.walk q root g).2.2.2 := by
  unfold State.walk
  have upper := s.mgrRead_changes (root + 8 * (g / 512)) 8
  generalize s.mgrRead (root + 8 * (g / 512)) 8 = x at upper ⊢
  obtain ⟨e, ok, u⟩ := x
  dsimp only at upper ⊢
  split
  · exact upper
  · exact upper
  · next f _ =>
    have lower := upper.trans (u.mgrRead_changes (f + 8 * (g % 512)) 8)
    generalize u.mgrRead (f + 8 * (g % 512)) 8 = x at lower ⊢
    obtain ⟨e', ok', v⟩ := x
    dsimp only at lower ⊢
    split
    · exact lower
    · exact lower

theorem State.adjust_changes (s : State) (p k i : Nat) (dRef dPin : Int) (mapped : Bool) :
    Same [.free, .hbm, .mem, .blocks, .parts] s (s.adjust p k i dRef dPin mapped).2.2 := by
  unfold State.adjust
  have read := (s.mgrRead_changes ((s.poolOf p k).recAddr i) 8).mono (l' := [.free, .hbm, .mem, .blocks, .parts]) (by simp)
  dsimp only
  generalize s.mgrRead ((s.poolOf p k).recAddr i) 8 = x at read ⊢
  obtain ⟨r, ok, u⟩ := x
  dsimp only at read ⊢
  have written : ∀ v, Same [.free, .hbm, .mem, .blocks, .parts] s (u.mgrWrite ((s.poolOf p k).recAddr i) 8 v).2 := fun v =>
    read.andThen (u.mgrWrite_changes _ 8 v)
  exact Same.iteThird read (Same.iteThird (written _) (Same.ite ((written _).andThen (State.setPool_changes _ _ _ _)) (written _)))

theorem State.takePage_changes (s : State) (p k : Nat) : Same [.free, .hbm, .mem, .blocks, .parts] s (s.takePage p k).2.2 := by
  unfold State.takePage
  dsimp only
  split
  · exact Same.refl _ s
  · next i _ =>
    have read := (s.mgrRead_changes ((s.poolOf p k).recAddr i) 8).mono (l' := [.free, .hbm, .mem, .blocks, .parts]) (by simp)
    generalize s.mgrRead ((s.poolOf p k).recAddr i) 8 = x at read ⊢
    obtain ⟨r, ok, u⟩ := x
    dsimp only at read ⊢
    split
    · exact read
    · have written := read.andThen (State.mgrWrite_changes u ((s.poolOf p k).recAddr i) 8 (pageRecord 1 0 0))
      split
      · exact written
      · exact written.andThen (State.setPool_changes _ _ _ _)

theorem State.takeFrame_changes (s : State) (p k : Nat) : Same [.free, .hbm, .mem, .blocks, .parts] s (s.takeFrame p k).2 := by
  unfold State.takeFrame
  generalize List.replicate 4096 (0 : Byte) = zeros
  have drawn := s.fresh_changes.mono (l' := [.free, .hbm, .mem, .blocks, .parts]) (by simp)
  generalize s.fresh = x at drawn ⊢
  obtain ⟨r, u⟩ := x
  dsimp only at drawn ⊢
  split
  · exact drawn
  · exact (drawn.andThen (State.setPool_changes _ _ _ _)).andThen (State.writeStack_changes _ _ _)

theorem State.freeFrame_changes (s : State) (p k a : Nat) : Same [.parts] s (s.freeFrame p k a) := s.setPool_changes _ _ _

theorem State.newPage_changes (s : State) (p k : Nat) : Same [.free, .hbm, .mem, .blocks, .parts] s (s.newPage p k).2.2 := by
  unfold State.newPage
  have taken := s.takePage_changes p k
  split
  · next e => rwa [e] at taken
  · next e => rwa [e] at taken

theorem State.mapPage_changes (s : State) (p k root g i : Nat) : Same [.free, .hbm, .mem, .blocks, .parts] s (s.mapPage p k root g i).2 := by
  have put : ∀ {u : State} (a v : Nat), Same [.free, .hbm, .mem, .blocks, .parts] s u →
      Same [.free, .hbm, .mem, .blocks, .parts] s (u.mgrWrite a 8 (2 ^ 63 + v)).2 := fun a v h => h.andThen (State.mgrWrite_changes _ a 8 _)
  unfold State.mapPage
  have read := (s.mgrRead_changes (root + 8 * (g / 512)) 8).mono (l' := [.free, .hbm, .mem, .blocks, .parts]) (by simp)
  generalize s.mgrRead (root + 8 * (g / 512)) 8 = x at read ⊢
  obtain ⟨e, ok, u⟩ := x
  dsimp only at read ⊢
  split
  · exact read
  · exact put _ _ read
  · have taken := read.trans (u.takeFrame_changes p k)
    generalize u.takeFrame p k = x at taken ⊢
    obtain ⟨_ | a, v⟩ := x
    · exact taken
    · have linked := put (root + 8 * (g / 512)) a taken
      exact Same.iteSecond linked (put _ _ linked)

theorem State.unmapEntry_changes (s : State) (p k a : Nat) : Same [.free, .hbm, .mem, .blocks, .parts] s (s.unmapEntry p k a).st := by
  unfold State.unmapEntry
  have read := (s.mgrRead_changes a 8).mono (l' := [.free, .hbm, .mem, .blocks, .parts]) (by simp)
  generalize s.mgrRead a 8 = x at read ⊢
  obtain ⟨e, ok, u⟩ := x
  dsimp only at read ⊢
  split
  · exact read
  · exact read
  · next i _ =>
    have adjusted := read.trans (u.adjust_changes p k i (-1) 0 true)
    generalize u.adjust p k i (-1) 0 true = x at adjusted ⊢
    obtain ⟨st, freed, v⟩ := x
    dsimp only at adjusted ⊢
    split
    · exact adjusted
    · exact adjusted.andThen (State.mgrWrite_changes _ _ _ _)

/-! ### Operations over many pages -/

/-- What every step of a manager operation leaves as it is, the operation does. -/
theorem Same.foldl_mgr {α : Type} {l : List Component} {s : State} (xs : List α) (f : Mgr → α → Mgr) (m : Mgr) (start : Same l s m.st)
    (h : ∀ m x, Same l m.st (f m x).st) : Same l s (xs.foldl f m).st := by
  induction xs generalizing m with
  | nil => exact start
  | cons x xs ih => exact ih (f m x) (start.trans (h m x))

theorem State.unmapFrom_changes (s : State) (p k root first : Nat) : Same [.free, .hbm, .mem, .blocks, .parts] s (s.unmapFrom p k root first).st := by
  unfold State.unmapFrom
  refine Same.foldl_mgr _ _ _ (Same.refl _ s) (fun m i => ?_)
  split
  · exact Same.refl _ _
  · have read := (m.st.mgrRead_changes (root + 8 * i) 8).mono (l' := [.free, .hbm, .mem, .blocks, .parts]) (by simp)
    generalize m.st.mgrRead (root + 8 * i) 8 = x at read ⊢
    obtain ⟨e, ok, u⟩ := x
    dsimp only at read ⊢
    split
    · exact read
    · exact read
    · next fr _ =>
      have entries := Same.foldl_mgr (List.range (512 - (first - i * 512))) (fun (m' : Mgr) j =>
          if m'.status ≠ 0 then m'
          else
            let u := m'.st.unmapEntry p k (fr + 8 * (first - i * 512 + j))
            { m' with status := u.status, pages := m'.pages ++ u.pages, freed := m'.freed + u.freed, st := u.st })
        { m with st := u } read (fun m' j => by
          split
          · exact Same.refl _ _
          · exact m'.st.unmapEntry_changes _ _ _)
      split
      · exact entries
      · have below := entries.andThen (State.mgrRead_changes _ fr (8 * (first - i * 512)))
        split
        · exact below
        · split
          · exact below
          · exact (below.andThen (State.mgrWrite_changes _ _ _ _)).andThen (State.freeFrame_changes _ _ _ _)

theorem State.pinPages_changes (s : State) (c lo hi : Nat) : Same [.free, .hbm, .mem, .blocks, .parts] s (s.pinPages c lo hi).st := by
  unfold State.pinPages
  refine Same.foldl_mgr _ _ _ (Same.refl _ s) (fun m j => ?_)
  dsimp only
  split
  · exact Same.refl _ _
  · have walked := (m.st.walk_changes (s.poolOf (s.ctx c).owner (s.ctx c).pool) (s.ctx c).root (lo / 256 + j)).mono
      (l' := [.free, .hbm, .mem, .blocks, .parts]) (by simp)
    generalize m.st.walk (s.poolOf (s.ctx c).owner (s.ctx c).pool) (s.ctx c).root (lo / 256 + j) = x at walked ⊢
    obtain ⟨st, w, a, u⟩ := x
    dsimp only at walked ⊢
    split
    · exact walked
    · split
      · exact walked
      · split
        · exact walked.trans (State.adjust_changes _ _ _ _ _ _ _)
        · exact walked.trans (State.adjust_changes _ _ _ _ _ _ _)

theorem State.unpinPages_changes (s : State) (p k : Nat) (pages : List (Nat × Nat)) :
    Same [.free, .hbm, .mem, .blocks, .parts] s (s.unpinPages p k pages).st :=
  Same.foldl_mgr _ _ _ (Same.refl _ s) (fun m e => m.st.adjust_changes p k e.2 0 (-1) false)

/-! ### Contexts: stamps and faults (R165, R171, R172) -/

theorem State.mgrStamp_changes (s : State) : Same [.free, .time] s s.mgrStamp.2 :=
  (s.stamp_changes .hub).trans ⟨fun c hc => by cases c <;> simp at hc <;> rfl⟩

theorem State.setCtx_changes (s : State) (c : Nat) (x : Ctx) : Same [.ctxs] s (s.setCtx c x) :=
  ⟨fun c hc => by cases c <;> simp at hc <;> rfl⟩

theorem State.stampCtx_changes (s : State) (c : Nat) (g : Ctx → Ctx) : Same [.free, .time, .ctxs] s (s.stampCtx c g) :=
  (s.mgrStamp_changes.mono (by simp)).andThen (State.setCtx_changes _ _ _)

theorem State.stampCtx_ctx (s : State) (c : Nat) (g : Ctx → Ctx) : ∃ v, (s.stampCtx c g).ctx c = { g (s.ctx c) with lastStamp := v } := by
  refine ⟨s.mgrStamp.1, ?_⟩
  unfold State.stampCtx
  dsimp only
  rw [State.setCtx_same, s.mgrStamp_changes.ctx]

theorem State.stampCtx_other (s : State) {c d : Nat} (g : Ctx → Ctx) (h : d ≠ c) : (s.stampCtx c g).ctx d = s.ctx d := by
  unfold State.stampCtx
  dsimp only
  rw [State.setCtx_other _ _ _ _ h, s.mgrStamp_changes.ctx]

theorem State.faultCtx_changes (s : State) (c : Nat) : Same [.ctxs, .free, .time, .log, .side] s (s.faultCtx c) := by
  obtain ⟨-, recorded⟩ := State.error_counts (s.setCtx c { s.ctx c with state := 3 }) pHIF
    { status := stDATA_ERROR, cls := cCONTEXT, unit := 11, unitId := 0, pt := (s.ctx c).owner, detail := c }
  exact ((State.setCtx_changes _ _ _).mono (by simp)).andThen recorded

theorem State.faultCtx_ctx (s : State) (c : Nat) : (s.faultCtx c).ctx c = { s.ctx c with state := 3 } := by
  obtain ⟨-, recorded⟩ := State.error_counts (s.setCtx c { s.ctx c with state := 3 }) pHIF
    { status := stDATA_ERROR, cls := cCONTEXT, unit := 11, unitId := 0, pt := (s.ctx c).owner, detail := c }
  unfold State.faultCtx
  dsimp only
  rw [recorded.ctx, State.setCtx_same]

theorem State.mgrBegin_changes (s : State) (o : Owner) : Same [.mgrQueue] s (s.mgrBegin o) :=
  ⟨fun c hc => by cases c <;> simp at hc <;> rfl⟩

theorem State.poolOf_congr {s t : State} {p : Nat} (h : (t.part p).pools = (s.part p).pools) (k : Nat) : t.poolOf p k = s.poolOf p k := by
  unfold State.poolOf
  rw [h]

theorem Same.poolOf {l : List Component} {s t : State} (h : Same l s t) (p k : Nat) (hl : .parts ∉ l := by simp) : t.poolOf p k = s.poolOf p k :=
  State.poolOf_congr (by rw [h.part p hl]) k

@[simp] theorem State.setPool_same (s : State) (p k : Nat) (x : Pool) : (s.setPool p k x).poolOf p k = x := by
  unfold State.setPool State.poolOf
  rw [State.modPart_same, Tbl.get_set_same]

end Sys2Proof.Machine

/-! ## O24: context commands (R164, R168 to R172, R176, R177, R376) -/

namespace Sys2Proof.Machine
open Sys2Proof

/-! ### A command that ends with a manager's stamp -/

theorem State.finishAt_changes (s : State) (f n status v : Nat) : Same [.free, .time, .slots] s (s.finishAt f n status v) :=
  (s.finishCmd_changes f n status).andThen (State.modCmd_changes _ _ _ _)

theorem State.replyAt_changes (s : State) (f n w v : Nat) : Same [.free, .time, .slots] s (s.replyAt f n w v) :=
  ((s.modCmd_changes f n _).mono (by simp)).trans (State.finishAt_changes _ _ _ _ _)

theorem State.finishAt_cmd (s : State) (f n status v : Nat) (live : (s.cmd f n).live = true) :
    ∃ x, (s.finishAt f n status v).cmd f n = { s.cmd f n with phase := .finished, status := status, stop := x } := by
  unfold State.finishAt State.finishCmd
  rw [if_pos live, State.modCmd_same]
  dsimp only
  rw [State.modCmd_same, (s.stamp_changes .hub).cmd]
  exact ⟨_, rfl⟩

theorem State.replyAt_finished (s : State) (f n w v : Nat) (live : (s.cmd f n).live = true) : Finished (s.replyAt f n w v) f n stOK [w] := by
  have kept : ((s.modCmd f n (fun c => { c with result := [BitVec.ofNat 64 w] })).cmd f n).live = true := by rw [State.modCmd_same]; exact live
  obtain ⟨x, ended⟩ := State.finishAt_cmd _ f n stOK v kept
  unfold Finished State.replyAt
  rw [ended, State.modCmd_same]
  exact ⟨rfl, rfl, rfl⟩

/-! ### A context command that begins or waits -/

section
variable {s b : State} {fn slot op : Nat} {check : State → Nat} {body : State → State}

theorem State.canTake_phase (take : s.canTake fn slot op = true) : (s.cmd fn slot).phase = .accepted ∧ (s.cmd fn slot).opcode = op := by
  simp only [State.canTake, State.mayTake, State.accepted, Bool.and_eq_true, beq_iff_eq] at take
  obtain ⟨⟨⟨⟨⟨phase, code⟩, -⟩, -⟩, -⟩, -⟩ := take
  exact ⟨phase, code⟩

theorem takeCtx_step (begun : b = (s.take fn slot).beginCmd fn slot) (take : s.canTake fn slot op = true) (passes : check (s.take fn slot) = 0) :
    takeCtx s fn slot op check body = .next (if !b.cmdMayBegin fn (b.cmd fn slot) || !b.mgrTurn (.command fn slot)
      then (b.modCmd fn slot (fun c => { c with stage := 1 })).mgrWait (.command fn slot) else body (b.mgrBegin (.command fn slot))) := by
  obtain ⟨phase, -⟩ := State.canTake_phase take
  have fresh : (((s.take fn slot).cmd fn slot).phase == .running) = false := by
    rw [(s.take_changes fn slot).cmd, phase]
    rfl
  unfold takeCtx takeWaiting
  dsimp only
  rw [if_pos take, if_neg (by simp [passes]), fresh, if_neg Bool.false_ne_true, ← begun]

theorem takeCtx_begins (begun : b = (s.take fn slot).beginCmd fn slot) (take : s.canTake fn slot op = true) (passes : check (s.take fn slot) = 0)
    (begins : b.cmdMayBegin fn (b.cmd fn slot) = true) (turn : b.mgrTurn (.command fn slot) = true) :
    takeCtx s fn slot op check body = .next (body (b.mgrBegin (.command fn slot))) := by
  rw [takeCtx_step begun take passes, begins, turn, if_neg (by simp)]

/-- The state in which a context command that has begun works. -/
structure CtxBegun (s u : State) (fn slot : Nat) : Prop where
  params : ∀ o w, (u.cmd fn slot).param o w = (s.cmd fn slot).param o w
  live : (u.cmd fn slot).live = true
  same : Same [.fns, .free, .time, .log, .fabric, .hbm, .parts, .slots, .mgrQueue] s u
  part : ∀ p, PartWoken (s.part p) (u.part p)

theorem ctxBegun (begun : b = (s.take fn slot).beginCmd fn slot) : CtxBegun s (b.mgrBegin (.command fn slot)) fn slot := by
  obtain ⟨start, cmd⟩ := s.begun_cmd fn slot
  have begins := State.mgrBegin_changes b (.command fn slot)
  rw [← begun] at cmd
  refine ⟨fun o w => ?_, ?_, ?_, fun p => ?_⟩
  · rw [begins.cmd, cmd]
    rfl
  · rw [begins.cmd, cmd]
    rfl
  · exact ((begun ▸ s.begun_changes fn slot).mono (by simp)).andThen begins
  · rw [begins.part, begun]
    exact s.begun_part fn slot p

end

section
variable {s u : State} {fn slot : Nat}

theorem CtxBegun.ctx (h : CtxBegun s u fn slot) (c : Nat) : u.ctx c = s.ctx c := h.same.ctx c

theorem CtxBegun.poolOf (h : CtxBegun s u fn slot) (p k : Nat) : u.poolOf p k = s.poolOf p k := by
  obtain ⟨a, r, part⟩ := h.part p
  exact State.poolOf_congr (by rw [part]) k

theorem CtxBegun.poolParams (h : CtxBegun s u fn slot) : (u.cmd fn slot).poolParams = (s.cmd fn slot).poolParams := by
  unfold Cmd.poolParams
  simp only [h.params]

theorem CtxBegun.quota (h : CtxBegun s u fn slot) (p : Nat) : (u.part p).ctxQuota = (s.part p).ctxQuota := by
  obtain ⟨a, r, part⟩ := h.part p
  rw [part]

theorem CtxBegun.freeEntry (h : CtxBegun s u fn slot) : u.freeEntry = s.freeEntry := by
  unfold State.freeEntry
  simp only [h.ctx]

theorem CtxBegun.ctxCount (h : CtxBegun s u fn slot) (p : Nat) : u.ctxCount p = s.ctxCount p := by
  unfold State.ctxCount
  rw [show u.ctxs = s.ctxs from h.same.agrees .ctxs (by simp)]

end

/-! ### CTX_POOL (R168, R169) -/

/-- Records written side by side read as they were written. -/
theorem readLe_writeBytes_records (m : BMap) (a w : Nat) (f : Nat → Nat) {n i : Nat} (h : i < n) :
    BMap.readLe (BMap.writeBytes m a ((List.range n).flatMap (fun i => natLe (f i) w))) (a + w * i) w = f i % 256 ^ w := by
  induction n with
  | zero => omega
  | succ n ih =>
    have before : ((List.range n).flatMap (fun i => natLe (f i) w)).length = w * n := by
      rw [flatMap_natLe_length, List.length_range, Nat.mul_comm]
    rw [List.range_succ, List.flatMap_append, BMap.writeBytes_append, before, List.flatMap_singleton]
    rcases Nat.lt_succ_iff_lt_or_eq.1 h with earlier | rfl
    · have : w * (i + 1) ≤ w * n := Nat.mul_le_mul_left w earlier
      rw [Nat.mul_add_one] at this
      exact (BMap.readLe_writeLe_outside _ _ w _ _ w (by omega)).trans (ih earlier)
    · exact BMap.readLe_writeLe _ _ _ _

theorem Pool.freshRecords_length (q : Pool) : q.freshRecords.length = 8 * q.pages := by
  unfold Pool.freshRecords
  rw [flatMap_natLe_length, List.length_range, Nat.mul_comm]

theorem BMap.readBytes_clear_outside (m : BMap) (a n : Nat) {b k : Nat} (h : b + k ≤ a ∨ a + n ≤ b) :
    BMap.readBytes (BMap.clear m a n) b k = BMap.readBytes m b k := by
  induction k generalizing b with
  | zero => rfl
  | succ k ih => rw [BMap.readBytes, BMap.readBytes, BMap.read_clear, if_neg (by omega), ih (by omega)]

/-- A record of a free page is a number of 64 bits. -/
theorem pageRecord_lt {link : Nat} (h : link < 2 ^ 32) : pageRecord 0 0 link % 256 ^ 8 = pageRecord 0 0 link := by
  unfold pageRecord
  omega

theorem apart_of_overlaps {x y : Nat × Nat} (h : overlaps x y = false) (hx : x.2 ≠ 0) (hy : y.2 ≠ 0) : x.1 + x.2 ≤ y.1 ∨ y.1 + y.2 ≤ x.1 := by
  simp [overlaps, hx, hy] at h
  omega

theorem overlaps_of_disjoint {x y z : Nat × Nat} {rs : List (Nat × Nat)} (h : disjointRanges (x :: y :: z :: rs) = true) : overlaps y z = false := by
  simp only [disjointRanges, List.any_cons, Bool.and_eq_true, Bool.not_eq_true', Bool.or_eq_false_iff] at h
  exact h.2.1.1

/-- What the checks of CTX_POOL give for a pool with pages: few enough of them, and records and tables apart. -/
theorem poolCheck_apart {s : State} {f : Nat} {c : Cmd} (ok : s.poolCheck f c = 0) (some' : c.poolParams.pages ≠ 0) :
    c.poolParams.pages ≤ 2 ^ 23 ∧ (c.poolParams.metaAddr + 8 * c.poolParams.pages ≤ c.poolParams.tableAddr ∨
      c.poolParams.tableAddr + 4096 * c.poolParams.tableFrames ≤ c.poolParams.metaAddr) := by
  unfold State.poolCheck at ok
  dsimp only at ok
  split at ok
  · cases ok
  split at ok
  · cases ok
  next forms =>
  split at ok
  · cases ok
  split at ok
  · cases ok
  next placed =>
  have apart := overlaps_of_disjoint (by simpa [poolRanges] using (not_or.1 placed).2)
  have := apart_of_overlaps apart (by dsimp only; omega) (by dsimp only; omega)
  dsimp only at this
  omega

theorem State.clearMem_changes (s : State) (a n : Nat) : Same [.mem, .blocks] s (s.clearMem a n) :=
  ⟨fun c hc => by cases c <;> simp at hc <;> rfl⟩

section
variable {s b : State} {fn slot : Nat}

theorem ctxPool_defines {q : Pool} (begun : b = (s.take fn slot).beginCmd fn slot) (begins : b.cmdMayBegin fn (b.cmd fn slot) = true)
    (turn : b.mgrTurn (.command fn slot) = true) (take : s.canTake fn slot opCTX_POOL = true) (ok : s.poolCheck fn (s.cmd fn slot) = 0)
    (pool : q = (s.cmd fn slot).poolParams) (sound : q.pages = 0 ∨ Sound b fn q.metaAddr (8 * q.pages)) :
    ∃ t, exec (.ctxPool fn slot) s = .next t ∧ (t.cmd fn slot).phase = .finished ∧ (t.cmd fn slot).status = stOK ∧ t.ctxs = s.ctxs ∧
      t.poolOf fn ((s.cmd fn slot).param 0 1) = (if q.pages = 0 then {} else { q with freeHead := some 0 }) ∧
      (∀ i, i < q.pages → BMap.readLe t.mem (q.metaAddr + 8 * i) 8 = pageRecord 0 0 (if i + 1 = q.pages then noPage else i + 1)) ∧
      (q.pages ≠ 0 → ∀ i, i < 4096 * q.tableFrames → BMap.read t.mem (q.tableAddr + i) = 0) := by
  have run : exec (.ctxPool fn slot) s = execCtxPool fn slot s := rfl
  unfold execCtxPool at run
  rw [takeCtx_begins begun take ok begins turn] at run
  have here := ctxBegun begun
  obtain ⟨u, hu⟩ : ∃ u, u = b.mgrBegin (.command fn slot) := ⟨_, rfl⟩
  rw [← hu] at run here
  have stamped := u.mgrStamp_changes
  dsimp only at run
  rw [here.poolParams, here.params, ← pool] at run
  by_cases none' : q.pages = 0
  · rw [if_pos none'] at run
    have set := u.mgrStamp.2.setPool_changes fn ((s.cmd fn slot).param 0 1) {}
    have ended := (u.mgrStamp.2.setPool fn ((s.cmd fn slot).param 0 1) {}).finishAt_changes fn slot stOK u.mgrStamp.1
    obtain ⟨x, cmd⟩ := State.finishAt_cmd (u.mgrStamp.2.setPool fn ((s.cmd fn slot).param 0 1) {}) fn slot stOK u.mgrStamp.1
      (by rw [set.cmd, stamped.cmd]; exact here.live)
    refine ⟨_, run, by rw [cmd], by rw [cmd], ?_, ?_, by omega, fun h => absurd none' h⟩
    · exact ((((here.same.mono (by simp)).andThen stamped).andThen set).andThen ended (l := [.fns, .free, .time, .log, .fabric, .hbm, .parts,
        .slots, .mgrQueue])).agrees .ctxs (by simp)
    · rw [ended.poolOf, State.setPool_same, if_pos none']
  · rw [if_neg none'] at run
    obtain ⟨few, apart⟩ := poolCheck_apart ok (pool ▸ none')
    rw [← pool] at few apart
    have whole : Sound u.mgrStamp.2 fn q.metaAddr (8 * q.pages) :=
      stamped.metered.sound (by simp) (by simp) (((hu ▸ b.mgrBegin_changes _).metered).sound (by simp) (by simp) (sound.resolve_left none'))
    obtain ⟨w, write, records, met⟩ := u.mgrStamp.2.writeStack_run q.metaAddr q.freshRecords
      (fun a first last => whole.blockAt first (q.freshRecords_length ▸ last))
    rw [write] at run
    dsimp only at run
    rw [if_neg (by simp)] at run
    obtain ⟨v, hv⟩ : ∃ v, v = (w.clearMem q.tableAddr (4096 * q.tableFrames)).setPool fn ((s.cmd fn slot).param 0 1) { q with freeHead := some 0 } :=
      ⟨_, rfl⟩
    rw [← hv] at run
    have built : Same [.mem, .blocks, .parts] w v :=
      hv ▸ ((State.clearMem_changes _ _ _).mono (by simp)).andThen (State.setPool_changes _ _ _ _)
    have mem : v.mem = BMap.clear w.mem q.tableAddr (4096 * q.tableFrames) := by rw [hv]; rfl
    have ended := v.finishAt_changes fn slot stOK u.mgrStamp.1
    obtain ⟨x, cmd⟩ := v.finishAt_cmd fn slot stOK u.mgrStamp.1 (by rw [built.cmd, met.same.cmd, stamped.cmd]; exact here.live)
    refine ⟨_, run, by rw [cmd], by rw [cmd], ?_, ?_, fun i hi => ?_, fun _ i hi => ?_⟩
    · calc (v.finishAt fn slot stOK u.mgrStamp.1).ctxs = v.ctxs := ended.agrees .ctxs (by simp)
        _ = w.ctxs := built.agrees .ctxs (by simp)
        _ = u.mgrStamp.2.ctxs := met.same.agrees .ctxs (by simp)
        _ = u.ctxs := stamped.agrees .ctxs (by simp)
        _ = s.ctxs := here.same.agrees .ctxs (by simp)
    · rw [ended.poolOf, hv, State.setPool_same, if_neg none']
    · have link : (if i + 1 = q.pages then noPage else i + 1) < 2 ^ 32 := by
        unfold noPage
        split <;> omega
      rw [ended.mem, mem, BMap.readLe, BMap.readBytes_clear_outside _ _ _ (by omega), records]
      exact (readLe_writeBytes_records _ _ 8 _ hi).trans (pageRecord_lt link)
    · rw [ended.mem, mem, BMap.read_clear, if_pos (by omega)]

end

/-! ### Frames and directory entries (R164, R170) -/

theorem findFrom_some {p : Nat → Bool} {start fuel i : Nat} (h : findFrom p start fuel = some i) :
    p i = true ∧ start ≤ i ∧ i < start + fuel ∧ ∀ j, start ≤ j → j < i → p j = false := by
  induction fuel generalizing start with
  | zero => cases h
  | succ fuel ih =>
    unfold findFrom at h
    split at h
    · next holds =>
      cases h
      exact ⟨holds, Nat.le_refl _, by omega, by omega⟩
    · next fails =>
      obtain ⟨holds, after, before, first⟩ := ih h
      refine ⟨holds, by omega, by omega, fun j hj hi => ?_⟩
      rcases Nat.eq_or_lt_of_le hj with rfl | later
      · simpa using fails
      · exact first j later hi

theorem findFrom_isSome {p : Nat → Bool} {start fuel j : Nat} (after : start ≤ j) (before : j < start + fuel) (holds : p j = true) :
    ∃ i, findFrom p start fuel = some i := by
  induction fuel generalizing start with
  | zero => omega
  | succ fuel ih =>
    unfold findFrom
    split
    · exact ⟨_, rfl⟩
    · next fails =>
      refine ih ?_ (by omega)
      rcases Nat.eq_or_lt_of_le after with rfl | later
      · exact absurd holds fails
      · exact later

section
variable {s u : State} {p k e : Nat}

theorem State.freeEntry_least (h : s.freeEntry = some e) : (s.ctx e).state = 0 ∧ (∀ i, i < e → (s.ctx i).state ≠ 0) ∧ e < dirEntries := by
  obtain ⟨free, -, bound, least⟩ := findFrom_some h
  exact ⟨by simpa using free, fun i hi => by simpa using least i (Nat.zero_le i) hi, by omega⟩

/-- A pool with a free frame gives one, marked as used. -/
theorem State.takeFrame_takes {q : Pool} (pool : q = s.poolOf p k) (free : ∃ i, i < q.tableFrames ∧ Tbl.get false q.framesUsed i = false) :
    ∃ i w, s.takeFrame p k = (some (q.tableAddr + 4096 * i), w) ∧ i < q.tableFrames ∧ Tbl.get false q.framesUsed i = false ∧
      Tbl.get false (w.poolOf p k).framesUsed i = true := by
  obtain ⟨i, inside, unused⟩ := free
  obtain ⟨r, u, drawn⟩ : ∃ r u, s.fresh = (r, u) := ⟨_, _, rfl⟩
  have start : r % max q.tableFrames 1 < q.tableFrames := by
    have := Nat.mod_lt r (show 0 < max q.tableFrames 1 by omega)
    omega
  have found : ∃ j, findFrom (fun i => !(Tbl.get false q.framesUsed (i % q.tableFrames))) (r % max q.tableFrames 1) q.tableFrames = some j := by
    rcases Nat.lt_or_ge i (r % max q.tableFrames 1) with before | after
    · exact findFrom_isSome (j := i + q.tableFrames) (by omega) (by omega) (by simp [Nat.mod_eq_of_lt inside, unused])
    · exact findFrom_isSome after (by omega) (by simp [Nat.mod_eq_of_lt inside, unused])
  obtain ⟨j, found⟩ := found
  obtain ⟨holds, -⟩ := findFrom_some found
  have step : s.takeFrame p k = (some (q.tableAddr + 4096 * (j % q.tableFrames)),
      ((u.setPool p k { q with framesUsed := Tbl.set false q.framesUsed (j % q.tableFrames) true }).writeStack
        (q.tableAddr + 4096 * (j % q.tableFrames)) (List.replicate 4096 0)).st) := by
    unfold State.takeFrame
    rw [drawn, ← pool]
    dsimp only
    rw [found]
  refine ⟨j % q.tableFrames, _, step, Nat.mod_lt _ (by omega), by simpa using holds, ?_⟩
  · rw [(State.writeStack_changes _ _ _).poolOf, State.setPool_same]
    dsimp only
    rw [Tbl.get_set_same]

theorem State.newEntry_takes {q : Pool} (quota : s.ctxCount p < (s.part p).ctxQuota * 1024) (entry : s.freeEntry = some e) (pool : q = s.poolOf p k)
    (free : ∃ i, i < q.tableFrames ∧ Tbl.get false q.framesUsed i = false) :
    ∃ i w, s.newEntry p k = some (e, q.tableAddr + 4096 * i, w) ∧ i < q.tableFrames ∧ Tbl.get false q.framesUsed i = false ∧
      Tbl.get false (w.poolOf p k).framesUsed i = true ∧ Same [.free, .hbm, .mem, .blocks, .parts] s w := by
  obtain ⟨i, w, take, inside, unused, used⟩ := State.takeFrame_takes pool free
  have changes := s.takeFrame_changes p k
  rw [take] at changes
  refine ⟨i, w, ?_, inside, unused, used, changes⟩
  unfold State.newEntry
  rw [if_neg (by omega), entry]
  dsimp only
  rw [take]

theorem State.newEntry_changes {a : Nat} {w : State} (h : s.newEntry p k = some (e, a, w)) : Same [.free, .hbm, .mem, .blocks, .parts] s w := by
  have changes := s.takeFrame_changes p k
  unfold State.newEntry at h
  split at h
  · cases h
  · split at h
    · cases h
    · split at h
      · cases h
      · next taken =>
        cases h
        rwa [taken] at changes

end

section
variable {s b : State} {fn slot : Nat}

/-! ### CTX_OPEN and CTX_QUERY (R176, R376) -/

/-- The entry that a CTX_OPEN makes, with its level-1 frame and its stamp (R176). -/
def Cmd.opened (c : Cmd) (owner root v : Nat) : Ctx where
  state := 1
  owner := owner
  fmt := c.param 0 1
  dhCode := c.param 1 1
  headsM1 := c.param 2 1
  pool := c.param 3 1
  seg := c.param 4 2
  root := root
  openStamp := v
  lastStamp := v

theorem ctxOpen_opens {e : Nat} {q : Pool} (begun : b = (s.take fn slot).beginCmd fn slot) (begins : b.cmdMayBegin fn (b.cmd fn slot) = true)
    (turn : b.mgrTurn (.command fn slot) = true) (take : s.canTake fn slot opCTX_OPEN = true) (ok : s.openCheck fn (s.cmd fn slot) = 0)
    (quota : s.ctxCount fn < (s.part fn).ctxQuota * 1024) (entry : s.freeEntry = some e) (pool : q = s.poolOf fn ((s.cmd fn slot).param 3 1))
    (free : ∃ i, i < q.tableFrames ∧ Tbl.get false q.framesUsed i = false) :
    ∃ t, exec (.ctxOpen fn slot) s = .next t ∧ Finished t fn slot stOK [e] ∧ (s.ctx e).state = 0 ∧ (∀ i, i < e → (s.ctx i).state ≠ 0) ∧
      (t.ctx e).state = 1 ∧ (t.ctx e).owner = fn ∧ (t.ctx e).pos = 0 ∧ (t.ctx e).mapped = 0 ∧ (t.ctx e).seg = (s.cmd fn slot).param 4 2 ∧
      (∃ i, i < q.tableFrames ∧ Tbl.get false q.framesUsed i = false ∧ (t.ctx e).root = q.tableAddr + 4096 * i ∧
        Tbl.get false (t.poolOf fn ((s.cmd fn slot).param 3 1)).framesUsed i = true) ∧
      (t.ctx e).openStamp = (t.ctx e).lastStamp ∧ (∀ c, c ≠ e → t.ctx c = s.ctx c) := by
  have run : exec (.ctxOpen fn slot) s = execCtxOpen fn slot s := rfl
  unfold execCtxOpen at run
  rw [takeCtx_begins begun take ok begins turn] at run
  have here := ctxBegun begun
  generalize b.mgrBegin (.command fn slot) = u at run here
  obtain ⟨lowest, least, -⟩ := State.freeEntry_least entry
  obtain ⟨i, w, new, inside, unused, used, taken⟩ := State.newEntry_takes (s := u) (p := fn) (k := (s.cmd fn slot).param 3 1)
    (by rw [here.ctxCount, here.quota]; exact quota) (here.freeEntry.trans entry) (pool.trans (here.poolOf _ _).symm) free
  have stamped := w.mgrStamp_changes
  dsimp only at run
  simp only [here.params] at run
  rw [new] at run
  dsimp only at run
  obtain ⟨x, hx⟩ : ∃ x, x = (s.cmd fn slot).opened fn (q.tableAddr + 4096 * i) w.mgrStamp.1 := ⟨_, rfl⟩
  replace run : exec (.ctxOpen fn slot) s = .next ((w.mgrStamp.2.setCtx e x).replyAt fn slot e w.mgrStamp.1) := by rw [run, hx]; rfl
  have set := w.mgrStamp.2.setCtx_changes e x
  have replied := (w.mgrStamp.2.setCtx e x).replyAt_changes fn slot e w.mgrStamp.1
  have opened : ((w.mgrStamp.2.setCtx e x).replyAt fn slot e w.mgrStamp.1).ctx e = x := by rw [replied.ctx, State.setCtx_same]
  refine ⟨_, run, State.replyAt_finished _ _ _ _ _ ?_, lowest, least, ?_⟩
  · rw [set.cmd, stamped.cmd, taken.cmd]
    exact here.live
  · rw [opened, hx]
    refine ⟨rfl, rfl, rfl, rfl, rfl, ⟨i, inside, unused, rfl, ?_⟩, rfl, fun c hc => ?_⟩
    · rw [← hx, replied.poolOf, set.poolOf, stamped.poolOf]
      exact used
    · rw [← hx, replied.ctx, State.setCtx_other _ _ _ _ hc, stamped.ctx, taken.ctx, here.ctx]

theorem ctxQuery_answers (take : s.canTake fn slot opCTX_QUERY = true) (zero : (s.cmd fn slot).param 4 4 = 0) (out : (s.cmd fn slot).param 8 8 = 0)
    (ok : s.ctxCheck fn ((s.cmd fn slot).param 0 4) true = 0) :
    ∃ t, exec (.ctxQuery fn slot) s = .next t ∧
      Finished t fn slot stOK ((List.range 4).map (fun i => leNat ((ctxBytes (s.ctx ((s.cmd fn slot).param 0 4))).drop (8 * i) |>.take 8))) ∧
      t.ctxs = s.ctxs ∧ t.mem = s.mem := by
  have run : exec (.ctxQuery fn slot) s = execCtxQuery fn slot s := rfl
  have check : (s.take fn slot).ctxCheck fn ((s.cmd fn slot).param 0 4) true = 0 := ok
  have taken := s.take_changes fn slot
  unfold execCtxQuery takeOp at run
  rw [if_pos take] at run
  dsimp only at run
  rw [taken.cmd, zero, out, if_neg (by simp), check, if_neg (by simp), if_neg (by simp), if_pos rfl, taken.ctx] at run
  obtain ⟨start, cmd⟩ := s.begun_cmd fn slot
  have begun := s.begun_changes fn slot
  generalize (s.take fn slot).beginCmd fn slot = b at run cmd begun
  have stamped := b.mgrStamp_changes
  generalize ctxBytes (s.ctx ((s.cmd fn slot).param 0 4)) = bytes at run ⊢
  obtain ⟨v, hv⟩ : ∃ v, v = b.mgrStamp.2.modCmd fn slot (fun x => { x with result :=
      [BitVec.ofNat 64 (leNat (bytes.take 8)), BitVec.ofNat 64 (leNat ((bytes.drop 8).take 8)),
       BitVec.ofNat 64 (leNat ((bytes.drop 16).take 8)), BitVec.ofNat 64 (leNat ((bytes.drop 24).take 8))] }) := ⟨_, rfl⟩
  rw [← hv] at run
  have set : Same [.slots] b.mgrStamp.2 v := hv ▸ State.modCmd_changes _ _ _ _
  have ended := v.finishAt_changes fn slot stOK b.mgrStamp.1
  have here : v.cmd fn slot = { s.cmd fn slot with phase := .running, start := start, result :=
      [BitVec.ofNat 64 (leNat (bytes.take 8)), BitVec.ofNat 64 (leNat ((bytes.drop 8).take 8)),
       BitVec.ofNat 64 (leNat ((bytes.drop 16).take 8)), BitVec.ofNat 64 (leNat ((bytes.drop 24).take 8))] } := by
    rw [hv, State.modCmd_same, stamped.cmd, cmd]
  obtain ⟨x, done⟩ := v.finishAt_cmd fn slot stOK b.mgrStamp.1 (by rw [here]; rfl)
  refine ⟨_, run, ?_, ?_, ?_⟩
  · unfold Finished
    rw [done, here]
    exact ⟨rfl, rfl, rfl⟩
  · calc (v.finishAt fn slot stOK b.mgrStamp.1).ctxs = v.ctxs := ended.agrees .ctxs (by simp)
      _ = b.mgrStamp.2.ctxs := set.agrees .ctxs (by simp)
      _ = b.ctxs := stamped.agrees .ctxs (by simp)
      _ = s.ctxs := begun.agrees .ctxs (by simp)
  · rw [ended.mem, set.mem, stamped.mem, begun.mem]

end

end Sys2Proof.Machine

namespace Sys2Proof.Machine
open Sys2Proof

/-! ### Waiting while an APPEND runs (R177) -/

theorem State.mgrWait_changes (s : State) (o : Owner) : Same [.mgrQueue] s (s.mgrWait o) := by
  unfold State.mgrWait
  exact Same.ite (Same.refl _ s) ⟨fun c hc => by cases c <;> simp at hc <;> rfl⟩

theorem State.mem_mgrWait (s : State) (o : Owner) : o ∈ (s.mgrWait o).mgrQueue := by
  unfold State.mgrWait
  split
  · next h => exact List.elem_iff.1 h
  · simp

section
variable {s b u : State} {fn slot c op : Nat} {check : State → Nat} {body : State → State}

theorem State.cmdMayBegin_appending {x : Cmd} (pool : x.opcode ≠ opCTX_POOL) (open' : x.opcode ≠ opCTX_OPEN)
    (used : (s.ctx (x.param 0 4)).state ≠ 0) (appending : (s.ctx (x.param 0 4)).appending = true) : s.cmdMayBegin fn x = false := by
  unfold State.cmdMayBegin
  rw [if_neg pool, if_neg open']
  simp [used, appending]

/-- A command on a context that an APPEND runs on waits in the manager's queue. -/
theorem takeCtx_waits (begun : b = (s.take fn slot).beginCmd fn slot) (context : c = (s.cmd fn slot).param 0 4) (used : (s.ctx c).state ≠ 0)
    (appending : (s.ctx c).appending = true) (take : s.canTake fn slot op = true) (pool : op ≠ opCTX_POOL) (open' : op ≠ opCTX_OPEN)
    (passes : check (s.take fn slot) = 0) :
    ∃ t, takeCtx s fn slot op check body = .next t ∧ (t.cmd fn slot).phase = .running ∧ t.ctxs = s.ctxs ∧ t.mem = s.mem ∧
      .command fn slot ∈ t.mgrQueue := by
  obtain ⟨start, cmd⟩ := s.begun_cmd fn slot
  have kept := s.begun_changes fn slot
  rw [← begun] at cmd kept
  obtain ⟨-, code⟩ := State.canTake_phase take
  have named : (b.cmd fn slot).param 0 4 = c := by rw [cmd, context]; rfl
  have coded : (b.cmd fn slot).opcode = op := by rw [cmd, ← code]; rfl
  have stands : b.cmdMayBegin fn (b.cmd fn slot) = false :=
    State.cmdMayBegin_appending (coded ▸ pool) (coded ▸ open') (by rw [named, kept.ctx]; exact used) (by rw [named, kept.ctx]; exact appending)
  have step := takeCtx_step (body := body) begun take passes
  rw [stands, if_pos (by simp)] at step
  have noted := b.modCmd_changes fn slot (fun x => { x with stage := 1 })
  have waits := (b.modCmd fn slot (fun x => { x with stage := 1 })).mgrWait_changes (.command fn slot)
  refine ⟨_, step, ?_, ?_, ?_, State.mem_mgrWait _ _⟩
  · rw [waits.cmd, State.modCmd_same, cmd]
  · calc
      _ = (b.modCmd fn slot (fun x => { x with stage := 1 })).ctxs := waits.agrees .ctxs (by simp)
      _ = b.ctxs := noted.agrees .ctxs (by simp)
      _ = s.ctxs := kept.agrees .ctxs (by simp)
  · rw [waits.mem, noted.mem, kept.mem]

/-- What passes the check of an open context passes the one that a FAULTED context passes too. -/
theorem State.ctxCheck_faulted (h : s.ctxCheck fn c false = 0) : s.ctxCheck fn c true = 0 := by
  unfold State.ctxCheck at h ⊢
  dsimp only at h ⊢
  split at h
  · cases h
  · split at h
    · cases h
    · split at h
      · next outside owner opened =>
        rw [if_neg outside, if_neg owner, if_pos (opened.imp_right (fun f => absurd f.1 (by simp)))]
      · cases h

theorem State.ctxCheck_open (h : s.ctxCheck fn c false = 0) : (s.ctx c).state = 1 := by
  unfold State.ctxCheck at h
  dsimp only at h
  split at h
  · cases h
  · split at h
    · cases h
    · split at h
      · next opened => exact opened.resolve_right (fun f => absurd f.1 (by simp))
      · cases h

theorem ctxTruncate_check (ok : s.ctxCheck fn ((s.cmd fn slot).param 0 4) false = 0)
    (shorter : (s.cmd fn slot).param 4 4 ≤ (s.ctx ((s.cmd fn slot).param 0 4)).pos) :
    (if s.ctxCheck fn ((s.cmd fn slot).param 0 4) false ≠ 0 then s.ctxCheck fn ((s.cmd fn slot).param 0 4) false
      else if (s.ctx ((s.cmd fn slot).param 0 4)).pos < (s.cmd fn slot).param 4 4 then stBAD_PARAM else 0) = 0 := by
  rw [if_neg (by simp [ok]), if_neg (by omega)]

/-! ### CTX_TRUNCATE (R176) -/

theorem State.truncateCtx_done {n : Nat} (ok : (s.truncateCtx c n).1 = 0) :
    ∃ v w, s.truncateCtx c n = (0, v, w) ∧ (w.ctx c).pos = n ∧ (w.ctx c).state = (s.ctx c).state ∧
      Same [.free, .time, .hbm, .mem, .blocks, .parts, .ctxs] s w := by
  have stamped := s.mgrStamp_changes.mono (l' := [.free, .time, .hbm, .mem, .blocks, .parts, .ctxs]) (by simp)
  have unmapped := stamped.andThen (s.mgrStamp.2.unmapFrom_changes (s.ctx c).owner (s.ctx c).pool (s.ctx c).root (ceilDiv n 256))
  unfold State.truncateCtx at ok ⊢
  dsimp only at ok ⊢
  generalize s.mgrStamp.2.unmapFrom (s.ctx c).owner (s.ctx c).pool (s.ctx c).root (ceilDiv n 256) = r at ok unmapped ⊢
  split at ok
  · next failed => exact absurd ok failed
  · next done =>
    rw [if_neg done]
    refine ⟨_, _, rfl, ?_, ?_, unmapped.andThen (State.setCtx_changes _ _ _)⟩
    · rw [State.setCtx_same]
    · rw [State.setCtx_same]

theorem ctxTruncate_cuts (begun : b = (s.take fn slot).beginCmd fn slot) (context : c = (s.cmd fn slot).param 0 4)
    (begins : b.cmdMayBegin fn (b.cmd fn slot) = true) (turn : b.mgrTurn (.command fn slot) = true)
    (take : s.canTake fn slot opCTX_TRUNCATE = true) (ok : s.ctxCheck fn c false = 0) (shorter : (s.cmd fn slot).param 4 4 ≤ (s.ctx c).pos)
    (done : ((b.mgrBegin (.command fn slot)).truncateCtx c ((s.cmd fn slot).param 4 4)).1 = 0) :
    ∃ t, exec (.ctxTruncate fn slot) s = .next t ∧ (t.ctx c).pos = (s.cmd fn slot).param 4 4 ∧ (t.ctx c).state = 1 ∧
      Finished t fn slot stOK [(t.ctx c).mapped] := by
  have run : exec (.ctxTruncate fn slot) s = execCtxTruncate fn slot s := rfl
  have opened := State.ctxCheck_open ok
  have check := ctxTruncate_check (slot := slot) (context ▸ ok) (context ▸ shorter)
  unfold execCtxTruncate at run
  rw [takeCtx_begins begun take check begins turn] at run
  have here := ctxBegun begun
  generalize b.mgrBegin (.command fn slot) = u at run here done
  obtain ⟨v, w, cut, pos, state, changes⟩ := State.truncateCtx_done done
  simp only [here.params, ← context, cut] at run
  rw [if_neg (by simp)] at run
  have replied := w.replyAt_changes fn slot (w.ctx c).mapped v
  refine ⟨_, run, ?_, ?_, ?_⟩
  · rw [replied.ctx, pos]
  · rw [replied.ctx, state, here.ctx, opened]
  · rw [replied.ctx]
    exact State.replyAt_finished _ _ _ _ _ (by rw [changes.cmd]; exact here.live)

/-! ### CTX_FREE (R170, R176, R177) -/

theorem State.freeCtx_done (ok : (s.freeCtx c).1 = 0) :
    ∃ v freed w, s.freeCtx c = (0, v, freed, w) ∧ w.ctx c = {} ∧ Same [.free, .time, .hbm, .mem, .blocks, .parts, .ctxs] s w := by
  have stamped := s.mgrStamp_changes.mono (l' := [.free, .time, .hbm, .mem, .blocks, .parts, .ctxs]) (by simp)
  have unmapped := stamped.andThen (s.mgrStamp.2.unmapFrom_changes (s.ctx c).owner (s.ctx c).pool (s.ctx c).root 0)
  unfold State.freeCtx at ok ⊢
  dsimp only at ok ⊢
  generalize s.mgrStamp.2.unmapFrom (s.ctx c).owner (s.ctx c).pool (s.ctx c).root 0 = r at ok unmapped ⊢
  split at ok
  · next failed => exact absurd ok failed
  · next done =>
    rw [if_neg done]
    exact ⟨_, _, _, rfl, State.setCtx_same _ _ _, (unmapped.andThen (State.freeFrame_changes _ _ _ _)).andThen (State.setCtx_changes _ _ _)⟩

theorem State.atpFault_changes (s : State) (n job status addr detail : Nat) :
    Same [.free, .time, .log, .side, .parts, .tiles, .atps, .ctxs, .link, .tierReqs, .grants, .mgrQueue, .fabric] s
      (s.atpFault n job status addr detail) := by
  unfold State.atpFault
  split
  · exact (s.stopAtp_changes n).mono (by simp)
  · obtain ⟨-, recorded⟩ := State.error_counts (s.stamp (.core (dieOfAtp n))).2 (pDCTL (dieOfAtp n)) _
    exact (((((s.stamp_changes _).mono (by simp)).andThen recorded).andThen (State.noteStop_changes _ _ _ _)).andThen
      (State.stopAtp_changes _ _)).andThen (State.stopAtBoundary_changes _ _ _ _)

/-! A FREE entry stays FREE while pipelines stop: an APPEND that ends only clears the entry's mark of it. -/

theorem State.endAppend_free (free : s.ctx c = {}) (j : Job) : (s.endAppend j).ctx c = {} := by
  unfold State.endAppend
  split
  · by_cases same : c = j.ctxNum
    · subst same
      rw [State.setCtx_same, free]
    · rw [State.setCtx_other _ _ _ _ same, free]
  · exact free

theorem forEach_free {α : Type} (xs : List α) (f : α → State → State) (free : s.ctx c = {}) (h : ∀ x st, st.ctx c = {} → (f x st).ctx c = {}) :
    (forEach xs s f).ctx c = {} := by
  induction xs generalizing s with
  | nil => exact free
  | cons x xs ih => exact ih (h x s free)

theorem State.stopAtp_free (free : s.ctx c = {}) (n : Nat) : (s.stopAtp n).ctx c = {} := by
  unfold State.stopAtp
  split
  · rw [(State.orphanRequests_changes _ _ _).ctx, (State.modAtp_changes _ _ _).ctx]
    exact forEach_free _ _ free (fun j st h => State.endAppend_free h j)
  · exact free

theorem State.stopAtBoundary_free (free : s.ctx c = {}) (p g status : Nat) : (s.stopAtBoundary p g status).ctx c = {} := by
  unfold State.stopAtBoundary
  refine forEach_free _ _ ?_ (fun n st h => ?_)
  · rw [(Same.forEach (l := [.tiles]) _ s _ (fun t st => st.modTile_changes t _)).ctx, free]
  · dsimp only
    split
    · exact h
    · split
      · exact State.stopAtp_free h n
      · rw [(st.setAtp_changes n _).ctx, h]

theorem State.atpFault_free (free : s.ctx c = {}) (n job status addr detail : Nat) : (s.atpFault n job status addr detail).ctx c = {} := by
  unfold State.atpFault
  split
  · exact State.stopAtp_free free n
  · obtain ⟨-, recorded⟩ := State.error_counts (s.stamp (.core (dieOfAtp n))).2 (pDCTL (dieOfAtp n)) _
    refine State.stopAtBoundary_free (State.stopAtp_free ?_ n) _ _ _
    exact ((State.noteStop_changes _ _ _ _).ctx c).trans ((recorded.ctx c).trans (((s.stamp_changes _).ctx c).trans free))

/-- The end of a CTX_FREE: the pipelines that wait on the context stop (R170). -/
def State.stopWaiting (s : State) (c : Nat) : State :=
  forEach (List.range 16) s (fun a t =>
    match (t.atp a).active.find? (fun j => j.waitsOn c) with
    | some j => t.atpFault a j.record stABORTED 0
    | none => t)

theorem State.stopWaiting_changes (s : State) (c : Nat) :
    Same [.free, .time, .log, .side, .parts, .tiles, .atps, .ctxs, .link, .tierReqs, .grants, .mgrQueue, .fabric] s (s.stopWaiting c) := by
  refine Same.forEach _ s _ (fun a t => ?_)
  split
  · exact t.atpFault_changes _ _ _ _ _
  · exact Same.refl _ t

theorem State.stopWaiting_free (free : s.ctx c = {}) (c' : Nat) : (s.stopWaiting c').ctx c = {} := by
  refine forEach_free _ _ free (fun a t h => ?_)
  split
  · exact State.atpFault_free h _ _ _ _ _
  · exact h

theorem ctxFree_check (zero : (s.cmd fn slot).param 4 4 = 0) (ok : s.ctxCheck fn ((s.cmd fn slot).param 0 4) true = 0) :
    (if (s.cmd fn slot).param 4 4 ≠ 0 then stBAD_PARAM else s.ctxCheck fn ((s.cmd fn slot).param 0 4) true) = 0 := by
  rw [if_neg (by simp [zero]), ok]

theorem ctxFree_frees (begun : b = (s.take fn slot).beginCmd fn slot) (context : c = (s.cmd fn slot).param 0 4)
    (begins : b.cmdMayBegin fn (b.cmd fn slot) = true) (turn : b.mgrTurn (.command fn slot) = true)
    (take : s.canTake fn slot opCTX_FREE = true) (ok : s.ctxCheck fn c true = 0) (zero : (s.cmd fn slot).param 4 4 = 0)
    (done : ((b.mgrBegin (.command fn slot)).freeCtx c).1 = 0) :
    ∃ t, exec (.ctxFree fn slot) s = .next t ∧ t.ctx c = {} ∧ (t.cmd fn slot).phase = .finished ∧ (t.cmd fn slot).status = stOK := by
  have run : exec (.ctxFree fn slot) s = execCtxFree fn slot s := rfl
  have check := ctxFree_check (slot := slot) zero (context ▸ ok)
  unfold execCtxFree at run
  rw [takeCtx_begins begun take check begins turn] at run
  have here := ctxBegun begun
  generalize b.mgrBegin (.command fn slot) = u at run here done
  obtain ⟨v, freed, w, free, entry, changes⟩ := State.freeCtx_done done
  simp only [here.params, ← context, free] at run
  rw [if_neg (by simp)] at run
  have stopped := w.stopWaiting_changes c
  obtain ⟨phase, status, -⟩ := State.replyAt_finished (w.stopWaiting c) fn slot freed v (by rw [stopped.cmd, changes.cmd]; exact here.live)
  refine ⟨(w.stopWaiting c).replyAt fn slot freed v, by rw [run]; rfl, ?_, phase, status⟩
  rw [((w.stopWaiting c).replyAt_changes _ _ _ _).ctx, State.stopWaiting_free entry]

/-! ### CTX_FORK (R176) -/

/-- The entry that a fork of `x` makes (R176). -/
def Ctx.forked (x : Ctx) (owner seg pos mapped root v : Nat) : Ctx where
  state := 1
  owner := owner
  fmt := x.fmt
  dhCode := x.dhCode
  headsM1 := x.headsM1
  pool := x.pool
  seg := seg
  pos := pos
  mapped := mapped
  root := root
  openStamp := v
  lastStamp := v

variable {f src n seg e v : Nat} {w : State}

theorem State.forkCtx_entry (forks : s.forkCtx f src n seg = some (e, v, w)) (inside : e < dirEntries) :
    ∃ mapped root, w.ctx e = (s.ctx src).forked f seg n mapped root v ∧ Same [.free, .time, .hbm, .mem, .blocks, .parts, .ctxs] s w := by
  unfold State.forkCtx at forks
  dsimp only at forks
  split at forks
  · cases forks
  · next e' a u new =>
    have entered := (State.newEntry_changes new).mono (l' := [.free, .time, .hbm, .mem, .blocks, .parts, .ctxs]) (by simp)
    have stamped := entered.andThen u.mgrStamp_changes
    generalize hr : List.foldl _ _ _ = r at forks
    have shared : Same [.free, .time, .hbm, .mem, .blocks, .parts, .ctxs] s r.st := by
      rw [← hr]
      refine stamped.andThen (l' := [.free, .hbm, .mem, .blocks, .parts]) (Same.foldl_mgr _ _ _ (Same.refl _ _) (fun m g => ?_))
      split
      · exact Same.refl _ _
      · have walked := (m.st.walk_changes (u.poolOf f (s.ctx src).pool) (s.ctx src).root g).mono (l' := [.free, .hbm, .mem, .blocks, .parts]) (by simp)
        generalize m.st.walk (u.poolOf f (s.ctx src).pool) (s.ctx src).root g = x at walked ⊢
        obtain ⟨st, page, at', x⟩ := x
        dsimp only at walked ⊢
        split
        · exact walked
        · split
          · exact walked
          · next i =>
            have counted := walked.andThen (x.adjust_changes f (s.ctx src).pool i 1 0 true)
            generalize x.adjust f (s.ctx src).pool i 1 0 true = y at counted ⊢
            obtain ⟨st', freed, y⟩ := y
            dsimp only at counted ⊢
            split
            · exact counted
            · have mapped := counted.andThen (y.mapPage_changes f (s.ctx src).pool a g i)
              generalize y.mapPage f (s.ctx src).pool a g i = z at mapped ⊢
              obtain ⟨st'', z⟩ := z
              dsimp only at mapped ⊢
              split
              · exact mapped.andThen (State.adjust_changes _ _ _ _ _ _ _)
              · exact mapped
    split at forks
    · cases forks
    · split at forks
      · cases forks
        exact absurd inside (by simp)
      · cases forks
        exact ⟨_, _, State.setCtx_same _ _ _, (shared.andThen (State.setCtx_changes _ _ _)).andThen (State.setCtx_changes _ _ _)⟩

/-- A fork that shares no position shares no page, and changes no other entry but the stamp of its source. -/
theorem State.forkCtx_empty {a : Nat} {x : State} (new : s.newEntry f (s.ctx src).pool = some (e, a, x)) :
    ∃ v w, s.forkCtx f src 0 seg = some (e, v, w) ∧ (w.ctx e).mapped = 0 ∧ ∀ d, d ≠ src → d ≠ e → w.ctx d = s.ctx d := by
  unfold State.forkCtx
  dsimp only
  rw [new, show ceilDiv 0 256 = 0 from rfl]
  dsimp only [List.range_zero, List.foldl_nil]
  refine ⟨_, _, rfl, ?_, fun d hs he => ?_⟩
  · rw [State.setCtx_same]
    rfl
  · rw [State.setCtx_other _ _ _ _ he, State.setCtx_other _ _ _ _ hs]
    exact (x.mgrStamp_changes.ctx d).trans ((State.newEntry_changes new).ctx d)

/-- How a FORK answers what the fork came to. -/
def State.forkEnd (s : State) (fn slot : Nat) : Option (Nat × Nat × State) → State
  | none => s.finishCmd fn slot stNO_RESOURCE
  | some (e, v, w) => if e = dirEntries then w.finishAt fn slot stDATA_ERROR v else w.replyAt fn slot e v

theorem ctxFork_runs (begun : b = (s.take fn slot).beginCmd fn slot) (context : c = (s.cmd fn slot).param 0 4)
    (begins : b.cmdMayBegin fn (b.cmd fn slot) = true) (turn : b.mgrTurn (.command fn slot) = true)
    (take : s.canTake fn slot opCTX_FORK = true) (ok : s.ctxCheck fn c false = 0) (segment : (s.cmd fn slot).param 8 2 ≠ 0xFFFF)
    (shorter : (s.cmd fn slot).param 4 4 ≤ (s.ctx c).pos) (zeros : (s.cmd fn slot).zeros [(10, 6)] = true) :
    exec (.ctxFork fn slot) s = .next ((b.mgrBegin (.command fn slot)).forkEnd fn slot
      ((b.mgrBegin (.command fn slot)).forkCtx fn c ((s.cmd fn slot).param 4 4) ((s.cmd fn slot).param 8 2))) := by
  have run : exec (.ctxFork fn slot) s = execCtxFork fn slot s := rfl
  unfold execCtxFork at run
  have passes : ∀ x : State, x.cmd fn slot = s.cmd fn slot → x.ctx c = s.ctx c → x.ctxCheck fn c false = 0 →
      (if !(x.cmd fn slot).zeros [(10, 6)] ∨ (x.cmd fn slot).param 8 2 = 0xFFFF then stBAD_PARAM
      else if x.ctxCheck fn ((x.cmd fn slot).param 0 4) false ≠ 0 then x.ctxCheck fn ((x.cmd fn slot).param 0 4) false
      else if (x.ctx ((x.cmd fn slot).param 0 4)).pos < (x.cmd fn slot).param 4 4 then stBAD_PARAM else 0) = 0 := by
    intro x same entry checked
    rw [same, ← context, entry, if_neg (by simp [zeros, segment]), if_neg (by simp [checked]), if_neg (by omega)]
  refine run.trans ((takeCtx_begins begun take ?_ begins turn).trans ?_)
  · exact passes (s.take fn slot) rfl rfl ok
  · simp only [(ctxBegun begun).params, ← context]
    rfl

/-- A FORK of no position makes an empty context with the source's format and pool (R176). -/
theorem ctxFork_empties {q : Pool} (begun : b = (s.take fn slot).beginCmd fn slot) (context : c = (s.cmd fn slot).param 0 4)
    (begins : b.cmdMayBegin fn (b.cmd fn slot) = true) (turn : b.mgrTurn (.command fn slot) = true)
    (take : s.canTake fn slot opCTX_FORK = true) (ok : s.ctxCheck fn c false = 0) (segment : (s.cmd fn slot).param 8 2 ≠ 0xFFFF)
    (shorter : (s.cmd fn slot).param 4 4 ≤ (s.ctx c).pos) (zeros : (s.cmd fn slot).zeros [(10, 6)] = true)
    (none' : (s.cmd fn slot).param 4 4 = 0) (quota : s.ctxCount fn < (s.part fn).ctxQuota * 1024) (first : s.freeEntry = some e)
    (pool : q = s.poolOf fn (s.ctx c).pool) (frame : ∃ i, i < q.tableFrames ∧ Tbl.get false q.framesUsed i = false) :
    ∃ t, exec (.ctxFork fn slot) s = .next t ∧
      (t.ctx e).state = 1 ∧ (t.ctx e).owner = fn ∧ (t.ctx e).pos = 0 ∧ (t.ctx e).mapped = 0 ∧ (t.ctx e).seg = (s.cmd fn slot).param 8 2 ∧
      (t.ctx e).fmt = (s.ctx c).fmt ∧ (t.ctx e).pool = (s.ctx c).pool ∧ Finished t fn slot stOK [e] ∧
      (∀ d, d ≠ c → d ≠ e → t.ctx d = s.ctx d) := by
  have run := ctxFork_runs begun context begins turn take ok segment shorter zeros
  have here := ctxBegun begun
  generalize b.mgrBegin (.command fn slot) = u at run here
  obtain ⟨-, -, inside⟩ := State.freeEntry_least first
  obtain ⟨i, x, new, -⟩ := State.newEntry_takes (s := u) (p := fn) (k := (u.ctx c).pool)
    (by rw [here.ctxCount, here.quota]; exact quota) (here.freeEntry.trans first)
    (pool.trans (by rw [here.ctx, here.poolOf])) frame
  obtain ⟨v, w, forks, mapped, others⟩ := State.forkCtx_empty (seg := (s.cmd fn slot).param 8 2) new
  obtain ⟨m, root, entry, changes⟩ := State.forkCtx_entry forks inside
  rw [none', forks, State.forkEnd, if_neg (Nat.ne_of_lt inside)] at run
  have replied := w.replyAt_changes fn slot e v
  refine ⟨_, run, ?_⟩
  simp only [replied.ctx]
  rw [mapped, entry, here.ctx]
  refine ⟨rfl, rfl, rfl, rfl, rfl, rfl, rfl, State.replyAt_finished _ _ _ _ _ (by rw [changes.cmd]; exact here.live), fun d hc he => ?_⟩
  rw [others d hc he, here.ctx]

theorem ctxFork_shares (begun : b = (s.take fn slot).beginCmd fn slot) (context : c = (s.cmd fn slot).param 0 4)
    (begins : b.cmdMayBegin fn (b.cmd fn slot) = true) (turn : b.mgrTurn (.command fn slot) = true)
    (take : s.canTake fn slot opCTX_FORK = true) (ok : s.ctxCheck fn c false = 0) (segment : (s.cmd fn slot).param 8 2 ≠ 0xFFFF)
    (shorter : (s.cmd fn slot).param 4 4 ≤ (s.ctx c).pos) (zeros : (s.cmd fn slot).zeros [(10, 6)] = true) :
    ∃ t, exec (.ctxFork fn slot) s = .next t ∧ ∀ e,
      ((b.mgrBegin (.command fn slot)).forkCtx fn c ((s.cmd fn slot).param 4 4) ((s.cmd fn slot).param 8 2)).map (·.1) = some e → e < dirEntries →
      (t.ctx e).state = 1 ∧ (t.ctx e).owner = fn ∧ (t.ctx e).pos = (s.cmd fn slot).param 4 4 ∧
      (t.ctx e).seg = (s.cmd fn slot).param 8 2 ∧ (t.ctx e).fmt = (s.ctx c).fmt ∧ (t.ctx e).pool = (s.ctx c).pool ∧
      Finished t fn slot stOK [e] := by
  have run := ctxFork_runs begun context begins turn take ok segment shorter zeros
  have here := ctxBegun begun
  generalize b.mgrBegin (.command fn slot) = u at run here ⊢
  refine ⟨_, run, fun e made inside => ?_⟩
  obtain ⟨⟨e', v, w⟩, forks, rfl⟩ := Option.map_eq_some_iff.1 made
  obtain ⟨mapped, root, entry, changes⟩ := State.forkCtx_entry forks inside
  rw [forks]
  dsimp only [State.forkEnd] at inside entry ⊢
  rw [if_neg (Nat.ne_of_lt inside), (w.replyAt_changes _ _ _ _).ctx, entry, here.ctx]
  exact ⟨rfl, rfl, rfl, rfl, rfl, rfl, State.replyAt_finished _ _ _ _ _ (by rw [changes.cmd]; exact here.live)⟩

/-! ### The obligation -/

theorem ctxTruncate_waits (begun : b = (s.take fn slot).beginCmd fn slot) (context : c = (s.cmd fn slot).param 0 4) (used : (s.ctx c).state ≠ 0)
    (appending : (s.ctx c).appending = true) (take : s.canTake fn slot opCTX_TRUNCATE = true) (ok : s.ctxCheck fn c false = 0)
    (shorter : (s.cmd fn slot).param 4 4 ≤ (s.ctx c).pos) :
    ∃ t, exec (.ctxTruncate fn slot) s = .next t ∧ (t.cmd fn slot).phase = .running ∧ t.ctxs = s.ctxs ∧ t.mem = s.mem ∧
      .command fn slot ∈ t.mgrQueue := by
  have run : exec (.ctxTruncate fn slot) s = execCtxTruncate fn slot s := rfl
  have check := ctxTruncate_check (slot := slot) (context ▸ ok) (context ▸ shorter)
  rw [run]
  unfold execCtxTruncate
  refine takeCtx_waits begun context used appending take (by decide) (by decide) ?_
  exact check

theorem ctxFree_waits (begun : b = (s.take fn slot).beginCmd fn slot) (context : c = (s.cmd fn slot).param 0 4) (used : (s.ctx c).state ≠ 0)
    (appending : (s.ctx c).appending = true) (take : s.canTake fn slot opCTX_FREE = true) (ok : s.ctxCheck fn c false = 0)
    (zero : (s.cmd fn slot).param 4 4 = 0) :
    ∃ t, exec (.ctxFree fn slot) s = .next t ∧ (t.cmd fn slot).phase = .running ∧ t.ctxs = s.ctxs ∧ t.mem = s.mem ∧
      .command fn slot ∈ t.mgrQueue := by
  have run : exec (.ctxFree fn slot) s = execCtxFree fn slot s := rfl
  have check := ctxFree_check (slot := slot) zero (context ▸ State.ctxCheck_faulted ok)
  rw [run]
  unfold execCtxFree
  refine takeCtx_waits begun context used appending take (by decide) (by decide) ?_
  exact check

end

/-- Settles O24: each command is traced from its take to its end; the manager's pages and frames change through operations that
leave the directory's entries alone, so an entry is what the command itself writes. -/
theorem contextCommandsComplete : Obligations.contextCommandsComplete := by
  refine ⟨fun s b fn slot begun => ⟨fun begins turn => ⟨fun q take ok params sound => ?_, fun e q take ok quota entry pool frame => ?_⟩,
    fun take zero out ok => ?_⟩, fun s b fn slot c begun context used => ⟨fun op check i listed take ok passes appending => ?_,
    fun begins turn => ⟨fun take ok shorter done => ?_, fun take ok zero done => ?_, fun take ok segment shorter zeros => ⟨?_, ?_⟩⟩⟩⟩
  · exact ctxPool_defines begun begins turn take ok params sound
  · exact ctxOpen_opens begun begins turn take ok quota entry pool frame
  · exact ctxQuery_answers take zero out ok
  · simp only [List.mem_cons, Prod.mk.injEq, List.not_mem_nil, or_false] at listed
    obtain ⟨rfl, rfl, rfl⟩ | ⟨rfl, rfl, rfl⟩ := listed
    · exact ctxTruncate_waits begun context used appending take ok (of_decide_eq_true passes)
    · exact ctxFree_waits begun context used appending take ok (of_decide_eq_true passes)
  · exact ctxTruncate_cuts begun context begins turn take ok shorter done
  · exact ctxFree_frees begun context begins turn take ok zero done
  · exact fun e q empty quota first pool frame =>
      ctxFork_empties begun context begins turn take ok segment shorter zeros empty quota first pool frame
  · exact ctxFork_shares begun context begins turn take ok segment shorter zeros

end Sys2Proof.Machine

/-! ## O39: manager operations of running jobs (R159, R165, R172 to R175) -/

namespace Sys2Proof.Machine
open Sys2Proof

/-! ### The job a manager operation is for -/

section
variable {s b : State} {n p : Nat} {j : Job} {r : JobRec}

/-- A search that only the job with this number can answer, and which it answers, finds that job. -/
theorem OnlyJob.found {id : Nat} (only : OnlyJob s n id j) {q : Job → Bool} (named : ∀ x, q x = true → x.id = id) (holds : q j = true) :
    (s.atp n).active.find? q = some j := by
  have mem : j ∈ (s.atp n).active.filter (fun x => x.id == id) := by rw [only.2]; exact List.mem_singleton_self j
  obtain ⟨there, -⟩ := List.mem_filter.1 mem
  obtain ⟨x, hx⟩ := Option.isSome_iff_exists.1 (List.find?_isSome.2 ⟨j, there, holds⟩)
  rw [hx, only.eq_of_mem (List.mem_of_find?_eq_some hx) (named x (List.find?_some hx))]

theorem State.mgrJob_begins {body : JobRec → State → State} (part : s.atpPart n = p) (record : (s.atp n).jobRec j.record = r)
    (stage : j.stage = .waiting) (may : s.jobMayBegin n j.id = true) (turn : s.mgrTurn (.atp n j.id) = true) (context : s.jobCtx p r = 0) :
    s.mgrJob n j body = body r (s.mgrBegin (.atp n j.id)) := by
  have begins : (s.mgrBegin (.atp n j.id)).jobCtx ((s.mgrBegin (.atp n j.id)).atpPart n) r = 0 := by
    rw [show (s.mgrBegin (.atp n j.id)).atpPart n = p from part]
    exact context
  unfold State.mgrJob
  dsimp only
  rw [record, if_neg (not_not.2 stage), may, turn, if_neg (by simp), if_neg (not_not.2 begins)]

/-! ### PIN and UNPIN (R173) -/

/-- The pages that a PIN pins. -/
def State.pinned (s : State) (r : JobRec) : Mgr :=
  if r.kFirst < min r.kCount (s.ctx r.ctx).pos then s.pinPages r.ctx r.kFirst (min r.kCount (s.ctx r.ctx).pos - 1) else { st := s }

theorem State.pinned_changes (s : State) (r : JobRec) : Same [.free, .hbm, .mem, .blocks, .parts] s (s.pinned r).st := by
  unfold State.pinned
  split
  · exact s.pinPages_changes _ _ _
  · exact Same.refl _ s

/-- What a PIN leaves of the state its pages `m` were pinned in: a pin counted, and the job with what it will read. -/
def State.pinEnd (s : State) (n id : Nat) (r : JobRec) (m : Mgr) : State :=
  (m.st.stampCtx r.ctx (fun x => { x with activePins := x.activePins + 1 })).modJob n id (fun x => { x with
    pinned := true, pages := m.pages, length := (s.ctx r.ctx).pos, ctx := s.ctx r.ctx
    source := (s.poolOf (s.ctx r.ctx).owner (s.ctx r.ctx).pool).shape, stage := .keys })

theorem pin_pins {m : Mgr} (part : s.atpPart n = p) (record : (s.atp n).jobRec j.record = r) (only : OnlyJob s n j.id j)
    (first : (s.atp n).first 0 = some j) (stage : j.stage = .waiting) (may : s.jobMayBegin n j.id = true)
    (turn : s.mgrTurn (.atp n j.id) = true) (context : s.jobCtx p r = 0) (begun : b = s.mgrBegin (.atp n j.id))
    (pins : m = b.pinned r) (done : m.status = 0) :
    ∃ t, exec (.pin n) s = .next t ∧ (t.ctx r.ctx).activePins = (s.ctx r.ctx).activePins + 1 ∧ (t.ctx r.ctx).pos = (s.ctx r.ctx).pos ∧
      OnlyJob t n j.id { j with
        pinned := true, pages := m.pages, length := (s.ctx r.ctx).pos, ctx := s.ctx r.ctx
        source := (s.poolOf (s.ctx r.ctx).owner (s.ctx r.ctx).pool).shape, stage := .keys } ∧
      (∀ c, c ≠ r.ctx → t.ctx c = s.ctx c) := by
  have run : exec (.pin n) s = execPin n s := rfl
  have begins : Same [.mgrQueue] s b := begun ▸ s.mgrBegin_changes _
  have pinned : Same [.free, .hbm, .mem, .blocks, .parts] b m.st := pins ▸ b.pinned_changes r
  unfold execPin at run
  rw [first] at run
  dsimp only at run
  rw [State.mgrJob_begins part record stage may turn context, ← begun] at run
  change exec (.pin n) s = .next (if (b.pinned r).status ≠ 0 then ((b.pinEnd n j.id r (b.pinned r)).faultCtx r.ctx).atpFault n j.record
    (b.pinned r).status 0 else b.pinEnd n j.id r (b.pinned r)) at run
  rw [← pins, if_neg (not_not.2 done)] at run
  unfold State.pinEnd at run
  have stamped := m.st.stampCtx_changes r.ctx (fun x => { x with activePins := x.activePins + 1 })
  obtain ⟨v, entry⟩ := m.st.stampCtx_ctx r.ctx (fun x => { x with activePins := x.activePins + 1 })
  have kept : ∀ c, m.st.ctx c = s.ctx c := fun c => (pinned.ctx c).trans (begins.ctx c)
  refine ⟨_, run, ?_, ?_, ?_, fun c hc => ?_⟩
  · rw [(State.modJob_changes _ _ _ _).ctx, entry, kept]
  · rw [(State.modJob_changes _ _ _ _).ctx, entry, kept]
  · rw [← begins.ctx, ← begins.poolOf]
    exact (stamped.onlyJob (pinned.onlyJob (begins.onlyJob only))).mod _ rfl
  · rw [(State.modJob_changes _ _ _ _).ctx, m.st.stampCtx_other _ hc, kept]

/-- The pages that an UNPIN gives back: none of a pool defined anew since. -/
def State.unpinned (s : State) (j : Job) : Mgr :=
  if (s.poolOf j.ctx.owner j.ctx.pool).shape = j.source then s.unpinPages j.ctx.owner j.ctx.pool j.pages else { st := s }

theorem State.unpinned_changes (s : State) (j : Job) : Same [.free, .hbm, .mem, .blocks, .parts] s (s.unpinned j).st := by
  unfold State.unpinned
  split
  · exact s.unpinPages_changes _ _ _
  · exact Same.refl _ s

/-- An UNPIN of a context that still is the job's counts the ATTEND, and faults the context when a page's record fails its check. -/
theorem State.unpinJob_eq (used : (s.ctx j.ctxNum).state ≠ 0) (same : (s.ctx j.ctxNum).openStamp = j.ctx.openStamp) :
    ∃ u, u = (s.unpinned j).st.stampCtx j.ctxNum (fun x => { x with activePins := x.activePins - 1, attends := x.attends + 1 }) ∧
      (s.unpinJob j true).2 = (if (s.unpinned j).status = 0 ∨ ((s.unpinned j).st.ctx j.ctxNum).state ≠ 1 then u else u.faultCtx j.ctxNum) := by
  have mine : ((s.unpinned j).st.ctx j.ctxNum).state ≠ 0 ∧ ((s.unpinned j).st.ctx j.ctxNum).openStamp = j.ctx.openStamp := by
    rw [(s.unpinned_changes j).ctx]
    exact ⟨used, same⟩
  refine ⟨_, rfl, ?_⟩
  unfold State.unpinJob
  exact congrArg Prod.snd (if_pos mine)

theorem State.unpinJob_counts (used : (s.ctx j.ctxNum).state ≠ 0) (same : (s.ctx j.ctxNum).openStamp = j.ctx.openStamp) :
    ((s.unpinJob j true).2.ctx j.ctxNum).activePins = (s.ctx j.ctxNum).activePins - 1 ∧
      ((s.unpinJob j true).2.ctx j.ctxNum).attends = (s.ctx j.ctxNum).attends + 1 ∧
      Same [.free, .hbm, .mem, .blocks, .parts, .ctxs, .time, .log, .side] s (s.unpinJob j true).2 := by
  have given := s.unpinned_changes j
  obtain ⟨u, hu, ends⟩ := State.unpinJob_eq used same
  obtain ⟨v, entry⟩ := (s.unpinned j).st.stampCtx_ctx j.ctxNum (fun x => { x with activePins := x.activePins - 1, attends := x.attends + 1 })
  have stamped := (s.unpinned j).st.stampCtx_changes j.ctxNum (fun x => { x with activePins := x.activePins - 1, attends := x.attends + 1 })
  rw [given.ctx, ← hu] at entry
  rw [← hu] at stamped
  have counted := (given.mono (l' := [.free, .hbm, .mem, .blocks, .parts, .ctxs, .time, .log, .side]) (by simp)).andThen stamped
  rw [ends]
  split
  · rw [entry]
    exact ⟨rfl, rfl, counted⟩
  · rw [State.faultCtx_ctx, entry]
    exact ⟨rfl, rfl, counted.andThen (State.faultCtx_changes _ _)⟩

theorem unpin_ends (only : OnlyJob s n j.id j) (pinned : j.pinned = true) (stage : j.stage = .finalised) (acks : j.acks = 0)
    (opens : s.mgrOpen j = true) (used : (s.ctx j.ctxNum).state ≠ 0) (same : (s.ctx j.ctxNum).openStamp = j.ctx.openStamp) :
    ∃ t, exec (.unpin n j.id) s = .next t ∧ (t.ctx j.ctxNum).activePins = (s.ctx j.ctxNum).activePins - 1 ∧
      (t.ctx j.ctxNum).attends = (s.ctx j.ctxNum).attends + 1 ∧ OnlyJob t n j.id { j with pinned := false, closed := true } := by
  have run : exec (.unpin n j.id) s = execUnpin n j.id s := rfl
  unfold execUnpin at run
  rw [only.found (fun x hx => by simp only [Bool.and_eq_true, beq_iff_eq] at hx; exact hx.1.1.1) (by simp [pinned, stage, acks])] at run
  dsimp only at run
  rw [if_pos opens] at run
  obtain ⟨pins, attends, changes⟩ := State.unpinJob_counts used same
  refine ⟨_, run, ?_, ?_, (changes.onlyJob only).mod _ rfl⟩
  · rw [(State.modJob_changes _ _ _ _).ctx, pins]
  · rw [(State.modJob_changes _ _ _ _).ctx, attends]

/-! ### RESOLVE (R159, R173, R175) -/

theorem State.setCopies_changes (s : State) (cs : List PageCopy) : Same [.copies] s { s with copies := cs } :=
  ⟨fun c hc => by cases c <;> simp at hc <;> rfl⟩

/-- A RESOLVE changes of the directory only how many pages its own context maps. -/
theorem State.resolvePages_changes (s : State) (c rows n id : Nat) (done : (s.resolvePages c rows n id).status = 0) :
    Same [.free, .hbm, .mem, .blocks, .parts, .copies, .ctxs] s (s.resolvePages c rows n id).st ∧
      ∃ k, (s.resolvePages c rows n id).st.ctx c = { s.ctx c with mapped := k } := by
  unfold State.resolvePages at done ⊢
  dsimp only at done ⊢
  generalize hr : List.foldl _ _ _ = x at done ⊢
  have reached : Same [.free, .hbm, .mem, .blocks, .parts, .copies] s x.st := by
    rw [← hr]
    refine Same.foldl_mgr _ _ _ (Same.refl _ _) (fun m g => ?_)
    split
    · exact Same.refl _ _
    · have walked := (m.st.walk_changes (m.st.poolOf (s.ctx c).owner (s.ctx c).pool) (s.ctx c).root ((s.ctx c).pos / 256 + g)).mono
        (l' := [.free, .hbm, .mem, .blocks, .parts, .copies]) (by simp)
      generalize m.st.walk (m.st.poolOf (s.ctx c).owner (s.ctx c).pool) (s.ctx c).root ((s.ctx c).pos / 256 + g) = y at walked ⊢
      obtain ⟨st, w, a, u⟩ := y
      dsimp only at walked ⊢
      split
      · exact walked
      · split
        · have paged := walked.andThen (u.newPage_changes (s.ctx c).owner (s.ctx c).pool)
          generalize u.newPage (s.ctx c).owner (s.ctx c).pool = y at paged ⊢
          obtain ⟨st2, i, v⟩ := y
          dsimp only at paged ⊢
          split
          · exact paged
          · have mapped := paged.andThen (v.mapPage_changes (s.ctx c).owner (s.ctx c).pool (s.ctx c).root ((s.ctx c).pos / 256 + g) i)
            split
            · exact mapped.andThen (State.adjust_changes _ _ _ _ _ _ _)
            · exact mapped
        · next i =>
          split
          · exact walked.andThen (u.setCopies_changes _)
          · have read := walked.andThen (u.mgrRead_changes ((m.st.poolOf (s.ctx c).owner (s.ctx c).pool).recAddr i) 2)
            generalize u.mgrRead ((m.st.poolOf (s.ctx c).owner (s.ctx c).pool).recAddr i) 2 = y at read ⊢
            obtain ⟨refs, ok, v⟩ := y
            dsimp only at read ⊢
            split
            · exact read
            · split
              · exact read
              · have paged := read.andThen (v.newPage_changes (s.ctx c).owner (s.ctx c).pool)
                split
                · exact paged
                · exact paged.andThen (State.setCopies_changes _ _)
  split at done
  · next missing => cases done
  · next enough =>
    rw [if_neg enough]
    refine ⟨(reached.mono (l' := [.free, .hbm, .mem, .blocks, .parts, .copies, .ctxs]) (by simp)).andThen (State.setCtx_changes _ _ _),
      (x.st.ctx c).mapped + x.freed, ?_⟩
    rw [State.setCtx_same, reached.ctx]

theorem resolve_begins {m : Mgr} (part : s.atpPart n = p) (record : (s.atp n).jobRec j.record = r) (only : OnlyJob s n j.id j)
    (first : (s.atp n).first 1 = some j) (stage : j.stage = .waiting) (may : s.jobMayBegin n j.id = true)
    (turn : s.mgrTurn (.atp n j.id) = true) (context : s.jobCtx p r = 0) (room : (s.ctx r.ctx).pos + r.rows ≤ 8388608)
    (pages : m = (s.mgrBegin (.atp n j.id)).resolvePages r.ctx r.rows n j.id) (done : m.status = 0) :
    ∃ t, exec (.resolve n j.id) s = .next t ∧ (t.ctx r.ctx).appending = true ∧ (t.ctx r.ctx).pos = (s.ctx r.ctx).pos ∧
      ((t.atp n).active.find? (fun x => x.id == j.id)).map (fun x => (x.appends, x.pages, x.copies, x.length, x.stage)) =
        some (true, m.pages, m.copies, (s.ctx r.ctx).pos, .keys) := by
  have run : exec (.resolve n j.id) s = execResolve n j.id s := rfl
  have begins := s.mgrBegin_changes (.atp n j.id)
  unfold execResolve at run
  rw [first] at run
  dsimp only at run
  rw [if_neg (by simp), State.mgrJob_begins part record stage may turn context] at run
  generalize s.mgrBegin (.atp n j.id) = b at run begins pages
  rw [begins.ctx, if_neg (Nat.not_lt.2 room), ← pages, done, if_neg (by decide), if_neg (by simp)] at run
  obtain ⟨resolved, k, mapped⟩ := b.resolvePages_changes r.ctx r.rows n j.id (pages ▸ done)
  rw [← pages] at resolved mapped
  obtain ⟨v, entry⟩ := m.st.stampCtx_ctx r.ctx (fun x => { x with appending := true })
  have stamped := m.st.stampCtx_changes r.ctx (fun x => { x with appending := true })
  have ended := (stamped.onlyJob (resolved.onlyJob (begins.onlyJob only))).mod (fun x => { x with
    appends := true, pages := m.pages, copies := m.copies, length := (s.ctx r.ctx).pos, ctx := s.ctx r.ctx
    source := (m.st.poolOf (s.ctx r.ctx).owner (s.ctx r.ctx).pool).shape, stage := .keys }) rfl
  refine ⟨_, run, ?_, ?_, ?_⟩
  · rw [(State.modJob_changes _ _ _ _).ctx, entry]
  · rw [(State.modJob_changes _ _ _ _).ctx, entry, mapped, begins.ctx]
  · rw [ended.found (fun x hx => beq_iff_eq.1 hx) (beq_self_eq_true _)]
    rfl

/-! ### SWITCH and ADVANCE (R158, R173, R174) -/

theorem switch_ends {cp : PageCopy} {q : Pool} (found : s.copies.find? (fun e => e.pt == cp.pt && e.ctx == cp.ctx && e.page == cp.page) = some cp)
    (pool : q = s.poolOf cp.pt cp.pool) (answers : s.answers cp.pt (q.pageAddr + cp.source * q.pageBytes) q.pageBytes = true)
    (turn : s.mgrTurn .none = true) (atp : cp.atp = n) (job : cp.job = j.id) (opened : ((s.switchPage cp).ctx cp.ctx).state = 1)
    (only : OnlyJob (s.switchPage cp) n j.id j) :
    ∃ t, exec (.switch cp.pt cp.ctx cp.page) s = .next t ∧ t.copies = (s.switchPage cp).copies ∧
      OnlyJob t n j.id { j with copies := j.copies - 1 } := by
  have run : exec (.switch cp.pt cp.ctx cp.page) s = execSwitch cp.pt cp.ctx cp.page s := rfl
  unfold execSwitch at run
  rw [found] at run
  dsimp only at run
  rw [← pool, answers, turn, if_neg (by simp), atp, job, only.listed, opened, if_neg (by simp), if_pos rfl] at run
  exact ⟨_, run, (State.modJob_changes _ _ _ _).agrees .copies (by simp), only.mod _ rfl⟩

theorem advance_adds (record : (s.atp n).jobRec j.record = r) (only : OnlyJob s n j.id j) (appends : j.appends = true) (stage : j.stage = .finalised)
    (acks : j.acks = 0) (advances : r.advances = true) (closed : j.closed = false) (turn : s.mgrTurn .none = true) :
    ∃ t, exec (.advance n j.id) s = .next t ∧
      (t.ctx j.ctxNum).pos = (s.ctx j.ctxNum).pos + r.rows ∧ (t.ctx j.ctxNum).appends = (s.ctx j.ctxNum).appends + 1 ∧
      (t.ctx j.ctxNum).appending = false ∧ OnlyJob t n j.id { j with closed := true, appends := false } ∧ (∀ c, c ≠ j.ctxNum → t.ctx c = s.ctx c) := by
  have run : exec (.advance n j.id) s = execAdvance n j.id s := rfl
  unfold execAdvance at run
  rw [only.found (fun x hx => by simp only [Bool.and_eq_true, beq_iff_eq] at hx; exact hx.1.1.1) (by simp [appends, stage, acks])] at run
  dsimp only at run
  rw [record, advances, closed, turn, if_neg (by simp)] at run
  unfold State.appended at run
  obtain ⟨v, entry⟩ := s.stampCtx_ctx j.ctxNum (fun x => { x with pos := x.pos + r.rows, appends := x.appends + 1, appending := false })
  have marked : ∀ c, _ := fun c => (State.modJob_changes (s.stampCtx j.ctxNum
    (fun x => { x with pos := x.pos + r.rows, appends := x.appends + 1, appending := false })) n j.id
      (fun x => { x with closed := true, appends := false })).ctx c
  refine ⟨_, run, ?_, ?_, ?_, ((s.stampCtx_changes _ _).onlyJob only).mod _ rfl, fun c hc => ?_⟩
  · rw [marked, entry]
  · rw [marked, entry]
  · rw [marked, entry]
  · rw [marked, s.stampCtx_other _ hc]

end
end Sys2Proof.Machine

/-! ## O39: the writes of an APPEND (R159, R166, R167, R174) -/

namespace Sys2Proof.Machine
open Sys2Proof

/-! ### Several writes to sound blocks -/

/-- What writes to sound blocks come to: the memory `m`, and every sound block sound for the next of them. -/
structure Written (s t : State) (m : BMap) : Prop where
  mem : t.mem = m
  met : Metered [.hbm, .mem, .blocks] s t
  keeps : ∀ b, s.soundBlock b → t.soundBlock b

theorem Written.refl (s : State) : Written s s s.mem := ⟨rfl, Metered.refl _ s, fun _ h => h⟩

theorem writePieces_keeps (cs : List (Nat × List Byte)) (u : State) (sound : ∀ c ∈ cs, u.soundBlock c.1) {b : Nat} (h : u.soundBlock b) :
    (cs.foldl writePiece { st := u }).st.soundBlock b := by
  induction cs generalizing u with
  | nil => exact h
  | cons c cs ih =>
    obtain ⟨v, change, -, -, keeps⟩ := u.changeBlock_keeps c.1 c.2.length 4 true (fun _ => (c.2, 0)) true (sound c (by simp))
    have piece : writePiece { st := u } c = { st := v } := by
      unfold writePiece
      rw [change]
      rfl
    rw [List.foldl_cons, piece]
    exact ih v (fun x hx => keeps _ (sound x (by simp [hx]))) (keeps _ h)

section
variable {s t : State} {m : BMap}

/-- A write to sound blocks, after others. -/
theorem Written.writeStack (h : Written s t m) (a : Nat) (bytes : List Byte) (sound : ∀ b, a ≤ b → b < a + bytes.length → s.soundBlock b) :
    ∃ u, t.writeStack a bytes = { st := u } ∧ Written s u (BMap.writeBytes m a bytes) := by
  have still : ∀ b, a ≤ b → b < a + bytes.length → t.soundBlock b := fun b first last => h.keeps b (sound b first last)
  obtain ⟨u, run, mem, met⟩ := t.writeStack_run a bytes still
  refine ⟨u, run, by rw [mem, h.mem], h.met.trans met, fun b good => ?_⟩
  have kept := writePieces_keeps (chunksOf blockSize a bytes) t (fun c hc => by
    obtain ⟨after, before⟩ := mem_chunks hc (by decide)
    exact still c.1 after before) (h.keeps b good)
  rwa [← State.writeStack_eq, run] at kept

theorem Got.andThen_flags {x y : BitVec 6} {f : State → Got} (h : f s = { flags := y, st := t }) :
    ({ flags := x, st := s } : Got).andThen f = { flags := x ||| y, st := t } := by
  simp [Got.andThen, h]

end

/-! ### Vectors in blocks of 32 -/

theorem rotatePair_length (t : Val) (a b : Nat) (x : List Nat) : (rotatePair t a b x).1.length = x.length := by
  unfold rotatePair
  dsimp only
  rw [List.length_set, List.length_set]

theorem rotate_length (rope dims pos : Nat) (freqs x : List Nat) : (rotate rope dims pos freqs x).1.length = x.length := by
  unfold rotate
  split
  · rfl
  · exact List.foldlRecOn (motive := fun acc : List Nat × BitVec 6 => acc.1.length = x.length) _ _ rfl
      (fun acc h i _ => (rotatePair_length _ _ _ _).trans h)

theorem View.rowF_length (v : View) (m : BMap) (r : Nat) : (v.rowF m r).length = v.ext.getD 0 0 := by
  unfold View.rowF
  rw [List.length_map, List.length_range]

/-- The first `k` blocks that a vector is converted into. -/
def blocksTo (fmt : Nat) (x : List Nat) (k : Nat) : List Nat × List Nat × BitVec 6 :=
  (List.range k).foldl (fun acc b =>
    let r := convertBlock fmt .rne none (((x.drop (32 * b)).take 32).map f32) 1
    (acc.1 ++ r.q, acc.2.1 ++ [r.e8], acc.2.2 ||| r.flags)) ([], [], 0)

theorem toBlocks_eq (fmt : Nat) (x : List Nat) : toBlocks fmt x = blocksTo fmt x (x.length / 32) := rfl

theorem blocksTo_lengths (fmt : Nat) (x : List Nat) (k : Nat) (h : 32 * k ≤ x.length) :
    (blocksTo fmt x k).1.length = 32 * k ∧ (blocksTo fmt x k).2.1.length = k := by
  induction k with
  | zero => exact ⟨rfl, rfl⟩
  | succ k ih =>
    obtain ⟨elements, scales⟩ := ih (by omega)
    unfold blocksTo at elements scales ⊢
    rw [List.range_succ, List.foldl_append]
    simp only [List.foldl_cons, List.foldl_nil, List.length_append, convertBlock_length, elements, scales, List.length_map, List.length_take,
      List.length_drop, List.length_singleton, and_true]
    omega

/-- A vector of whole blocks gives an element for each of its values and a scale for each block. -/
theorem toBlocks_lengths (fmt : Nat) {x : List Nat} {k : Nat} (whole : x.length = 32 * k) :
    (toBlocks fmt x).1.length = 32 * k ∧ (toBlocks fmt x).2.1.length = k := by
  rw [toBlocks_eq, whole, show 32 * k / 32 = k by omega]
  exact blocksTo_lengths fmt x k (by omega)

/-! ### One position of one part of a head (R166, R167) -/

/-- The memory after one position of K or V, in blocks of 32 with byte elements, is written at `base`: elements, scales, and the zeros
beyond the scales. -/
def putPosition (m : BMap) (dh base pos : Nat) (elements scales : List Byte) : BMap :=
  let m1 := BMap.writeBytes (BMap.writeBytes m (base + dh * (pos % 256)) elements) (base + 256 * dh + dh / 32 * (pos % 256)) scales
  if dh = 256 then m1 else BMap.writeBytes m1 (base + 256 * dh + 8 * dh) (List.replicate (2048 - 8 * dh) 0)

section
variable {k base pos : Nat} {elements scales : List Byte}

/-- Where one position's elements and scales lie within its part of a head. -/
theorem position_bounds (k pos : Nat) : 32 * k * (pos % 256) + 32 * k ≤ 256 * (32 * k) ∧ k * (pos % 256) + k ≤ 8 * (32 * k) := by
  have inside : pos % 256 + 1 ≤ 256 := by omega
  have elements := Nat.mul_le_mul_left (32 * k) inside
  have scales := Nat.mul_le_mul_left k inside
  rw [Nat.mul_add, Nat.mul_one] at elements scales
  omega

theorem putPosition_outside (m : BMap) (small : k ≤ 8) (he : elements.length = 32 * k) (hs : scales.length = k) {c : Nat}
    (outside : c < base ∨ base + (256 * (32 * k) + 2048) ≤ c) : BMap.read (putPosition m (32 * k) base pos elements scales) c = BMap.read m c := by
  obtain ⟨inElements, inScales⟩ := position_bounds k pos
  unfold putPosition
  rw [show 32 * k / 32 = k by omega]
  dsimp only
  split
  · rw [BMap.read_writeBytes_outside _ _ _ _ (by omega), BMap.read_writeBytes_outside _ _ _ _ (by omega)]
  · rw [BMap.read_writeBytes_outside _ _ _ _ (by rw [List.length_replicate]; omega), BMap.read_writeBytes_outside _ _ _ _ (by omega),
      BMap.read_writeBytes_outside _ _ _ _ (by omega)]

theorem putPosition_bytes_outside (m : BMap) (small : k ≤ 8) (he : elements.length = 32 * k) (hs : scales.length = k) {b n : Nat}
    (outside : b + n ≤ base ∨ base + (256 * (32 * k) + 2048) ≤ b) :
    BMap.readBytes (putPosition m (32 * k) base pos elements scales) b n = BMap.readBytes m b n := by
  induction n generalizing b with
  | zero => rfl
  | succ n ih => rw [BMap.readBytes, BMap.readBytes, putPosition_outside m small he hs (by omega), ih (by omega)]

theorem putPosition_elements (m : BMap) (he : elements.length = 32 * k) (hs : scales.length = k) :
    BMap.readBytes (putPosition m (32 * k) base pos elements scales) (base + 32 * k * (pos % 256)) (32 * k) = elements := by
  obtain ⟨inElements, inScales⟩ := position_bounds k pos
  unfold putPosition
  rw [show 32 * k / 32 = k by omega]
  dsimp only
  split
  · rw [BMap.readBytes_writeBytes_outside _ _ _ _ _ (by omega), ← he, BMap.readBytes_writeBytes]
  · rw [BMap.readBytes_writeBytes_outside _ _ _ _ _ (by omega), BMap.readBytes_writeBytes_outside _ _ _ _ _ (by omega), ← he,
      BMap.readBytes_writeBytes]

theorem putPosition_scales (m : BMap) (hs : scales.length = k) :
    BMap.readBytes (putPosition m (32 * k) base pos elements scales) (base + 256 * (32 * k) + 32 * k / 32 * (pos % 256)) (32 * k / 32) = scales := by
  obtain ⟨inElements, inScales⟩ := position_bounds k pos
  unfold putPosition
  rw [show 32 * k / 32 = k by omega]
  dsimp only
  split
  · rw [← hs, BMap.readBytes_writeBytes]
  · rw [BMap.readBytes_writeBytes_outside _ _ _ _ _ (by omega), ← hs, BMap.readBytes_writeBytes]

end

/-- The bytes of a vector in KV8: its elements and its scales. -/
def kv8Elements (x : List Nat) : List Byte := (toBlocks 0xA x).1.map (BitVec.ofNat 8)
def kv8Scales (x : List Nat) : List Byte := (toBlocks 0xA x).2.1.map (BitVec.ofNat 8)

theorem kv8_lengths {x : List Nat} {k : Nat} (whole : x.length = 32 * k) : (kv8Elements x).length = 32 * k ∧ (kv8Scales x).length = k := by
  unfold kv8Elements kv8Scales
  rw [List.length_map, List.length_map]
  exact toBlocks_lengths 0xA whole

theorem Written.writePosition {s t : State} {m : BMap} (h : Written s t m) {c : Ctx} {base pos : Nat} {x : List Nat} (fmt : c.fmt = 0xA)
    (code : c.dhCode < 8) (size : x.length = c.dh) (sound : ∀ b, base ≤ b → b < base + (256 * c.dh + 2048) → s.soundBlock b) :
    ∃ fl u, t.writePosition c base pos x = { flags := fl, st := u } ∧
      Written s u (putPosition m c.dh base pos (kv8Elements x) (kv8Scales x)) := by
  obtain ⟨k, dh, small⟩ : ∃ k, c.dh = 32 * k ∧ k ≤ 8 := ⟨c.dhCode + 1, rfl, by omega⟩
  have blocks : 32 * k / 32 = k := by omega
  rw [dh] at size sound ⊢
  obtain ⟨he, hs⟩ := kv8_lengths size
  obtain ⟨inElements, inScales⟩ := position_bounds k pos
  obtain ⟨u, elements, put⟩ := h.writeStack (base + 32 * k * (pos % 256)) (kv8Elements x) (fun b first last => sound b (by omega) (by omega))
  obtain ⟨v, scales, put'⟩ := put.writeStack (base + 256 * (32 * k) + k * (pos % 256)) (kv8Scales x)
    (fun b first last => sound b (by omega) (by omega))
  obtain ⟨w, zeros, put''⟩ : ∃ w, (if 32 * k = 256 then { st := v } else
      v.writeStack (base + 256 * (32 * k) + 8 * (32 * k)) (List.replicate (2048 - 8 * (32 * k)) 0)) = ({ st := w } : Got) ∧
      Written s w (putPosition m (32 * k) base pos (kv8Elements x) (kv8Scales x)) := by
    unfold putPosition
    rw [blocks]
    dsimp only
    split
    · exact ⟨v, rfl, put'⟩
    · exact put'.writeStack _ _ (fun b first last => sound b (by omega) (by rw [List.length_replicate] at last; omega))
  have region : elemRegion 0xA (32 * k) = 256 * (32 * k) := rfl
  refine ⟨(toBlocks 0xA x).2.2 ||| 0 ||| 0 ||| 0, w, ?_, put''⟩
  unfold State.writePosition
  dsimp only
  rw [fmt, if_neg (by decide), dh, region, show 256 * (32 * k) / 256 = 32 * k by omega, blocks,
    Got.andThen_flags (f := fun st => st.writeStack (base + 32 * k * (pos % 256)) ((toBlocks 0xA x).1.map (BitVec.ofNat 8))) elements,
    Got.andThen_flags (f := fun st => st.writeStack (base + 256 * (32 * k) + k * (pos % 256)) ((toBlocks 0xA x).2.1.map (BitVec.ofNat 8))) scales]
  exact Got.andThen_flags zeros

/-! ### The whole APPEND of one position -/

theorem kv8_head (dh : Nat) : headBytes 0xA dh = 2 * (headBytes 0xA dh / 2) ∧ 256 * dh + 2048 = headBytes 0xA dh / 2 := by
  have whole : headBytes 0xA dh = 2 * (256 * dh + 2048) := rfl
  generalize 256 * dh + 2048 = half at whole ⊢
  omega

/-- The memory after the APPEND of one position of a head at `base`: K's part, then V's, which begins half way (R166). -/
def putRows (m : BMap) (dh base pos : Nat) (key value : List Nat) : BMap :=
  putPosition (putPosition m dh base pos (kv8Elements key) (kv8Scales key)) dh (base + headBytes 0xA dh / 2) pos
    (kv8Elements value) (kv8Scales value)

/-- What an APPEND of one position leaves in its head, and that it changes nothing else. -/
theorem putRows_bytes (m : BMap) {dh k base pos : Nat} {key value : List Nat} (blocks : dh = 32 * k) (small : k ≤ 8)
    (hk : key.length = dh) (hv : value.length = dh) :
    BMap.readBytes (putRows m dh base pos key value) (base + dh * (pos % 256)) dh = kv8Elements key ∧
    BMap.readBytes (putRows m dh base pos key value) (base + 256 * dh + dh / 32 * (pos % 256)) (dh / 32) = kv8Scales key ∧
    BMap.readBytes (putRows m dh base pos key value) (base + headBytes 0xA dh / 2 + dh * (pos % 256)) dh = kv8Elements value ∧
    BMap.readBytes (putRows m dh base pos key value) (base + headBytes 0xA dh / 2 + 256 * dh + dh / 32 * (pos % 256)) (dh / 32) = kv8Scales value ∧
    ∀ c, c < base ∨ base + headBytes 0xA dh ≤ c → BMap.read (putRows m dh base pos key value) c = BMap.read m c := by
  subst blocks
  obtain ⟨inElements, inScales⟩ := position_bounds k pos
  obtain ⟨hke, hks⟩ := kv8_lengths hk
  obtain ⟨hve, hvs⟩ := kv8_lengths hv
  obtain ⟨whole, part⟩ := kv8_head (32 * k)
  unfold putRows
  generalize headBytes 0xA (32 * k) / 2 = half at whole part ⊢
  rw [whole]
  refine ⟨?_, ?_, putPosition_elements _ hve hvs, putPosition_scales _ hvs, fun c outside => ?_⟩
  · rw [putPosition_bytes_outside _ small hve hvs (by omega), putPosition_elements _ hke hks]
  · rw [putPosition_bytes_outside _ small hve hvs (by rw [show 32 * k / 32 = k by omega]; omega), putPosition_scales _ hks]
  · rw [putPosition_outside _ small hve hvs (by omega), putPosition_outside _ small hke hks (by omega)]

section
variable {s : State} {n p base : Nat} {j : Job} {r : JobRec} {k v : View}

/-- The K row that an APPEND of one position writes, rotated for it. -/
def JobRec.keyRow (r : JobRec) (j : Job) (k : View) : List Nat :=
  (rotate r.rope r.ropeDims j.length (r.freqs j.inputs) (k.rowF j.inputs 0)).1

/-- An APPEND of one position writes K's row, rotated, and V's, and finalises its job. -/
theorem State.writeAppend_writes (part : s.atpPart n = p) (only : OnlyJob s n j.id j) (one : r.rows = 1)
    (at' : base = headAddr j.source j.ctx (((j.pages.find? (fun e => e.1 == j.length / 256)).map (·.2)).getD 0) r.kvHead)
    (reads : Reads s p [(base, headBytes j.ctx.fmt j.ctx.dh)]) (fmt : j.ctx.fmt = 0xA) (code : j.ctx.dhCode < 8)
    (keys : (r.keyRow j k).length = j.ctx.dh) (values : (v.rowF j.inputs 0).length = j.ctx.dh) :
    (s.writeAppend n j.id r j k v).mem = putRows s.mem j.ctx.dh base j.length (r.keyRow j k) (v.rowF j.inputs 0) ∧
      OnlyJob (s.writeAppend n j.id r j k v) n j.id { j with stage := .finalised, inputs := [] } := by
  obtain ⟨-, -, sound, answers⟩ := reads _ (List.mem_singleton_self _)
  obtain ⟨whole, half⟩ := kv8_head j.ctx.dh
  rw [fmt] at sound answers
  obtain ⟨h, hh⟩ : ∃ h, h = headBytes 0xA j.ctx.dh / 2 := ⟨_, rfl⟩
  rw [← hh] at whole half
  rw [whole] at sound answers
  obtain ⟨f, u, key, put⟩ := (Written.refl s).writePosition (base := base) (pos := j.length) fmt code keys
    (fun b first last => sound.blockAt first (by omega))
  obtain ⟨f', w, value, put'⟩ := put.writePosition (base := base + h) (pos := j.length) fmt code values
    (fun b first last => sound.blockAt (by omega) (by omega))
  have written : s.writeAppend n j.id r j k v = (w.modAtp n (fun a => a.raise (0 ||| (rotate r.rope r.ropeDims j.length (r.freqs j.inputs)
      (k.rowF j.inputs 0)).2 ||| f ||| f'))).modJob n j.id (fun x => { x with stage := .finalised, inputs := [] }) := by
    unfold State.writeAppend
    dsimp only
    rw [one, part]
    simp only [List.range_one, List.all_cons, List.all_nil, List.foldl_cons, List.foldl_nil, Nat.add_zero]
    rw [← at', fmt, ← hh, answers, if_neg (by simp),
      Got.andThen_flags (f := fun st => st.writePosition j.ctx base j.length
        (rotate r.rope r.ropeDims j.length (r.freqs j.inputs) (k.rowF j.inputs 0)).1) key,
      Got.andThen_flags (f := fun st => st.writePosition j.ctx (base + h) j.length (v.rowF j.inputs 0)) value, if_neg (by simp)]
  rw [written]
  refine ⟨?_, OnlyJob.mod (State.modAtp_only (put'.met.same.onlyJob only) _ ?_) _ rfl⟩
  · rw [(State.modJob_changes _ _ _ _).mem, (State.modAtp_changes _ _ _).mem, put'.mem, hh, putRows]
  · exact fun _ => rfl

theorem append_runs (record : (s.atp n).jobRec j.record = r) (first : (s.atp n).first 1 = some j) (stage : j.stage = .keys)
    (copies : j.copies = 0) (key : atpView j.inputs r.kDesc j.indices = some k) (value : atpView j.inputs r.vDesc j.indices = some v) :
    exec (.append n) s = .next (s.writeAppend n j.id r j k v) := by
  have run : exec (.append n) s = execAppend n s := rfl
  unfold execAppend at run
  rw [first] at run
  dsimp only at run
  rw [record, stage, copies, if_neg (by decide), if_pos ⟨rfl, rfl⟩, key, value] at run
  exact run

theorem append_writes (part : s.atpPart n = p) (record : (s.atp n).jobRec j.record = r) (only : OnlyJob s n j.id j)
    (first : (s.atp n).first 1 = some j) (stage : j.stage = .keys) (copies : j.copies = 0) (one : r.rows = 1)
    (key : atpView j.inputs r.kDesc j.indices = some k) (value : atpView j.inputs r.vDesc j.indices = some v)
    (reads : Reads s p [(headAddr j.source j.ctx (((j.pages.find? (fun e => e.1 == j.length / 256)).map (·.2)).getD 0) r.kvHead,
      headBytes j.ctx.fmt j.ctx.dh)])
    (fmt : j.ctx.fmt = 0xA) (code : j.ctx.dhCode < 8) (keys : k.ext.getD 0 0 = j.ctx.dh) (values : v.ext.getD 0 0 = j.ctx.dh) :
    ∃ t base, exec (.append n) s = .next t ∧
      base = headAddr j.source j.ctx (((j.pages.find? (fun e => e.1 == j.length / 256)).map (·.2)).getD 0) r.kvHead ∧
      BMap.readBytes t.mem (base + j.ctx.dh * (j.length % 256)) j.ctx.dh =
        ((toBlocks 0xA (rotate r.rope r.ropeDims j.length (r.freqs j.inputs) (k.rowF j.inputs 0)).1).1.map (BitVec.ofNat 8)).take j.ctx.dh ∧
      BMap.readBytes t.mem (base + 256 * j.ctx.dh + j.ctx.dh / 32 * (j.length % 256)) (j.ctx.dh / 32) =
        ((toBlocks 0xA (rotate r.rope r.ropeDims j.length (r.freqs j.inputs) (k.rowF j.inputs 0)).1).2.1.map (BitVec.ofNat 8)).take (j.ctx.dh / 32) ∧
      BMap.readBytes t.mem (base + headBytes 0xA j.ctx.dh / 2 + j.ctx.dh * (j.length % 256)) j.ctx.dh =
        ((toBlocks 0xA (v.rowF j.inputs 0)).1.map (BitVec.ofNat 8)).take j.ctx.dh ∧
      BMap.readBytes t.mem (base + headBytes 0xA j.ctx.dh / 2 + 256 * j.ctx.dh + j.ctx.dh / 32 * (j.length % 256)) (j.ctx.dh / 32) =
        ((toBlocks 0xA (v.rowF j.inputs 0)).2.1.map (BitVec.ofNat 8)).take (j.ctx.dh / 32) ∧
      OnlyWrites s t base (headBytes j.ctx.fmt j.ctx.dh) ∧
      OnlyJob t n j.id { j with stage := .finalised, inputs := [] } := by
  obtain ⟨base, at'⟩ : ∃ base, base = headAddr j.source j.ctx (((j.pages.find? (fun e => e.1 == j.length / 256)).map (·.2)).getD 0) r.kvHead := ⟨_, rfl⟩
  have hk : (r.keyRow j k).length = j.ctx.dh := (rotate_length _ _ _ _ _).trans ((k.rowF_length _ _).trans keys)
  have hv : (v.rowF j.inputs 0).length = j.ctx.dh := (v.rowF_length _ _).trans values
  have blocks : j.ctx.dh = 32 * (j.ctx.dhCode + 1) := rfl
  obtain ⟨mem, ended⟩ := State.writeAppend_writes part only one at' (at' ▸ reads) fmt code hk hv
  obtain ⟨k1, k2, v1, v2, frame⟩ := putRows_bytes s.mem (base := base) (pos := j.length) blocks (by omega) hk hv
  obtain ⟨hk1, hk2⟩ := kv8_lengths (hk.trans blocks)
  obtain ⟨hv1, hv2⟩ := kv8_lengths (hv.trans blocks)
  have scales : j.ctx.dh / 32 = j.ctx.dhCode + 1 := by omega
  refine ⟨_, base, append_runs record first stage copies key value, at', ?_, ?_, ?_, ?_, fun c outside => ?_, ended⟩
  · rw [mem, k1]
    exact (List.take_of_length_le (by rw [← blocks] at hk1; exact hk1.le)).symm
  · rw [mem, k2]
    exact (List.take_of_length_le (by rw [← scales] at hk2; exact hk2.le)).symm
  · rw [mem, v1]
    exact (List.take_of_length_le (by rw [← blocks] at hv1; exact hv1.le)).symm
  · rw [mem, v2]
    exact (List.take_of_length_le (by rw [← scales] at hv2; exact hv2.le)).symm
  · rw [mem, frame c (by rw [← fmt]; exact outside)]

end

/-- Settles O39: a manager operation's pages and stamps leave the pipelines' jobs and the other contexts alone, so what it sets in
its context and its job stands; an APPEND writes each row's elements, scales and zeros into places apart from each other. -/
theorem managerOperationsComplete : Obligations.managerOperationsComplete := by
  intro s n p j r part record only
  refine ⟨fun m b first stage may turn context begun pins done => ?_, fun pinned stage acks opens used same => ?_,
    fun m first stage may turn context room pages done => ?_,
    fun k v first stage copies one key value reads fmt code keys values => ?_,
    fun cp q found pool answers turn atp job opened still => ?_, fun appends stage acks advances closed turn => ?_⟩
  · refine pin_pins part record only first stage may turn context begun ?_ done
    rw [pins, begun]
    rfl
  · exact unpin_ends only pinned stage acks opens used same
  · exact resolve_begins part record only first stage may turn context room pages done
  · exact append_writes part record only first stage copies one key value reads fmt code keys values
  · exact switch_ends found pool answers turn atp job opened still
  · exact advance_adds record only appends stage acks advances closed turn

end Sys2Proof.Machine
